-- ==== Sys2Proof/Word.lean ====
section
/-! DEFINITION. The byte and word types, and plain arithmetic on natural numbers. -/

namespace Sys2Proof

/-- One byte of memory. -/
abbrev Byte := BitVec 8

/-- One scalar register of a Burin (06 R184). -/
abbrev Word := BitVec 32

/-- 1 for true, 0 for false. -/
def b2n (b : Bool) : Nat := if b then 1 else 0

/-- Smallest integer at least `a / b`; `b` positive. -/
def ceilDiv (a b : Nat) : Nat := (a + b - 1) / b

/-- `n` rounded up to a multiple of `m`. -/
def roundUp (n m : Nat) : Nat := ceilDiv n m * m

/-- `a - b` modulo `2 ^ w`. -/
def wrapSub (w a b : Nat) : Nat := (2 ^ w - b % 2 ^ w + a) % 2 ^ w

/-- `x` held within `lo` to `hi`. -/
def clamp (x lo hi : Int) : Int := max lo (min x hi)

end Sys2Proof
end

