-- ==== Sys2Proof/Machine/Bits.lean ====
section
/-! DEFINITION. Bit fields, two's-complement codes and byte orders (00 R8, R10). -/

namespace Sys2Proof

/-- Bits `[lo + w - 1 : lo]` of `n`. -/
def bits (n lo w : Nat) : Nat := n / 2 ^ lo % 2 ^ w

/-- Bit `i` of `n`. -/
def bit (n i : Nat) : Bool := n / 2 ^ i % 2 = 1

/-- The value of the two's-complement code `c` of `w` bits (00 R10). -/
def sext (w c : Nat) : Int :=
  if c % 2 ^ w < 2 ^ (w - 1) then ((c % 2 ^ w : Nat) : Int) else ((c % 2 ^ w : Nat) : Int) - 2 ^ w

/-- The two's-complement code of `x` in `w` bits: wrap of R10 read as an unsigned code. -/
def code (w : Nat) (x : Int) : Nat := (x % 2 ^ w).toNat

/-- The number whose little-endian bytes are `l` (00 R8). -/
def ofLE : List Byte → Nat
  | [] => 0
  | b :: l => b.toNat + 256 * ofLE l

/-- `k` little-endian bytes of `n` (00 R8). -/
def toLE (k n : Nat) : List Byte :=
  match k with
  | 0 => []
  | k + 1 => BitVec.ofNat 8 n :: toLE k (n / 256)

/-- The number whose big-endian bytes are `l` (00 R8: the Ingot stream). -/
def ofBE (l : List Byte) : Nat := l.foldl (fun a b => a * 256 + b.toNat) 0

/-- `k` big-endian bytes of `n`. -/
def toBE (k n : Nat) : List Byte := (toLE k n).reverse

/-- `w` bits of the list of bytes `l`, most significant bit first, from bit `p` (00 R8). -/
def bitsBE (l : List Byte) (p w : Nat) : Nat :=
  bits (ofBE ((l.drop (p / 8)).take ((p % 8 + w + 7) / 8))) (((p % 8 + w + 7) / 8) * 8 - p % 8 - w) w

/-- How many of the low `w` bits of `n` are set. -/
def popCount (n w : Nat) : Nat := ((List.range w).filter (bit n)).length

end Sys2Proof
end

