-- ==== Sys2Proof/Syntax.lean ====
section
/-! DEFINITION. The commands the block takes: one constructor per row of spec/opcode_table.json, with the row's
operands, and the operand types. The outcome of a physical event (a stage of boot, a sensor's reading, an error a
read meets, the bytes that arrive) is an operand of the command that stands for the event. -/

namespace Sys2Proof

/-- The fields of a macro-instruction that its opcode and minor opcode leave (06 R163): CLASS, SUB[3] (TRANSB of
CONV and STEM, else false), LOOP, RND, D0 to D4, REPEAT (problems minus 1), FUSE, P1 and P0. -/
structure MacroW where
  cls : Bool
  sub3 : Bool
  loop : Bool
  rnd : Nat
  d0 : Nat
  d1 : Nat
  d2 : Nat
  d3 : Nat
  d4 : Nat
  rep : Nat
  fuse : Bool
  p1 : Nat
  p0 : Nat
deriving DecidableEq, Repr

/-- What the code of a 32-byte half shows when it is read (03 R83, R84): the half, by address divided by 32; the symbols of its protected word that are wrong in
Hearth or Cellar, or elsewhere the most bits that are wrong in one of its 64-bit words; and the tag byte that decodes, 0x00 clean or 0xA5 poisoned. `half` is
2^48 × unit + that number: unit 0 is where the half is stored, 1 to 32 a Drawplate's table store; and a half that is sound where it is stored may be hit behind it, in
the parameter store of an Anvil (33 to 544), a landing buffer (545 to 552) or on the Canopy (553) (18 R467). -/
structure Hit where
  half : Nat
  wrong : Nat
  tag : Nat
deriving DecidableEq, Repr

/-- A tag byte that decodes to neither value, or two wrong symbols or bits, are an uncorrectable error (03 R83, R84). -/
def Hit.ue (h : Hit) : Bool := decide (h.tag ≠ 0 ∧ h.tag ≠ 0xA5) || decide (2 ≤ h.wrong)

/-- One wrong symbol, or one wrong bit in a word, is corrected. -/
def Hit.ce (h : Hit) : Bool := !h.ue && decide (h.wrong = 1)

/-- The storage errors that the reads of one command meet (03 R83, R84); the 64-byte beats that the command moves in Hearth
and Cellar slots, where the tile walk does not fix them (07 R197 to R205, 18 R483); and the slots of other grantees that it used (16 R433). -/
structure MemErrs where
  hits : List Hit
  hearth : Nat
  cellar : Nat
  opp : Nat
deriving DecidableEq, Repr

/-- The halves that are delivered poisoned: an error behind the store poisons the half that was read from it. -/
def struck (hits : List Hit) : List Nat := (hits.filter (·.ue)).map (fun h => if h.half < 33 * 2 ^ 48 then h.half else h.half % 2 ^ 48)

/-- The halves whose read is delivered poisoned. -/
def MemErrs.ue (e : MemErrs) : List Nat := struck e.hits

/-- The places where the errors were met: uncorrectable, and corrected. -/
def MemErrs.ueAt (e : MemErrs) : List Nat := (e.hits.filter (·.ue)).map (·.half)
def MemErrs.ce (e : MemErrs) : List Nat := (e.hits.filter (·.ce)).map (·.half)

/-- A received ST 2110-20 packet (21 R529): RTP payload type, sampling and depth as sent, marker bit, extended sequence number, RTP
timestamp, and its samples as (plane, line, column, code), plane 0 Y, 1 Cb, 2 Cr. -/
structure VideoPkt where
  pt : Nat
  s420 : Bool
  depth8 : Bool
  marker : Bool
  seq : Nat
  ts : Nat
  samples : List (Nat × Nat × Nat × Nat)
deriving DecidableEq, Repr

/-- A received ST 2110-30 packet (21 R530): RTP payload type, whether samples are L24, sequence number, RTP timestamp, and the sample
codes of each channel. -/
structure AudioPkt where
  pt : Nat
  l24 : Bool
  seq : Nat
  ts : Nat
  chans : List (List Nat)
deriving DecidableEq, Repr


/-- An area that the loader places for context `ctx` (06 R552, log entry 105): what it holds (0 anything else, 1 the qp plane, 2 buffer `index` of the
reference pool, 3 SYNTH's reference tap or a packet's reconstruction, 4 reference input `index` of COND or PRIOR, 5 the same in the run on clean rows,
6 to 8 the down factor, the up factor and the scales of the Graft of layer `index` of SYNTH; 9 the lane area of lane `index`, 8 × Drawplate + lane, of the
region `ctx`, 11 R320; the weights of layer `index`: 10 those that SYNTH reads, 11 the base set, 12 CURRENT, 13 PENDING, 10 R297), its address, its bytes, and the bytes from one row to the next. -/
structure AreaIn where
  ctx : Nat
  audio : Bool
  role : Nat
  index : Nat
  addr : Nat
  bytes : Nat
  pitch : Nat
deriving DecidableEq, Repr

/-- A read beat that the schedule issues to the timed landing buffer of a logical region (02 R42, R48, R49): its address, the SPEED entry of the cell that it is
released to (104 and above for none), the SCYC cycle of the layer on which its read is issued, its number in the read, and its release cycle. -/
structure BeatIn where
  region : Nat
  layer : Nat
  cell : Nat
  addr : Nat
  issue : Nat
  index : Nat
  release : Nat
deriving DecidableEq, Repr

/-- The coder state of a DRAW or coded transfer on a lane (11 R318): its rANS states, the position in coding order and the word count. -/
structure Coder where
  states : List Nat
  pos : Nat
  words : Nat
deriving DecidableEq, Repr

/-- What a lane's slot boundary meets (11 R301, R318): the coder state of the lane's transfer in progress, if there is one, and the error that reading the
park store meets (1 corrected, 2 uncorrectable, else none). -/
structure ParkIn where
  coder : Option Coder
  err : Nat
deriving DecidableEq, Repr

/-- What a host loader hands the part with a LOAD beside the image (log entry 24): the timing-monitor samples as (position, cell, AGE_N)
(02 R44); the codec packages as (context, audio, device address) (10 R270); header bodies of the encode streams of file contexts as (context, audio,
body) (13 R349); the file context of each segment (09 R263); the receive streams whose sender is no part of the job (16
R435); whether the job's digest traffic exceeds 16 R443; whether a requester that the job uses has no slot on a resource it needs (01 R27); the areas that the
loader places; the storage errors that its reads meet, uncorrectable and corrected (03 R83, R84); and the timed read beats of its schedule. -/
structure LoadIn where
  ages : List (Nat × Nat × Nat)
  pkgs : List (Nat × Bool × Nat)
  headers : List (Nat × Bool × List Byte)
  segCtx : List (Nat × Nat)
  outside : List Nat
  digestOver : Bool
  noSlot : Bool
  areas : List AreaIn
  ue : List Nat
  ce : List Nat
  beats : List BeatIn
deriving DecidableEq, Repr

/-- The cycles of the region's SCYC on which a timed beat was issued and is due, the other beats that have landed before it, by address and release cycle, and
the errors that the beat meets on its way (02 R48, 09 R246, 18 R467). -/
structure BeatTime where
  issue : Nat
  due : Nat
  landed : List (Nat × Nat)
  hits : List Hit
deriving DecidableEq, Repr

/-- What the fuses of a part hold (01 R31, 02 R47): its fused position (15 for none), FORGE_EN by position, FUSE_N as (position, cell, FUSE_N), and
STEP_CLASS (16 R428). -/
structure FuseIn where
  fused : Nat
  forges : List Nat
  speed : List (Nat × Nat × Nat)
  stepClass : Nat
deriving DecidableEq, Repr

/-- What an accepted flash copy holds (19 R494, 21 R525): FW_LEVEL, Vendor ID and Subsystem IDs. -/
structure FlashIn where
  fwLevel : Nat
  vendorId : Nat
  subsysId : Nat
deriving DecidableEq, Repr

/-- What BIST finds (19 R494): the timing-monitor samples (02 R44) as (position, cell, AGE_N), failing Forges as (position, Forge), and positions whose
Crucible fails. -/
structure BistIn where
  ages : List (Nat × Nat × Nat)
  forges : List (Nat × Nat)
  crucibles : List Nat
deriving DecidableEq, Repr

/-- One self-test run (19 R497): its physical position, whether it ended without fault, its kind 3 Hallmark, and the releases it took. -/
structure SelfRun where
  pos : Nat
  ok : Bool
  hallmark : List Byte
  releases : Nat
deriving DecidableEq, Repr

/-- The header fields and the payload of an intact flit as it arrives (15 R400), for one that completes a CAL reply the parent's time of
receipt t4 (02 R58), and the codewords that the FEC corrected on the port since the last flit (15 R423). -/
structure FlitIn where
  seq : Nat
  ack : Nat
  nak : Bool
  credit : Nat
  stream : Nat
  beatsM1 : Nat
  sidePos : Nat
  sideV : Bool
  poison : Nat
  side : Nat
  payload : List Byte
  t4 : Nat
  fec : Nat
deriving DecidableEq, Repr

/-- The commands, one per row of the table, in its order. -/
inductive Instr where
  /-- COLD_RESET (R491). Power-up or RST_N held low resets the whole part, clears everything and runs every boot stage from RESET. -/
  | coldReset
  /-- WARM_RESET (R491). PERST#, a PCIe hot reset or an FLR ends every job, keeps the listed state and reruns boot from FLASH. -/
  | warmReset
  /-- BOOT_CTL_WARM_RESET (R493). Writing 1 to BOOT.CTL.WARM_RESET starts a warm reset. -/
  | bootCtlWarmReset
  /-- WARM_RESET_CMD (R538). The MCTP vendor command WARM_RESET starts a warm reset in any stage except RESET. -/
  | warmResetCmd
  /-- RAIL_OUT_OF_BAND (R545). A supply rail leaves its band for more than 10 us and returns the part to RESET, raises CHIP_CTRL, or causes a cold reset for VDD_MGMT. -/
  | railOutOfBand (n : Nat)
  /-- BOOT_PLL (R494). Boot stage PLL locks the root PLL within 50 us, or the part enters FAILED. -/
  | bootPll (ok : Bool)
  /-- BOOT_FUSE (R494). Boot stage FUSE loads the fuse fields, GEOM and SPEED, and fails when a row cannot be read. -/
  | bootFuse (x : Option FuseIn)
  /-- BOOT_FLASH (R494). Boot stage FLASH loads and checks flash copy A, then copy B, and takes FW_LEVEL from the accepted copy. -/
  | bootFlash (a b : Option FlashIn)
  /-- BOOT_MEMTRAIN (R494). Boot stage MEMTRAIN trains every Hearth stack and Cellar package, and a device that fails stays down. -/
  | bootMemtrain (fails : List Nat)
  /-- BOOT_BIST (R494). Boot stage BIST tests the SRAMs, samples the timing monitors and isolates Forges or regions that fail. -/
  | bootBist (x : BistIn)
  /-- BOOT_SELFTEST (R497). Boot stage SELFTEST runs the self-test program on each enabled region in turn and compares its Hallmark. -/
  | bootSelftest (runs : List SelfRun) (other : List Byte) (static uMin : Nat)
  /-- SELFTEST_TIMEOUT (R497). A self-test run that has not ended 35 ms after its release fails its region. -/
  | selftestTimeout (n : Nat)
  /-- PLL_LOCK (R39). Loss of root PLL lock raises a fault that is fatal to the part. -/
  | pllLock
  /-- MEM_PHY (R470). A DRAM PHY loses lock or fails retraining, so the device goes down and jobs with traffic on it fault. -/
  | memPhy (dev : Nat)
  /-- HOST_LINK (R527). The PCIe link leaves L0 other than by reset, and every job of the part ends under HOST_LINK. -/
  | hostLink (ltssm : Nat)
  /-- HOST_READ_ERROR (R527). A device-initiated PCIe read completes with UR or CA, or times out after 50 ms, and its bytes are delivered poisoned. -/
  | hostReadError (what q idx sa sb : Nat)
  /-- FORGE_FAULT (R469). A Forge control or parity error isolates the Forge at once and fatally faults its job. -/
  | forgeFault (n f unit cell : Nat)
  /-- REGION_FAULT (R469). A region control error isolates the region's Forges and fatally faults its job. -/
  | regionFault (n unit cell : Nat)
  /-- CHIP_CTRL (R467). A chip-level control error is fatal to the part. -/
  | chipCtrl (unit inst : Nat)
  /-- REGISTER_WRITE (R11). A BAR0 write to a register without a row of its own acts by the field's access code (RW, W1C, STG, RO, RSV) or is ignored under R14. -/
  | registerWrite (off size v : Nat)
  /-- BAR4_READ (R88). A host read through BAR4 is served from an active window or a result slot in REMOTE slots, or returns 0 or EP. -/
  | bar4Read (o n : Nat) (ue ce : List Nat)
  /-- BAR4_WRITE (R88). A host write through BAR4 is written through a writable window, or is discarded and counted. -/
  | bar4Write (o : Nat) (l : List Byte) (bad : Bool) (e : MemErrs)
  /-- DOORBELL (R500). A write to a queue's doorbell sets the new submission tail or is rejected with DBERR. -/
  | doorbell (q v : Nat)
  /-- ENTRY_FETCH (R500). A fetched submission entry arrives and is dispatched by its OP, or is refused when it arrives poisoned. -/
  | entryFetch (q : Nat) (bad : Bool)
  /-- LOAD (R503). The LOAD entry admits a program image, and optionally a save image, through the ordered admission checks. -/
  | loadEntry (q : Nat) (x : LoadIn)
  /-- RUN (R504). The RUN entry reads the shape table, applies its Temper set, checks the hoops and starts the job at the next release. -/
  | runEntry (q : Nat) (bad : Bool)
  /-- STOP (R502). The STOP entry ends the running job at its next release and cancels items not yet taken. -/
  | stopEntry (q : Nat)
  /-- ITEM (R507). The ITEM entry copies an input buffer and an optional box list into the context's staging area. -/
  | itemEntry (q : Nat)
  /-- CLOSE (R363). The CLOSE entry writes the context's END units and completes once they are written. -/
  | closeEntry (q : Nat)
  /-- RELEASE (R508). The RELEASE entry returns a READY result slot to FREE. -/
  | releaseEntry (q : Nat)
  /-- NOP_ENTRY (R502). The NOP submission entry completes at once. -/
  | nopEntry (q : Nat)
  /-- ITEM_ELIGIBLE (R507). An item's input copies complete, and it becomes eligible at the next release. -/
  | itemEligible (q idx sa sb : Nat) (bad : Bool)
  /-- RESULT_READY (R508). Every result write and the Hallmark of an item complete, so its slot becomes READY and its completion record is written. -/
  | resultReady (q idx : Nat) (spans : List (Nat × Nat))
  /-- CQ_RECORD_FLUSH (R510). A completion record waiting in the part-wide buffer is written once the completion ring has room. -/
  | cqRecordFlush (q : Nat)
  /-- STAGE (R513). TEMPER.CMD STAGE captures the written STG fields as a set and starts its check. -/
  | temperStage (n : Nat)
  /-- STAGE_CHECK_DONE (R514). The check of a staged set ends within 200 us with RESULT OK or REFUSED, and FIELD names the first failing field. -/
  | stageCheckDone
  /-- APPLY (R513). TEMPER.CMD APPLY marks a STAGED set PENDING. -/
  | temperApply (n : Nat)
  /-- DISCARD (R513). TEMPER.CMD DISCARD returns the staging copy to the values in force. -/
  | temperDiscard (n : Nat)
  /-- FREE (R513). TEMPER.CMD FREE empties a set unless it is PENDING or named by the loaded program. -/
  | temperFree (n : Nat)
  /-- TEMPER_SET_APPLY (R515). With no job running, PENDING sets are rechecked and applied on the first TCLK edge after APPLY. -/
  | temperSetApply
  /-- THAW_RECORD (R478). Writing 1 to HW.STATE.FROZEN thaws a frozen Heartwood record. -/
  | thawRecord (n : Nat)
  /-- EPOCH_RELEASE (R52). A barrier release increments EPOCH.COUNT and zeroes EPOCH.CYCLE and SCYC in every region. -/
  | epochRelease
  /-- SAVE_COMPLETE (R445). The save image finishes writing and SAVED sets, or SAVE_FAIL sets if writing fails. -/
  | saveComplete (ok : Bool) (others : List (Nat × Nat × List Byte))
  /-- SOLO_RELEASE (R53). A SOLO part releases at the first nominal edge 64 cc after the last arrival and 1,024 cc after the previous release. -/
  | soloRelease
  /-- REPLAY_WAIT_END (R439). A replay release that waited for a witness entry or its bulk data proceeds once they are present. -/
  | replayWaitEnd
  /-- WITNESS_WRITE (R437). A witness entry whose digest is complete is written to the log area, or it is lost when the area is full. -/
  | witnessWrite
  /-- SYNC_FRAME (R55). A received Rootline SYNC frame steers the part's time counter. -/
  | syncFrame (t frac seq crc : Nat)
  /-- RELEASE_FRAME (R61). A received Rootline RELEASE frame sets the release time T of the next epoch. -/
  | releaseFrame (e t crc : Nat)
  /-- IDLE_FRAME (R56). A received Rootline IDLE frame is relayed and carries nothing. -/
  | idleFrame (crc : Nat)
  /-- ROOT_FRAME_SEND (R56). The root sends its next Rootline frame, with a SYNC every twelfth frame. -/
  | rootFrameSend
  /-- ROOTLINE_LOSS (R57). After 4 SYNC periods with no good frame, the part takes Rootline frames from the Tinlink side path. -/
  | rootlineLoss
  /-- ROOT_RELEASE (R61). Once the root holds every arrival it sends three RELEASE copies, or faults the domain under R413. -/
  | rootRelease
  /-- EPOCH_TIMEOUT (R62). No release within TIMEOUT_US of the first arrival fatally faults the job. -/
  | epochTimeout
  /-- CALIBRATION (R58). A MEMBER part starts the 256-message calibration exchange with its time parent. -/
  | calibration
  /-- CAL_RETRY (R58). A child whose parent does not answer restarts the exchange every 1 ms. -/
  | calRetry
  /-- CAL (R410). A CAL side message carries one calibration timestamp, and after 256 exchanges CAL_OFFSET and CAL_VALID are set. -/
  | calMsg (p : Nat) (b : List Byte) (t4 : Nat)
  /-- DATA (R406). A received DATA flit is written to the TAIL slot of the hoop of its receive stream. -/
  | dataFlit (p : Nat) (x : FlitIn)
  /-- DATA_LAST (R406). A received DATA_LAST flit writes its payload and closes the hoop slot with MARK. -/
  | dataLastFlit (p : Nat) (x : FlitIn)
  /-- IDLE (R400). A received IDLE flit updates acknowledgement, NAK replay and credits. -/
  | idleFlit (p : Nat) (x : FlitIn)
  /-- SIDE (R400). A received SIDE flit adds four bytes to a side message, which is dispatched when complete or dropped on a bad CRC. -/
  | sideFlit (p : Nat) (x : FlitIn)
  /-- ROOTLINE (R411). A ROOTLINE side message relays a Rootline frame to the child ports and acts as on the pair. -/
  | rootlineMsg (p : Nat) (b : List Byte)
  /-- ARRIVE (R412). A child's ARRIVE message records its barrier arrival, count, digest and epoch. -/
  | arriveMsg (p : Nat) (b : List Byte)
  /-- ARRIVE_SEND (R412). A part sends ARRIVE to its parent once its regions and children have arrived and its flits are acknowledged. -/
  | arriveSend
  /-- ABORT (R414). An ABORT side message is flooded along the time tree and faults the matching job with JOB_ABORT. -/
  | abortMsg (p : Nat) (b : List Byte)
  /-- HELLO (R410). A HELLO side message reports the peer's identity and time-parent relation, and may set TREE_MISMATCH. -/
  | helloMsg (p : Nat) (b : List Byte)
  /-- LINK_ALIGNED (R403). Lanes train, FEC locks and lanes align, so a Tinlink port moves from TRAINING to ALIGNED. -/
  | linkAligned (p : Nat)
  /-- TRAINING_TIMEOUT (R403). TRAINING not reaching ALIGNED within 500 ms sends the port to FAILED. -/
  | trainingTimeout (p : Nat)
  /-- HELLO_TIMEOUT (R403). No HELLO within 1 ms of ALIGNED returns the port to TRAINING. -/
  | helloTimeout (p : Nat)
  /-- FEC_LOCK_LOST (R403). Loss of FEC lock in UP sends the port to RETRAIN. -/
  | fecLockLost (p : Nat)
  /-- REPLAY_LIMIT (R403). One flit resent 8 times without acknowledgement sends the port to RETRAIN. -/
  | replayLimit (p : Nat)
  /-- RETRAIN_TIMEOUT (R403). RETRAIN not back in UP within 10 ms sends the port to FAILED. -/
  | retrainTimeout (p : Nat)
  /-- MEDIA_VIDEO_PACKET (R529). A received ST 2110-20 packet is converted and written into its context's current video ingress unit. -/
  | mediaVideoPacket (c : Nat) (v : VideoPkt)
  /-- MEDIA_AUDIO_PACKET (R530). A received ST 2110-30 packet is converted and written into its context's current audio ingress unit. -/
  | mediaAudioPacket (c : Nat) (x : AudioPkt)
  /-- MEDIA_FRAME_DISCARD (R528). A received frame of an unsupported kind or for no enabled flow is discarded and counted. -/
  | mediaFrameDiscard (p : Nat)
  /-- PTP_SYNC (R533). A received PTP Sync message steers TIME_NS or reports its offset, and may set PTP_LOCK. -/
  | ptpSync (p : Nat) (offset : Int)
  /-- PTP_ANNOUNCE_TIMEOUT (R533). The announce receipt timeout clears PTP_LOCK and enters HOLDOVER. -/
  | ptpAnnounceTimeout (p : Nat)
  /-- MEDIA_LINK_DOWN (R542). A media port loses LINK_UP, closes its open ingress units and may enter HOLDOVER. -/
  | mediaLinkDown (p : Nat)
  /-- MEDIA_LINK_UP (R542). A media port regains LINK_UP and writes a MEDIA_LINK entry. -/
  | mediaLinkUp (p : Nat)
  /-- DRAIN_ACTION (R378). At a_n the drain discards late records and queues slot n's PRE and ingot, or a hold ingot. -/
  | drainAction (c : Nat) (audio : Bool)
  /-- DRAIN_DATAGRAM (R376). Seven TS packets of a drain cycle leave as one RTP datagram in the next granted media slot, or go to the host output ring. -/
  | drainDatagram (c : Nat)
  /-- BEAT_RELEASE (R246). A timed landing-buffer beat is released to its consumer on its scheduled cycle. -/
  | beatRelease (r addr : Nat) (w : BeatTime) (arrived mark : Bool)
  /-- HOLD_RESUME (R248). A held region resumes at the first multiple of 32 cycles after the awaited item is present. -/
  | holdResume (r : Nat)
  /-- REFRESH_WINDOW (R72). A channel's refresh window begins and an all-bank refresh is issued. -/
  | refreshWindow (hearth : Bool) (g : Nat)
  /-- DRAM_TEMP_REPORT (R77). A Hearth stack or Cellar package reports its temperature to its controller. -/
  | dramTempReport (dev t : Nat)
  /-- SCRUB (R85). A scrub pass rewrites the recorded corrected addresses when the channel is idle between jobs. -/
  | scrub
  /-- ERROR_WINDOW_END (R468). Each 1 s error-count window ends and every count restarts at 0. -/
  | errorWindowEnd
  /-- PENDING_ISOLATION (R469). A pending Forge or region is isolated on the cycle after the last job using it ends. -/
  | pendingIsolation (n : Nat)
  /-- BELLOWS_SAMPLE (R450). Every 64 TCLK Bellows samples the rails and sensors and updates the fast mean. -/
  | bellowsSample (d : List Nat) (u : Nat) (tj io : List (Nat × Nat))
  /-- GOVERNOR_WINDOW (R452). At the end of each governor window Bellows computes the pending paces and thermal floors. -/
  | governorWindow
  /-- DROOP_TRIP (R459). A droop detector trips and stretches the region's CCLK periods by EXT. -/
  | droopTrip (n : Nat)
  /-- DROOP_CLEAR (R459). All detectors clear for HOLD_CC cycles, so the droop extension ends. -/
  | droopClear (n : Nat)
  /-- BALLAST_RAMP_DOWN (R461). After MAX_US of barrier waiting, ballast ramps down toward static power. -/
  | ballastRampDown (r : Nat)
  /-- HEARTWOOD_WRITE (R477). A Heartwood record writes one queued entry per TCLK, and freezes after a fatal cycle. -/
  | heartwoodWrite (n : Nat)
  /-- RING_WRITE (R481). The trace collector writes up to 4 source entries per TCLK into the ring, with gap records for losses. -/
  | ringWrite
  /-- OBS_TRACE_SEND (R489). The observation port streams the next ring entry as a TRACE frame, skipping ahead when it falls too far behind. -/
  | obsTraceSend
  /-- ALARM_RAISE (R486). A held alarm is raised once PENDING is 0 and HOLDOFF_US has elapsed, sending its vector and PLDM event. -/
  | alarmRaise (k : Nat)
  /-- OBS_READ (R541). An observation-port READ frame is answered with a DATA frame of BAR2 bytes, or discarded. -/
  | obsRead (tag a n : Nat) (crcOk : Bool)
  /-- MCTP_READ (R538). The MCTP vendor READ command returns bytes of the observation space. -/
  | mctpRead (a n : Nat)
  /-- MCTP_UNSUPPORTED (R538). Any other MCTP command is answered with ERROR_UNSUPPORTED_CMD. -/
  | mctpUnsupported
  /-- I3C_DAA (R537). A dynamic address assignment moves management from SMBus to MCTP over I3C. -/
  | i3cDaa (a : Nat)
  /-- RSTDAA (R537). RSTDAA returns the management bus to SMBus mode. -/
  | rstdaa
  /-- BYPASS (R540). TAP instruction BYPASS, operative only in RESET. -/
  | bypass
  /-- IDCODE (R540). TAP instruction IDCODE returns 0x0F00_8xxx. -/
  | idcode
  /-- SAMPLE_PRELOAD (R540). TAP instruction SAMPLE/PRELOAD on the boundary chain. -/
  | samplePreload (lands preload : Nat)
  /-- EXTEST (R540). TAP instruction EXTEST drives the control-group lands. -/
  | extest (lands : Nat)
  /-- CLAMP (R540). TAP instruction CLAMP. -/
  | clamp
  /-- HIGHZ (R540). TAP instruction HIGHZ. -/
  | highz
  /-- GRAFT_MERGE (R297). A coded or received Graft unit is merged into PENDING in the next merge segment. -/
  | graftMerge (c : Nat)
  /-- LANE_PARK (R318). At a lane slot boundary the coder state in progress is parked and the next grantee's state is restored. -/
  | lanePark (r lane gout gin : Nat) (state : ParkIn)
  /-- STREAM_HEADER (R348). A decoder reads a STREAM_HEADER unit, which starts a new stream when it differs. -/
  | streamHeader (c : Nat) (a : Bool) (body : List Byte)
  /-- MODEL (R351). A decoder reads a MODEL unit and decodes ingots only with a matching package. -/
  | modelUnit (c : Nat) (a : Bool) (body : List Byte)
  /-- GRAFT (R353). A decoder reads a GRAFT unit, which is merged, refused or ignored as a repeat. -/
  | graftUnit (c : Nat) (body : List Byte) (bad : Bool)
  /-- REFRESH (R354). A decoder reads a REFRESH unit announcing a refresh cycle. -/
  | refreshUnit (c : Nat) (a : Bool) (body : List Byte)
  /-- VIDEO (R355). A decoder reads a VIDEO ingot and decodes the picture, or loses it. -/
  | videoIngot (c h : Nat) (body : List Byte) (poison : List Nat)
  /-- AUDIO (R360). A decoder reads an AUDIO ingot and decodes the packet, or loses it. -/
  | audioIngot (c h : Nat) (body : List Byte) (poison : List Nat)
  /-- HOLD (R362). A decoder reads a hold ingot and repeats or silences the slot's output. -/
  | holdIngot (c : Nat) (a : Bool) (body : List Byte)
  /-- END (R363). A decoder reads END, delivers every output and holds no stream. -/
  | endUnit (c : Nat) (a : Bool) (body : List Byte)
  /-- EXTENSION_UNIT (R365). A unit with TYPE bit 7 set is skipped whole. -/
  | extensionUnit (c : Nat) (a : Bool)
  /-- NOP (R181). Macro-instruction NOP retires in 1 cc. -/
  | nopMacro (r : Nat) (w : MacroW)
  /-- MMUL (R168). Macro-instruction MMUL computes a matrix product in Assay or Float class. -/
  | mmul (r : Nat) (w : MacroW) (e : MemErrs)
  /-- CONV (R169). Macro-instruction CONV computes a dense, grouped or depthwise convolution. -/
  | conv (r sub : Nat) (w : MacroW) (e : MemErrs)
  /-- POOL_MAX (R229). POOL SUB 0 selects the largest element of each window. -/
  | poolMax (r : Nat) (w : MacroW) (e : MemErrs)
  /-- POOL_AVERAGE (R230). POOL SUB 1 averages each window. -/
  | poolAverage (r : Nat) (w : MacroW) (e : MemErrs)
  /-- POOL_SUM (R230). POOL SUB 2 sums each window. -/
  | poolSum (r : Nat) (w : MacroW) (e : MemErrs)
  /-- ELT_ADD (R172). ELT SUB 0 adds two tensors elementwise. -/
  | eltAdd (r : Nat) (w : MacroW) (e : MemErrs)
  /-- ELT_MULTIPLY (R172). ELT SUB 1 multiplies two tensors elementwise. -/
  | eltMultiply (r : Nat) (w : MacroW) (e : MemErrs)
  /-- ELT_SUBTRACT (R172). ELT SUB 2 subtracts two tensors elementwise. -/
  | eltSubtract (r : Nat) (w : MacroW) (e : MemErrs)
  /-- ELT_MAX (R172). ELT SUB 3 takes the elementwise maximum. -/
  | eltMax (r : Nat) (w : MacroW) (e : MemErrs)
  /-- ELT_MIN (R172). ELT SUB 4 takes the elementwise minimum. -/
  | eltMin (r : Nat) (w : MacroW) (e : MemErrs)
  /-- LUT (R172). Macro-instruction LUT applies a table lookup in Assay class. -/
  | lut (r : Nat) (w : MacroW) (e : MemErrs)
  /-- RED_SUM (R172). RED SUB 0 sums over an axis. -/
  | redSum (r : Nat) (w : MacroW) (e : MemErrs)
  /-- RED_MAX (R172). RED SUB 1 takes the maximum over an axis. -/
  | redMax (r : Nat) (w : MacroW) (e : MemErrs)
  /-- RED_MIN (R172). RED SUB 2 takes the minimum over an axis. -/
  | redMin (r : Nat) (w : MacroW) (e : MemErrs)
  /-- RED_SUM_OF_SQUARES (R172). RED SUB 3 sums squares over an axis in Float class. -/
  | redSumOfSquares (r : Nat) (w : MacroW) (e : MemErrs)
  /-- FUNC (R173). Macro-instruction FUNC applies a correctly rounded function on Burins. -/
  | func (r : Nat) (w : MacroW) (e : MemErrs)
  /-- CVT (R172). Macro-instruction CVT converts formats by widening or by the R133 narrowing. -/
  | cvt (r : Nat) (w : MacroW) (e : MemErrs)
  /-- COPY (R174). MOVE SUB 0 COPY bit-copies D1 to D0. -/
  | copy (r : Nat) (w : MacroW) (e : MemErrs)
  /-- TRANSPOSE (R174). MOVE SUB 1 TRANSPOSE swaps dimensions 0 and 1. -/
  | transpose (r : Nat) (w : MacroW) (e : MemErrs)
  /-- FILL (R174). MOVE SUB 2 FILL writes PADC to every element of D0. -/
  | fill (r : Nat) (w : MacroW) (e : MemErrs)
  /-- SEND (R405). MOVE SUB 3 SEND transmits D1 over a Tinlink port to a receive stream. -/
  | send (r : Nat) (w : MacroW) (e : MemErrs)
  /-- CHAIN_READ (R175). CHAIN SUB 0 moves data from a chain list to a tensor or hoop. -/
  | chainRead (r : Nat) (w : MacroW) (e : MemErrs)
  /-- CHAIN_WRITE (R175). CHAIN SUB 1 moves data into a chain list. -/
  | chainWrite (r : Nat) (w : MacroW) (e : MemErrs)
  /-- PUT (R176). HOOP SUB 0 PUT copies a slot to the tail and sets its MARK. -/
  | put (r : Nat) (w : MacroW) (e : MemErrs)
  /-- TAKE (R176). HOOP SUB 1 TAKE copies the head slot to D0. -/
  | take (r : Nat) (w : MacroW) (e : MemErrs)
  /-- MCAST (R177). Macro-instruction MCAST copies Hearth data to every Forge set in a mask. -/
  | mcast (r : Nat) (w : MacroW) (e : MemErrs)
  /-- ROTATE (R259). Macro-instruction ROTATE passes each Forge's resident block to the next Forge of the ring. -/
  | rotate (r : Nat) (w : MacroW) (e : MemErrs)
  /-- STEM (R232). Macro-instruction STEM runs a few-channel convolution on a Stem engine. -/
  | stem (r sub : Nat) (w : MacroW) (e : MemErrs)
  /-- DRAW_ENC (R309). DRAW SUB 0 ENC entropy-codes latents into a step record. -/
  | drawEnc (r : Nat) (w : MacroW) (e : MemErrs)
  /-- DRAW_DEC (R309). DRAW SUB 1 DEC decodes a step record into latents. -/
  | drawDec (r : Nat) (w : MacroW) (e : MemErrs)
  /-- PRUNE (R237). Macro-instruction PRUNE decodes boxes and suppresses overlaps. -/
  | prune (r : Nat) (w : MacroW) (e : MemErrs)
  /-- GMERGE (R296). Macro-instruction GMERGE merges Graft deltas into weights. -/
  | gmerge (r : Nat) (w : MacroW) (e : MemErrs)
  /-- BAR (R53). Macro-instruction BAR makes the region arrive at a barrier, and it resumes at release. -/
  | bar (r : Nat) (w : MacroW)
  /-- LAYER (R181). Macro-instruction LAYER waits until every earlier instruction of the region has written its output. -/
  | layer (r : Nat) (w : MacroW)
  /-- LAYER_RETIRE (R456). A LAYER retires once the drain completes, and the region reaches a governor point. -/
  | layerRetire (r : Nat)
  /-- TEMPER (R181). Macro-instruction TEMPER marks a staged set for application at the next release. -/
  | temperMark (r : Nat) (w : MacroW)
  /-- POST (R181). Macro-instruction POST requests a completion record. -/
  | post (r : Nat) (w : MacroW)
  /-- POST_WRITE (R181). The completion record of a POST is written once every earlier instruction of every region has retired. -/
  | postWrite
  /-- HALT (R181). Macro-instruction HALT ends the job's instruction stream in the region. -/
  | halt (r : Nat) (w : MacroW)
  /-- BURIN (R181). Macro-instruction BURIN starts Izuno-S on the named Burins and retires when all halt. -/
  | burin (r : Nat) (w : MacroW)
  /-- ADD (R184). Izuno-S ADD. -/
  | add (b d a c : Nat)
  /-- SUB (R184). Izuno-S SUB. -/
  | sub (b d a c : Nat)
  /-- AND (R184). Izuno-S AND. -/
  | and (b d a c : Nat)
  /-- OR (R184). Izuno-S OR. -/
  | or (b d a c : Nat)
  /-- XOR (R184). Izuno-S XOR. -/
  | xor (b d a c : Nat)
  /-- SLL (R184). Izuno-S SLL. -/
  | sll (b d a c : Nat)
  /-- SRL (R184). Izuno-S SRL. -/
  | srl (b d a c : Nat)
  /-- SRA (R184). Izuno-S SRA. -/
  | sra (b d a c : Nat)
  /-- SLT (R184). Izuno-S SLT. -/
  | slt (b d a c : Nat)
  /-- SLTU (R184). Izuno-S SLTU. -/
  | sltu (b d a c : Nat)
  /-- MUL (R184). Izuno-S MUL. -/
  | mul (b d a c : Nat)
  /-- MULH (R184). Izuno-S MULH. -/
  | mulh (b d a c : Nat)
  /-- DIV (R184). Izuno-S DIV. -/
  | div (b d a c : Nat)
  /-- REM (R184). Izuno-S REM. -/
  | rem (b d a c : Nat)
  /-- MIN (R184). Izuno-S MIN. -/
  | min (b d a c : Nat)
  /-- MAX (R184). Izuno-S MAX. -/
  | max (b d a c : Nat)
  /-- ADDI (R184). Izuno-S ADDI. -/
  | addi (b d a imm : Nat)
  /-- ANDI (R184). Izuno-S ANDI. -/
  | andi (b d a imm : Nat)
  /-- ORI (R184). Izuno-S ORI. -/
  | ori (b d a imm : Nat)
  /-- XORI (R184). Izuno-S XORI. -/
  | xori (b d a imm : Nat)
  /-- SLTI (R184). Izuno-S SLTI. -/
  | slti (b d a imm : Nat)
  /-- LUI (R184). Izuno-S LUI. -/
  | lui (b d a imm : Nat)
  /-- SLLI (R184). Izuno-S SLLI. -/
  | slli (b d a imm : Nat)
  /-- SRLI (R184). Izuno-S SRLI. -/
  | srli (b d a imm : Nat)
  /-- SRAI (R184). Izuno-S SRAI. -/
  | srai (b d a imm : Nat)
  /-- LW (R184). Izuno-S LW. -/
  | lw (b d a imm : Nat) (ue ce : Bool)
  /-- LH (R184). Izuno-S LH. -/
  | lh (b d a imm : Nat) (ue ce : Bool)
  /-- LB (R184). Izuno-S LB. -/
  | lb (b d a imm : Nat) (ue ce : Bool)
  /-- LHU (R184). Izuno-S LHU. -/
  | lhu (b d a imm : Nat) (ue ce : Bool)
  /-- LBU (R184). Izuno-S LBU. -/
  | lbu (b d a imm : Nat) (ue ce : Bool)
  /-- SW (R184). Izuno-S SW. -/
  | sw (b d a imm : Nat) (ue ce : Bool)
  /-- SH (R184). Izuno-S SH. -/
  | sh (b d a imm : Nat) (ue ce : Bool)
  /-- SB (R184). Izuno-S SB. -/
  | sb (b d a imm : Nat) (ue ce : Bool)
  /-- BEQ (R184). Izuno-S BEQ. -/
  | beq (b d a imm : Nat)
  /-- BNE (R184). Izuno-S BNE. -/
  | bne (b d a imm : Nat)
  /-- BLT (R184). Izuno-S BLT. -/
  | blt (b d a imm : Nat)
  /-- BGE (R184). Izuno-S BGE. -/
  | bge (b d a imm : Nat)
  /-- BLTU (R184). Izuno-S BLTU. -/
  | bltu (b d a imm : Nat)
  /-- BGEU (R184). Izuno-S BGEU. -/
  | bgeu (b d a imm : Nat)
  /-- JAL (R184). Izuno-S JAL. -/
  | jal (b off : Nat)
  /-- JALR (R184). Izuno-S JALR. -/
  | jalr (b d a imm : Nat)
  /-- CSRR (R184). Izuno-S CSRR reads a CSR. -/
  | csrr (b d a imm : Nat)
  /-- CSRW (R184). Izuno-S CSRW writes a CSR, such as a shape slot. -/
  | csrw (b d a imm : Nat)
  /-- SYNC (R184). Izuno-S SYNC stalls until EPOCH.CYCLE (SCYC under LAG) reaches the target. -/
  | syncCycle (b d a imm : Nat)
  /-- BURIN_HALT (R184). Izuno-S HALT stops the Burin and ORs FFLAGS into the flags. -/
  | burinHalt (b : Nat)
  /-- VADD (R185). Izuno-S VADD. -/
  | vadd (b vd va vb ew m : Nat)
  /-- VSUB (R185). Izuno-S VSUB. -/
  | vsub (b vd va vb ew m : Nat)
  /-- VMUL (R185). Izuno-S VMUL. -/
  | vmul (b vd va vb ew m : Nat)
  /-- VMIN (R185). Izuno-S VMIN. -/
  | vmin (b vd va vb ew m : Nat)
  /-- VMAX (R185). Izuno-S VMAX. -/
  | vmax (b vd va vb ew m : Nat)
  /-- VAND (R185). Izuno-S VAND. -/
  | vand (b vd va vb ew m : Nat)
  /-- VOR (R185). Izuno-S VOR. -/
  | vor (b vd va vb ew m : Nat)
  /-- VXOR (R185). Izuno-S VXOR. -/
  | vxor (b vd va vb ew m : Nat)
  /-- VSLL (R185). Izuno-S VSLL. -/
  | vsll (b vd va vb ew m : Nat)
  /-- VSRL (R185). Izuno-S VSRL. -/
  | vsrl (b vd va vb ew m : Nat)
  /-- VSRA (R185). Izuno-S VSRA. -/
  | vsra (b vd va vb ew m : Nat)
  /-- VSEL (R185). Izuno-S VSEL. -/
  | vsel (b vd va vb ew m : Nat)
  /-- VCMPEQ (R185). Izuno-S VCMPEQ. -/
  | vcmpeq (b vd va vb ew m : Nat)
  /-- VCMPLT (R185). Izuno-S VCMPLT. -/
  | vcmplt (b vd va vb ew m : Nat)
  /-- VFADD (R185). Izuno-S VFADD. -/
  | vfadd (b vd va vb ew m : Nat)
  /-- VFSUB (R185). Izuno-S VFSUB. -/
  | vfsub (b vd va vb ew m : Nat)
  /-- VFMUL (R185). Izuno-S VFMUL. -/
  | vfmul (b vd va vb ew m : Nat)
  /-- VFDIV (R185). Izuno-S VFDIV. -/
  | vfdiv (b vd va vb ew m : Nat)
  /-- VFSQRT (R185). Izuno-S VFSQRT. -/
  | vfsqrt (b vd va vb ew m : Nat)
  /-- VFMA (R185). Izuno-S VFMA. -/
  | vfma (b vd va vb ew m : Nat)
  /-- VFMIN (R185). Izuno-S VFMIN. -/
  | vfmin (b vd va vb ew m : Nat)
  /-- VFMAX (R185). Izuno-S VFMAX. -/
  | vfmax (b vd va vb ew m : Nat)
  /-- VFCMPLT (R185). Izuno-S VFCMPLT. -/
  | vfcmplt (b vd va vb ew m : Nat)
  /-- VFCMPEQ (R185). Izuno-S VFCMPEQ. -/
  | vfcmpeq (b vd va vb ew m : Nat)
  /-- VFCVT (R185). Izuno-S VFCVT. -/
  | vfcvt (b vd va vb ew m : Nat)
  /-- VFTOI (R185). Izuno-S VFTOI. -/
  | vftoi (b vd va vb ew m : Nat)
  /-- VITOF (R185). Izuno-S VITOF. -/
  | vitof (b vd va vb ew m : Nat)
  /-- VLD (R185). Izuno-S VLD. -/
  | vld (b vd a imm : Nat) (ue ce : List Nat)
  /-- VST (R185). Izuno-S VST. -/
  | vst (b vd a imm : Nat)
  /-- VXFER_IN (R185). Izuno-S VXFER with FN[0] = 0 moves data from Bench to local memory in granted slots. -/
  | vxferIn (b d a c : Nat) (e : MemErrs)
  /-- VXFER_OUT (R185). Izuno-S VXFER with FN[0] = 1 moves data from local memory to Bench in granted slots. -/
  | vxferOut (b d a c : Nat) (ue ce : List Nat)
  /-- VBCAST (R185). Izuno-S VBCAST. -/
  | vbcast (b vd va vb ew m : Nat)
  /-- VEXT (R185). Izuno-S VEXT. -/
  | vext (b vd va vb ew m : Nat)
  /-- VREDI (R185). Izuno-S VREDI. -/
  | vredi (b vd va vb ew m : Nat)
  /-- VREDF (R185). Izuno-S VREDF. -/
  | vredf (b vd va vb ew m : Nat)
  /-- CONFIG_REQUEST (R495). A PCIe configuration request is completed with Configuration Request Retry Status until FLASH completes and served thereafter, including the Resizable BAR control of BAR4. -/
  | configRequest (off : Nat) (rebar : Option Nat)
  /-- PCIE_LINK_RETURN (R527). The PCIe link returns to L0 after leaving it, and every queue stays disabled until software enables it again. -/
  | pcieLinkReturn
  /-- FLIT_CRC_FAILURE (R401). A received flit that fails its CRC, carries TYPE 4 to 15 or lies in an uncorrectable FEC codeword is discarded with its header fields and answered with NAK. -/
  | flitCrcFailure (p : Nat)
  /-- SIDE_PATH_CALIBRATION (R411). While a part takes its Rootline frames from the side path, it repeats the calibration exchange of R58 every 64 us to steer TIME_NS. -/
  | sidePathCalibration
  /-- RAILS_WITHIN_BAND (R545). Every supply rail comes within its band, and the comparators release BOOT.STAGE from RESET so boot proceeds. -/
  | railsWithinBand
  /-- UNASSIGNED_UNIT (R368). A decoder reads a unit whose TYPE is not assigned with bit 7 clear, skips it, sets STREAM_SYNTAX and loses ingots until the next join point. -/
  | unassignedUnit (c : Nat) (a : Bool)
  /-- UNIT_SYNC_LOSS (R368). A decoder meets a unit whose SYNC differs from 0xA7, or whose body runs past the delivered data, and discards bytes until the next STREAM_HEADER, losing the ingots in between. -/
  | unitSyncLoss (c : Nat) (a ts : Bool)
  /-- UNLISTED_ENCODING (R182). A Burin executes a word whose encoding is not listed in Izuno-S, or a V-form word with EW 3, and faults with BURIN_ILLEGAL. -/
  | unlistedEncoding (b word : Nat)
deriving DecidableEq, Repr

end Sys2Proof
end

