-- ==== Sys2Proof/Decode.lean ====
section
/-! DEFINITION. The command that a word spells by the bits of spec/opcode_table.json, which give none, and the commands that the part's own words spell: a
macro-instruction of 128 bits (06 R163, R164, R168 to R181) and an Izuno-S word of 32 bits (06 R183 to R185). -/

namespace Sys2Proof

/-- The command that the low `nbits` bits of `w` spell. No row of the table gives bits, so no word spells a command. -/
def decodeTableWord (_nbits _w : Nat) : Option Instr := none

/-! Macro-instructions. -/

/-- The fields of the macro-instruction word `v` (R163); SUB[3] is a field of CONV and STEM alone (R169, R171). -/
def macroFields (v : Nat) : MacroW :=
  { cls := bit v 115, sub3 := (decide (bits v 120 8 = 0x11) || decide (bits v 120 8 = 0x30)) && bit v 119, loop := bit v 114, rnd := bits v 112 2
    d0 := bits v 106 6, d1 := bits v 100 6, d2 := bits v 94 6, d3 := bits v 88 6, d4 := bits v 82 6, rep := bits v 66 16, fuse := bit v 65
    p1 := bits v 32 32, p0 := bits v 0 32 }

/-- The command that the macro-instruction word `v` gives region `r`, its reads meeting the errors `e`; none of an OP or SUB that R164 and R168 to R181 do
not list, or with the must-be-0 bit set (R163). -/
def decodeMacro (r : Nat) (e : MemErrs) (v : Nat) : Option Instr :=
  let w := macroFields v
  let sub := bits v 116 4
  if bit v 64 then none
  else match bits v 120 8 with
  | 0x01 => if sub = 0 then some (.nopMacro r w) else none
  | 0x10 => if sub = 0 then some (.mmul r w e) else none
  | 0x11 => if sub % 8 ≤ 2 then some (.conv r (sub % 8) w e) else none
  | 0x12 => [.poolMax r w e, .poolAverage r w e, .poolSum r w e][sub]?
  | 0x13 => [.eltAdd r w e, .eltMultiply r w e, .eltSubtract r w e, .eltMax r w e, .eltMin r w e][sub]?
  | 0x14 => if sub = 0 then some (.lut r w e) else none
  | 0x15 => [.redSum r w e, .redMax r w e, .redMin r w e, .redSumOfSquares r w e][sub]?
  | 0x16 => if sub = 0 then some (.func r w e) else none
  | 0x17 => if sub = 0 then some (.cvt r w e) else none
  | 0x20 => [.copy r w e, .transpose r w e, .fill r w e, .send r w e][sub]?
  | 0x21 => [.chainRead r w e, .chainWrite r w e][sub]?
  | 0x22 => [.put r w e, .take r w e][sub]?
  | 0x23 => if sub = 0 then some (.mcast r w e) else none
  | 0x24 => if sub = 0 then some (.rotate r w e) else none
  | 0x30 => if sub % 8 = 0 ∨ sub % 8 = 2 then some (.stem r (sub % 8) w e) else none
  | 0x31 => [.drawEnc r w e, .drawDec r w e][sub]?
  | 0x32 => if sub = 0 then some (.prune r w e) else none
  | 0x33 => if sub = 0 then some (.gmerge r w e) else none
  | 0x40 => if sub = 0 then some (.bar r w) else none
  | 0x41 => if sub = 0 then some (.layer r w) else none
  | 0x42 => if sub = 0 then some (.temperMark r w) else none
  | 0x43 => if sub = 0 then some (.post r w) else none
  | 0x44 => if sub = 0 then some (.halt r w) else none
  | 0x50 => if sub = 0 then some (.burin r w) else none
  | _ => none

/-! Izuno-S words. -/

/-- The command that the Izuno-S word `x` gives Burin `b`, its reads meeting no error; none of a word that R184 and R185 do not list, or of form V with EW
3 (R183). Must-be-0 fields of a listed word are the command's to check. -/
def decodeBurin (b x : Nat) : Option Instr :=
  let d := bits x 21 5
  let a := bits x 16 5
  let c := bits x 11 5
  let fn := bits x 0 11
  let imm := bits x 0 16
  let ew := bits x 9 2
  let m := bits x 6 3
  let vfn := bits x 0 6
  let vec := fun (i : Option Instr) => if ew = 3 then none else i
  match bits x 26 6 with
  | 0x01 => [.add b d a c, .sub b d a c, .and b d a c, .or b d a c, .xor b d a c, .sll b d a c, .srl b d a c, .sra b d a c, .slt b d a c, .sltu b d
      a c, .mul b d a c, .mulh b d a c, .div b d a c, .rem b d a c, .min b d a c, .max b d a c][fn]?
  | 0x02 => some (.addi b d a imm)
  | 0x03 => some (.andi b d a imm)
  | 0x04 => some (.ori b d a imm)
  | 0x05 => some (.xori b d a imm)
  | 0x06 => some (.slti b d a imm)
  | 0x07 => some (.lui b d a imm)
  | 0x08 => some (.slli b d a imm)
  | 0x09 => some (.srli b d a imm)
  | 0x0A => some (.srai b d a imm)
  | 0x10 => some (.lw b d a imm false false)
  | 0x11 => some (.lh b d a imm false false)
  | 0x12 => some (.lb b d a imm false false)
  | 0x13 => some (.lhu b d a imm false false)
  | 0x14 => some (.lbu b d a imm false false)
  | 0x15 => some (.sw b d a imm false false)
  | 0x16 => some (.sh b d a imm false false)
  | 0x17 => some (.sb b d a imm false false)
  | 0x18 => some (.beq b d a imm)
  | 0x19 => some (.bne b d a imm)
  | 0x1A => some (.blt b d a imm)
  | 0x1B => some (.bge b d a imm)
  | 0x1C => some (.bltu b d a imm)
  | 0x1D => some (.bgeu b d a imm)
  | 0x1E => some (.jal b (bits x 0 26))
  | 0x1F => some (.jalr b d a imm)
  | 0x20 => some (.csrr b d a imm)
  | 0x21 => some (.csrw b d a imm)
  | 0x22 => some (.syncCycle b d a imm)
  | 0x23 => some (.burinHalt b)
  | 0x30 => vec ([.vadd b d a c ew m, .vsub b d a c ew m, .vmul b d a c ew m, .vmin b d a c ew m, .vmax b d a c ew m, .vand b d a c ew m, .vor b d a
      c ew m, .vxor b d a c ew m, .vsll b d a c ew m, .vsrl b d a c ew m, .vsra b d a c ew m, .vsel b d a c ew m, .vcmpeq b d a c ew m, .vcmplt b d a
      c ew m][vfn]?)
  | 0x31 => vec ([.vfadd b d a c ew m, .vfsub b d a c ew m, .vfmul b d a c ew m, .vfdiv b d a c ew m, .vfsqrt b d a c ew m, .vfma b d a c ew m,
      .vfmin b d a c ew m, .vfmax b d a c ew m, .vfcmplt b d a c ew m, .vfcmpeq b d a c ew m, .vfcvt b d a c ew m, .vftoi b d a c ew m, .vitof b d a c
      ew m][vfn]?)
  | 0x32 => some (.vld b d a imm [] [])
  | 0x33 => some (.vst b d a imm)
  | 0x34 => if fn = 0 then some (.vxferIn b d a c ⟨[], 0, 0, 0⟩) else if fn = 1 then some (.vxferOut b d a c [] []) else none
  | 0x35 => vec ([.vbcast b d a c ew m, .vext b d a c ew m][vfn]?)
  | 0x36 => vec ([.vredi b d a c ew m, .vredf b d a c ew m][vfn]?)
  | _ => none

end Sys2Proof
end

