-- ==== Sys2Proof/Machine/Regs.lean ====
section
/-! DEFINITION. The register map of BAR0: one row per field of the spec's register tables (00 R11 to R14; 01 R30 R31;
02 R46 R47 R54; 03 R89; 09 R243 R249 R257 R264; 14 R398; 15 R423; 16 R431; 17 R466; 18 R479 R482 to R487; 19 R493
R499 R505 R512; 21 R534), and the key of each field: 64 times its BAR0 offset plus its lowest bit, which is also how
TEMPER.FIELD names it (19 R512). Unassigned (RSV) bits have no row. HW.STATE, HW.COUNT and RING.STATE are
read from their records. -/

namespace Sys2Proof.Machine

/-- Access codes of R11; RSV bits have no field. -/
inductive Acc where
  | ro | rw | w1c | stg
deriving DecidableEq, Repr

/-- One field of the register map: BAR0 offset of its register's first instance, the counts and strides of
its instances (largest stride first), lowest bit, width, access, value after cold reset, and whether a warm reset
keeps it (00 R12, 19 R491; true for fused fields). -/
structure FieldDef where
  off : Nat
  dims : List (Nat × Nat)
  lo : Nat
  width : Nat
  acc : Acc
  reset : Nat
  keep : Bool
deriving DecidableEq, Repr

/-- Fields of the Boot block. -/
def bootFields : List FieldDef :=
  [⟨0, [], 0, 4, .ro, 0, false⟩,
   ⟨0, [], 4, 4, .ro, 0, false⟩,
   ⟨0, [], 8, 8, .ro, 0, false⟩,
   ⟨0, [], 16, 1, .ro, 0, false⟩,
   ⟨0, [], 17, 1, .ro, 0, false⟩,
   ⟨8, [], 0, 8, .ro, 0, false⟩,
   ⟨8, [], 8, 8, .ro, 0, false⟩,
   ⟨8, [], 32, 32, .ro, 0, true⟩,
   ⟨0x10, [], 0, 1, .rw, 0, false⟩,
   ⟨0x18, [], 0, 3, .ro, 0, false⟩,
   ⟨0x18, [], 32, 32, .ro, 0, false⟩]

/-- Fields of the Geom block. -/
def geomFields : List FieldDef :=
  [⟨0x1000, [], 0, 16, .ro, 0xf008, false⟩,
   ⟨0x1000, [], 16, 8, .ro, 0xb0, false⟩,
   ⟨0x1000, [], 24, 8, .ro, 0, true⟩,
   ⟨0x1000, [], 32, 8, .ro, 0, false⟩,
   ⟨0x1008, [], 0, 8, .ro, 0, true⟩,
   ⟨0x1008, [], 8, 4, .ro, 0, true⟩,
   ⟨0x1008, [], 12, 4, .ro, 0, true⟩,
   ⟨0x1008, [], 16, 4, .ro, 2, false⟩,
   ⟨0x1008, [], 20, 4, .ro, 4, false⟩,
   ⟨0x1010, [], 0, 8, .ro, 0x10, false⟩,
   ⟨0x1010, [], 8, 4, .ro, 4, false⟩,
   ⟨0x1010, [], 12, 4, .ro, 2, false⟩,
   ⟨0x1010, [], 16, 4, .ro, 2, false⟩,
   ⟨0x1010, [], 20, 4, .ro, 4, false⟩,
   ⟨0x1010, [], 24, 4, .ro, 8, false⟩,
   ⟨0x1010, [], 28, 4, .ro, 1, false⟩,
   ⟨0x1010, [], 32, 4, .ro, 1, false⟩,
   ⟨0x1018, [], 0, 32, .ro, 0, true⟩,
   ⟨0x1020, [], 0, 16, .ro, 0x800, false⟩,
   ⟨0x1020, [], 16, 8, .ro, 0x20, false⟩,
   ⟨0x1020, [], 24, 16, .ro, 0x2155, false⟩,
   ⟨0x1028, [], 0, 16, .ro, 0x240, false⟩,
   ⟨0x1028, [], 16, 8, .ro, 0x10, false⟩,
   ⟨0x1028, [], 24, 8, .ro, 0x24, false⟩,
   ⟨0x1028, [], 32, 16, .ro, 0x2580, false⟩,
   ⟨0x1030, [], 0, 16, .ro, 0x80, false⟩,
   ⟨0x1030, [], 16, 8, .ro, 8, false⟩,
   ⟨0x1030, [], 32, 12, .ro, 0x100, false⟩,
   ⟨0x1030, [], 48, 8, .ro, 0x40, false⟩,
   ⟨0x1038, [], 0, 8, .ro, 0x10, false⟩,
   ⟨0x1038, [], 8, 4, .ro, 8, false⟩,
   ⟨0x1038, [], 12, 4, .ro, 2, false⟩,
   ⟨0x1038, [], 16, 8, .ro, 0x80, false⟩,
   ⟨0x1038, [], 24, 8, .ro, 0x60, false⟩,
   ⟨0x1038, [], 32, 16, .ro, 0x1000, false⟩,
   ⟨0x1038, [], 48, 12, .ro, 0x200, false⟩,
   ⟨0x1040, [], 0, 8, .ro, 0x40, false⟩,
   ⟨0x1040, [], 8, 4, .ro, 4, false⟩,
   ⟨0x1040, [], 12, 4, .ro, 8, false⟩,
   ⟨0x1040, [], 16, 8, .ro, 0x1f, false⟩] ++
  [⟨0x1040, [], 24, 8, .ro, 0x10, false⟩,
   ⟨0x1040, [], 32, 8, .ro, 0x40, false⟩,
   ⟨0x1040, [], 40, 4, .ro, 8, false⟩,
   ⟨0x1048, [], 0, 16, .ro, 0x64, false⟩,
   ⟨0x1048, [], 16, 16, .ro, 0x5dc, false⟩,
   ⟨0x1048, [], 32, 16, .ro, 0xbb8, false⟩,
   ⟨0x1048, [], 48, 16, .ro, 0x2ee, false⟩,
   ⟨0x1050, [], 0, 32, .ro, 0x2dc6c, false⟩,
   ⟨0x1058, [], 0, 16, .ro, 0x9c4, false⟩,
   ⟨0x1058, [], 16, 16, .ro, 0x1a90, false⟩,
   ⟨0x1058, [], 32, 8, .ro, 0x32, false⟩,
   ⟨0x1080, [(8, 8)], 0, 16, .ro, 0, true⟩,
   ⟨0x1080, [(8, 8)], 16, 16, .ro, 0, true⟩]

/-- Fields of the Speed block. -/
def speedFields : List FieldDef :=
  [⟨0x2000, [], 0, 8, .ro, 1, false⟩,
   ⟨0x2000, [], 8, 32, .ro, 0, true⟩,
   ⟨0x2008, [], 0, 64, .ro, 0, false⟩]

/-- Fields of the Speed block. -/
def speedFields2 : List FieldDef :=
  [⟨0x2100, [(8, 0x100), (26, 8)], 0, 3, .ro, 0, true⟩,
   ⟨0x2100, [(8, 0x100), (26, 8)], 4, 3, .ro, 0, true⟩,
   ⟨0x2100, [(8, 0x100), (26, 8)], 8, 3, .ro, 0, true⟩,
   ⟨0x2100, [(8, 0x100), (26, 8)], 11, 1, .ro, 0, true⟩,
   ⟨0x2100, [(8, 0x100), (26, 8)], 16, 3, .ro, 0, true⟩,
   ⟨0x2100, [(8, 0x100), (26, 8)], 20, 3, .ro, 0, true⟩,
   ⟨0x2100, [(8, 0x100), (26, 8)], 24, 3, .ro, 0, true⟩,
   ⟨0x2100, [(8, 0x100), (26, 8)], 27, 1, .ro, 0, true⟩,
   ⟨0x2100, [(8, 0x100), (26, 8)], 32, 3, .ro, 0, true⟩,
   ⟨0x2100, [(8, 0x100), (26, 8)], 36, 3, .ro, 0, true⟩,
   ⟨0x2100, [(8, 0x100), (26, 8)], 40, 3, .ro, 0, true⟩,
   ⟨0x2100, [(8, 0x100), (26, 8)], 43, 1, .ro, 0, true⟩,
   ⟨0x2100, [(8, 0x100), (26, 8)], 48, 3, .ro, 0, true⟩,
   ⟨0x2100, [(8, 0x100), (26, 8)], 52, 3, .ro, 0, true⟩,
   ⟨0x2100, [(8, 0x100), (26, 8)], 56, 3, .ro, 0, true⟩,
   ⟨0x2100, [(8, 0x100), (26, 8)], 59, 1, .ro, 0, true⟩]

/-- Fields of the Epoch block. -/
def epochFields : List FieldDef :=
  [⟨0x3000, [], 0, 64, .ro, 0, true⟩,
   ⟨0x3008, [], 0, 64, .ro, 0, false⟩,
   ⟨0x3010, [], 0, 64, .ro, 0, false⟩,
   ⟨0x3018, [], 0, 16, .ro, 0, false⟩,
   ⟨0x3018, [], 16, 2, .ro, 0, false⟩,
   ⟨0x3020, [], 0, 2, .stg, 0, false⟩,
   ⟨0x3020, [], 2, 5, .stg, 0, false⟩,
   ⟨0x3020, [], 8, 4, .stg, 0, false⟩,
   ⟨0x3020, [], 12, 4, .stg, 0, false⟩,
   ⟨0x3020, [], 16, 16, .stg, 0x100, false⟩,
   ⟨0x3020, [], 32, 32, .stg, 0xf4240, false⟩,
   ⟨0x3028, [], 0, 48, .ro, 0, false⟩,
   ⟨0x3028, [], 48, 1, .ro, 0, false⟩,
   ⟨0x3030, [], 0, 1, .w1c, 0, false⟩,
   ⟨0x3030, [], 1, 1, .w1c, 0, false⟩,
   ⟨0x3030, [], 2, 1, .w1c, 0, false⟩,
   ⟨0x3030, [], 3, 1, .w1c, 0, false⟩]

/-- Fields of the Mem block. -/
def memFields : List FieldDef :=
  [⟨0x4000, [], 0, 7, .stg, 0x3c, false⟩,
   ⟨0x4008, [], 0, 7, .stg, 0x3c, false⟩,
   ⟨0x4000, [], 8, 7, .stg, 0x19, false⟩,
   ⟨0x4008, [], 8, 7, .stg, 0x19, false⟩,
   ⟨0x4000, [], 16, 7, .stg, 0xf, false⟩,
   ⟨0x4008, [], 16, 7, .stg, 0xf, false⟩,
   ⟨0x4010, [], 0, 1, .stg, 1, false⟩,
   ⟨0x4010, [], 1, 1, .stg, 1, false⟩,
   ⟨0x4018, [], 0, 16, .stg, 0, false⟩,
   ⟨0x4020, [], 0, 16, .w1c, 0, false⟩,
   ⟨0x4020, [], 16, 32, .w1c, 0, false⟩,
   ⟨0x4020, [], 48, 1, .ro, 0, false⟩,
   ⟨0x4100, [(16, 0x10)], 0, 40, .stg, 0, false⟩,
   ⟨0x4100, [(16, 0x10)], 40, 6, .stg, 0xc, false⟩,
   ⟨0x4100, [(16, 0x10)], 46, 1, .stg, 0, false⟩,
   ⟨0x4100, [(16, 0x10)], 47, 1, .stg, 0, false⟩,
   ⟨0x4108, [(16, 0x10)], 0, 24, .stg, 0, false⟩]

/-- Fields of the Sched block. -/
def schedFields : List FieldDef :=
  [⟨0x5000, [], 0, 4, .stg, 0, false⟩,
   ⟨0x5000, [], 4, 1, .stg, 0, false⟩,
   ⟨0x5008, [], 0, 1, .w1c, 0, false⟩,
   ⟨0x5008, [], 1, 1, .w1c, 0, false⟩,
   ⟨0x5008, [], 2, 1, .w1c, 0, false⟩,
   ⟨0x5008, [], 3, 1, .w1c, 0, false⟩]

/-- Fields of the Live block. -/
def liveFields : List FieldDef :=
  [⟨0x6000, [(96, 8)], 0, 7, .stg, 0, false⟩,
   ⟨0x6000, [(96, 8)], 7, 1, .stg, 0, false⟩,
   ⟨0x6000, [(96, 8)], 8, 8, .stg, 0, false⟩,
   ⟨0x6000, [(96, 8)], 16, 6, .stg, 0, false⟩,
   ⟨0x6300, [(96, 8)], 0, 32, .ro, 0, false⟩,
   ⟨0x6300, [(96, 8)], 32, 32, .ro, 0, false⟩]

/-- Fields of the Drain block. -/
def drainFields : List FieldDef :=
  [⟨0x7000, [(128, 0x40)], 0, 1, .stg, 0, false⟩,
   ⟨0x7000, [(128, 0x40)], 1, 1, .stg, 0, false⟩,
   ⟨0x7000, [(128, 0x40)], 2, 1, .stg, 0, false⟩,
   ⟨0x7000, [(128, 0x40)], 3, 2, .stg, 0, false⟩,
   ⟨0x7000, [(128, 0x40)], 8, 13, .stg, 0x100, false⟩,
   ⟨0x7000, [(128, 0x40)], 24, 13, .stg, 0x101, false⟩,
   ⟨0x7000, [(128, 0x40)], 40, 13, .stg, 0x20, false⟩,
   ⟨0x7000, [(128, 0x40)], 53, 1, .stg, 0, false⟩,
   ⟨0x7008, [(128, 0x40)], 0, 20, .stg, 7, false⟩,
   ⟨0x7008, [(128, 0x40)], 20, 20, .stg, 0, false⟩,
   ⟨0x7008, [(128, 0x40)], 40, 20, .stg, 0, false⟩,
   ⟨0x7010, [(128, 0x40)], 0, 64, .stg, 0, false⟩,
   ⟨0x7018, [(128, 0x40)], 0, 20, .stg, 1, false⟩,
   ⟨0x7018, [(128, 0x40)], 20, 24, .stg, 1, false⟩,
   ⟨0x7018, [(128, 0x40)], 44, 1, .stg, 0, false⟩,
   ⟨0x7020, [(128, 0x40)], 0, 20, .stg, 1, false⟩,
   ⟨0x7020, [(128, 0x40)], 20, 24, .stg, 1, false⟩,
   ⟨0x7020, [(128, 0x40)], 45, 4, .stg, 0xf, false⟩,
   ⟨0x7028, [(128, 0x40)], 0, 6, .stg, 0, false⟩,
   ⟨0x7028, [(128, 0x40)], 8, 6, .stg, 0x3f, false⟩,
   ⟨0x7028, [(128, 0x40)], 16, 6, .stg, 0x18, false⟩,
   ⟨0x7028, [(128, 0x40)], 24, 16, .stg, 0, false⟩,
   ⟨0x7028, [(128, 0x40)], 40, 20, .stg, 0, false⟩,
   ⟨0x7030, [(128, 0x40)], 0, 16, .stg, 0, false⟩,
   ⟨0x7030, [(128, 0x40)], 16, 16, .stg, 0, false⟩,
   ⟨0x7030, [(128, 0x40)], 32, 16, .stg, 0, false⟩,
   ⟨0x7030, [(128, 0x40)], 48, 8, .stg, 0, false⟩,
   ⟨0x7038, [(128, 0x40)], 0, 16, .ro, 0, false⟩,
   ⟨0x7038, [(128, 0x40)], 16, 16, .ro, 0, false⟩,
   ⟨0x7038, [(128, 0x40)], 32, 16, .ro, 0, false⟩,
   ⟨0x7038, [(128, 0x40)], 48, 16, .ro, 0, false⟩]

/-- Fields of the Tl block. -/
def tlFields : List FieldDef :=
  [⟨0x9000, [], 0, 32, .stg, 0, false⟩,
   ⟨0x9000, [], 32, 16, .stg, 0, false⟩,
   ⟨0x9008, [], 0, 18, .stg, 1, false⟩,
   ⟨0x9008, [], 18, 16, .stg, 0, false⟩,
   ⟨0x9010, [], 0, 16, .w1c, 0, false⟩,
   ⟨0x9010, [], 16, 16, .w1c, 0, false⟩,
   ⟨0x9010, [], 32, 1, .w1c, 0, false⟩,
   ⟨0x9010, [], 33, 1, .w1c, 0, false⟩,
   ⟨0x9010, [], 34, 1, .w1c, 0, false⟩,
   ⟨0x9010, [], 35, 1, .w1c, 0, false⟩,
   ⟨0x9010, [], 36, 1, .w1c, 0, false⟩,
   ⟨0x9010, [], 37, 1, .w1c, 0, false⟩,
   ⟨0x9010, [], 38, 1, .w1c, 0, false⟩,
   ⟨0x9018, [], 0, 32, .ro, 0, false⟩,
   ⟨0x9018, [], 32, 16, .ro, 0, false⟩,
   ⟨0x9018, [], 48, 1, .ro, 0, false⟩,
   ⟨0x9018, [], 49, 1, .ro, 0, false⟩,
   ⟨0x9100, [(16, 0x40)], 0, 1, .stg, 0, false⟩,
   ⟨0x9108, [(16, 0x40)], 0, 3, .ro, 0, false⟩,
   ⟨0x9108, [(16, 0x40)], 4, 4, .ro, 0, false⟩,
   ⟨0x9108, [(16, 0x40)], 8, 32, .ro, 0, false⟩,
   ⟨0x9108, [(16, 0x40)], 40, 1, .ro, 0, false⟩,
   ⟨0x9110, [(16, 0x40)], 0, 32, .ro, 0, false⟩,
   ⟨0x9110, [(16, 0x40)], 32, 16, .ro, 0, false⟩,
   ⟨0x9110, [(16, 0x40)], 48, 8, .ro, 0, false⟩,
   ⟨0x9118, [(16, 0x40)], 0, 10, .ro, 0, false⟩,
   ⟨0x9118, [(16, 0x40)], 16, 10, .ro, 0, false⟩,
   ⟨0x9120, [(16, 0x40)], 0, 40, .ro, 0, false⟩,
   ⟨0x9120, [(16, 0x40)], 40, 1, .ro, 0, false⟩,
   ⟨0x9800, [(64, 8)], 0, 1, .stg, 0, false⟩,
   ⟨0x9800, [(64, 8)], 1, 4, .stg, 0, false⟩,
   ⟨0x9800, [(64, 8)], 5, 3, .stg, 0, false⟩,
   ⟨0x9800, [(64, 8)], 8, 6, .stg, 0, false⟩]

/-- Fields of the Audit block. -/
def auditFields : List FieldDef :=
  [⟨0xa000, [], 0, 8, .ro, 1, false⟩,
   ⟨0xa000, [], 8, 8, .ro, 0, true⟩,
   ⟨0xa000, [], 16, 8, .ro, 2, false⟩,
   ⟨0xa000, [], 24, 8, .ro, 1, false⟩,
   ⟨0xa000, [], 32, 8, .ro, 1, false⟩,
   ⟨0xa000, [], 40, 8, .ro, 0, false⟩,
   ⟨0xa000, [], 48, 1, .stg, 0, false⟩,
   ⟨0xa000, [], 49, 1, .stg, 0, false⟩,
   ⟨0xa008, [], 0, 32, .ro, 0, false⟩,
   ⟨0xa010, [], 0, 64, .stg, 0, false⟩,
   ⟨0xa018, [], 0, 64, .stg, 0, false⟩,
   ⟨0xa020, [], 0, 2, .stg, 0, false⟩,
   ⟨0xa020, [], 2, 1, .stg, 0, false⟩,
   ⟨0xa028, [], 0, 52, .stg, 0, false⟩,
   ⟨0xa030, [], 0, 32, .stg, 0, false⟩,
   ⟨0xa038, [], 0, 64, .ro, 0, false⟩,
   ⟨0xa040, [], 0, 64, .rw, 0, false⟩,
   ⟨0xa048, [], 0, 1, .w1c, 0, false⟩,
   ⟨0xa048, [], 1, 1, .w1c, 0, false⟩,
   ⟨0xa048, [], 2, 1, .w1c, 0, false⟩,
   ⟨0xa048, [], 3, 1, .w1c, 0, false⟩,
   ⟨0xa048, [], 4, 1, .w1c, 0, false⟩,
   ⟨0xa050, [], 0, 1, .stg, 0, false⟩,
   ⟨0xa050, [], 1, 1, .stg, 0, false⟩,
   ⟨0xa050, [], 2, 1, .stg, 0, false⟩,
   ⟨0xa050, [], 3, 1, .stg, 0, false⟩,
   ⟨0xa058, [], 0, 52, .stg, 0, false⟩,
   ⟨0xa060, [], 0, 1, .stg, 0, false⟩]

/-- Fields of the Bellows block. -/
def bellowsFields : List FieldDef :=
  [⟨0xb000, [], 0, 12, .stg, 0x88, false⟩,
   ⟨0xb000, [], 12, 4, .stg, 0xa, false⟩,
   ⟨0xb000, [], 16, 8, .stg, 2, false⟩,
   ⟨0xb000, [], 24, 2, .stg, 0, false⟩,
   ⟨0xb000, [], 26, 2, .stg, 1, false⟩,
   ⟨0xb000, [], 28, 2, .stg, 2, false⟩,
   ⟨0xb008, [], 0, 1, .stg, 1, false⟩,
   ⟨0xb008, [], 1, 7, .stg, 0x50, false⟩,
   ⟨0xb008, [], 8, 16, .stg, 0xc8, false⟩,
   ⟨0xb008, [], 24, 8, .stg, 2, false⟩,
   ⟨0xb008, [], 32, 12, .stg, 0x118, false⟩,
   ⟨0xb010, [], 0, 8, .stg, 0x28, false⟩,
   ⟨0xb010, [], 8, 3, .stg, 2, false⟩,
   ⟨0xb010, [], 12, 12, .stg, 0x40, false⟩,
   ⟨0xb018, [], 0, 8, .stg, 0x5f, false⟩,
   ⟨0xb018, [], 8, 8, .stg, 0x66, false⟩,
   ⟨0xb018, [], 16, 8, .ro, 0x6e, false⟩,
   ⟨0xb018, [], 24, 8, .stg, 3, false⟩,
   ⟨0xb020, [], 0, 16, .ro, 0, false⟩,
   ⟨0xb020, [], 16, 16, .ro, 0, false⟩,
   ⟨0xb020, [], 32, 16, .ro, 0, false⟩,
   ⟨0xb020, [], 48, 16, .ro, 0, false⟩,
   ⟨0xb028, [], 0, 16, .ro, 0, false⟩,
   ⟨0xb028, [], 16, 16, .ro, 0, false⟩,
   ⟨0xb030, [], 0, 1, .w1c, 0, false⟩,
   ⟨0xb030, [], 1, 1, .w1c, 0, false⟩,
   ⟨0xb030, [], 2, 1, .w1c, 0, false⟩,
   ⟨0xb030, [], 3, 1, .w1c, 0, false⟩,
   ⟨0xb030, [], 4, 1, .w1c, 0, false⟩,
   ⟨0xb030, [], 5, 1, .w1c, 0, false⟩,
   ⟨0xb080, [(8, 8)], 0, 4, .ro, 0, false⟩,
   ⟨0xb080, [(8, 8)], 4, 4, .ro, 0, false⟩,
   ⟨0xb080, [(8, 8)], 8, 4, .ro, 0, false⟩,
   ⟨0xb080, [(8, 8)], 12, 2, .ro, 0, false⟩,
   ⟨0xb080, [(8, 8)], 14, 1, .ro, 0, false⟩,
   ⟨0xb080, [(8, 8)], 15, 1, .ro, 0, false⟩,
   ⟨0xb080, [(8, 8)], 16, 8, .ro, 0, false⟩,
   ⟨0xb080, [(8, 8)], 24, 16, .ro, 0, false⟩]

/-- Fields of the Fault block. -/
def faultFields : List FieldDef :=
  [⟨0xc000, [], 0, 16, .ro, 0, true⟩,
   ⟨0xc008, [], 0, 16, .ro, 0, false⟩,
   ⟨0xc008, [], 16, 16, .ro, 0, false⟩,
   ⟨0xc008, [], 32, 32, .ro, 0, false⟩,
   ⟨0xc010, [], 0, 8, .stg, 0x10, false⟩,
   ⟨0xc010, [], 8, 16, .stg, 0x40, false⟩,
   ⟨0xc010, [], 24, 16, .stg, 0x100, false⟩,
   ⟨0xc010, [], 40, 8, .stg, 4, false⟩,
   ⟨0xc010, [], 48, 16, .stg, 0x400, false⟩,
   ⟨0xc018, [], 0, 16, .ro, 0, false⟩,
   ⟨0xc018, [], 16, 32, .ro, 0, false⟩,
   ⟨0xc040, [(8, 8)], 0, 16, .ro, 0, false⟩,
   ⟨0xc040, [(8, 8)], 16, 1, .ro, 0, false⟩]

/-- Fields of the Alarm block. -/
def alarmFields : List FieldDef :=
  [⟨0xc200, [(16, 8)], 0, 1, .w1c, 0, false⟩,
   ⟨0xc200, [(16, 8)], 1, 1, .stg, 1, false⟩,
   ⟨0xc200, [], 2, 9, .stg, 0, false⟩,
   ⟨0xc208, [], 2, 9, .stg, 1, false⟩,
   ⟨0xc210, [], 2, 9, .stg, 2, false⟩,
   ⟨0xc218, [], 2, 9, .stg, 3, false⟩,
   ⟨0xc220, [], 2, 9, .stg, 4, false⟩,
   ⟨0xc228, [], 2, 9, .stg, 5, false⟩,
   ⟨0xc230, [], 2, 9, .stg, 6, false⟩,
   ⟨0xc238, [], 2, 9, .stg, 7, false⟩,
   ⟨0xc240, [], 2, 9, .stg, 8, false⟩,
   ⟨0xc248, [], 2, 9, .stg, 9, false⟩,
   ⟨0xc250, [], 2, 9, .stg, 0xa, false⟩,
   ⟨0xc258, [], 2, 9, .stg, 0xb, false⟩,
   ⟨0xc260, [], 2, 9, .stg, 0xc, false⟩,
   ⟨0xc268, [], 2, 9, .stg, 0xd, false⟩,
   ⟨0xc270, [], 2, 9, .stg, 0xe, false⟩,
   ⟨0xc278, [], 2, 9, .stg, 0xf, false⟩,
   ⟨0xc200, [(16, 8)], 11, 1, .stg, 1, false⟩,
   ⟨0xc200, [(16, 8)], 12, 16, .stg, 0x3e8, false⟩,
   ⟨0xc200, [(16, 8)], 28, 32, .ro, 0, false⟩,
   ⟨0xc200, [(16, 8)], 60, 1, .ro, 0, true⟩]

/-- Fields of the Tally block. -/
def tallyFields : List FieldDef :=
  [⟨0xd000, [(22, 8)], 0, 48, .ro, 0, true⟩,
   ⟨0xd000, [(22, 8)], 48, 1, .ro, 0, true⟩,
   ⟨0xd000, [(14, 8)], 49, 1, .ro, 1, true⟩,
   ⟨0xd070, [(8, 8)], 49, 1, .ro, 0, true⟩,
   ⟨0xd1f8, [], 0, 8, .stg, 0, false⟩]

/-- Fields of the Ring block. -/
def ringFields : List FieldDef :=
  [⟨0xe000, [], 0, 11, .stg, 0x200, false⟩,
   ⟨0xe000, [], 16, 1, .stg, 1, false⟩,
   ⟨0xe000, [], 17, 1, .stg, 0, false⟩]

/-- Fields of the Temper block. -/
def temperFields : List FieldDef :=
  [⟨0xf000, [], 0, 4, .rw, 0, false⟩,
   ⟨0xf000, [], 4, 3, .rw, 0, false⟩,
   ⟨0xf008, [], 0, 4, .ro, 0, false⟩,
   ⟨0xf008, [], 4, 2, .ro, 0, false⟩,
   ⟨0xf008, [], 16, 11, .ro, 0, false⟩,
   ⟨0xf010, [], 0, 32, .ro, 0, false⟩,
   ⟨0xf018, [], 0, 16, .ro, 0, false⟩,
   ⟨0xf018, [], 16, 16, .ro, 0, false⟩,
   ⟨0xf020, [], 0, 32, .ro, 0, false⟩,
   ⟨0xf020, [], 32, 32, .ro, 0, false⟩]

/-- Fields of the MediaPort block. -/
def mediaPortFields : List FieldDef :=
  [⟨0x10000, [(2, 0x100)], 0, 48, .stg, 0, false⟩,
   ⟨0x10008, [(2, 0x100)], 0, 32, .stg, 0, false⟩,
   ⟨0x10010, [(2, 0x100)], 0, 64, .stg, 0, false⟩,
   ⟨0x10018, [(2, 0x100)], 0, 64, .stg, 0, false⟩,
   ⟨0x10020, [(2, 0x100)], 0, 1, .stg, 0, false⟩,
   ⟨0x10020, [(2, 0x100)], 1, 8, .stg, 0x7f, false⟩,
   ⟨0x10028, [(2, 0x100)], 0, 1, .ro, 0, false⟩,
   ⟨0x10028, [(2, 0x100)], 1, 1, .ro, 0, false⟩,
   ⟨0x10030, [(2, 0x100)], 0, 48, .ro, 0, false⟩,
   ⟨0x10030, [(2, 0x100)], 48, 1, .ro, 0, false⟩,
   ⟨0x10038, [(2, 0x100)], 0, 32, .ro, 0, false⟩,
   ⟨0x10038, [(2, 0x100)], 32, 32, .ro, 0, false⟩,
   ⟨0x10040, [(2, 0x100)], 0, 32, .ro, 0, false⟩,
   ⟨0x10040, [(2, 0x100)], 32, 32, .ro, 0, false⟩]

/-- Fields of the MediaFlow block. -/
def mediaFlowFields : List FieldDef :=
  [⟨0x11000, [(128, 0x40)], 0, 1, .stg, 0, false⟩,
   ⟨0x11000, [(128, 0x40)], 1, 1, .stg, 0, false⟩,
   ⟨0x11000, [(128, 0x40)], 2, 7, .stg, 0, false⟩,
   ⟨0x11000, [(128, 0x40)], 9, 1, .stg, 0, false⟩,
   ⟨0x11000, [(128, 0x40)], 10, 1, .stg, 0, false⟩,
   ⟨0x11000, [(128, 0x40)], 11, 16, .stg, 0, false⟩,
   ⟨0x11000, [(128, 0x40)], 27, 14, .stg, 0, false⟩,
   ⟨0x11000, [(128, 0x40)], 41, 13, .stg, 0, false⟩,
   ⟨0x11008, [(128, 0x40)], 0, 1, .stg, 0, false⟩,
   ⟨0x11008, [(128, 0x40)], 1, 1, .stg, 0, false⟩,
   ⟨0x11008, [(128, 0x40)], 2, 7, .stg, 0, false⟩,
   ⟨0x11008, [(128, 0x40)], 9, 1, .stg, 0, false⟩,
   ⟨0x11008, [(128, 0x40)], 10, 1, .stg, 0, false⟩,
   ⟨0x11008, [(128, 0x40)], 11, 4, .stg, 0, false⟩,
   ⟨0x11008, [(128, 0x40)], 15, 16, .stg, 0, false⟩,
   ⟨0x11010, [(128, 0x40)], 0, 32, .stg, 0, false⟩,
   ⟨0x11010, [(128, 0x40)], 32, 32, .stg, 0, false⟩,
   ⟨0x11018, [(128, 0x40)], 0, 8, .stg, 0, false⟩,
   ⟨0x11018, [(128, 0x40)], 8, 8, .stg, 0, false⟩,
   ⟨0x11018, [(128, 0x40)], 16, 8, .stg, 0, false⟩,
   ⟨0x11018, [(128, 0x40)], 24, 1, .stg, 0, false⟩,
   ⟨0x11018, [(128, 0x40)], 32, 32, .stg, 0, false⟩,
   ⟨0x11020, [(128, 0x40)], 0, 32, .ro, 0, false⟩,
   ⟨0x11020, [(128, 0x40)], 32, 32, .ro, 0, false⟩,
   ⟨0x11028, [(128, 0x40)], 0, 32, .ro, 0, false⟩,
   ⟨0x11028, [(128, 0x40)], 32, 32, .ro, 0, false⟩,
   ⟨0x11030, [(128, 0x40)], 0, 32, .ro, 0, false⟩,
   ⟨0x11030, [(128, 0x40)], 32, 32, .ro, 0, false⟩]

/-- Fields of the MediaEgr block. -/
def mediaEgrFields : List FieldDef :=
  [⟨0x14000, [(128, 0x40)], 0, 48, .stg, 0, false⟩,
   ⟨0x14000, [(128, 0x40)], 48, 12, .stg, 0, false⟩,
   ⟨0x14000, [(128, 0x40)], 60, 3, .stg, 0, false⟩,
   ⟨0x14000, [(128, 0x40)], 63, 1, .stg, 0, false⟩,
   ⟨0x14008, [(128, 0x40)], 0, 1, .stg, 0, false⟩,
   ⟨0x14008, [(128, 0x40)], 1, 6, .stg, 0, false⟩,
   ⟨0x14008, [(128, 0x40)], 7, 8, .stg, 0x40, false⟩,
   ⟨0x14008, [(128, 0x40)], 15, 16, .stg, 0, false⟩,
   ⟨0x14008, [(128, 0x40)], 31, 16, .stg, 0, false⟩,
   ⟨0x14010, [(128, 0x40)], 0, 32, .stg, 0, false⟩,
   ⟨0x14010, [(128, 0x40)], 32, 32, .stg, 0, false⟩,
   ⟨0x14018, [(128, 0x40)], 0, 64, .stg, 0, false⟩,
   ⟨0x14020, [(128, 0x40)], 0, 64, .stg, 0, false⟩,
   ⟨0x14028, [(128, 0x40)], 0, 16, .ro, 0, false⟩]

/-- Fields of the Wq block. -/
def wqFields : List FieldDef :=
  [⟨0x20000, [(64, 0x40)], 0, 52, .stg, 0, false⟩,
   ⟨0x20000, [(64, 0x40)], 52, 4, .stg, 0, false⟩,
   ⟨0x20000, [(64, 0x40)], 56, 1, .stg, 0, false⟩,
   ⟨0x20008, [(64, 0x40)], 0, 52, .stg, 0, false⟩,
   ⟨0x20008, [(64, 0x40)], 52, 4, .stg, 0, false⟩,
   ⟨0x20010, [(64, 0x40)], 0, 52, .stg, 0, false⟩,
   ⟨0x20010, [(64, 0x40)], 52, 4, .stg, 0, false⟩,
   ⟨0x20018, [(64, 0x40)], 0, 9, .stg, 0, false⟩,
   ⟨0x20020, [(64, 0x40)], 0, 40, .stg, 0, false⟩,
   ⟨0x20020, [(64, 0x40)], 40, 12, .stg, 1, false⟩,
   ⟨0x20020, [(64, 0x40)], 52, 12, .stg, 0, false⟩,
   ⟨0x20028, [(64, 0x40)], 0, 20, .ro, 0, false⟩,
   ⟨0x20028, [(64, 0x40)], 20, 20, .ro, 0, false⟩,
   ⟨0x20028, [(64, 0x40)], 40, 20, .ro, 0, false⟩,
   ⟨0x20030, [(64, 0x40)], 0, 20, .rw, 0, false⟩,
   ⟨0x20030, [(64, 0x40)], 20, 20, .rw, 0, false⟩,
   ⟨0x20038, [(64, 0x40)], 0, 1, .w1c, 0, false⟩,
   ⟨0x20038, [(64, 0x40)], 1, 1, .w1c, 0, false⟩]

/-- Fields of the Ctx block. -/
def ctxFields : List FieldDef :=
  [⟨0x30000, [(128, 0x20)], 0, 2, .stg, 0, false⟩,
   ⟨0x30000, [(128, 0x20)], 2, 1, .stg, 0, false⟩,
   ⟨0x30000, [(128, 0x20)], 3, 3, .stg, 0, false⟩,
   ⟨0x30000, [(128, 0x20)], 6, 6, .stg, 0, false⟩,
   ⟨0x30008, [(128, 0x20)], 0, 18, .w1c, 0, false⟩,
   ⟨0x30010, [(128, 0x20)], 0, 32, .ro, 0, false⟩,
   ⟨0x30010, [(128, 0x20)], 32, 32, .ro, 0, false⟩]

/-- Fields of the Rsched block. -/
def rschedFields : List FieldDef :=
  [⟨0x2010000, [(8, 0x400000)], 0, 64, .ro, 0, false⟩,
   ⟨0x2010008, [(8, 0x400000)], 0, 32, .ro, 0, false⟩]

/-- Fields of the Hoop block. -/
def hoopFields : List FieldDef :=
  [⟨0x2020000, [(8, 0x400000), (64, 0x40)], 0, 3, .stg, 0, false⟩,
   ⟨0x2020000, [(8, 0x400000), (64, 0x40)], 4, 3, .stg, 0, false⟩,
   ⟨0x2020000, [(8, 0x400000), (64, 0x40)], 7, 1, .stg, 0, false⟩,
   ⟨0x2020000, [(8, 0x400000), (64, 0x40)], 8, 8, .stg, 0, false⟩,
   ⟨0x2020000, [(8, 0x400000), (64, 0x40)], 16, 20, .stg, 0, false⟩,
   ⟨0x2020000, [(8, 0x400000), (64, 0x40)], 36, 20, .stg, 0, false⟩,
   ⟨0x2020008, [(8, 0x400000), (64, 0x40)], 0, 32, .ro, 0, false⟩,
   ⟨0x2020010, [(8, 0x400000), (64, 0x40)], 0, 32, .ro, 0, false⟩,
   ⟨0x2020018, [(8, 0x400000), (64, 0x40)], 0, 52, .stg, 0, false⟩]

/-- The fields of the block that holds BAR0 offset `o`. -/
def blockFields (o : Nat) : List FieldDef :=
  if o < 0x1000 then bootFields else if o < 0x2000 then geomFields else if o < 0x3000 then speedFields ++ speedFields2
  else if o < 0x4000 then epochFields else if o < 0x5000 then memFields else if o < 0x6000 then schedFields
  else if o < 0x7000 then liveFields else if o < 0x9000 then drainFields else if o < 0xA000 then tlFields
  else if o < 0xB000 then auditFields else if o < 0xC000 then bellowsFields else if o < 0xC200 then faultFields
  else if o < 0xD000 then alarmFields else if o < 0xE000 then tallyFields else if o < 0xF000 then ringFields
  else if o < 0x10000 then temperFields else if o < 0x11000 then mediaPortFields else if o < 0x14000 then mediaFlowFields
  else if o < 0x20000 then mediaEgrFields else if o < 0x30000 then wqFields else if o < 0x2000000 then ctxFields
  else rschedFields ++ hoopFields

/-- Every field. -/
def fieldTable : List FieldDef :=
  bootFields ++ geomFields ++ speedFields ++ speedFields2 ++ epochFields ++ memFields ++ schedFields ++ liveFields ++ drainFields ++ tlFields ++ auditFields ++ bellowsFields ++ faultFields ++ alarmFields ++ tallyFields ++ ringFields ++ temperFields ++ mediaPortFields ++ mediaFlowFields ++ mediaEgrFields ++ wqFields ++ ctxFields ++ rschedFields ++ hoopFields

/-- The offset `o` within the instances that `dims` spans. -/
def dimMatch : List (Nat × Nat) → Nat → Bool
  | [], o => o = 0
  | (n, st) :: l, o => decide (o / st < n) && dimMatch l (o % st)

/-- The field has an instance in the register at BAR0 offset `off`. -/
def fieldAt (f : FieldDef) (off : Nat) : Bool := decide (f.off ≤ off) && dimMatch f.dims (off - f.off)

/-- The fields of the register at BAR0 offset `off`, a multiple of 8. -/
def fieldsAt (off : Nat) : List FieldDef := (blockFields off).filter (fun f => fieldAt f off)

/-- The field whose key is `k`. -/
def fieldOfKey (k : Nat) : Option FieldDef := (fieldsAt (k / 64)).find? (fun f => f.lo = k % 64)

/-- Value after cold reset of the field with key `k`. -/
def regReset (k : Nat) : Nat := match fieldOfKey k with
  | some f => f.reset
  | none => 0

/-- A warm reset keeps the field with key `k` (00 R12, 19 R491). -/
def regKept (k : Nat) : Bool := match fieldOfKey k with
  | some f => f.keep
  | none => false

/-! The key of each field; `n` and `i` number its instances. -/

namespace Fk

def bootStateStage : Nat := 64 * 0
def bootStateFailStage : Nat := 64 * 0 + 4
def bootStateFailCode : Nat := 64 * 0 + 8
def bootStateCopy : Nat := 64 * 0 + 16
def bootStateWarm : Nat := 64 * 0 + 17
def bootResultStPass : Nat := 64 * 8
def bootResultStIsolated : Nat := 64 * 8 + 8
def bootResultWarmCount : Nat := 64 * 8 + 32
def bootCtlWarmReset : Nat := 64 * 0x10
def bootJobJstate : Nat := 64 * 0x18
def bootJobRelEpoch : Nat := 64 * 0x18 + 32
def geomIdFamily : Nat := 64 * 0x1000
def geomIdStepping : Nat := 64 * 0x1000 + 16
def geomIdGrade : Nat := 64 * 0x1000 + 24
def geomIdGeomVersion : Nat := 64 * 0x1000 + 32
def geomRegionsRegionMask : Nat := 64 * 0x1008
def geomRegionsRegionCount : Nat := 64 * 0x1008 + 8
def geomRegionsFusedPos : Nat := 64 * 0x1008 + 12
def geomRegionsRows : Nat := 64 * 0x1008 + 16
def geomRegionsCols : Nat := 64 * 0x1008 + 20
def geomUnitsForgesPerRegion : Nat := 64 * 0x1010
def geomUnitsAnvilsPerForge : Nat := 64 * 0x1010 + 8
def geomUnitsBurinsPerForge : Nat := 64 * 0x1010 + 12
def geomUnitsStemPerRegion : Nat := 64 * 0x1010 + 16
def geomUnitsDrawplatePerRegion : Nat := 64 * 0x1010 + 20
def geomUnitsLanesPerDrawplate : Nat := 64 * 0x1010 + 24
def geomUnitsPrunerPerRegion : Nat := 64 * 0x1010 + 28
def geomUnitsSeqPerRegion : Nat := 64 * 0x1010 + 32
def geomGen : Nat := 64 * 0x1018
def geomCellarCellarGib : Nat := 64 * 0x1020
def geomCellarCellarPkgs : Nat := 64 * 0x1020 + 16
def geomCellarCellarMts : Nat := 64 * 0x1020 + 24
def geomHearthHearthGib : Nat := 64 * 0x1028
def geomHearthHearthStacks : Nat := 64 * 0x1028 + 16
def geomHearthStackGib : Nat := 64 * 0x1028 + 24
def geomHearthPinMbps : Nat := 64 * 0x1028 + 32
def geomSramCrucibleMib : Nat := 64 * 0x1030
def geomSramBenchMib : Nat := 64 * 0x1030 + 16
def geomSramAnvilStoreKib : Nat := 64 * 0x1030 + 32
def geomSramBurinLocalKib : Nat := 64 * 0x1030 + 48
def geomPortsTinlinkPorts : Nat := 64 * 0x1038
def geomPortsTinlinkLanes : Nat := 64 * 0x1038 + 8
def geomPortsMediaPorts : Nat := 64 * 0x1038 + 12
def geomPortsContexts : Nat := 64 * 0x1038 + 16
def geomPortsLiveMax : Nat := 64 * 0x1038 + 24
def geomPortsRefBuffers : Nat := 64 * 0x1038 + 32
def geomPortsMsixVectors : Nat := 64 * 0x1038 + 48
def geomIsaDescriptors : Nat := 64 * 0x1040
def geomIsaStrikeShapes : Nat := 64 * 0x1040 + 8
def geomIsaBucketsMax : Nat := 64 * 0x1040 + 12
def geomIsaFilterMax : Nat := 64 * 0x1040 + 16
def geomIsaStrideMax : Nat := 64 * 0x1040 + 24
def geomIsaDilationMax : Nat := 64 * 0x1040 + 32
def geomIsaSilverPerGroup : Nat := 64 * 0x1040 + 40
def geomClockRefclkMhz : Nat := 64 * 0x1048
def geomClockCclkMhz : Nat := 64 * 0x1048 + 16
def geomClockFclkMhz : Nat := 64 * 0x1048 + 32
def geomClockLclkMhz : Nat := 64 * 0x1048 + 48
def geomTclkTclkKhz : Nat := 64 * 0x1050
def geomPowerCapMinW : Nat := 64 * 0x1058
def geomPowerCapMaxW : Nat := 64 * 0x1058 + 16
def geomPowerCapStepW : Nat := 64 * 0x1058 + 32
def geomForgeMaskForgeEn (n : Nat) : Nat := 64 * (0x1080 + n * 8)
def geomForgeMaskIsolated (n : Nat) : Nat := 64 * (0x1080 + n * 8) + 16
def speedHdrSpeedVersion : Nat := 64 * 0x2000
def speedHdrAgeGen : Nat := 64 * 0x2000 + 8
def speedAgeEpoch : Nat := 64 * 0x2008
def speedCellFuseN0 (n i : Nat) : Nat := 64 * (0x2100 + n * 0x100 + i * 8)
def speedCellAgeN0 (n i : Nat) : Nat := 64 * (0x2100 + n * 0x100 + i * 8) + 4
def speedCellEffN0 (n i : Nat) : Nat := 64 * (0x2100 + n * 0x100 + i * 8) + 8
def speedCellRetired0 (n i : Nat) : Nat := 64 * (0x2100 + n * 0x100 + i * 8) + 11
def speedCellFuseN1 (n i : Nat) : Nat := 64 * (0x2100 + n * 0x100 + i * 8) + 16
def speedCellAgeN1 (n i : Nat) : Nat := 64 * (0x2100 + n * 0x100 + i * 8) + 20
def speedCellEffN1 (n i : Nat) : Nat := 64 * (0x2100 + n * 0x100 + i * 8) + 24
def speedCellRetired1 (n i : Nat) : Nat := 64 * (0x2100 + n * 0x100 + i * 8) + 27
def speedCellFuseN2 (n i : Nat) : Nat := 64 * (0x2100 + n * 0x100 + i * 8) + 32
def speedCellAgeN2 (n i : Nat) : Nat := 64 * (0x2100 + n * 0x100 + i * 8) + 36
def speedCellEffN2 (n i : Nat) : Nat := 64 * (0x2100 + n * 0x100 + i * 8) + 40
def speedCellRetired2 (n i : Nat) : Nat := 64 * (0x2100 + n * 0x100 + i * 8) + 43
def speedCellFuseN3 (n i : Nat) : Nat := 64 * (0x2100 + n * 0x100 + i * 8) + 48
def speedCellAgeN3 (n i : Nat) : Nat := 64 * (0x2100 + n * 0x100 + i * 8) + 52
def speedCellEffN3 (n i : Nat) : Nat := 64 * (0x2100 + n * 0x100 + i * 8) + 56
def speedCellRetired3 (n i : Nat) : Nat := 64 * (0x2100 + n * 0x100 + i * 8) + 59
def epochCount : Nat := 64 * 0x3000
def epochCycle : Nat := 64 * 0x3008
def epochTimeNs : Nat := 64 * 0x3010
def epochTimeAuxTimeFrac : Nat := 64 * 0x3018
def epochTimeAuxTimeState : Nat := 64 * 0x3018 + 16
def epochCfgRole : Nat := 64 * 0x3020
def epochCfgDepth : Nat := 64 * 0x3020 + 2
def epochCfgTimeParent : Nat := 64 * 0x3020 + 8
def epochCfgPtpPort : Nat := 64 * 0x3020 + 12
def epochCfgLead : Nat := 64 * 0x3020 + 16
def epochCfgTimeoutUs : Nat := 64 * 0x3020 + 32
def epochCalCalOffset : Nat := 64 * 0x3028
def epochCalCalValid : Nat := 64 * 0x3028 + 48
def epochStatusLateRelease : Nat := 64 * 0x3030
def epochStatusSidePath : Nat := 64 * 0x3030 + 1
def epochStatusHoldover : Nat := 64 * 0x3030 + 2
def epochStatusCrcDrop : Nat := 64 * 0x3030 + 3
def memHearthShareReadPct : Nat := 64 * 0x4000
def memCellarShareReadPct : Nat := 64 * 0x4008
def memHearthShareWritePct : Nat := 64 * 0x4000 + 8
def memCellarShareWritePct : Nat := 64 * 0x4008 + 8
def memHearthShareRemotePct : Nat := 64 * 0x4000 + 16
def memCellarShareRemotePct : Nat := 64 * 0x4008 + 16
def memRefreshHearth2x : Nat := 64 * 0x4010
def memRefreshCellar2x : Nat := 64 * 0x4010 + 1
def memHostHi : Nat := 64 * 0x4018
def memStatusHearthTemp : Nat := 64 * 0x4020
def memStatusCellarTemp : Nat := 64 * 0x4020 + 16
def memStatusScrubPending : Nat := 64 * 0x4020 + 48
def memWinDevBasePage (n : Nat) : Nat := 64 * (0x4100 + n * 0x10)
def memWinDevSizeLog2 (n : Nat) : Nat := 64 * (0x4100 + n * 0x10) + 40
def memWinDevWritable (n : Nat) : Nat := 64 * (0x4100 + n * 0x10) + 46
def memWinDevEnable (n : Nat) : Nat := 64 * (0x4100 + n * 0x10) + 47
def memWinBarBarPage (n : Nat) : Nat := 64 * (0x4108 + n * 0x10)
def schedCtlTblset : Nat := 64 * 0x5000
def schedCtlActive : Nat := 64 * 0x5000 + 4
def schedStatusMiss : Nat := 64 * 0x5008
def schedStatusHold : Nat := 64 * 0x5008 + 1
def schedStatusPoisonCtrl : Nat := 64 * 0x5008 + 2
def schedStatusChainEntry : Nat := 64 * 0x5008 + 3
def liveSlotCtx (n : Nat) : Nat := 64 * (0x6000 + n * 8)
def liveSlotEn (n : Nat) : Nat := 64 * (0x6000 + n * 8) + 7
def liveSlotSegment (n : Nat) : Nat := 64 * (0x6000 + n * 8) + 8
def liveSlotHoop (n : Nat) : Nat := 64 * (0x6000 + n * 8) + 16
def liveStatRan (n : Nat) : Nat := 64 * (0x6300 + n * 8)
def liveStatIdle (n : Nat) : Nat := 64 * (0x6300 + n * 8) + 32
def drainCfgEnable (n : Nat) : Nat := 64 * (0x7000 + n * 0x40)
def drainCfgVideo (n : Nat) : Nat := 64 * (0x7000 + n * 0x40) + 1
def drainCfgAudio (n : Nat) : Nat := 64 * (0x7000 + n * 0x40) + 2
def drainCfgDest (n : Nat) : Nat := 64 * (0x7000 + n * 0x40) + 3
def drainCfgVideoPid (n : Nat) : Nat := 64 * (0x7000 + n * 0x40) + 8
def drainCfgAudioPid (n : Nat) : Nat := 64 * (0x7000 + n * 0x40) + 24
def drainCfgPmtPid (n : Nat) : Nat := 64 * (0x7000 + n * 0x40) + 40
def drainCfgAutoStart (n : Nat) : Nat := 64 * (0x7000 + n * 0x40) + 53
def drainCycleC (n : Nat) : Nat := 64 * (0x7008 + n * 0x40)
def drainCycleCV (n : Nat) : Nat := 64 * (0x7008 + n * 0x40) + 20
def drainCycleCA (n : Nat) : Nat := 64 * (0x7008 + n * 0x40) + 40
def drainStartTD (n : Nat) : Nat := 64 * (0x7010 + n * 0x40)
def drainVmodelBuf (n : Nat) : Nat := 64 * (0x7018 + n * 0x40)
def drainVmodelDelayUs (n : Nat) : Nat := 64 * (0x7018 + n * 0x40) + 20
def drainVmodelMode (n : Nat) : Nat := 64 * (0x7018 + n * 0x40) + 44
def drainAmodelBuf (n : Nat) : Nat := 64 * (0x7020 + n * 0x40)
def drainAmodelDelayUs (n : Nat) : Nat := 64 * (0x7020 + n * 0x40) + 20
def drainAmodelNsM1 (n : Nat) : Nat := 64 * (0x7020 + n * 0x40) + 45
def drainRateQpMin (n : Nat) : Nat := 64 * (0x7028 + n * 0x40)
def drainRateQpMax (n : Nat) : Nat := 64 * (0x7028 + n * 0x40) + 8
def drainRateQpTarget (n : Nat) : Nat := 64 * (0x7028 + n * 0x40) + 16
def drainRateFr (n : Nat) : Nat := 64 * (0x7028 + n * 0x40) + 24
def drainRateBTarget (n : Nat) : Nat := 64 * (0x7028 + n * 0x40) + 40
def drainRefCycle (n : Nat) : Nat := 64 * (0x7030 + n * 0x40)
def drainRefLtPeriod (n : Nat) : Nat := 64 * (0x7030 + n * 0x40) + 16
def drainRefArefresh (n : Nat) : Nat := 64 * (0x7030 + n * 0x40) + 32
def drainRefRoiOff (n : Nat) : Nat := 64 * (0x7030 + n * 0x40) + 48
def drainStatHolds (n : Nat) : Nat := 64 * (0x7038 + n * 0x40)
def drainStatConcealed (n : Nat) : Nat := 64 * (0x7038 + n * 0x40) + 16
def drainStatFallback (n : Nat) : Nat := 64 * (0x7038 + n * 0x40) + 32
def drainStatDiscarded (n : Nat) : Nat := 64 * (0x7038 + n * 0x40) + 48
def tlCtlPartId : Nat := 64 * 0x9000
def tlCtlJobTag : Nat := 64 * 0x9000 + 32
def tlDomainDomainParts : Nat := 64 * 0x9008
def tlDomainChildren : Nat := 64 * 0x9008 + 18
def tlStatusDown : Nat := 64 * 0x9010
def tlStatusRetrained : Nat := 64 * 0x9010 + 16
def tlStatusProfileMixed : Nat := 64 * 0x9010 + 32
def tlStatusDomainCount : Nat := 64 * 0x9010 + 33
def tlStatusAbortRx : Nat := 64 * 0x9010 + 34
def tlStatusRxFormat : Nat := 64 * 0x9010 + 35
def tlStatusSideDrop : Nat := 64 * 0x9010 + 36
def tlStatusTreeMismatch : Nat := 64 * 0x9010 + 37
def tlStatusEpochSkew : Nat := 64 * 0x9010 + 38
def tlBarrierWaitEpoch : Nat := 64 * 0x9018
def tlBarrierChildArrived : Nat := 64 * 0x9018 + 32
def tlBarrierSelfArrived : Nat := 64 * 0x9018 + 48
def tlBarrierSentUp : Nat := 64 * 0x9018 + 49
def tlPcfgEnable (n : Nat) : Nat := 64 * (0x9100 + n * 0x40)
def tlPstateState (n : Nat) : Nat := 64 * (0x9108 + n * 0x40)
def tlPstatePeerPort (n : Nat) : Nat := 64 * (0x9108 + n * 0x40) + 4
def tlPstatePeerId (n : Nat) : Nat := 64 * (0x9108 + n * 0x40) + 8
def tlPstatePeerValid (n : Nat) : Nat := 64 * (0x9108 + n * 0x40) + 40
def tlPerrFecCorr (n : Nat) : Nat := 64 * (0x9110 + n * 0x40)
def tlPerrReplays (n : Nat) : Nat := 64 * (0x9110 + n * 0x40) + 32
def tlPerrRetrains (n : Nat) : Nat := 64 * (0x9110 + n * 0x40) + 48
def tlPcredTxCredit (n : Nat) : Nat := 64 * (0x9118 + n * 0x40)
def tlPcredRxUsed (n : Nat) : Nat := 64 * (0x9118 + n * 0x40) + 16
def tlPdelayDelay (n : Nat) : Nat := 64 * (0x9120 + n * 0x40)
def tlPdelayDelayValid (n : Nat) : Nat := 64 * (0x9120 + n * 0x40) + 40
def tlRxsEn (n : Nat) : Nat := 64 * (0x9800 + n * 8)
def tlRxsPort (n : Nat) : Nat := 64 * (0x9800 + n * 8) + 1
def tlRxsRegion (n : Nat) : Nat := 64 * (0x9800 + n * 8) + 5
def tlRxsHoop (n : Nat) : Nat := 64 * (0x9800 + n * 8) + 8
def auditProfileRecordVer : Nat := 64 * 0xa000
def auditProfileStepClass : Nat := 64 * 0xa000 + 8
def auditProfileAssayVer : Nat := 64 * 0xa000 + 16
def auditProfileTreeVer : Nat := 64 * 0xa000 + 24
def auditProfileTableVer : Nat := 64 * 0xa000 + 32
def auditProfileFwLevel : Nat := 64 * 0xa000 + 40
def auditProfileFlush : Nat := 64 * 0xa000 + 48
def auditProfileStrict : Nat := 64 * 0xa000 + 49
def auditDigest : Nat := 64 * 0xa008
def auditHmEn0HmEn : Nat := 64 * 0xa010
def auditHmEn1HmEn : Nat := 64 * 0xa018
def auditWcfgWmode : Nat := 64 * 0xa020
def auditWcfgJobHm : Nat := 64 * 0xa020 + 2
def auditWbase : Nat := 64 * 0xa028
def auditWsizeSize4k : Nat := 64 * 0xa030
def auditWdev : Nat := 64 * 0xa038
def auditWhost : Nat := 64 * 0xa040
def auditStatusWitnessFull : Nat := 64 * 0xa048
def auditStatusWitnessMismatch : Nat := 64 * 0xa048 + 1
def auditStatusReplayStarved : Nat := 64 * 0xa048 + 2
def auditStatusSaveFail : Nat := 64 * 0xa048 + 3
def auditStatusSaved : Nat := 64 * 0xa048 + 4
def auditOppCanopy : Nat := 64 * 0xa050
def auditOppTinlinkTx : Nat := 64 * 0xa050 + 1
def auditOppHearthRemote : Nat := 64 * 0xa050 + 2
def auditOppCellarRemote : Nat := 64 * 0xa050 + 3
def auditSaveBase : Nat := 64 * 0xa058
def auditSaveCtlPause : Nat := 64 * 0xa060
def bellowsCapStgCap : Nat := 64 * 0xb000
def bellowsCapStgFastPct : Nat := 64 * 0xb000 + 12
def bellowsCapStgHyst : Nat := 64 * 0xb000 + 16
def bellowsCapStgPrio0 : Nat := 64 * 0xb000 + 24
def bellowsCapStgPrio1 : Nat := 64 * 0xb000 + 26
def bellowsCapStgPrio2 : Nat := 64 * 0xb000 + 28
def bellowsBallastEn : Nat := 64 * 0xb008
def bellowsBallastPct : Nat := 64 * 0xb008 + 1
def bellowsBallastMaxUs : Nat := 64 * 0xb008 + 8
def bellowsBallastRamp : Nat := 64 * 0xb008 + 24
def bellowsBallastStartW : Nat := 64 * 0xb008 + 32
def bellowsDroopDroopMv : Nat := 64 * 0xb010
def bellowsDroopExt : Nat := 64 * 0xb010 + 8
def bellowsDroopHoldCc : Nat := 64 * 0xb010 + 12
def bellowsThermWarmC : Nat := 64 * 0xb018
def bellowsThermHotC : Nat := 64 * 0xb018 + 8
def bellowsThermTripC : Nat := 64 * 0xb018 + 16
def bellowsThermHystC : Nat := 64 * 0xb018 + 24
def bellowsMeasPkgW : Nat := 64 * 0xb020
def bellowsMeasComputeW : Nat := 64 * 0xb020 + 16
def bellowsMeasMemoryW : Nat := 64 * 0xb020 + 32
def bellowsMeasLinksW : Nat := 64 * 0xb020 + 48
def bellowsStaticSRegionW : Nat := 64 * 0xb028
def bellowsStaticUMinW : Nat := 64 * 0xb028 + 16
def bellowsStatusCapUnmet : Nat := 64 * 0xb030
def bellowsStatusUrgent : Nat := 64 * 0xb030 + 1
def bellowsStatusDeferred : Nat := 64 * 0xb030 + 2
def bellowsStatusThermalWarm : Nat := 64 * 0xb030 + 3
def bellowsStatusThermalHot : Nat := 64 * 0xb030 + 4
def bellowsStatusDramWarm : Nat := 64 * 0xb030 + 5
def bellowsRegionPwrPace (n : Nat) : Nat := 64 * (0xb080 + n * 8)
def bellowsRegionPwrPending (n : Nat) : Nat := 64 * (0xb080 + n * 8) + 4
def bellowsRegionPwrFloor (n : Nat) : Nat := 64 * (0xb080 + n * 8) + 8
def bellowsRegionPwrTstate (n : Nat) : Nat := 64 * (0xb080 + n * 8) + 12
def bellowsRegionPwrBallastOn (n : Nat) : Nat := 64 * (0xb080 + n * 8) + 14
def bellowsRegionPwrStretchOn (n : Nat) : Nat := 64 * (0xb080 + n * 8) + 15
def bellowsRegionPwrTjMax (n : Nat) : Nat := 64 * (0xb080 + n * 8) + 16
def bellowsRegionPwrRegionW (n : Nat) : Nat := 64 * (0xb080 + n * 8) + 24
def faultPartPartCode : Nat := 64 * 0xc000
def faultJobJobCode : Nat := 64 * 0xc008
def faultJobJobTag : Nat := 64 * 0xc008 + 16
def faultJobHwSeq : Nat := 64 * 0xc008 + 32
def faultThreshStoreCe : Nat := 64 * 0xc010
def faultThreshBenchCe : Nat := 64 * 0xc010 + 8
def faultThreshCrucibleCe : Nat := 64 * 0xc010 + 24
def faultThreshUeLimit : Nat := 64 * 0xc010 + 40
def faultThreshDramCe : Nat := 64 * 0xc010 + 48
def faultDownMemStacks : Nat := 64 * 0xc018
def faultDownMemPackages : Nat := 64 * 0xc018 + 16
def faultPendForges (n : Nat) : Nat := 64 * (0xc040 + n * 8)
def faultPendRegion (n : Nat) : Nat := 64 * (0xc040 + n * 8) + 16
def alarmPending (n : Nat) : Nat := 64 * (0xc200 + n * 8)
def alarmEnable (n : Nat) : Nat := 64 * (0xc200 + n * 8) + 1
def alarmVector (n : Nat) : Nat := 64 * (0xc200 + n * 8) + 2
def alarmMgmt (n : Nat) : Nat := 64 * (0xc200 + n * 8) + 11
def alarmHoldoffUs (n : Nat) : Nat := 64 * (0xc200 + n * 8) + 12
def alarmCount (n : Nat) : Nat := 64 * (0xc200 + n * 8) + 28
def alarmHeld (n : Nat) : Nat := 64 * (0xc200 + n * 8) + 60
def tallyCount (n : Nat) : Nat := 64 * (0xd000 + n * 8)
def tallySat (n : Nat) : Nat := 64 * (0xd000 + n * 8) + 48
def tallyScope (n : Nat) : Nat := 64 * (0xd000 + n * 8) + 49
def tallyCtlClearGen : Nat := 64 * 0xd1f8
def ringCfgClassEn : Nat := 64 * 0xe000
def ringCfgEnable : Nat := 64 * 0xe000 + 16
def ringCfgPortEn : Nat := 64 * 0xe000 + 17
def temperCmdSet : Nat := 64 * 0xf000
def temperCmdOp : Nat := 64 * 0xf000 + 4
def temperStatusSet : Nat := 64 * 0xf008
def temperStatusResult : Nat := 64 * 0xf008 + 4
def temperStatusWrites : Nat := 64 * 0xf008 + 16
def temperField : Nat := 64 * 0xf010
def temperSetsStaged : Nat := 64 * 0xf018
def temperSetsPending : Nat := 64 * 0xf018 + 16
def temperAppliedCount : Nat := 64 * 0xf020
def temperAppliedEpoch : Nat := 64 * 0xf020 + 32
def mediaPortMac (n : Nat) : Nat := 64 * (0x10000 + n * 0x100)
def mediaPortIp4Ipv4 (n : Nat) : Nat := 64 * (0x10008 + n * 0x100)
def mediaPortIp6hIpv6Hi (n : Nat) : Nat := 64 * (0x10010 + n * 0x100)
def mediaPortIp6lIpv6Lo (n : Nat) : Nat := 64 * (0x10018 + n * 0x100)
def mediaPortCtlEnable (n : Nat) : Nat := 64 * (0x10020 + n * 0x100)
def mediaPortCtlPtpDomain (n : Nat) : Nat := 64 * (0x10020 + n * 0x100) + 1
def mediaPortStateLinkUp (n : Nat) : Nat := 64 * (0x10028 + n * 0x100)
def mediaPortStatePtpLock (n : Nat) : Nat := 64 * (0x10028 + n * 0x100) + 1
def mediaPortPtpoffOffset (n : Nat) : Nat := 64 * (0x10030 + n * 0x100)
def mediaPortPtpoffValid (n : Nat) : Nat := 64 * (0x10030 + n * 0x100) + 48
def mediaPortCnt0RxFrames (n : Nat) : Nat := 64 * (0x10038 + n * 0x100)
def mediaPortCnt0RxDiscard (n : Nat) : Nat := 64 * (0x10038 + n * 0x100) + 32
def mediaPortCnt1TxDatagrams (n : Nat) : Nat := 64 * (0x10040 + n * 0x100)
def mediaPortCnt1TxDiscard (n : Nat) : Nat := 64 * (0x10040 + n * 0x100) + 32
def mediaFlowVEn (n : Nat) : Nat := 64 * (0x11000 + n * 0x40)
def mediaFlowVPort (n : Nat) : Nat := 64 * (0x11000 + n * 0x40) + 1
def mediaFlowVPt (n : Nat) : Nat := 64 * (0x11000 + n * 0x40) + 2
def mediaFlowVDepth8 (n : Nat) : Nat := 64 * (0x11000 + n * 0x40) + 9
def mediaFlowVS420 (n : Nat) : Nat := 64 * (0x11000 + n * 0x40) + 10
def mediaFlowVUdpPort (n : Nat) : Nat := 64 * (0x11000 + n * 0x40) + 11
def mediaFlowVWidth (n : Nat) : Nat := 64 * (0x11000 + n * 0x40) + 27
def mediaFlowVHeight (n : Nat) : Nat := 64 * (0x11000 + n * 0x40) + 41
def mediaFlowAEn (n : Nat) : Nat := 64 * (0x11008 + n * 0x40)
def mediaFlowAPort (n : Nat) : Nat := 64 * (0x11008 + n * 0x40) + 1
def mediaFlowAPt (n : Nat) : Nat := 64 * (0x11008 + n * 0x40) + 2
def mediaFlowAL24 (n : Nat) : Nat := 64 * (0x11008 + n * 0x40) + 9
def mediaFlowAPtime (n : Nat) : Nat := 64 * (0x11008 + n * 0x40) + 10
def mediaFlowAChM1 (n : Nat) : Nat := 64 * (0x11008 + n * 0x40) + 11
def mediaFlowAUdpPort (n : Nat) : Nat := 64 * (0x11008 + n * 0x40) + 15
def mediaFlowRateRateNum (n : Nat) : Nat := 64 * (0x11010 + n * 0x40)
def mediaFlowRateRateDen (n : Nat) : Nat := 64 * (0x11010 + n * 0x40) + 32
def mediaFlowColourPrimaries (n : Nat) : Nat := 64 * (0x11018 + n * 0x40)
def mediaFlowColourTransfer (n : Nat) : Nat := 64 * (0x11018 + n * 0x40) + 8
def mediaFlowColourMatrix (n : Nat) : Nat := 64 * (0x11018 + n * 0x40) + 16
def mediaFlowColourFullRange (n : Nat) : Nat := 64 * (0x11018 + n * 0x40) + 24
def mediaFlowColourStreamId (n : Nat) : Nat := 64 * (0x11018 + n * 0x40) + 32
def mediaFlowVstatPictures (n : Nat) : Nat := 64 * (0x11020 + n * 0x40)
def mediaFlowVstatVLost (n : Nat) : Nat := 64 * (0x11020 + n * 0x40) + 32
def mediaFlowAstatUnits (n : Nat) : Nat := 64 * (0x11028 + n * 0x40)
def mediaFlowAstatALost (n : Nat) : Nat := 64 * (0x11028 + n * 0x40) + 32
def mediaFlowDropUnitDrop (n : Nat) : Nat := 64 * (0x11030 + n * 0x40)
def mediaFlowDropFormatDrop (n : Nat) : Nat := 64 * (0x11030 + n * 0x40) + 32
def mediaEgrMacDmac (n : Nat) : Nat := 64 * (0x14000 + n * 0x40)
def mediaEgrMacVlanId (n : Nat) : Nat := 64 * (0x14000 + n * 0x40) + 48
def mediaEgrMacPcp (n : Nat) : Nat := 64 * (0x14000 + n * 0x40) + 60
def mediaEgrMacVlanEn (n : Nat) : Nat := 64 * (0x14000 + n * 0x40) + 63
def mediaEgrIpIpv6 (n : Nat) : Nat := 64 * (0x14008 + n * 0x40)
def mediaEgrIpDscp (n : Nat) : Nat := 64 * (0x14008 + n * 0x40) + 1
def mediaEgrIpTtl (n : Nat) : Nat := 64 * (0x14008 + n * 0x40) + 7
def mediaEgrIpSrcUdp (n : Nat) : Nat := 64 * (0x14008 + n * 0x40) + 15
def mediaEgrIpDstUdp (n : Nat) : Nat := 64 * (0x14008 + n * 0x40) + 31
def mediaEgrDst4DstIpv4 (n : Nat) : Nat := 64 * (0x14010 + n * 0x40)
def mediaEgrDst4Ssrc (n : Nat) : Nat := 64 * (0x14010 + n * 0x40) + 32
def mediaEgrDst6hDstIpv6Hi (n : Nat) : Nat := 64 * (0x14018 + n * 0x40)
def mediaEgrDst6lDstIpv6Lo (n : Nat) : Nat := 64 * (0x14020 + n * 0x40)
def mediaEgrStatRtpSeq (n : Nat) : Nat := 64 * (0x14028 + n * 0x40)
def wqSqSqPage (n : Nat) : Nat := 64 * (0x20000 + n * 0x40)
def wqSqSqLog2 (n : Nat) : Nat := 64 * (0x20000 + n * 0x40) + 52
def wqSqEnable (n : Nat) : Nat := 64 * (0x20000 + n * 0x40) + 56
def wqCqCqPage (n : Nat) : Nat := 64 * (0x20008 + n * 0x40)
def wqCqCqLog2 (n : Nat) : Nat := 64 * (0x20008 + n * 0x40) + 52
def wqOrOrPage (n : Nat) : Nat := 64 * (0x20010 + n * 0x40)
def wqOrOrLog2 (n : Nat) : Nat := 64 * (0x20010 + n * 0x40) + 52
def wqCfgVector (n : Nat) : Nat := 64 * (0x20018 + n * 0x40)
def wqResRbase (n : Nat) : Nat := 64 * (0x20020 + n * 0x40)
def wqResRsize4k (n : Nat) : Nat := 64 * (0x20020 + n * 0x40) + 40
def wqResRcount (n : Nat) : Nat := 64 * (0x20020 + n * 0x40) + 52
def wqHeadsSqHead (n : Nat) : Nat := 64 * (0x20028 + n * 0x40)
def wqHeadsCqTail (n : Nat) : Nat := 64 * (0x20028 + n * 0x40) + 20
def wqHeadsOrTail (n : Nat) : Nat := 64 * (0x20028 + n * 0x40) + 40
def wqHostCqHead (n : Nat) : Nat := 64 * (0x20030 + n * 0x40)
def wqHostOrHead (n : Nat) : Nat := 64 * (0x20030 + n * 0x40) + 20
def wqStatusDberr (n : Nat) : Nat := 64 * (0x20038 + n * 0x40)
def wqStatusFetchPoison (n : Nat) : Nat := 64 * (0x20038 + n * 0x40) + 1
def ctxCfgMode (n : Nat) : Nat := 64 * (0x30000 + n * 0x20)
def ctxCfgDir (n : Nat) : Nat := 64 * (0x30000 + n * 0x20) + 2
def ctxCfgHome (n : Nat) : Nat := 64 * (0x30000 + n * 0x20) + 3
def ctxCfgWq (n : Nat) : Nat := 64 * (0x30000 + n * 0x20) + 6
def ctxFlags (n : Nat) : Nat := 64 * (0x30008 + n * 0x20)
def ctxStatItems (n : Nat) : Nat := 64 * (0x30010 + n * 0x20)
def ctxStatResults (n : Nat) : Nat := 64 * (0x30010 + n * 0x20) + 32
def rschedScyc (n : Nat) : Nat := 64 * (0x2010000 + n * 0x400000)
def rschedLag (n : Nat) : Nat := 64 * (0x2010008 + n * 0x400000)
def hoopCfgPutEnd (n i : Nat) : Nat := 64 * (0x2020000 + n * 0x400000 + i * 0x40)
def hoopCfgTakeEnd (n i : Nat) : Nat := 64 * (0x2020000 + n * 0x400000 + i * 0x40) + 4
def hoopCfgEnable (n i : Nat) : Nat := 64 * (0x2020000 + n * 0x400000 + i * 0x40) + 7
def hoopCfgPort (n i : Nat) : Nat := 64 * (0x2020000 + n * 0x400000 + i * 0x40) + 8
def hoopCfgSlots (n i : Nat) : Nat := 64 * (0x2020000 + n * 0x400000 + i * 0x40) + 16
def hoopCfgSlotBeats (n i : Nat) : Nat := 64 * (0x2020000 + n * 0x400000 + i * 0x40) + 36
def hoopHead (n i : Nat) : Nat := 64 * (0x2020008 + n * 0x400000 + i * 0x40)
def hoopTail (n i : Nat) : Nat := 64 * (0x2020010 + n * 0x400000 + i * 0x40)
def hoopBase (n i : Nat) : Nat := 64 * (0x2020018 + n * 0x400000 + i * 0x40)

end Fk

end Sys2Proof.Machine
end

