-- ==== Sys2Proof/Machine/Sparse.lean ====
section
/-! DEFINITION. Sparse maps from keys to values in one canonical form: keys strictly rising, and no
entry equal to what an unlisted key reads as. Registers, memories and every indexed collection of the
state are such maps, so equal contents are equal data. -/

namespace Sys2Proof.Machine

/-- A sparse map; the default function gives what an unlisted key reads as. -/
abbrev SMap (α : Type) := List (Nat × α)

/-- The value at key `k`, the default `d k` where it is not listed. -/
def mget {α : Type} (d : Nat → α) : SMap α → Nat → α
  | [], k => d k
  | (j, v) :: m, k => if j = k then v else mget d m k

/-- The map without key `k`. -/
def mdel {α : Type} : SMap α → Nat → SMap α
  | [], _ => []
  | (j, w) :: m, k => if j = k then mdel m k else (j, w) :: mdel m k

/-- Insert `v` at `k`, before the first higher key. -/
def mins {α : Type} : SMap α → Nat → α → SMap α
  | [], k, v => [(k, v)]
  | (j, w) :: m, k, v => if k < j then (k, v) :: (j, w) :: m else (j, w) :: mins m k v

/-- Write `v` at `k`; writing the default removes the entry. -/
def mput {α : Type} [DecidableEq α] (d : Nat → α) (m : SMap α) (k : Nat) (v : α) : SMap α :=
  if v = d k then mdel m k else mins (mdel m k) k v

/-- Every listed key is at least `lo`, keys rise strictly, and no value is its key's default. -/
def mwfFrom {α : Type} [DecidableEq α] (d : Nat → α) : Nat → SMap α → Bool
  | _, [] => true
  | lo, (j, v) :: m => decide (lo ≤ j) && decide (v ≠ d j) && mwfFrom d (j + 1) m

/-- The canonical form. -/
def mwf {α : Type} [DecidableEq α] (d : Nat → α) (m : SMap α) : Bool := mwfFrom d 0 m

/-- Change the value at `k`. -/
def mmod {α : Type} [DecidableEq α] (d : Nat → α) (m : SMap α) (k : Nat) (f : α → α) : SMap α :=
  mput d m k (f (mget d m k))

/-- Change every listed value; a value that becomes its key's default is removed. -/
def mall {α : Type} [DecidableEq α] (d : Nat → α) (f : α → α) : SMap α → SMap α
  | [] => []
  | (j, v) :: m => if f v = d j then mall d f m else (j, f v) :: mall d f m

/-- Write a list of values at keys `k`, `k + 1`, and so on. -/
def mputs {α : Type} [DecidableEq α] (d : Nat → α) : SMap α → Nat → List α → SMap α
  | m, _, [] => m
  | m, k, v :: l => mputs d (mput d m k v) (k + 1) l

/-- The values at keys `k` to `k + n - 1`. -/
def mgets {α : Type} (d : Nat → α) (m : SMap α) (k n : Nat) : List α :=
  (List.range n).map (fun i => mget d m (k + i))

end Sys2Proof.Machine
end

