-- ==== Sys2Proof/Machine/State.lean ====
section
/-! DEFINITION. The state of the part: registers, memories, processors, queues, links and records, all plain data,
and the state after reset. INVENTORY.md lists every field with the rule that names it. -/

namespace Sys2Proof.Machine

/-- A byte memory: bytes other than 0, and the 32-byte halves stored as poisoned, by address divided by 32 (00 R9,
03 R83). An unlisted byte reads 0 and an unlisted half is clean (log entry 2). -/
structure Mem where
  cells : SMap Byte
  bad : SMap Bool
deriving DecidableEq, Repr

/-- Nothing listed. -/
def memEmpty : Mem := ⟨[], []⟩

/-- One Heartwood entry before it has its SEQ (18 R475). -/
structure HwEntry where
  seq : Nat
  code : Nat
  level : Nat
  action : Nat
  epoch : Nat
  cycle : Nat
  scyc : Nat
  lag : Nat
  source : Nat
  jobTag : Nat
  time : Nat
  instr : Nat
  detail : List Byte
deriving DecidableEq, Repr

/-- A queued Heartwood entry: the CCLK edge of the cycle that raised it, and whether FAULT.JOB.HW_SEQ takes its
SEQ (18 R477, R487). -/
structure HwQ where
  stamp : Nat
  first : Bool
  entry : HwEntry
deriving DecidableEq, Repr

/-- A Heartwood record (18 R474 to R479). `freezeAt` is the cycle after whose last queued entry it freezes. -/
structure HwRec where
  ring : SMap (Option HwEntry)
  queue : List HwQ
  written : Nat
  wrapped : Bool
  dropped : Nat
  frozen : Bool
  freezeAt : Option Nat
deriving DecidableEq, Repr

/-- A record that holds nothing. -/
def hwEmpty : HwRec := ⟨[], [], 0, false, 0, false, none⟩

/-- A ring-trace entry (18 R480); `data` holds 16 bytes. -/
structure TraceEntry where
  seq : Nat
  cls : Nat
  event : Nat
  source : Nat
  epoch : Nat
  cycle : Nat
  data : List Byte
deriving DecidableEq, Repr

/-- A trace source: its FIFO, the number of its next gap record, and the entries lost since the FIFO last had room
with the cycle of the first of them (18 R481). -/
structure TraceSrc where
  fifo : List TraceEntry
  gapNum : Nat
  lost : Nat
  lostCycle : Nat
deriving DecidableEq, Repr

/-- A source with nothing queued. -/
def srcEmpty : TraceSrc := ⟨[], 0, 0, 0⟩

/-- The ring trace, its collector's next source, and the observation port's position and gap number (18 R480 to
R482, R489). -/
structure Trace where
  ring : SMap (Option TraceEntry)
  written : Nat
  gaps : Nat
  srcs : SMap TraceSrc
  next : Nat
  portPos : Nat
  portGap : Nat
deriving DecidableEq, Repr

/-- What an alarm class holds beside its register: events waiting, and the CCLK edge of its last raise (18 R486). -/
structure AlarmX where
  waiting : Nat
  last : Option Nat
deriving DecidableEq, Repr

/-- A tensor descriptor, its fields as 06 R155 names them. -/
structure Desc where
  base : Nat
  fmt : Nat
  kind : Nat
  pad : Nat
  swpad : Bool
  n0 : Nat
  n1 : Nat
  n2 : Nat
  bkt : Nat
  pitch1 : Nat
  pitch2 : Nat
  aux : Nat
  auxEn : Bool
  ronly : Bool
  padc : Nat
  pstride : Nat
deriving DecidableEq, Repr

/-- An edge-table entry (06 R154). -/
structure Edge where
  producer : Nat
  desc : Nat
  target : Nat
  aux : Nat
deriving DecidableEq, Repr

/-- A bucket set (06 R161): shape slot, dynamic dimensions, and the bucket sizes of each dimension. -/
structure Bkt where
  slot : Nat
  dyn : Nat
  sizes : List (List Nat)
deriving DecidableEq, Repr

/-- A placement record (09 R245). -/
structure Place where
  instr : Nat
  region : Nat
  fm : Nat
  fn : Nat
  combo : Nat
  start : Nat
  span : Nat
  forges : Nat
  beta : Nat
  gamma : Nat
  eta : Nat
  stagger : Nat
  dHearth : Nat
  dCellar : Nat
  share : Nat
  wmode : Nat
  shareLo : Nat
  shareHi : Nat
  unit : Nat
  lanes : Nat
  segment : Nat
deriving DecidableEq, Repr

/-- One slot table of a table set: resource kind and instance, and its requester codes (09 R240 to R244). -/
structure SlotTable where
  kind : Nat
  inst : Nat
  codes : List Nat
deriving DecidableEq, Repr

/-- A submission entry (19 R502) with its queue and its index in the ring. -/
structure Entry where
  q : Nat
  idx : Nat
  op : Nat
  eflags : Nat
  ctx : Nat
  tag : Nat
  addr0 : Nat
  addr1 : Nat
  len0 : Nat
  len1 : Nat
  slot : Nat
  set : Nat
deriving DecidableEq, Repr

/-- A POST waiting for the earlier instructions of every region (06 R181). -/
structure Post where
  region : Nat
  instr : Nat
  tag : Nat
  vector : Nat
  raise : Bool
deriving DecidableEq, Repr

/-- The loaded or running job: its program (06 R153 to R161, 09 R244, R245), the context of each file
segment (09 R263), the receive streams whose sender is no part of the job with the slots already entered in the witness log (16 R435), the CDF banks that the loader copied to the table
stores, by device address, with the halves of each that were copied poisoned (11 R302, R323, 12 R328), the span of its constants, the areas that the loader placed (06 R552), and what it carries while it runs. -/
structure Job where
  kind : Nat
  flush : Bool
  strict : Bool
  descs : List Desc
  edges : List Edge
  macros : List Nat
  burinBytes : Nat
  burinEntry : Nat
  bkts : List Bkt
  places : List Place
  segCtx : List (Nat × Nat)
  outside : List (Nat × Nat)
  banks : SMap (List Byte)
  bankBad : SMap (List Nat)
  consts : Nat × Nat
  tsets : List (List SlotTable)
  areas : List AreaIn
  epochMax : Nat
  imageAddr : Nat
  imageLen : Nat
  saveAddr : Nat
  saveLen : Nat
  run : Option Entry
  shapeTab : List Byte
  waiting : Bool
  first : Bool
  relBase : Nat
  flags : Nat
  stops : List Entry
  pausing : Bool
  saving : Bool
  resumed : Bool
  faulted : Bool
  progDigest : List Byte
  constDigest : List Byte
  chain : List Byte
  posts : List Post
deriving DecidableEq, Repr

/-- What a region sequencer does (06 R181, 09 R247, R248). -/
inductive RunState where
  | idle
  | running
  | barrier
  | layer
  | burins
  | holding
  | halted
  | stopped
deriving DecidableEq, Repr

/-- A beat of the timed landing buffer: its address, its release cycle on SCYC, and its 64 bytes with the poison of each half (00 R9; 02 R48, R50). -/
structure Beat where
  addr : Nat
  due : Nat
  data : List Byte
  bad : Bool × Bool
deriving DecidableEq, Repr

/-- What a held region awaits (09 R248): a late timed beat, a slot in a hoop, room in a hoop, its flits' departure from a Tinlink port, or
room among the records that wait. -/
inductive Wait where
  | beat
  | filled (hoop : Nat)
  | room (hoop : Nat)
  | port (p : Nat)
  | records
deriving DecidableEq, Repr

/-- What a DRAW holds from its dispatch on: the skip marks of the coding state then in force (11 R308), the elements that it codes of dimension 0, and
the record staged for a hoop without
room (11 R320): its bytes, flags and row tallies, and whether an input was poisoned. -/
structure DrawProg where
  skip : List Nat
  n0 : Nat
  staged : Option (List Byte × Nat × List Nat × Bool)
deriving DecidableEq, Repr

/-- A coder state in a park store or restored from one, and whether its word was uncorrectable (11 R301, R318). -/
structure Park where
  coder : Coder
  bad : Bool
deriving DecidableEq, Repr

/-- A region, by logical index. `pc` is the index of its next macro-instruction; `shapes` holds dimension `d` of slot `s`
at `3 s + d` (06 R161); `marked` the sets its TEMPER instructions named since the last release; `marks` the epoch in which each
hoop slot with MARK was put, by hoop times 2^20 plus slot (09 R255), and `fill` the beats already in the TAIL slot of a
hoop that is not complete (15 R406); `landing` the beats that await their release, the late one that the region awaits first, `handed` the beat last handed to its consumer, and
`lastStretch` the last SCYC cycle of the epoch on which the region was stretched (02 R48, R50); `prog` how far an instruction that waits on an elastic path has come, and `draw` what a DRAW holds. -/
structure Region where
  pc : Nat
  run : RunState
  shapes : SMap Nat
  marked : List Nat
  scope : Nat
  arrivedAt : Nat
  openEx : Nat
  burinMask : Nat
  landing : List Beat
  handed : Option Beat
  lastStretch : Option Nat
  awaits : Option Wait
  holdSince : Nat
  ready : List Nat
  ballastW : Nat
  ballastSince : Nat
  droopExt : Nat
  droopClear : Nat
  parks : SMap (Option Park)
  lanes : SMap (Option Park)
  marks : SMap (Option Nat)
  fill : SMap Nat
  prog : List Nat
  draw : Option DrawProg
  chunks : SMap (List Nat)
deriving DecidableEq, Repr

/-- A region as reset leaves it. -/
def regionEmpty : Region :=
  { pc := 0, run := .idle, shapes := [], marked := [], scope := 0, arrivedAt := 0, openEx := 0,
    burinMask := 0, landing := [], handed := none, lastStretch := none, awaits := none, holdSince := 0, ready := [], ballastW := 0, ballastSince := 0, droopExt := 0,
    droopClear := 0, parks := [], lanes := [], marks := [], fill := [], prog := [], draw := none, chunks := [] }

/-- A Burin (06 R182 to R185): scalar, vector and mask registers, each with a poison bit (09 R268), program counter, the CSRs
FRM and FFLAGS, local memory, and whether it runs. -/
structure Burin where
  x : SMap Word
  xbad : SMap Bool
  v : SMap (BitVec 512)
  vbad : SMap Bool
  m : SMap (BitVec 64)
  mbad : SMap Bool
  pc : BitVec 16
  frm : BitVec 2
  fflags : BitVec 5
  mem : Mem
  running : Bool
deriving DecidableEq, Repr

/-- A Burin as reset leaves it (log entry 3). -/
def burinEmpty : Burin := ⟨[], [], [], [], [], [], 0, 0, 0, memEmpty, false⟩

/-- The state of a result slot (19 R508). -/
inductive SlotSt where
  | free
  | pending
  | ready
deriving DecidableEq, Repr

/-- A result slot: its state and the fields of its last record. -/
structure Slot where
  st : SlotSt
  record : List Byte
deriving DecidableEq, Repr

/-- A slot never used: FREE, its record NOT_READY and STALE (R508). -/
def slotEmpty : Slot := ⟨.free, [0, 0, 0, 0, 1, 1] ++ List.replicate 58 0⟩

/-- A work queue beside its registers (19 R499 to R501): which rings are set, the last doorbell accepted, the tail up to which
entries are fetched, the entries fetched and not completed, those of them not yet acted on, its result slots and the datagrams written since it was configured. -/
structure Wq where
  sqSet : Bool
  cqSet : Bool
  orSet : Bool
  doorbell : Nat
  tail : Nat
  entries : List Entry
  todo : List Entry
  slots : SMap Slot
  dseq : Nat
deriving DecidableEq, Repr

/-- A queue as reset leaves it. -/
def wqEmpty : Wq := ⟨false, false, false, 0, 0, [], [], [], 0⟩

/-- A completion record that waits for room in its ring (19 R510). -/
structure WaitRec where
  q : Nat
  bytes : List Byte
  irq : Option Nat
deriving DecidableEq, Repr

/-- A Temper set (19 R512, R513): its field writes, by key, in order. -/
abbrev TSet := List (Nat × Nat)

/-- A flit without ACK, NAK, CREDIT and CRC, which are formed when it is sent (15 R400). -/
structure Flit where
  ty : Nat
  stream : Nat
  seq : Nat
  beatsM1 : Nat
  sidePos : Nat
  sideV : Bool
  poison : Nat
  side : Nat
  payload : List Byte
deriving DecidableEq, Repr

/-- A Tinlink port beside its registers (15 R400 to R411): flits handed to the port and not yet sent, flits sent and not acknowledged, the sequence numbers, whether a NAK
is owed and whether one is out, the running CREDIT counts, how often each flit sent, from the oldest, has been resent, side messages queued with how many of the first have left in four-byte parts, the side message being received, and payloads held in the
receive buffer for want of room. -/
structure Port where
  txq : List Flit
  unacked : List Flit
  txSeq : Nat
  rxSeq : Nat
  nak : Bool
  nakOut : Bool
  freed : Nat
  seenCredit : Nat
  resends : List Nat
  sideQ : List (List Byte)
  sideTx : Nat
  sideRx : List Byte
  held : List Flit
  helloSent : Bool
  synced : Bool
deriving DecidableEq, Repr

/-- A port as reset leaves it. -/
def portEmpty : Port := ⟨[], [], 0, 0, false, false, 0, 0, [], [], 0, [], [], false, false⟩

/-- An ARRIVE held from a child port, with the CCLK edge at which it came (15 R410, R412; 02 R62). -/
structure Arrival where
  count : Nat
  digest : Nat
  epoch : Nat
  mixed : Bool
  skew : Bool
  isNew : Bool
  since : Nat
deriving DecidableEq, Repr

/-- Rootline, barrier and calibration state (02 R55 to R63, 15 R411 to R414): next frame number and SYNC SEQ at the
root, SYNC periods without a good frame, good SYNC frames in a row, whether the side path is in use, the pending
release (its epoch and time in ns), the last RELEASE epoch acted on, the time of the previous release (CCLK edges and
TCLK periods), whether the part has released since it joined its domain, the first and last arrival of the barrier,
ARRIVEs by port, ABORTs seen, whether a release waits for replay inputs (16 R439), and the calibration exchange (its number, the sums of doubled offsets and doubled delays, and t3 of the exchange under way). -/
structure Root where
  frameNo : Nat
  syncSeq : Nat
  missed : Nat
  goodRun : Nat
  relPend : Option (Nat × Nat)
  relSeen : Option Nat
  relQueue : List (List Byte)
  prevCc : Option Nat
  prevT : Nat
  joined : Bool
  firstArr : Option Nat
  lastArr : Nat
  arrivals : SMap (Option Arrival)
  aborts : List (Nat × Nat)
  calOn : Bool
  calN : Nat
  calOff : Int
  calDelay : Int
  calT3 : Nat
  ptpGood : SMap Nat
  starved : Bool
deriving DecidableEq, Repr

/-- Nothing in progress. -/
def rootEmpty : Root :=
  { frameNo := 0, syncSeq := 0, missed := 0, goodRun := 0, relPend := none, relSeen := none, relQueue := [],
    prevCc := none, prevT := 0, joined := false, firstArr := none, lastArr := 0, arrivals := [], aborts := [],
    calOn := false, calN := 0, calOff := 0, calDelay := 0, calT3 := 0, ptpGood := [], starved := false }

/-- A witness entry (16 R434) and, in RECORD, its bulk bytes until its digest is complete. -/
structure Witness where
  kind : Nat
  flags : Nat
  source : Nat
  seq : Nat
  epoch : Nat
  value : Nat
  bytes : Nat
  digest : List Byte
deriving DecidableEq, Repr

/-- Error counts of the running 1 s window by unit, the addresses a scrub pass will rewrite, the DRAM devices that refresh at 2× after DRAM_TEMP (03 R77), and Bellows' two means (17
R449, R450) are among what the part holds beside registers; so are the management bus mode, the TAP instruction,
PCIe link state, BAR4 size, the Vendor and Subsystem IDs of the boot image (21 R525), and the cycles in which GEOM.GEN last stepped and a job was last
faulted (01 R31, 06 R188: changes and faults of one cycle count once). -/
structure Part where
  clocks : Bool
  service : Bool
  pcieUp : Bool
  bar4Gib : Nat
  i3c : Bool
  dynAddr : Nat
  tap : Nat
  boundary : Nat
  pinsDriven : Bool
  ceCounts : SMap Nat
  ueCounts : SMap Nat
  scrub : List Nat
  hot2x : List Nat
  pllAt : Nat
  thermtrip : Bool
  vendorId : Nat
  subsysId : Nat
  genAt : Option Nat
  faultAt : Option Nat
deriving DecidableEq, Repr

/-- The part's own state as cold reset leaves it. -/
def partEmpty : Part :=
  { clocks := true, service := true, pcieUp := false, bar4Gib := 1, i3c := false, dynAddr := 0, tap := 0,
    boundary := 0, pinsDriven := false, ceCounts := [], ueCounts := [], scrub := [], hot2x := [], pllAt := 0, thermtrip := false, vendorId := 0, subsysId := 0,
    genAt := none, faultAt := none }

/-- What leaves the part's pins, newest first in the state's list. -/
inductive Out where
  | msix (vector : Nat)
  | pldm (cls : Nat)
  | bar4 (bytes : List Byte) (ep : Bool)
  | cfg (retry : Bool) (value : Nat)
  | rootline (frame : List Byte)
  | unit (ctx : Nat) (audio : Bool) (slot kind : Nat) (concealed : Bool)
  | samples (ctx : Nat) (audio : Bool) (slot : Nat) (runs : List (Nat × Nat))
  | holdReason (ctx : Nat) (audio : Bool) (slot reason : Nat)
  | hallmark (ctx : Nat) (audio : Bool) (slot : Nat) (digest : List Byte)
  | flit (port : Nat) (header : Nat) (payload : List Byte)
  | media (port : Nat) (frame : List Byte)
  | obs (frame : List Byte)
  | mgmt (status : Nat) (bytes : List Byte)
  | tap (value : Nat)
  | pin (name : String) (level : Bool)
deriving DecidableEq, Repr

/-- A work item in its context's staging area (19 R507): its entry, the copied bytes and their poison, and the epoch at which
its copies completed (none while they run), whether it is taken, and the input chain at the release that took it (16 R442). -/
structure Item where
  entry : Entry
  input : List Byte
  boxes : List Byte
  bad : Bool
  doneAt : Option Nat
  taken : Bool
  chain : List Byte
deriving DecidableEq, Repr

/-- A record of a drain hoop (14 R378): stream (video or audio), slot, PRE or ingot, its bytes, the time at which it was complete, and the hoop slots that it
occupies (0 where no hoop is set up for the drain), none while the hoop has no room for it. -/
structure DrainRec where
  video : Bool
  slot : Nat
  pre : Bool
  bytes : List Byte
  num : Nat
  isPic : Bool
  doneAt : Nat
  slots : Option Nat
deriving DecidableEq, Repr

/-- A drain (14 R374 to R378): complete records, cut TS packets queued for each stream with the time of their queueing, the next slot of each stream,
the next datagram, the continuity counters by PID class, why it sends holds (none, or a REASON), the slots sent as ingots, and the slot of each
stream whose access unit carries END. -/
structure Drain where
  recs : List DrainRec
  vq : List (Nat × List Byte)
  aq : List (Nat × List Byte)
  vSlot : Nat
  aSlot : Nat
  cycle : Nat
  dgram : Nat
  ccs : SMap Nat
  holding : Option Nat
  sent : List (Bool × Nat)
  vEnd : Option Nat
  aEnd : Option Nat
deriving DecidableEq, Repr

/-- A drain with nothing queued. -/
def drainEmpty : Drain := ⟨[], [], [], 0, 0, 0, 0, [], none, [], none, none⟩

/-- A reference of a context (14 R387): PIC_NUM, set, clean bound, whether it holds poisoned beats, whether it is confirmed
(R390), the slot, the buffer of the pool that holds it where the loader placed the pool, and whether SYNTH's tap is in that buffer (10 R285; log entry
105). -/
structure RefPic where
  num : Nat
  lt : Bool
  bound : Nat
  bad : Bool
  confirmed : Bool
  slot : Nat
  buf : Option Nat
  full : Bool
deriving DecidableEq, Repr

/-- A Graft set (10 R297): its number, the GRAFT body, whether its merge has completed, whether an encoder has sent its unit, and
whether a picture has named it. -/
structure GraftSet where
  num : Nat
  body : List Byte
  merged : Bool
  sent : Bool
  named : Bool
deriving DecidableEq, Repr

/-- A network of a model package (10 R271). -/
structure Net where
  image : Nat
  role : Nat
  group : Nat
  pass : Nat
  first : Nat
  count : Nat
deriving DecidableEq, Repr

/-- What the part keeps of a model package (10 R270, R271; 13 R350; 16 R440): fields of its header, among them the ranges of a latent and of a
hyper-latent; its tables, QMT then DMT, the bytes of the neutral reference, ZK and the stages as (ENTRIES, SH); its networks; the device address of
its CDF bank, its Hallmark and bank digest, the SYNTH layers that a Graft may name, as (index, K, N) (R294), and the program digests of its images (16 R440). -/
structure Pkg where
  audio : Bool
  modelId : Nat
  tableVer : Nat
  stride : Nat
  groups : Nat
  checker : Bool
  graftOk : Bool
  refs : Nat
  hyperDown : Nat
  hyperC : Nat
  groupC : List Nat
  bank : Nat
  mh : List Byte
  bankDigest : List Byte
  layers : List (Nat × Nat × Nat)
  latentC : Nat
  qs : Nat
  ds : Nat
  yRange : Int × Int
  zRange : Int × Int
  refC : Nat
  qtab : List Nat
  neutral : List Byte
  zk : List Byte
  stages : List (Nat × Nat)
  nets : List Net
  progs : List (List Byte) := []
deriving DecidableEq, Repr

/-- A picture or packet that an encoder is coding (14 R380 to R392): its slot, number and the context chain at the release at which
coding began; the pass; the pass-1 quantiser; the step records of the pass and step 0's; the row tallies of pass 1; whether an input was
poisoned; its units before the ingot; the references it names, its mark and clean bound; the Graft it names, and that set where it was PENDING; the stages of an
audio packet; and whether the stream begins with it. -/
structure EncPic where
  slot : Nat
  num : Nat
  chain : List Byte
  pass : Nat
  qp : Nat
  step0 : List Byte
  steps : List (List Byte)
  tally : List Nat
  p1Size : Nat
  bad : Bool
  pre : List Byte
  refs : List Nat
  lt : Bool
  cyc : Option Nat
  graft : Nat
  use : Option GraftSet
  ns : Nat
  first : Bool
deriving DecidableEq, Repr

/-- One coded stream as a decoder or encoder of a context holds it (10, 11, 13, 14): the package; the header and model last read,
whether they stand; how far a run of units toward a join point has come (MODEL after the header; the header alone or CURRENT's GRAFT; REFRESH), whether
ingots are decoded (a join point has been met), by a hold whose REFRESH no ingot has met yet; whether the reader discards bytes to the next
STREAM_HEADER, a header of another MAJOR; the last slot and lost slots to be output, counters, references, Graft sets, the refresh marker read, the picture coding
state (11 R308) and the stages of an audio packet, the audio predecessor and the packet whose latent PRIOR's input holds, what was last output; and the encoder's picture, rate state, access units of the buffer
model by slot and packets, and refresh cycle (due, and start with length); the weight set of the last picture decoded, none for the base (10 R297), and the
Hallmark that the last ingot decoded carried (13 R364). -/
structure Stream where
  pkg : Option Pkg
  header : Option (List Byte)
  model : Option (List Byte)
  modelOk : Bool
  join : Bool
  graftJoin : Bool
  refreshJoin : Bool
  joined : Bool
  holdJoin : Bool
  resync : Bool
  otherMajor : Bool
  lastSlot : Option Nat
  lostUnread : Nat
  picNum : Nat
  pktNum : Nat
  refs : List RefPic
  current : Option GraftSet
  pendingG : Option GraftSet
  refresh : Option (Nat × Nat)
  coding : Bool
  qpRow : List Nat
  skip : List Nat
  off : List Int
  ns : Option Nat
  prevAudio : Option Nat
  prior : Option Nat
  fresh : Bool
  shown : Bool
  concealed : Bool
  enc : Option EncPic
  qpLast : Option Nat
  aLast : Nat
  sizes : List (Nat × Nat)
  cycDue : Option Nat
  cycRun : Option (Nat × Nat)
  used : Option GraftSet
  mark : Option (List Byte)
deriving DecidableEq, Repr

/-- No stream, with package `p`. -/
def streamNew (p : Option Pkg) : Stream :=
  { pkg := p, header := none, model := none, modelOk := false, join := false, graftJoin := false, refreshJoin := false, joined := false, holdJoin := false, resync := false,
    otherMajor := false, lastSlot := none, lostUnread := 0, picNum := 0, pktNum := 0, refs := [], current := none,
    pendingG := none, refresh := none, coding := false, qpRow := [], skip := [], off := [], ns := none, prevAudio := none, prior := none, fresh := true,
    shown := false, concealed := false, enc := none, qpLast := none, aLast := 0, sizes := [], cycDue := none, cycRun := none, used := none, mark := none }

/-- No stream and no package. -/
def streamEmpty : Stream := streamNew none

/-- An ingress unit of a media flow (21 R529 to R531): whether one is open, whether it is being discarded whole, its RTP timestamp, the
timestamp of the flow's first packet, the next sequence number, and the samples received by sample number. -/
structure Ingress where
  isOpen : Bool
  drop : Bool
  ts : Nat
  t0 : Option Nat
  nextSeq : Option Nat
  got : SMap (Option Nat)
deriving DecidableEq, Repr

/-- No unit open and no packet seen. -/
def ingressEmpty : Ingress := ⟨false, false, 0, none, none, []⟩

/-- A stream context (19 R505, 16 R441): staged items, input chain, drain, ingress units, and its video and audio streams. -/
structure Ctx where
  items : List Item
  chain : List Byte
  drain : Drain
  video : Ingress
  audio : Ingress
  vs : Stream
  as_ : Stream
deriving DecidableEq, Repr

/-- A context as reset leaves it. -/
def ctxEmpty : Ctx := ⟨[], List.replicate 32 0, drainEmpty, ingressEmpty, ingressEmpty, streamEmpty, streamEmpty⟩

/-- One power sample or mean: the demand of class `x` that region `r` is charged with at `3 r + x`, and the unattributed
power, in watts (17 R449, R450). -/
structure PowerSample where
  d : List Nat
  u : Nat
deriving DecidableEq, Repr

/-- Bellows beside its registers: the last 32 samples, the sums and number of the samples of the running governor window, the last
DRAM temperatures, and the thermal states of the I/O dies (17 R450, R462, R464). -/
structure Bellows where
  fast : List PowerSample
  govSum : List Nat
  govU : Nat
  govN : Nat
  dram : SMap Nat
  io : SMap Nat
deriving DecidableEq, Repr

/-- No samples. -/
def bellowsEmpty : Bellows := ⟨[], List.replicate 24 0, 0, 0, [], []⟩

/-- What the sections of a save image hold beside memory extents and model identities (16 R445, R446), whose layout the spec does not give: where the
image lies and its relative epoch, the regions, HEAD and TAIL of the hoops, the contexts, the flags, NARROW_SAT, the job's
chain and the numbers of the witness entries. -/
structure Saved where
  addr : Nat
  rel : Nat
  regions : SMap Region
  hoops : List (Nat × Nat × Nat × Nat)
  ctxs : SMap Ctx
  flags : Nat
  sat : Nat
  chain : List Byte
  witSeq : SMap Nat
  starts : List (Nat × Nat)
deriving DecidableEq, Repr, Inhabited

/-- The whole machine. `raised` holds the W1C bits that hardware has set, by the cycle, the key and the bits (00 R11); `drainWit` holds the drains' choices since the last release (context, slot, hold), `saved` the save image last completed here and
`resume` what the first release of a resumed job restores (16 R444 to R447). The last three fields are the model's own: the commands that wait, what has left the part, and the
count of free values used (log entry 1). -/
structure State where
  cc : Nat
  trem : Nat
  regs : SMap Nat
  staging : SMap (Option Nat)
  written : List Nat
  raised : List (Nat × Nat × Nat)
  sets : SMap TSet
  checking : Option Nat
  hostSets : List Nat
  dev : Mem
  host : Mem
  msixTable : Mem
  job : Option Job
  regions : SMap Region
  burins : SMap Burin
  hwChip : HwRec
  hwRegions : SMap HwRec
  trace : Trace
  alarms : SMap AlarmX
  wqs : SMap Wq
  waitRecs : List WaitRec
  ports : SMap Port
  root : Root
  witness : List Witness
  witSeq : SMap Nat
  witLost : Nat
  drainWit : List (Nat × Nat × Bool)
  saved : Option Saved
  resume : Option Saved
  ctxs : SMap Ctx
  bellows : Bellows
  part : Part
  pending : List Instr
  out : List Out
  free : Nat
deriving DecidableEq, Repr

/-- Why the machine stops. No command of this block ends in a fault: every fault of the spec is taken as the
spec describes it, in a next state. -/
inductive Fault where
  /-- Nothing raises it: the spec gives every case a stated outcome (00 R5). Safe. -/
  | none
deriving DecidableEq, Repr

/-- Why a command has no meaning. -/
inductive Refusal where
  /-- Raised by an arm of `exec` whose command has no meaning yet. Safe. -/
  | notModelled (mnemonic : String)
  /-- Raised for a form that the host loader or an encoding rule refuses, so that it never reaches the part (00
  R18); the string names the rule. Safe. -/
  | loaderRefuses (rule : String)
deriving DecidableEq, Repr

/-- The state after cold reset: registers at their Reset values, memories with nothing listed, no job, no command
waiting (00 R12, 19 R491; log entries 2 and 3). -/
def State.reset : State :=
  { cc := 0, trem := 0, regs := [], staging := [], written := [], raised := [], sets := [], checking := none, hostSets := [],
    dev := memEmpty, host := memEmpty, msixTable := memEmpty, job := none, regions := [], burins := [],
    hwChip := hwEmpty, hwRegions := [], trace := ⟨[], 0, 0, [], 0, 0, 0⟩, alarms := [], wqs := [],
    waitRecs := [], ports := [], root := rootEmpty, witness := [], witSeq := [], witLost := 0, drainWit := [], saved := none, resume := none, ctxs := [],
    bellows := bellowsEmpty, part := partEmpty, pending := [], out := [], free := 0 }

end Sys2Proof.Machine
end

