-- ==== Sys2Proof/Config.lean ====
section
/-! DEFINITION. What an implementation fixes and the spec does not give, as constants without a value. -/

namespace Sys2Proof.Config

/-- The JEP106 code in bits [11:1] of IDCODE, which the spec does not give (21 R540; log entry 4). -/
opaque jep106 : BitVec 11

/-- The `n`-th free value a run uses: a value that the spec leaves open (log entry 1). -/
opaque freeValue : Nat → Nat

/-- What the sections of kinds 2 to 5 of a save image written by another part say: the spec does not give their layout (16 R446; log entry 22). -/
opaque sectionsOf : List Byte → Machine.Saved

/-- The straps PCIE_X8, ADDR1 and ADDR0 as the board ties them: open reads true, tied to VSS false (21 R526, R537, R547; log entry 97). -/
opaque pcieX8 : Bool
opaque addr1 : Bool
opaque addr0 : Bool

/-- The transmit lane of the observation port that takes the first frame, which the spec does not give (21 R541; log entry 97). -/
opaque obsFirstLane : Nat

end Sys2Proof.Config
end

