-- ==== Sys2Proof/Machine/Crc.lean ====
section
/-! DEFINITION. CRC-16 (02 R55), CRC-32 (15 R400) and SHA-256 (16 R440) over lists of bytes. -/

namespace Sys2Proof.Machine

/-- One byte into the CRC-16 of polynomial 0x1021, most significant bit first. -/
def crc16Step (c : Nat) (b : Nat) : Nat :=
  (List.range 8).foldl (fun c _ => if bit c 15 then (c * 2 % 0x10000) ^^^ 0x1021 else c * 2 % 0x10000)
    (c ^^^ (b * 256))

/-- CRC-16/CCITT-FALSE (R55). -/
def crc16 (l : List Byte) : Nat := l.foldl (fun c b => crc16Step c b.toNat) 0xFFFF

/-- One byte into the reflected CRC-32. -/
def crc32Step (c : Nat) (b : Nat) : Nat :=
  (List.range 8).foldl (fun c _ => if c % 2 = 1 then (c / 2) ^^^ 0xEDB88320 else c / 2) (c ^^^ b)

/-- CRC-32 of IEEE 802.3 (R400). -/
def crc32 (l : List Byte) : Nat := (l.foldl (fun c b => crc32Step c b.toNat) 0xFFFFFFFF) ^^^ 0xFFFFFFFF

/-- CRC-32 of MPEG-2 sections: polynomial 0x04C11DB7, initial all ones, not reflected (13 R370). -/
def crc32Mpeg (l : List Byte) : Nat :=
  l.foldl (fun c b => (List.range 8).foldl
    (fun c _ => if bit c 31 then (c * 2 % 2 ^ 32) ^^^ 0x04C11DB7 else c * 2 % 2 ^ 32) (c ^^^ (b.toNat * 2 ^ 24))) 0xFFFFFFFF

/-! SHA-256. A hash value is one number of 256 bits and a block one of 512, the first byte on top, so that words of 32 bits are cut from them by
place. -/

/-- Word `i` of a number, from the lowest. -/
def word32 (v i : Nat) : Nat := bits v (32 * i) 32

/-- The exclusive or of the right rotations of a word by `l`. -/
def rotXor (x : Nat) (l : List Nat) : Nat := l.foldl (fun a n => a ^^^ bits (x * (2 ^ 32 + 1)) n 32) 0

/-- The bits of a root found so far, `r`, with those below bit `b`: the largest whose `k`-th power is at most `n`. -/
def rootFrom (k n : Nat) : Nat → Nat → Nat
  | 0, r => r
  | b + 1, r => rootFrom k n b (if (r + 2 ^ b) ^ k ≤ n then r + 2 ^ b else r)

/-- The first 32 fraction bits of the `k`-th root of `p`. -/
def rootFrac (k p : Nat) : Nat := rootFrom k (p * 2 ^ (32 * k)) 37 0 % 2 ^ 32

/-- The first 64 primes. -/
def shaPrimes : List Nat :=
  [2, 3, 5, 7, 11, 13, 17, 19, 23, 29, 31, 37, 41, 43, 47, 53, 59, 61, 67, 71, 73, 79, 83, 89] ++
  [97, 101, 103, 107, 109, 113, 127, 131, 137, 139, 149, 151, 157, 163, 167, 173, 179, 181, 191, 193] ++
  [197, 199, 211, 223, 227, 229, 233, 239, 241, 251, 257, 263, 269, 271, 277, 281, 283, 293, 307, 311]

/-- The constants of the rounds: fractions of cube roots. -/
def shaConsts : List Nat := shaPrimes.map (rootFrac 3)

/-- The hash value before the first block: fractions of square roots. -/
def shaStart : Nat := (shaPrimes.take 8).foldl (fun v p => v * 2 ^ 32 + rootFrac 2 p) 0

/-- One round on the working value `x.1` with constant `k`; `x.2` holds the sixteen schedule words that come next, and takes one more. -/
def shaStep (x : Nat × Nat) (k : Nat) : Nat × Nat :=
  let v := word32 x.1
  let w := word32 x.2
  let pick := (v 3 &&& v 2) ^^^ ((2 ^ 32 - 1 - v 3) &&& v 1)
  let most := (v 7 &&& v 6) ^^^ (v 7 &&& v 5) ^^^ (v 6 &&& v 5)
  let t := v 0 + rotXor (v 3) [6, 11, 25] + pick + k + w 15
  let more := w 15 + w 6 + (rotXor (w 14) [7, 18] ^^^ w 14 / 8) + (rotXor (w 1) [17, 19] ^^^ w 1 / 1024)
  ((x.1 - v 4 * 2 ^ 128) / 2 ^ 32 + (v 4 + t) % 2 ^ 32 * 2 ^ 96 + (t + rotXor (v 7) [2, 13, 22] + most) % 2 ^ 32 * 2 ^ 224,
    x.2 % 2 ^ 480 * 2 ^ 32 + more % 2 ^ 32)

/-- The hash value after one block of 64 bytes: the words of the old and of the working value are added. -/
def shaChunk (h : Nat) (b : List Byte) : Nat :=
  let v := (shaConsts.foldl shaStep (h, ofBE b)).1
  (List.range 8).foldl (fun a i => a + (word32 h i + word32 v i) % 2 ^ 32 * 2 ^ (32 * i)) 0

/-- The message with a 1 bit, zeros to a whole block, and its length in bits. -/
def shaPadded (l : List Byte) : List Byte := l ++ toLE 1 0x80 ++ List.replicate ((119 - l.length % 64) % 64) 0 ++ toBE 8 (8 * l.length)

/-- Hash `n` blocks of `l`. -/
def shaRun : Nat → Nat → List Byte → Nat
  | 0, h, _ => h
  | n + 1, h, l => shaRun n (shaChunk h (l.take 64)) (l.drop 64)

/-- SHA-256, as 32 bytes. -/
def sha256 (l : List Byte) : List Byte := toBE 32 (shaRun (l.length / 64 + (l.length % 64 + 72) / 64) shaStart (shaPadded l))

end Sys2Proof.Machine
end

