-- ==== Sys2Proof/Machine/Ops.lean ====
section
/-! DEFINITION. Named operations over registers, memories, time, tally counters, ring trace, Heartwood records, alarms and
side messages. -/

namespace Sys2Proof.Machine

/-! Registers (00 R11 to R14). -/

/-- Value of the field with key `k`. -/
def rd (s : State) (k : Nat) : Nat := mget regReset s.regs k

/-- Set the field with key `k`. -/
def wr (s : State) (k v : Nat) : State := { s with regs := mput regReset s.regs k v }

/-- Set a field of one bit. -/
def wrb (s : State) (k : Nat) (b : Bool) : State := wr s k (b2n b)

/-- Add 1 to a field of `w` bits that wraps to 0. -/
def bump (s : State) (k w : Nat) : State := wr s k ((rd s k + 1) % 2 ^ w)

/-- Set bit `i` of the field with key `k`. -/
def setBit (s : State) (k i : Nat) : State := wr s k (rd s k ||| 2 ^ i)

/-- Hardware sets the bits `m` of the W1C field `k` in this cycle (00 R11). -/
def markRaised (s : State) (k m : Nat) : State := { s with raised := (s.cc, k, m) :: s.raised.filter (fun x => x.1 = s.cc) }

/-- Hardware sets the one bit of the W1C field `k`. -/
def raise (s : State) (k : Nat) : State := markRaised (wr s k 1) k 1

/-- The key of HW.STATE.FROZEN of position `n`, or of the chip's record (18 R479). -/
def frozenKey (n : Nat) : Nat := 64 * (if n < 8 then 0x2030000 + 0x400000 * n else 0xC100) + 16

/-- Hardware sets bit `i` of the W1C field `k`. -/
def raiseBit (s : State) (k i : Nat) : State := markRaised (setBit s k i) k (2 ^ i)

/-- The bits of the W1C field `k` that hardware has set in this cycle. -/
def raisedNow (s : State) (k : Nat) : Nat :=
  (s.raised.filter (fun x => x.1 = s.cc && x.2.1 = k)).foldl (fun m x => m ||| x.2.2) 0

/-- Clear bit `i` of the field with key `k`. -/
def clearBit (s : State) (k i : Nat) : State := if bit (rd s k) i then wr s k (rd s k - 2 ^ i) else s

/-- Bit `i` of the field with key `k`. -/
def rdBit (s : State) (k i : Nat) : Bool := bit (rd s k) i

/-- A staged field as software staged it, or its value in force (00 R11). -/
def stagedVal (s : State) (k : Nat) : Nat := (mget (fun _ => none) s.staging k).getD (rd s k)

/-! Indexed parts of the state. -/

/-- Region `r` (logical). -/
def getRegion (s : State) (r : Nat) : Region := mget (fun _ => regionEmpty) s.regions r

/-- Change region `r`. -/
def modRegion (s : State) (r : Nat) (f : Region → Region) : State :=
  { s with regions := mmod (fun _ => regionEmpty) s.regions r f }

/-- Burin `b`: 32 r + 2 f + b (09 R241). -/
def getBurin (s : State) (b : Nat) : Burin := mget (fun _ => burinEmpty) s.burins b

/-- Replace Burin `b`. -/
def putBurin (s : State) (b : Nat) (u : Burin) : State :=
  { s with burins := mput (fun _ => burinEmpty) s.burins b u }

/-- Context `c`. -/
def getCtx (s : State) (c : Nat) : Ctx := mget (fun _ => ctxEmpty) s.ctxs c

/-- Change context `c`. -/
def modCtx (s : State) (c : Nat) (f : Ctx → Ctx) : State :=
  { s with ctxs := mmod (fun _ => ctxEmpty) s.ctxs c f }

/-- Tinlink port `p`. -/
def getPort (s : State) (p : Nat) : Port := mget (fun _ => portEmpty) s.ports p

/-- Change port `p`. -/
def modPort (s : State) (p : Nat) (f : Port → Port) : State :=
  { s with ports := mmod (fun _ => portEmpty) s.ports p f }

/-- Work queue `q`. -/
def getWq (s : State) (q : Nat) : Wq := mget (fun _ => wqEmpty) s.wqs q

/-- Change queue `q`. -/
def modWq (s : State) (q : Nat) (f : Wq → Wq) : State :=
  { s with wqs := mmod (fun _ => wqEmpty) s.wqs q f }

/-- Change the Heartwood record of physical position `n` below 8, or the chip's. -/
def modHw (s : State) (n : Nat) (f : HwRec → HwRec) : State :=
  if n < 8 then { s with hwRegions := mmod (fun _ => hwEmpty) s.hwRegions n f }
  else { s with hwChip := f s.hwChip }

/-- The Heartwood record of physical position `n` below 8, or the chip's. -/
def getHw (s : State) (n : Nat) : HwRec :=
  if n < 8 then mget (fun _ => hwEmpty) s.hwRegions n else s.hwChip

/-- Send `o` out of the part. -/
def emit (s : State) (o : Out) : State := { s with out := o :: s.out }

/-- The next free value, below `2^w` (log entry 1). -/
def takeFree (s : State) (w : Nat) : Nat × State :=
  (Config.freeValue s.free % 2 ^ w, { s with free := s.free + 1 })

/-! Positions and logical regions (01 R29). -/

/-- Enabled physical positions, ascending. -/
def enabledPos (s : State) : List Nat := (List.range 8).filter (fun n => rdBit s Fk.geomRegionsRegionMask n)

/-- REGION_COUNT. -/
def regionCount (s : State) : Nat := rd s Fk.geomRegionsRegionCount

/-- Physical position of logical region `r`; 8 for none. -/
def posOf (s : State) (r : Nat) : Nat := (enabledPos s).getD r 8

/-- Logical region at physical position `n`, if enabled. -/
def logicalOf (s : State) (n : Nat) : Option Nat :=
  if rdBit s Fk.geomRegionsRegionMask n then some ((enabledPos s).filter (fun m => m < n)).length else none

/-- FORGE_EN of Forge `f` of logical region `r`. -/
def forgeEn (s : State) (r f : Nat) : Bool := rdBit s (Fk.geomForgeMaskForgeEn (posOf s r)) f

/-! Job state. -/

/-- JSTATE values (19 R493). -/
def jIdle : Nat := 0
def jLoaded : Nat := 1
def jRunning : Nat := 2
def jPaused : Nat := 3
def jEnded : Nat := 4

/-- The job is running. -/
def running (s : State) : Bool := s.job.isSome && rd s Fk.bootJobJstate = jRunning

/-- A program is loaded (loaded, running or paused). -/
def loaded (s : State) : Bool :=
  s.job.isSome && (rd s Fk.bootJobJstate = jLoaded || rd s Fk.bootJobJstate = jRunning || rd s Fk.bootJobJstate = jPaused)

/-- Change the job. -/
def modJob (s : State) (f : Job → Job) : State := { s with job := s.job.map f }

/-- Logical regions that the job uses: those its placement records name (02 R53). -/
def jobRegions (j : Job) : List Nat := (List.range 8).filter (fun r => j.places.any (fun p => p.region = r))

/-- Boot has reached READY (19 R494). -/
def booted (s : State) : Bool := rd s Fk.bootStateStage = 7

/-! Bytes in memory (00 R9, 03 R83, R84). -/

/-- The canonical form of a byte memory: bytes and poison marks listed by strictly rising address, none at its default. -/
def Memory.wf (m : Mem) : Bool := mwf (fun _ => 0) m.cells && mwf (fun _ => false) m.bad

/-- The byte at `a`. -/
def mByte (m : Mem) (a : Nat) : Byte := mget (fun _ => 0) m.cells a

/-- The 32-byte half that holds `a` is stored as poisoned. -/
def mBad (m : Mem) (a : Nat) : Bool := mget (fun _ => false) m.bad (a / 32)

/-- Bytes `a` to `a + n - 1`. -/
def mBytes (m : Mem) (a n : Nat) : List Byte := (List.range n).map (fun i => mByte m (a + i))

/-- Some half of bytes `a` to `a + n - 1` is stored as poisoned. -/
def mBadIn (m : Mem) (a n : Nat) : Bool := (List.range n).any (fun i => mBad m (a + i))

/-- Little-endian number of `n` bytes at `a` (00 R8). -/
def mLE (m : Mem) (a n : Nat) : Nat := ofLE (mBytes m a n)

/-- Store one byte. -/
def mSet (m : Mem) (a : Nat) (b : Byte) : Mem := { m with cells := mput (fun _ => 0) m.cells a b }

/-- Store bytes at `a`, `a + 1`, and so on, whatever the poison there. -/
def mPut (m : Mem) (a : Nat) (l : List Byte) : Mem := { m with cells := mputs (fun _ => 0) m.cells a l }

/-- Store half `h` as poisoned, with zero data (03 R84). -/
def mPoison (m : Mem) (h : Nat) : Mem :=
  { cells := mputs (fun _ => 0) m.cells (32 * h) (List.replicate 32 0)
    bad := mput (fun _ => false) m.bad h true }

/-- Store half `h` as clean, keeping its bytes. -/
def mClean (m : Mem) (h : Nat) : Mem := { m with bad := mput (fun _ => false) m.bad h false }

/-- The part of the bytes `l` at `a` that lies in half `h`, with its address. -/
def halfPart (a : Nat) (l : List Byte) (h : Nat) : Nat × List Byte :=
  let lo := max a (32 * h)
  let hi := min (a + l.length) (32 * h + 32)
  (lo, (l.drop (lo - a)).take (hi - lo))

/-- Store the part of `l` that lies in half `h` by R84: a whole half is stored clean; a part merges with the stored half,
which stays poisoned, the bytes not kept, when it is stored poisoned or the merge read is uncorrectable. -/
def mWriteHalf (ue : List Nat) (m : Mem) (a : Nat) (l : List Byte) (h : Nat) : Mem :=
  let p := halfPart a l h
  if p.2.length = 32 then mPut (mClean m h) p.1 p.2
  else if mBad m (32 * h) || ue.contains h then mPoison m h
  else mPut m p.1 p.2

/-- The halves that `n` bytes at `a` touch. -/
def halves (a n : Nat) : List Nat :=
  if n = 0 then [] else (List.range ((a + n - 1) / 32 + 1 - a / 32)).map (fun i => a / 32 + i)

/-- A clean write of the bytes `l` at `a` (R84). -/
def mWrite (ue : List Nat) (m : Mem) (a : Nat) (l : List Byte) : Mem :=
  (halves a l.length).foldl (fun m h => mWriteHalf ue m a l h) m

/-- A write of poisoned data: every half it touches is stored as poisoned (R84, 09 R267). -/
def mWriteBad (m : Mem) (a n : Nat) : Mem := (halves a n).foldl mPoison m

/-- A write of bytes that carry poison per half of the destination: `bad` says whether the data for half `h` is poisoned. -/
def mWriteMix (ue : List Nat) (m : Mem) (a : Nat) (l : List Byte) (bad : Nat → Bool) : Mem :=
  (halves a l.length).foldl (fun m h => if bad h then mPoison m h else mWriteHalf ue m a l h) m

/-! Device addresses (00 R16, R17; 03 R68, R69). -/

/-- Level of a device address. -/
def levelOf (a : Nat) : Nat := bits a 48 4

/-- PCIe address of an offset in the host window (R68). -/
def hostAddr (s : State) (a : Nat) : Nat := bits a 0 48 + rd s Fk.memHostHi * 2 ^ 48

/-- Why an access to the device address `a` faults, if it does: code 0x02 ADDR_LEVEL or 0x03 ADDR_RANGE (R17, R69).
DESIGN CHOICE (log entry 104): an address field with bits 63:52 nonzero and an unassigned level is ADDR_RANGE. -/
def addrFault (s : State) (a : Nat) : Option Nat :=
  let o := bits a 0 48
  if a ≥ 2 ^ 52 then some 0x03
  else match levelOf a with
  | 0 => if bits o 41 7 ≠ 0 then some 0x03 else none
  | 1 => if bits o 40 8 ≠ 0 ∨ bits o 0 36 ≥ 0x900000000 then some 0x03 else none
  | 2 => if bits o 30 18 ≠ 0 ∨ bits o 27 3 ≥ regionCount s then some 0x03 else none
  | 3 =>
    if bits o 30 18 ≠ 0 ∨ bits o 27 3 ≥ regionCount s then some 0x03
    else if forgeEn s (bits o 27 3) (bits o 23 4) then none else some 0x03
  | 4 =>
    if bits o 27 21 ≠ 0 ∨ bits o 24 3 ≥ regionCount s then some 0x03
    else if forgeEn s (bits o 24 3) (bits o 20 4) then none else some 0x03
  | 5 => none
  | _ => some 0x02

/-- The first byte of `n` at `a` whose access faults, with the code. Levels and regions change only at multiples of 64
bytes, so the ends of each 64-byte beat decide. -/
def spanFault (s : State) (a n : Nat) : Option (Nat × Nat) :=
  let pts := if n = 0 then [] else a :: (List.range ((a + n - 1) / 64 - a / 64)).map (fun i => (a / 64 + 1 + i) * 64)
  pts.findSome? (fun p => (addrFault s p).map (fun c => (c, p)))

/-- The byte at a device address and its poison, as a read that meets the uncorrectable halves `ue` delivers them (R84); the host window delivers
poison while the PCIe link is down (21 R527). -/
def devByte (s : State) (ue : List Nat) (a : Nat) : Byte × Bool :=
  if levelOf a = 5 then (if s.part.pcieUp then (mByte s.host (hostAddr s a), mBad s.host (hostAddr s a)) else (0, true))
  else if ue.contains (a / 32) || mBad s.dev a then (0, true)
  else (mByte s.dev a, false)

/-- `n` bytes from a device address. -/
def devBytes (s : State) (ue : List Nat) (a n : Nat) : List Byte := (List.range n).map (fun i => (devByte s ue (a + i)).1)

/-- Some half of `n` bytes from a device address is delivered poisoned. -/
def devBad (s : State) (ue : List Nat) (a n : Nat) : Bool := (List.range n).any (fun i => (devByte s ue (a + i)).2)

/-- Little-endian number of `n` bytes at a device address. -/
def devLE (s : State) (ue : List Nat) (a n : Nat) : Nat := ofLE (devBytes s ue a n)

/-- The part of a write of `l` at device address `a` that lies in half `h`, poisoned where `bad` says so (R84, 09 R267); posted writes are discarded
while the PCIe link is down (21 R527). -/
def devHalf (ue : List Nat) (a : Nat) (l : List Byte) (bad : Nat → Bool) (s : State) (h : Nat) : State :=
  if levelOf (32 * h) = 5 then
    let p := halfPart a l h
    let x := hostAddr s p.1
    if ¬ s.part.pcieUp then s
    else { s with host := if bad h then mPoison s.host (x / 32) else mWriteHalf [] s.host x p.2 (x / 32) }
  else { s with dev := if bad h then mPoison s.dev h else mWriteHalf ue s.dev a l h }

/-- A write of bytes at a device address, with poison by half of the destination. -/
def devWrite (s : State) (ue : List Nat) (a : Nat) (l : List Byte) (bad : Nat → Bool) : State :=
  (halves a l.length).foldl (devHalf ue a l bad) s

/-- A clean write. -/
def devPut (s : State) (a : Nat) (l : List Byte) : State := devWrite s [] a l (fun _ => false)

/-! Tally counters (18 R483, R484). -/

/-- Counter numbers of R483. -/
def tDiverge : Nat := 0
def tDivLateBeat : Nat := 1
def tDivHold : Nat := 2
def tDivStretchRelease : Nat := 3
def tDivLateRelease : Nat := 4
def tDivStretch : Nat := 5
def tDivOpp : Nat := 6
def tDivReplay : Nat := 7
def tNarrowSat : Nat := 8
def tAnvilSteps : Nat := 9
def tDrawSteps : Nat := 10
def tHearthBeats : Nat := 11
def tCellarBeats : Nat := 12
def tTinlinkFlits : Nat := 13
def tCeSram : Nat := 14
def tCeDram : Nat := 15
def tUeSram : Nat := 16
def tUeDram : Nat := 17
def tPoisonOut : Nat := 18
def tBar4Discard : Nat := 19
def tTraceLost : Nat := 20
def tAlarms : Nat := 21

/-- CCLK periods in a microsecond (02 R37). -/
def usCc : Nat := 1500

/-- Raise alarm class `k` (R486): PENDING and COUNT set, HELD clears, the vector and the PLDM event leave. -/
def alarmFire (s : State) (k : Nat) : State :=
  let x := mget (fun _ => (⟨0, none⟩ : AlarmX)) s.alarms k
  let s := wr (wr (raise s (Fk.alarmPending k)) (Fk.alarmCount k) (min (x.waiting) (2 ^ 32 - 1))) (Fk.alarmHeld k) 0
  let s := { s with alarms := mput (fun _ => (⟨0, none⟩ : AlarmX)) s.alarms k ⟨0, some s.cc⟩ }
  let s := if s.part.pcieUp then emit s (.msix (rd s (Fk.alarmVector k))) else s
  if rd s (Fk.alarmMgmt k) = 1 then emit s (.pldm k) else s

/-- A warm reset is under way: it lasts until boot ends. -/
def inWarmReset (s : State) : Bool := decide (rd s Fk.bootStateWarm = 1) && decide (rd s Fk.bootStateStage < 7)

/-- Class `k` may raise now: PENDING is 0, HOLDOFF_US has elapsed since its last raise, and no warm reset is under way. -/
def alarmReady (s : State) (k : Nat) : Bool :=
  rd s (Fk.alarmPending k) = 0 && !inWarmReset s &&
  match (mget (fun _ => (⟨0, none⟩ : AlarmX)) s.alarms k).last with
  | none => true
  | some t => decide (t + rd s (Fk.alarmHoldoffUs k) * usCc ≤ s.cc)

/-- The class raises alarms: enabled, or class 0 (R486). -/
def alarmOn (s : State) (k : Nat) : Bool := k = 0 || rd s (Fk.alarmEnable k) = 1

/-- One event of class `k` without the count of raised alarms. -/
def alarmRaw (s : State) (k : Nat) : State :=
  if alarmOn s k then
    let x := mget (fun _ => (⟨0, none⟩ : AlarmX)) s.alarms k
    let ready := alarmReady s k
    let s := { s with alarms := mput (fun _ => (⟨0, none⟩ : AlarmX)) s.alarms k { x with waiting := x.waiting + 1 } }
    if ready then alarmFire s k else wr s (Fk.alarmHeld k) 1
  else s

/-- Add `n` to counter `c`, holding at 2^48 - 1; answers whether SAT set. -/
def tallyRaw (s : State) (c n : Nat) : State × Bool :=
  let v := min (rd s (Fk.tallyCount c) + n) (2 ^ 48 - 1)
  let sat := v = 2 ^ 48 - 1 && rd s (Fk.tallySat c) = 0
  let s := wr s (Fk.tallyCount c) v
  (if sat then wr s (Fk.tallySat c) 1 else s, sat)

/-- One event of class `k` (R486), counted in ALARMS when it raises (R483). -/
def alarmEvent (s : State) (k : Nat) : State :=
  let fires := alarmOn s k && alarmReady s k
  let s := alarmRaw s k
  if fires then
    let p := tallyRaw s tAlarms 1
    if p.2 then alarmRaw p.1 14 else p.1
  else s

/-- Add `n` to counter `c`; SAT setting is an event of class TALLY_SAT (R484). -/
def tallyAdd (s : State) (c n : Nat) : State :=
  let p := tallyRaw s c n
  if p.2 then alarmEvent p.1 14 else p.1

/-- Count `n` divergences of counter `c` (1 to 7), which DIVERGE sums (16 R432). -/
def diverge (s : State) (c n : Nat) : State := if n = 0 then s else tallyAdd (tallyAdd s c n) tDiverge n

/-- A status bit that raises alarm class `k` when it sets (R485). -/
def statusAlarm (s : State) (key k : Nat) : State :=
  if rd s key = 1 then markRaised s key 1 else alarmEvent (raise s key) k

/-! Ring trace (18 R480 to R482). -/

/-- Exactly 16 bytes. -/
def data16 (l : List Byte) : List Byte := (l ++ List.replicate 16 0).take 16

/-- A gap record of a source (R480). -/
def gapEntry (s : State) (src : Nat) (x : TraceSrc) : TraceEntry :=
  { seq := 0, cls := 15, event := 0xFF, source := src, epoch := rd s Fk.epochCount % 2 ^ 32,
    cycle := rd s Fk.epochCycle % 2 ^ 32,
    data := data16 (toLE 4 x.gapNum ++ toLE 4 x.lost ++ toLE 4 x.lostCycle) }

/-- Trace source of a SOURCE code: the position, or 8 and 9 for the I/O dies; chip-wide events go through I/O-A. -/
def traceSrc (source : Nat) : Nat := if source % 16 < 10 then source % 16 else 8

/-- Queue one trace event of an enabled class; a full FIFO loses it (R481): a gap record in the FIFO
counts the loss, and without one a gap record goes first once the FIFO has room. -/
def trace (s : State) (cls event source : Nat) (data : List Byte) : State :=
  if rd s Fk.ringCfgEnable = 1 ∧ rdBit s Fk.ringCfgClassEn cls then
    let i := traceSrc source
    let x := mget (fun _ => srcEmpty) s.trace.srcs i
    let e : TraceEntry := { seq := 0, cls := cls, event := event, source := source, epoch := rd s Fk.epochCount % 2 ^ 32,
                            cycle := rd s Fk.epochCycle % 2 ^ 32, data := data16 data }
    let x := if x.lost > 0 ∧ x.fifo.length < 32 then
        { x with fifo := x.fifo ++ [gapEntry s i x], gapNum := x.gapNum + 1, lost := 0 } else x
    if x.fifo.length < 32 then
      { s with trace := { s.trace with srcs := mput (fun _ => srcEmpty) s.trace.srcs i { x with fifo := x.fifo ++ [e] } } }
    else
      let x := match (List.range x.fifo.length).reverse.find? (fun k => ((x.fifo[k]?).map (·.cls)).getD 0 = 15) with
        | some k => { x with fifo := x.fifo.modify k (fun g => { g with
            data := g.data.take 4 ++ toLE 4 (ofLE ((g.data.drop 4).take 4) + 1) ++ g.data.drop 8 }) }
        | none => { x with lost := x.lost + 1, lostCycle := if x.lost = 0 then e.cycle else x.lostCycle }
      tallyAdd { s with trace := { s.trace with srcs := mput (fun _ => srcEmpty) s.trace.srcs i x } } tTraceLost 1
  else s

/-- SOURCE of a Heartwood or trace entry (R475). -/
def source (die forge cell : Nat) : Nat := die + forge * 16 + cell * 512

/-- Chip-wide SOURCE. -/
def srcChip : Nat := source 15 31 127

/-- SOURCE of logical region `r`. -/
def srcRegion (s : State) (r : Nat) : Nat := source (posOf s r) 31 127

/-- SOURCE of the sequencer of logical region `r`, cell 103 of R47. -/
def srcSequencer (s : State) (r : Nat) : Nat := source (posOf s r) 31 103

/-- SOURCE of I/O die `d` (0 for I/O-A). -/
def srcIo (d : Nat) : Nat := source (8 + d) 31 127

/-! Heartwood records (18 R474 to R478). -/

/-- Entries of the record of position `n`, or of the chip. -/
def hwSize (n : Nat) : Nat := if n < 8 then 1024 else 4096

/-- Write-queue length (R477). -/
def hwCap (n : Nat) : Nat := if n < 8 then 128 else 64

/-- DROPPED plus `n`, saturating. -/
def hwDrop (r : HwRec) (n : Nat) : HwRec := { r with dropped := min (r.dropped + n) (2 ^ 32 - 1) }

/-- Index of the newest queued entry of ACTION below `a`. -/
def newestBelow (q : List HwQ) (a : Nat) : Option Nat :=
  ((List.range q.length).filter (fun i => match q[i]? with
    | some e => decide (e.entry.action < a)
    | none => false)).getLast?

/-- Place of an entry among those of its cycle (06 R188, R477): region, then Forge, then cell index, then CODE. -/
def hwPlace (e : HwEntry) : Nat :=
  e.source % 16 * 2 ^ 28 + e.source / 16 % 32 * 2 ^ 23 + e.source / 512 * 2 ^ 16 + e.code

/-- Queue an entry behind those of earlier cycles, in its place among those of its own (R477). -/
def hwInsert : List HwQ → HwQ → List HwQ
  | [], e => [e]
  | x :: q, e => if x.stamp = e.stamp ∧ hwPlace e.entry < hwPlace x.entry then e :: x :: q else x :: hwInsert q e

/-- Offer an entry to a record's write queue (R477, R478); the answer says whether one was dropped. -/
def hwOffer (cap : Nat) (r : HwRec) (e : HwQ) : HwRec × Bool :=
  if r.frozen then (hwDrop r 1, true)
  else if r.queue.length < cap then ({ r with queue := hwInsert r.queue e }, false)
  else if e.entry.action < 3 then (hwDrop r 1, true)
  else match newestBelow r.queue e.entry.action with
    | some i => (hwDrop { r with queue := hwInsert (r.queue.eraseIdx i) e } 1, true)
    | none => (hwDrop r 1, true)

/-- Offer an entry to the record of position `n`, or of the chip; a drop is an event of class HEARTWOOD (R485). -/
def hwPut (s : State) (n : Nat) (e : HwQ) : State :=
  let p := hwOffer (hwCap n) (getHw s n) e
  let s := modHw s n (fun _ => p.1)
  if p.2 then alarmEvent s 15 else s

/-- Exactly 20 bytes. -/
def detail20 (l : List Byte) : List Byte := (l ++ List.replicate 20 0).take 20

/-- A Heartwood entry for the present moment; `r` is the logical region whose SCYC and LAG it carries. -/
def hwEntry (s : State) (code level action src : Nat) (instr : Nat) (detail : List Byte) : HwEntry :=
  let n := src % 16
  let reg := decide (n < 8)
  { seq := 0, code := code, level := level, action := action, epoch := rd s Fk.epochCount,
    cycle := rd s Fk.epochCycle % 2 ^ 32,
    scyc := if reg then rd s (Fk.rschedScyc n) % 2 ^ 32 else 0,
    lag := if reg then rd s (Fk.rschedLag n) else 0,
    source := src, jobTag := rd s Fk.tlCtlJobTag, time := rd s Fk.epochTimeNs, instr := instr,
    detail := detail20 detail }

/-- The chip's copy of an isolate or fatal entry of a region: the first of that region in the cycle, in the order of R188, is the one copied (R474).
`first` marks the fault that FAULT.JOB names. -/
def hwCopy (s : State) (q : HwQ) : State :=
  let same := fun (x : HwQ) => decide (x.stamp = q.stamp) && decide (x.entry.source % 16 = q.entry.source % 16)
  match s.hwChip.queue.find? same with
  | none => hwPut s 8 q
  | some x =>
    let y : HwQ := { (if hwPlace q.entry < hwPlace x.entry then q else x) with first := q.first || x.first }
    modHw s 8 (fun r => { r with queue := hwInsert (r.queue.filter (fun x => !same x)) y })

/-- Record an event (R474): in the record of its region, or in the chip's; an entry of a region whose ACTION is 3 or more
is also copied to the chip's record. The ring trace takes a copy (R480). -/
def hwRecord (s : State) (first : Bool) (e : HwEntry) : State :=
  let n := e.source % 16
  let q : HwQ := ⟨s.cc, first, e⟩
  let s := if n < 8 then
      let s := hwPut s n { q with first := false }
      if e.action ≥ 3 then hwCopy s q else s
    else hwPut s 8 q
  trace s 9 0 e.source (toLE 2 e.code ++ toLE 1 e.action ++ toLE 4 e.instr)

/-- INSTR of an entry with no macro-instruction. -/
def noInstr : Nat := 0xFFFFFFFF

/-- Mark a record to freeze after the last entry of the present cycle (R478). -/
def hwFreeze (s : State) (n : Nat) : State :=
  modHw s n (fun r => if r.frozen then r else { r with freezeAt := some (r.freezeAt.getD s.cc) })

/-- Mark every record to freeze (R478: a part-scope fault). -/
def hwFreezeAll (s : State) : State := (List.range 9).foldl hwFreeze s

/-! Side messages (15 R410, R411). -/

/-- Place of a message type in the order of R411: ROOTLINE, ABORT, ARRIVE, CAL, HELLO. -/
def sidePrio (ty : Nat) : Nat :=
  match ty with
  | 1 => 0
  | 3 => 1
  | 2 => 2
  | 4 => 3
  | _ => 4

/-- Insert a message behind every message of its own or an earlier place. -/
def sideInsert (m : List Byte) : List (List Byte) → List (List Byte)
  | [] => [m]
  | x :: l =>
    if sidePrio (x.headD 0).toNat ≤ sidePrio (m.headD 0).toNat then x :: sideInsert m l else m :: x :: l

/-- A side message: its type, bytes 1 to 13, and the CRC-16 over them, most significant byte first (R410). -/
def sideMsg (ty : Nat) (body : List Byte) : List Byte :=
  let b := (body ++ List.replicate 13 0).take 13
  toLE 1 ty ++ b ++ toBE 2 (crc16 b)

/-- Queue a side message on port `p`, behind a message of which a part has left. -/
def sideSend (s : State) (p : Nat) (m : List Byte) : State :=
  modPort s p (fun x =>
    let k := if x.sideTx > 0 then 1 else 0
    { x with sideQ := x.sideQ.take k ++ sideInsert m (x.sideQ.drop k) })

/-- Child ports (R409). -/
def childPorts (s : State) : List Nat := (List.range 16).filter (fun p => rdBit s Fk.tlDomainChildren p)

/-- Roles of EPOCH.CFG.ROLE (02 R54). -/
def roleSolo : Nat := 0
def roleRoot : Nat := 1
def roleMember : Nat := 2

/-- The part's ROLE. -/
def role (s : State) : Nat := rd s Fk.epochCfgRole

/-- The part's TIME_PARENT port, at a MEMBER. -/
def parentPort (s : State) : Option Nat :=
  if role s = roleMember then some (rd s Fk.epochCfgTimeParent) else none

/-- Ports of the time tree: the TIME_PARENT and every child. -/
def treePorts (s : State) : List Nat := (parentPort s).toList ++ childPorts s

/-- Bytes 1 to 13 of an ABORT of this part with fault code `c`. -/
def abortBody (s : State) (c : Nat) : List Byte :=
  toLE 1 (c % 256) ++ toLE 2 (rd s Fk.tlCtlJobTag) ++ toLE 4 (rd s Fk.tlCtlPartId) ++
    toLE 4 (rd s Fk.epochCount % 2 ^ 32)

/-- Send ABORT along the time tree and remember it (R414). -/
def sendAbort (s : State) (c : Nat) : State :=
  let s := { s with root := { s.root with aborts := (rd s Fk.tlCtlPartId, rd s Fk.epochCount % 2 ^ 32) :: s.root.aborts } }
  (treePorts s).foldl (fun s p => sideSend s p (sideMsg 3 (abortBody s c))) s

/-! Traffic (03 R73, R77). -/

/-- Classes of the 20 slots of a share frame: 0 READ, 1 WRITE, 2 REMOTE (R73). -/
def shareLoop (cr cw cm : Int) : Nat → Int → Int → Int → List Nat
  | 0, _, _, _ => []
  | n + 1, r, w, m =>
    let r := r + cr
    let w := w + cw
    let m := m + cm
    if r ≥ w ∧ r ≥ m then 0 :: shareLoop cr cw cm n (r - 20) w m
    else if w ≥ m then 1 :: shareLoop cr cw cm n r (w - 20) m
    else 2 :: shareLoop cr cw cm n r w (m - 20)

/-- The classes of a level's frame with the shares in force. -/
def shareClasses (s : State) (hearth : Bool) : List Nat :=
  let g := fun (a b : Nat) => ((rd s (if hearth then a else b) / 5 : Nat) : Int)
  shareLoop (g Fk.memHearthShareReadPct Fk.memCellarShareReadPct) (g Fk.memHearthShareWritePct Fk.memCellarShareWritePct)
    (g Fk.memHearthShareRemotePct Fk.memCellarShareRemotePct) 20 0 0 0

/-- The device of a channel's slot table: stack, or 16 plus package; 99 for another table. -/
def tableDev (t : SlotTable) : Nat := if t.kind = 6 then t.inst / 16 else if t.kind = 7 then 16 + t.inst / 4 else 99

/-- The table grants a READ or WRITE slot of its channel. -/
def grantsTraffic (s : State) (t : SlotTable) : Bool :=
  let cl := shareClasses s (decide (t.kind = 6))
  (List.range t.codes.length).any (fun i => decide (t.codes.getD i 0 ≠ 0) && decide (cl.getD (i % 20) 2 < 2))

/-- The job has traffic on a device: some table set grants a READ or WRITE slot on a channel of it. -/
def jobTraffic (s : State) (j : Job) (dev : Nat) : Bool :=
  j.tsets.any (fun ts => ts.any (fun t => decide (tableDev t = dev) && grantsTraffic s t))

/-- The running job has traffic on the DRAM channel of unit `u`, or uses SRAM. -/
def unitTraffic (s : State) (u : Nat × Nat) : Bool :=
  running s && (decide (u.1 ≠ 4) || (match s.job with
    | some j => j.tsets.any (fun ts => ts.any (fun t =>
        decide ((t.kind = 6 ∧ t.inst = u.2) ∨ (t.kind = 7 ∧ 256 + t.inst = u.2)) && grantsTraffic s t))
    | none => false))

/-- The part's job, which has not ended, has traffic on a device. -/
def trafficOn (s : State) (dev : Nat) : Bool := loaded s && (match s.job with
  | some j => jobTraffic s j dev
  | none => false)

/-- The job has traffic on a device that DRAM_TEMP holds at 2× refresh: until the next Temper set is applied its accesses are not issued (R77; log entry
111). -/
def hotHeld (s : State) : Bool := s.part.hot2x.any (trafficOn s)

/-- DRAM device of a Cellar or Hearth address: Hearth stacks 0 to 15, then the packages (03 R68). -/
def deviceOf (a : Nat) : Nat := if levelOf a = 1 then bits a 36 4 else 16 + 16 * bits a 40 1 + bits a 13 4

/-- Some of the `n` bytes at `a` lie on a device that DRAM_TEMP holds: the part's own accesses there wait as well (R77). A package holds 8 KiB in a row. -/
def hotSpan (s : State) (a n : Nat) : Bool :=
  !s.part.hot2x.isEmpty && decide (0 < n) && (List.range (min 17 ((a + n - 1) / 8192 + 1 - a / 8192))).any (fun i => decide (levelOf (a + 8192 * i) ≤ 1) && s.part.hot2x.contains (deviceOf (a + 8192 * i)))

end Sys2Proof.Machine
end

