-- ==== Sys2Proof/Machine/Flags.lean ====
section
/-! DEFINITION. The sticky flags of jobs and contexts (04 R127, 19 R506). The floating-point flags of a Burin are computed with its
operations (Num.lean, BurinOps.lean). -/

namespace Sys2Proof.Machine

/-- Set flags `m` of the job, and of context `c` where there is one; each flag that sets is traced (18 R480). -/
def setStickies (s : State) (c : Option Nat) (m : Nat) : State :=
  let s := modJob s (fun j => { j with flags := j.flags ||| m })
  match c with
  | none => s
  | some c =>
    let old := rd s (Fk.ctxFlags c)
    let new := old ||| (m % 2 ^ 18)
    let s := markRaised (wr s (Fk.ctxFlags c) new) (Fk.ctxFlags c) (m % 2 ^ 18)
    (List.range 18).foldl (fun s i =>
      if bit new i && !bit old i then trace s 8 0 srcChip (toLE 1 c ++ toLE 1 i) else s) s

/-- Sticky flag numbers of R506 that codec units set. -/
def flLatentRange : Nat := 2 ^ 7
def flScaleRange : Nat := 2 ^ 8
def flDrawFormat : Nat := 2 ^ 9
def flDrawCheck : Nat := 2 ^ 10
def flEncPoison : Nat := 2 ^ 11
def flGraftRefused : Nat := 2 ^ 12
def flConcealed : Nat := 2 ^ 13
def flStreamSyntax : Nat := 2 ^ 14
def flStreamOrder : Nat := 2 ^ 15
def flStreamModel : Nat := 2 ^ 16
def flStreamVersion : Nat := 2 ^ 17
def flCodedAbsent : Nat := 2 ^ 18
def flCodedDamaged : Nat := 2 ^ 19
def flCodedCheck : Nat := 2 ^ 20
def flCodedFull : Nat := 2 ^ 21
def flCodedPoisoned : Nat := 2 ^ 22

end Sys2Proof.Machine
end

