-- ==== Sys2Proof/Machine/Queue.lean ====
section
/-! DEFINITION. Completion records, completion rings and result slots (19 R499, R508 to R511). -/

namespace Sys2Proof.Machine

/-- STATUS codes of R509. -/
def stDone : Nat := 0
def stNotReady : Nat := 1
def stFault : Nat := 2
def stRefused : Nat := 3
def stCancelled : Nat := 4

/-- The fields of a completion record that vary (R509). -/
structure RecFields where
  tag : Nat
  status : Nat
  poison : Bool
  code : Nat
  ctx : Nat
  slot : Nat
  flags : Nat
  bytes : Nat
  entry : Nat
  hallmark : Option (List Byte)
deriving DecidableEq, Repr

/-- Relative epoch of the job (16 R424): the releases since its first; 0 before it. -/
def relEpoch (s : State) : Nat :=
  match s.job with
  | some j => if j.first then 0 else wrapSub 64 (rd s Fk.epochCount) j.relBase
  | none => 0

/-- A completion record without its PHASE (R509). -/
def recordBytes (s : State) (q : Nat) (r : RecFields) : List Byte :=
  toLE 4 r.tag ++ toLE 1 r.status ++ toLE 1 (2 * b2n r.poison + 4 * b2n r.hallmark.isSome) ++ toLE 2 r.code ++
  toLE 2 r.ctx ++ toLE 2 r.slot ++ toLE 4 r.flags ++ toLE 4 r.bytes ++ toLE 4 (relEpoch s) ++ toLE 4 r.entry ++
  toLE 2 q ++ toLE 2 0 ++ ((r.hallmark.getD []) ++ List.replicate 32 0).take 32

/-- Entries of a ring from its LOG2 field (R499). -/
def ringSize (log2 : Nat) : Nat := 2 ^ (log2 + 6)

/-- Entries between two free-running 20-bit indices (R499). -/
def idxDiff (a b : Nat) : Nat := wrapSub 20 a b

/-- PHASE of the record at index `tail`: 1 on the first pass, alternating (R509). -/
def phaseOf (tail size : Nat) : Bool := (tail / size) % 2 = 0

/-- Set bit 3 of RFLAGS where `p` holds. -/
def withPhase (b : List Byte) (p : Bool) : List Byte :=
  if p then b.set 5 ((b.getD 5 0) ||| 8) else b

/-- Room in the completion ring of queue `q`. -/
def cqRoom (s : State) (q : Nat) : Bool :=
  decide (idxDiff (rd s (Fk.wqHeadsCqTail q)) (rd s (Fk.wqHostCqHead q)) < ringSize (rd s (Fk.wqCqCqLog2 q)))

/-- Write a record at CQ_TAIL, advance it, and raise the vector (R510). -/
def cqWrite (s : State) (q : Nat) (b : List Byte) (irq : Option Nat) : State :=
  let tail := rd s (Fk.wqHeadsCqTail q)
  let size := ringSize (rd s (Fk.wqCqCqLog2 q))
  let a := rd s (Fk.wqCqCqPage q) * 4096 + (tail % size) * 64
  let s := if s.part.pcieUp then { s with host := mWrite [] s.host a (withPhase b (phaseOf tail size)) } else s
  let s := wr s (Fk.wqHeadsCqTail q) ((tail + 1) % 2 ^ 20)
  match irq with
  | some v => if s.part.pcieUp then emit s (.msix v) else s
  | none => s

/-- Write a record of a queue whose completion ring is set, or leave it in the part-wide buffer when the ring is full or an earlier record of the queue waits (R510). -/
def cqPost (s : State) (q : Nat) (b : List Byte) (irq : Option Nat) : State :=
  if (getWq s q).cqSet = false then s
  else if cqRoom s q && !s.waitRecs.any (fun w => w.q = q) then cqWrite s q b irq
  else { s with waitRecs := s.waitRecs ++ [⟨q, b, irq⟩] }

/-- The vector an entry asks for: VECTOR of its queue with EFLAGS[0] (R502). -/
def entryIrq (s : State) (e : Entry) : Option Nat :=
  if bit e.eflags 0 then some (rd s (Fk.wqCfgVector e.q)) else none

/-- Remove an entry from those not completed. -/
def dropEntry (s : State) (e : Entry) : State :=
  modWq s e.q (fun w => { w with entries := w.entries.filter (fun x => x.idx ≠ e.idx), todo := w.todo.filter (fun x => x.idx ≠ e.idx) })

/-- A record's fields for an entry, with nothing to report. -/
def entryRec (e : Entry) (status code : Nat) : RecFields :=
  { tag := e.tag, status := status, poison := false, code := code, ctx := if e.op = 4 ∨ e.op = 5 then e.ctx else 0xFFFF
    slot := if e.op = 4 ∨ e.op = 6 then e.slot else 0xFFFF, flags := 0,
    bytes := 0, entry := e.idx, hallmark := none }

/-- Complete an entry with one record (R502). -/
def completeEntry (s : State) (e : Entry) (r : RecFields) : State :=
  cqPost (dropEntry s e) e.q (recordBytes s e.q r) (entryIrq s e)

/-- Complete an entry as DONE. -/
def completeDone (s : State) (e : Entry) : State := completeEntry s e (entryRec e stDone 0)

/-- Complete an entry as REFUSED with a code of R503. -/
def completeRefused (s : State) (e : Entry) (code : Nat) : State := completeEntry s e (entryRec e stRefused code)

/-- Result slot `i` of queue `q`. -/
def getSlot (s : State) (q i : Nat) : Slot := mget (fun _ => slotEmpty) (getWq s q).slots i

/-- Set result slot `i` of queue `q`. -/
def putSlot (s : State) (q i : Nat) (x : Slot) : State :=
  modWq s q (fun w => { w with slots := mput (fun _ => slotEmpty) w.slots i x })

/-- A slot that is not READY: its record reads NOT_READY and STALE, the rest from its last use (R508). -/
def slotLeave (x : Slot) (st : SlotSt) : Slot :=
  { st := st, record := (x.record.set 4 (BitVec.ofNat 8 stNotReady)).set 5 ((x.record.getD 5 0) ||| 1) }

/-- A PENDING slot returned to FREE (R511). -/
def slotCancel (x : Slot) : Slot := if x.st = .pending then slotLeave x .free else x

/-- Return every slot of queue `q` that is PENDING to FREE (R511). -/
def freePending (s : State) (q : Nat) : State :=
  modWq s q (fun w => { w with slots := mall (fun _ => slotEmpty) slotCancel w.slots })

/-- Device address of result slot `i` of queue `q` (R508). -/
def slotAddr (s : State) (q i : Nat) : Nat :=
  rd s (Fk.wqResRbase q) * 4096 + i * (rd s (Fk.wqResRsize4k q) * 4096)

end Sys2Proof.Machine
end

