-- ==== Sys2Proof/Machine/Faults.lean ====
section
/-! DEFINITION. Errors, isolation and faults: what each does to the records, registers, alarms, the job and its completion
records (18 R467 to R472, 19 R511; 09 R266). -/

namespace Sys2Proof.Machine

/-- A fault as R471 gives it. `act` is 4 for a job-scope fault and 5 for a part-scope one. -/
structure FaultRec where
  code : Nat
  level : Nat
  act : Nat
  src : Nat
  instr : Nat
  detail : List Byte
deriving DecidableEq, Repr

/-- Fault codes of R471. -/
def fcShapeOver : Nat := 0x01
def fcAddrLevel : Nat := 0x02
def fcAddrRange : Nat := 0x03
def fcAddrBounds : Nat := 0x04
def fcAccOverflow : Nat := 0x05
def fcSchedMiss : Nat := 0x06
def fcBurinIllegal : Nat := 0x07
def fcBurinAddr : Nat := 0x08
def fcBurinAlign : Nat := 0x09
def fcPoisonCtrl : Nat := 0x0A
def fcChainEntry : Nat := 0x0B
def fcEpochTimeout : Nat := 0x0C
def fcJobAbort : Nat := 0x0D
def fcTinlinkDown : Nat := 0x0E
def fcTinlinkStream : Nat := 0x0F
def fcWitnessMismatch : Nat := 0x10
def fcProfileMixed : Nat := 0x11
def fcDomainCount : Nat := 0x12
def fcDramTemp : Nat := 0x13
def fcMemPhy : Nat := 0x14
def fcForgeFault : Nat := 0x15
def fcRegionFault : Nat := 0x16
def fcHostLink : Nat := 0x17
def fcChipCtrl : Nat := 0x18
def fcPllLock : Nat := 0x19
def fcThermalTrip : Nat := 0x1A
def fcEpochSkew : Nat := 0x1B

/-- The contexts that the running job codes: those whose CFG.MODE is not off (19 R505). -/
def jobCtxs (s : State) : List Nat := (List.range 128).filter (fun c => rd s (Fk.ctxCfgMode c) ≠ 0)

/-- Drains that carry a stream (14 R398). -/
def liveDrains (s : State) : List Nat := (List.range 128).filter (fun c => rd s (Fk.drainCfgEnable c) = 1)

/-- Every enabled drain sends holds with REASON `r` from its next send time, and null packets in every other opportunity: nothing queued before goes out
(14 R397, 09 R266). -/
def holdDrains (s : State) (r : Nat) : State :=
  (liveDrains s).foldl (fun s c => modCtx s c (fun x => { x with drain := { x.drain with holding := some r, vq := [], aq := [] } })) s

/-- Every enabled drain stops without holds (17 R463, 19 R492). -/
def stopDrains (s : State) : State :=
  (liveDrains s).foldl (fun s c => modCtx s c (fun x => { x with drain := drainEmpty })) s

/-- Every region and Burin stops (18 R472). -/
def stopRegions (s : State) : State :=
  { s with regions := mall (fun _ => regionEmpty) (fun x => { x with run := .stopped, ballastW := 0, landing := [], handed := none }) s.regions
           burins := mall (fun _ => burinEmpty) (fun u => { u with running := false }) s.burins }

/-- The entries that belong to the job in a queue's list: RUN, STOP, ITEM and CLOSE (19 R502). -/
def jobEntry (e : Entry) : Bool := e.op = 2 || e.op = 3 || e.op = 4 || e.op = 5

/-- The fault record of queue `q` (R511): one for a queue with an entry of the job, and one for queue 0 in all cases; every other
entry of the job leaves without a record, and PENDING slots return to FREE. -/
def faultRecord (s : State) (code q : Nat) : State :=
  let es := (getWq s q).entries.filter jobEntry
  let s1 := freePending (modWq s q (fun w => { w with entries := w.entries.filter (fun e => !jobEntry e) })) q
  match es.head? with
  | some e => cqPost s1 q (recordBytes s q { entryRec e stFault code with
      ctx := if e.op = 4 ∨ e.op = 5 then e.ctx else 0xFFFF
      slot := if e.op = 4 then e.slot else 0xFFFF
      flags := (s.job.map (·.flags)).getD 0 }) (entryIrq s e)
  | none =>
    if q = 0 then cqPost s1 0 (recordBytes s 0
      { tag := 0, status := stFault, poison := false, code := code, ctx := 0xFFFF, slot := 0xFFFF,
        flags := (s.job.map (·.flags)).getD 0, bytes := 0, entry := rd s (Fk.wqHeadsSqHead 0), hallmark := none }) none
    else s1

/-- The fault records of every queue (R511). -/
def faultRecords (s : State) (code : Nat) : State := (List.range 64).foldl (fun s q => faultRecord s code q) s

/-- The staged items of every context leave. -/
def dropItems (s : State) : State := 
  { s with ctxs := mall (fun _ => ctxEmpty) (fun x => { x with items := [] }) s.ctxs }

/-- A set that awaits application sets PAUSE. -/
def pausePending (s : State) : Bool :=
  (List.range 16).any (fun n => rdBit s Fk.temperSetsPending n &&
    (mget (fun _ => []) s.sets n).any (fun x => decide (x.1 = Fk.auditSaveCtlPause) && decide (x.2 = 1)))

/-- End the job that faulted with `code` (R472, R511, 16 R448): its regions stop, ABORT leaves unless the fault is JOB_ABORT or
the clocks have stopped, the fault records are written, drains hold with REASON 2. -/
def endFaulted (s : State) (code : Nat) : State :=
  let wasPausing := match s.job with
    | some j => j.pausing || rd s Fk.auditSaveCtlPause = 1 || pausePending s
    | none => false
  let s := stopRegions s
  let s := if code = fcJobAbort ∨ ¬ s.part.clocks then s else sendAbort s code
  let s := faultRecords s code
  let s := dropItems s
  let s := if s.part.clocks then holdDrains s 2 else stopDrains s
  let s := if wasPausing then raise (wr s Fk.auditSaveCtlPause 0) Fk.auditStatusSaveFail else s
  let s := { s with part := { s.part with faultAt := some s.cc } }
  let s := modJob s (fun j => { j with faulted := true, posts := [], waiting := false, pausing := false, saving := false,
                                       stops := [], run := none })
  wr s Fk.bootJobJstate jEnded

/-- The entry of a fault, and the freeze of its region's record (R471, R478). -/
def faultEntry (s : State) (first : Bool) (f : FaultRec) : State :=
  let s := hwRecord s first (hwEntry s f.code f.level f.act f.src f.instr f.detail)
  if f.act = 4 ∧ f.code ≠ fcJobAbort ∧ f.src % 16 < 8 then hwFreeze s (f.src % 16) else s

/-- The job runs, or was faulted in this very cycle: every fault of one cycle is taken (06 R188). -/
def jobThisCycle (s : State) : Bool := running s || decide (s.part.faultAt = some s.cc)

/-- FAULT.JOB takes a fault's code; HW_SEQ follows when the entry is written. -/
def nameFault (s : State) (code : Nat) : State :=
  wr (wr (wr s Fk.faultJobJobCode code) Fk.faultJobJobTag (rd s Fk.tlCtlJobTag)) Fk.faultJobHwSeq 0

/-- A job ends by its first fault (R471, R472): its entry, the alarm, FAULT.JOB and the end. -/
def takeFault (s : State) (f : FaultRec) : State :=
  endFaulted (nameFault (alarmEvent (faultEntry s true f) 1) f.code) f.code

/-- TAKING A JOB-SCOPE FAULT (R471, R472): the first fault of a running job ends it; a later one writes only its entry. A job that a
part-scope fault ended in this cycle still takes the code of its own fault (R490). -/
def jobFault (s : State) (f : FaultRec) : State :=
  if running s then takeFault s f
  else if jobThisCycle s ∧ rd s Fk.faultJobJobCode = 0 then nameFault (alarmEvent (faultEntry s true f) 1) f.code
  else alarmEvent (faultEntry s false f) 1

/-- TAKING A FAULT OF EVERY JOB THAT USES A UNIT (18 R469, R470, R471; 03 R77; 21 R542): the part's job ends, be it loaded, running or paused (DEDUCED, log
entry 124). -/
def heldFault (s : State) (f : FaultRec) : State := if loaded s then takeFault s f else jobFault s f

/-- TAKING A PART-SCOPE FAULT (R471, R472): every record freezes, PART_CODE keeps the first, the part's job, loaded, running or paused, ends (log entry 124), and the part
dispatches nothing until warm reset. FAULT.JOB is for the job's own faults (R490). -/
def partFault (s : State) (f : FaultRec) : State :=
  let run := loaded s
  let s := faultEntry s false f
  let s := hwFreezeAll s
  let s := alarmEvent s 0
  let s := if rd s Fk.faultPartPartCode = 0 then wr s Fk.faultPartPartCode f.code else s
  let s := if run then endFaulted s f.code else s
  { s with part := { s.part with service := false } }

/-- The macro-instruction index that a fault of region `r` names. -/
def instrOf (s : State) (r : Nat) : Nat := (getRegion s r).pc

/-- A job-scope fault of the sequencer of region `r` at its present instruction. -/
def regionFault (s : State) (r code : Nat) (detail : List Byte) : State :=
  jobFault s ⟨code, 2, 4, srcSequencer s r, instrOf s r, detail⟩

/-- ACC_OVERFLOW of an instruction of region `r` that has no strikes: its entry names the region and no cell (log entry 99). -/
def overFault (s : State) (r : Nat) (detail : List Byte) : State :=
  jobFault s ⟨fcAccOverflow, 0, 4, srcRegion s r, instrOf s r, detail⟩

/-- An address fault of an access to `a` under descriptor `d` (255 for none) by region `r` (R471). -/
def addrFaultAt (s : State) (r code a d : Nat) : State := regionFault s r code (toLE 8 a ++ toLE 1 d)

/-! Isolation (R469). -/

/-- GEOM.GEN counts the cycles in which a FORGE_MASK field changes (01 R31). The isolations of BIST and SELFTEST, whose commands stand for stages, each
count. -/
def genStep (s : State) : State :=
  if s.part.genAt = some s.cc ∧ rd s Fk.bootStateStage ≠ 5 ∧ rd s Fk.bootStateStage ≠ 6 then s
  else bump { s with part := { s.part with genAt := some s.cc } } Fk.geomGen 32

/-- Isolate the Forges `mask` of physical position `n`, 0xFFFF for the region: ISOLATED sets, FORGE_EN clears, GEN counts the cycle, and an
ISOLATE entry, at the level that isolates (01 R25), and an alarm follow. Nothing happens where no Forge of the mask is enabled. -/
def isolate (s : State) (n mask : Nat) : State :=
  let old := rd s (Fk.geomForgeMaskForgeEn n)
  let new := old - (old &&& mask)
  if old = new then s
  else
    let s := wr s (Fk.geomForgeMaskForgeEn n) new
    let s := wr s (Fk.geomForgeMaskIsolated n) (rd s (Fk.geomForgeMaskIsolated n) ||| (old &&& mask))
    let s := genStep s
    let s := hwRecord s false (hwEntry s 0x0104 (if mask = 0xFFFF then 2 else 1) 3 (source n 31 127) noInstr
      (toLE 1 n ++ toLE 3 0 ++ toLE 2 old ++ toLE 2 new ++ toLE 4 (rd s Fk.geomGen)))
    alarmEvent s 2

/-- A placement record of the job names Forge `f` of logical region `r` (09 R245). -/
def jobNamesForge (s : State) (r f : Nat) : Bool :=
  match s.job with
  | some j => j.places.any (fun p => p.region = r && (List.range (p.fm * p.fn)).any (fun i => bits p.forges (4 * i) 4 = f))
  | none => false

/-- A placement record of the job names logical region `r`. -/
def jobNamesRegion (s : State) (r : Nat) : Bool :=
  match s.job with
  | some j => j.places.any (fun p => p.region = r)
  | none => false

/-- The part's job, which has not ended, uses Forge `f` of logical region `r`. -/
def jobUsesForge (s : State) (r f : Nat) : Bool := loaded s && jobNamesForge s r f

/-- The part's job, which has not ended, uses logical region `r`. -/
def jobUsesRegion (s : State) (r : Nat) : Bool := loaded s && jobNamesRegion s r

/-! Storage errors (03 R83 to R85, 18 R467, R468). -/

/-- The unit whose errors are counted for a device address, as a kind (0 operand store, 1 Burin local memory, 2 Bench, 3 Crucible, 4 DRAM channel, 5
Drawplate table store, 6 park store, 7 parameter store, 8 landing buffer, 9 Canopy) and an index; the part's positions are used for SRAM. An error in unit `n` behind
the store, as `Hit` numbers them, names address `a` as 2^53 × n + a. -/
def errUnit (s : State) (a : Nat) : Nat × Nat :=
  let o := bits a 0 48
  let n := a / 2 ^ 53
  if n = 553 then (9, 0)
  else if n ≥ 545 then (8, n - 545)
  else if n ≥ 33 then (7, n - 33)
  else if n ≥ 1 then (5, n - 1)
  else match levelOf a with
  | 0 => (4, 256 + 4 * (16 * bits o 40 1 + bits o 11 6 / 4) + bits o 11 6 % 4)
  | 1 => (4, 16 * bits o 36 4 + bits o 9 4)
  | 2 => (3, posOf s (bits o 27 3))
  | 3 => (2, 16 * posOf s (bits o 27 3) + bits o 23 4)
  | _ => (0, 64 * posOf s (bits o 24 3) + 4 * bits o 20 4 + bits o 18 2)

/-- Key of a unit in the error counts. -/
def errKey (u : Nat × Nat) : Nat := u.1 * 2 ^ 16 + u.2

/-- Physical position and Forge of an SRAM unit; Forge 31 for a region's unit. -/
def unitPlace (u : Nat × Nat) : Nat × Nat :=
  match u.1 with
  | 0 => (u.2 / 64, u.2 % 64 / 4)
  | 7 => (u.2 / 64, u.2 % 64 / 4)
  | 1 => (u.2 / 32, u.2 % 32 / 2)
  | 2 => (u.2 / 16, u.2 % 16)
  | 5 => (u.2 / 4, 31)
  | 6 => (u.2 / 32, 31)
  | _ => (u.2, 31)

/-- LEVEL of the entries of a unit: the level that R467 puts its errors at. -/
def unitLevel (u : Nat × Nat) : Nat :=
  match u.1 with
  | 0 => 0
  | 1 => 0
  | 2 => 1
  | 3 => 2
  | 4 => 3
  | 8 => 2
  | 9 => 3
  | _ => 0

/-- SOURCE of an error in a unit: chip-wide for the Canopy and Hearth, whose entries are the chip's, and the I/O die of a Cellar package (01 R19). -/
def unitSource (u : Nat × Nat) : Nat :=
  if u.1 = 9 then srcChip
  else if u.1 = 4 then (if u.2 < 256 then srcChip else srcIo ((u.2 - 256) / 64))
  else
    let p := unitPlace u
    source p.1 p.2 (if u.1 = 0 ∨ u.1 = 7 then u.2 % 64 else if u.1 = 1 then 64 + u.2 % 32 else if u.1 = 5 then 98 + u.2 % 4 else if u.1 = 6 then 98 + u.2 % 32 / 8 else 127)

/-- Index of the limit field, in the order of R468, and its value; the units of kinds 5 to 9 have no limit of corrected errors. -/
def ceLimit (s : State) (u : Nat × Nat) : Nat × Nat :=
  match u.1 with
  | 0 => (0, rd s Fk.faultThreshStoreCe)
  | 1 => (0, rd s Fk.faultThreshStoreCe)
  | 2 => (1, rd s Fk.faultThreshBenchCe)
  | 3 => (2, rd s Fk.faultThreshCrucibleCe)
  | 4 => (4, rd s Fk.faultThreshDramCe)
  | _ => (4, 0)

/-- Mark a unit's Forge or region as pending isolation (R468). -/
def markPending (s : State) (u : Nat × Nat) : State :=
  let p := unitPlace u
  if u.1 = 4 then s
  else if p.2 = 31 then wr s (Fk.faultPendRegion p.1) 1
  else setBit s (Fk.faultPendForges p.1) p.2

/-- A count that has just reached its limit (R468). -/
def limitReached (s : State) (u : Nat × Nat) (field count : Nat) : State :=
  let s := hwRecord s false (hwEntry s 0x0103 (unitLevel u) 0 (unitSource u) noInstr
    (toLE 1 field ++ toLE 3 0 ++ toLE 4 count))
  markPending (alarmEvent s 3) u

/-- DETAIL of a CE or UE (R476): the device address, or for Burin local memory, table stores and park stores (addresses from 2^52 on) the cell index and the number of
the 64-bit word; behind a store, the address of the half that was read from it; then the syndrome, whose code the spec does not give (log entry 1). -/
def errDetail (s : State) (u : Nat × Nat) (a : Nat) : List Byte × State :=
  let f := takeFree s 16
  ((if a < 2 ^ 52 ∨ 7 ≤ u.1 then toLE 8 (a % 2 ^ 53) else toLE 1 (if u.1 = 5 then 98 + u.2 % 4 else if u.1 = 6 then 98 + u.2 % 32 / 8 else 64 + u.2 % 32) ++ toLE 4 (a % 2 ^ 52 / 8)) ++ toLE 2 f.1, f.2)

/-- A corrected error of a unit at `a` (R467, R468): a CE entry, the tally counter, the window's count, and the address kept for a scrub
pass (03 R85). -/
def ceAt (s : State) (u : Nat × Nat) (a : Nat) : State :=
  let d := errDetail s u a
  let s := hwRecord d.2 false (hwEntry d.2 0x0101 (unitLevel u) 1 (unitSource u) noInstr d.1)
  let s := tallyAdd s (if u.1 = 4 then tCeDram else tCeSram) 1
  let n := mget (fun _ => 0) s.part.ceCounts (errKey u) + 1
  let s := { s with part := { s.part with ceCounts := mput (fun _ => 0) s.part.ceCounts (errKey u) n } }
  let s := if u.1 = 9 then s else wr { s with part := { s.part with scrub := s.part.scrub ++ [a] } } Fk.memStatusScrubPending 1
  let l := ceLimit s u
  if n = l.2 then limitReached s u l.1 n else s

/-- An uncorrectable error of a unit at `a` (R467, R468, R473, R485): the Canopy, which isolates nothing, raises MEM_UE, and counts among the part's SRAM (log entry
120). -/
def ueAt (s : State) (u : Nat × Nat) (a : Nat) : State :=
  let d := errDetail s u a
  let s := hwRecord d.2 false (hwEntry d.2 0x0102 (unitLevel u) 2 (unitSource u) noInstr d.1)
  let s := tallyAdd s (if u.1 = 4 then tUeDram else tUeSram) 1
  let s := alarmEvent s (if u.1 = 4 ∨ u.1 = 9 then 4 else 5)
  if u.1 = 4 ∨ u.1 = 9 then s
  else
    let n := mget (fun _ => 0) s.part.ueCounts (errKey u) + 1
    let s := { s with part := { s.part with ueCounts := mput (fun _ => 0) s.part.ueCounts (errKey u) n } }
    if n = rd s Fk.faultThreshUeLimit then limitReached s u 3 n else s

/-- The errors that the reads of a command met, by half of device memory (address divided by 32). -/
def memErrors (s : State) (ue ce : List Nat) : State :=
  let s := ue.foldl (fun s h => ueAt s (errUnit s (32 * h)) (32 * h)) s
  ce.foldl (fun s h => ceAt s (errUnit s (32 * h)) (32 * h)) s

/-- Position `n` has a unit that its job is pending on, and the isolations of a position that is pending (R469). -/
def isolatePending (s : State) (n : Nat) : State :=
  let mask := if rd s (Fk.faultPendRegion n) = 1 then 0xFFFF else rd s (Fk.faultPendForges n)
  if mask = 0 then s
  else wr (wr (isolate s n mask) (Fk.faultPendForges n) 0) (Fk.faultPendRegion n) 0

end Sys2Proof.Machine
end

