-- ==== Sys2Proof/Machine/Ingot.lean ====
section
/-! DEFINITION. Units of the Ingot stream, step records and Hallmarks (11 R314, R315; 13 R343 to R364; 16 R440 to R442). -/

namespace Sys2Proof.Machine

/-! Streams of a context. -/

/-- The video or audio stream of context `c`. -/
def getS (s : State) (c : Nat) (a : Bool) : Stream := if a then (getCtx s c).as_ else (getCtx s c).vs

/-- Change a stream of context `c`. -/
def modS (s : State) (c : Nat) (a : Bool) (f : Stream → Stream) : State :=
  modCtx s c (fun x => if a then { x with as_ := f x.as_ } else { x with vs := f x.vs })

/-- Mark the picture or packet in hand concealed: it counts once and sets the sticky flag (14 R391). -/
def conceal (s : State) (c : Nat) (a : Bool) : State :=
  if (getS s c a).concealed then s
  else alarmEvent (setStickies (bump (modS s c a (fun x => { x with concealed := true })) (Fk.drainStatConcealed c) 16) (some c) flConcealed) 10

/-! Units. -/

/-- Unit types (R345). -/
def utHeader : Nat := 0x01
def utModel : Nat := 0x02
def utGraft : Nat := 0x03
def utRefresh : Nat := 0x04
def utVideo : Nat := 0x10
def utAudio : Nat := 0x11
def utHold : Nat := 0x12
def utEnd : Nat := 0x20

/-- A unit: SYNC, TYPE, LEN and body (R344). -/
def unitBytes (ty : Nat) (body : List Byte) : List Byte := toLE 1 0xA7 ++ toLE 1 ty ++ toBE 4 body.length ++ body

/-- Big-endian number of `n` bytes of a body at `o`. -/
def be (l : List Byte) (o n : Nat) : Nat := ofBE ((l.drop o).take n)

/-- A HOLD unit (R361). -/
def holdUnit (slot reason : Nat) : List Byte := unitBytes utHold (toBE 2 (slot % 65536) ++ toLE 1 reason)

/-- The MODEL body of a package (R350). -/
def modelBody (p : Pkg) : List Byte :=
  toBE 4 p.modelId ++ toLE 1 2 ++ toLE 1 p.tableVer ++ toLE 2 0 ++ p.mh ++ p.bankDigest

/-- Picture width, height and rate of a header body (R349). -/
def hdrW (h : List Byte) : Nat := be h 8 2
def hdrH (h : List Byte) : Nat := be h 10 2
def hdrNum (h : List Byte) : Nat := be h 12 4
def hdrDen (h : List Byte) : Nat := be h 16 4

/-- Latent grid of a stream (10 R276). -/
def latW (p : Pkg) (h : List Byte) : Nat := ceilDiv (hdrW h) p.stride
def latH (p : Pkg) (h : List Byte) : Nat := ceilDiv (hdrH h) p.stride

/-- Steps of a picture or packet (10 R277, R358). -/
def stepCount (p : Pkg) : Nat := if p.audio then 1 else 1 + p.groups * (1 + b2n p.checker)

/-- Maximal runs of an offset map in raster order. -/
def offRuns : List Int → List (Nat × Int)
  | [] => []
  | v :: l => match offRuns l with
    | (n, w) :: t => if v = w then (n + 1, w) :: t else (1, v) :: (n, w) :: t
    | [] => [(1, v)]

/-- A run cut into runs of 65,535 followed by the rest (14 R395). -/
def cutRun (r : Nat × Int) : List (Nat × Int) :=
  List.replicate (r.1 / 65535) (65535, r.2) ++ (if r.1 % 65535 = 0 then [] else [(r.1 % 65535, r.2)])

/-- ROI_RUNS and the runs of an offset map; a map that is zero everywhere has none (R356). -/
def offBytes (l : List Int) : List Byte :=
  if l.all (· == 0) then toBE 4 0
  else
    let rs := (offRuns l).flatMap cutRun
    toBE 4 rs.length ++ rs.flatMap (fun r => toBE 2 r.1 ++ toLE 1 (code 8 r.2))

/-! Step records (11 R315). -/

/-- A step record of its substreams. -/
def stepRecord (symbols nsub ni : Nat) (poisoned : Bool) (subs : List (List Byte)) : List Byte :=
  let pad := fun (b : List Byte) => b ++ List.replicate (64 * ceilDiv b.length 64 - b.length) 0
  let data := subs.flatMap pad
  toLE 4 0x50455453 ++ toLE 4 symbols ++ toLE 1 nsub ++ toLE 1 ni ++ toLE 2 (b2n poisoned) ++ toLE 4 data.length ++
    (List.range 32).flatMap (fun b => toLE 4 ((subs.getD b []).length)) ++ List.replicate 48 0 ++ data

/-- Little-endian number of `n` bytes at `o`. -/
def le (l : List Byte) (o n : Nat) : Nat := ofLE ((l.drop o).take n)

/-- LEN of substream `b` of a step record. -/
def recLen (r : List Byte) (b : Nat) : Nat := le r (0x10 + 4 * b) 4

/-- Start of substream `b` within a record. -/
def recOff (r : List Byte) (b : Nat) : Nat := (List.range b).foldl (fun a j => a + 64 * ceilDiv (recLen r j) 64) 0xC0

/-- The substreams of a step record, without padding. -/
def recSubs (r : List Byte) : List (List Byte) :=
  (List.range (le r 8 1)).map (fun b => (r.drop (recOff r b)).take (recLen r b))

/-- STEP_INDEX and DATA of an ingot from its step records (R358, R359). -/
def stepsBytes (rs : List (List Byte)) : List Byte :=
  rs.flatMap (fun r => toLE 1 (le r 8 1) ++ toLE 1 (le r 9 1) ++ (List.range (le r 8 1)).flatMap (fun b => toBE 4 (recLen r b))) ++
    rs.flatMap (fun r => (recSubs r).flatMap id)

/-! Hallmarks (16 R440 to R442). -/

/-- SHA-256 of a binding block. -/
def hallmark (kind : Nat) (p m i d : List Byte) : List Byte :=
  sha256 (toLE 4 0x4D485646 ++ toLE 1 kind ++ toLE 3 0 ++ p ++ m ++ i ++ d)

/-- The model Hallmark of the set a picture uses: MH, or the merged Hallmark of Graft set `g`. -/
def setHallmark (p : Pkg) (g : Option GraftSet) : List Byte :=
  match g with
  | none => p.mh
  | some g => sha256 (p.mh ++ g.body)

/-- Bit c of HM_EN (16 R431). -/
def hmOn (s : State) (c : Nat) : Bool :=
  if c < 64 then rdBit s Fk.auditHmEn0HmEn c else rdBit s Fk.auditHmEn1HmEn (c - 64)

/-- Program digest of the job. -/
def jobDigest (s : State) : List Byte := (s.job.map (·.progDigest)).getD (List.replicate 32 0)

/-- Program digest of image `k` of a package: 0 ENCODE, 1 DECODE, 2 GRAFT_PREP. -/
def imgDigest (p : Option Pkg) (k : Nat) : List Byte := ((p.map (·.progs)).getD []).getD k (List.replicate 32 0)

/-- A coded unit with its Hallmark where enabled: `body` is everything but the HALLMARK field, LEN as written (kind 1), and `prog` the digest of the ENCODE
image. -/
def ingotUnit (prog : List Byte) (ty : Nat) (hm : Bool) (body chain mh : List Byte) : List Byte :=
  if hm then
    let u := toLE 1 0xA7 ++ toLE 1 ty ++ toBE 4 (body.length + 32) ++ body
    u ++ hallmark 1 prog mh chain (sha256 u)
  else unitBytes ty body

end Sys2Proof.Machine
end

