-- ==== Sys2Proof/Machine/Rans.lean ====
section
/-! DEFINITION. CDF banks and the rANS coder of the Drawplates (11 R303 to R305, R311 to R313, R324). -/

namespace Sys2Proof.Machine

/-- One CDF table of a family (R304): values of the alphabet, value of index 0, escape bits, CDF[0 .. alpha], and which of these values a
Drawplate reads poisoned (R323). -/
structure CdfTable where
  alpha : Nat
  low : Int
  esc : Nat
  cdf : List Nat
  bad : List Bool
deriving DecidableEq, Repr

/-- Little-endian number of `n` bytes at `off` of a bank. -/
def bankLE (b : List Byte) (off n : Nat) : Nat := ofLE ((b.drop off).take n)

/-- Bytes between tables of a family (R304). -/
def tableStride (alpha : Nat) : Nat := 64 * ceilDiv ((alpha + 1) * 2) 64

/-- Offset and table of family `fam` for scale index `k` (R304). -/
def cdfTable (b : List Byte) (fam k : Nat) : Nat × CdfTable :=
  let e := 0x40 + 128 * fam
  let alpha := bankLE b (e + 4) 2
  let off := bankLE b e 4 + bankLE b (e + 0x40 + k) 1 * tableStride alpha
  (off, { alpha := alpha, low := sext 16 (bankLE b (e + 6) 2), esc := bankLE b (e + 8) 1,
          cdf := (List.range (alpha + 1)).map (fun j => bankLE b (off + 2 * j) 2), bad := [] })

/-- Chunks of an escape payload: bits `b_h` of chunk `h` (R305). -/
def escChunks (esc : Nat) : List (Nat × Nat) := (List.range (ceilDiv esc 8)).map (fun h => (h, min 8 (esc - 8 * h)))

/-- Values that a table represents directly (R305). -/
def direct (t : CdfTable) (s : Int) : Bool :=
  decide (t.low ≤ s) && decide (s ≤ t.low + t.alpha - (if t.esc > 0 then 2 else 1))

/-- The value `s` can be coded (R305). -/
def codable (t : CdfTable) (s : Int) : Bool :=
  direct t s || (t.esc > 0 && decide (0 ≤ s + 2 ^ (t.esc - 1)) && decide (s + 2 ^ (t.esc - 1) < 2 ^ t.esc))

/-- Every value from `a` to `b` can be coded (R305): the direct range and the escape range together cover them. -/
def codableSpan (t : CdfTable) (a b : Int) : Bool :=
  let past := fun (x : Int) =>
    let y := if direct t x then t.low + t.alpha - (if t.esc > 0 then 1 else 0) else x
    if t.esc > 0 ∧ -(2 ^ (t.esc - 1)) ≤ y ∧ y < 2 ^ (t.esc - 1) then 2 ^ (t.esc - 1) else y
  decide (b < past (past a))

/-- A poisoned entry of the table is the one at index `j` (R323): its frequency is the difference of two values. -/
def symBad (t : CdfTable) (j : Nat) : Bool := t.bad.getD j false || t.bad.getD (j + 1) false

/-- The value `s` needs a poisoned entry. -/
def valueBad (t : CdfTable) (s : Int) : Bool := symBad t (if direct t s then (s - t.low).toNat else t.alpha - 1)

/-- The coder operations of one value, in decoding order: frequency and start (R305, R312). -/
def symOps (t : CdfTable) (s : Int) : List (Nat × Nat) :=
  let at_ := fun j => (t.cdf.getD (j + 1) 0 - t.cdf.getD j 0, t.cdf.getD j 0)
  if direct t s then [at_ (s - t.low).toNat]
  else
    let r := (s + 2 ^ (t.esc - 1)).toNat
    at_ (t.alpha - 1) :: (escChunks t.esc).map (fun p =>
      let f := 2 ^ (15 - p.2)
      (f, bits r (8 * p.1) p.2 * f))

/-- One encoding operation (R311): the new state and the word it emits, if it does. -/
def encOp (x f c : Nat) : Nat × Option Nat :=
  let go := fun y => y / f * 32768 + y % f + c
  if x ≥ 131072 * f then (go (x / 65536), some (x % 65536)) else (go x, none)

/-- Encode the operations of symbol `i` on its state, the last operation first. -/
def encSym (ni i : Nat) (ops : List (Nat × Nat)) (p : List Nat × List Nat) : List Nat × List Nat :=
  ops.foldr (fun op q =>
    let y := encOp (q.1.getD (i % ni) 0) op.1 op.2
    (q.1.set (i % ni) y.1, match y.2 with
      | some w => w :: q.2
      | none => q.2)) p

/-- Encode a substream whose symbols have the operations `l` on `ni` states (R312). -/
def encSub (ni : Nat) (l : List (List (Nat × Nat))) : List Byte :=
  if l.isEmpty then []
  else
    let p := ((List.range l.length).zip l).foldr (fun x q => encSym ni x.1 x.2 q) (List.replicate ni 65536, [])
    p.1.flatMap (toBE 4) ++ p.2.flatMap (toBE 2)

/-- A decoder: its states, whether bytes a state holds were poisoned, and the read position. -/
structure Dec where
  xs : List Nat
  bad : List Bool
  pos : Nat
deriving DecidableEq, Repr

/-- The big-endian number of `n` bytes at `pos`, bytes at or past `len` as 0, and whether a byte of it is poisoned. -/
def readBE (data : Nat → Byte × Bool) (len pos n : Nat) : Nat × Bool :=
  let l := (List.range n).map (fun i => if pos + i < len then data (pos + i) else (0, false))
  (ofBE (l.map (·.1)), l.any (·.2))

/-- One decoding operation on state `q` (R311). -/
def decOp (data : Nat → Byte × Bool) (len q f c : Nat) (d : Dec) : Dec :=
  let x := d.xs.getD q 0
  let y := f * (x / 32768) + x % 32768 - c
  if y < 65536 then
    let w := readBE data len d.pos 2
    { xs := d.xs.set q (y * 65536 + w.1), bad := d.bad.set q (d.bad.getD q false || w.2), pos := d.pos + 2 }
  else { d with xs := d.xs.set q y }

/-- Index whose interval holds `slot`. -/
def findIdx (cdf : List Nat) (slot : Nat) : Nat :=
  ((List.range (cdf.length - 1)).findSome? (fun j =>
    if cdf.getD j 0 ≤ slot ∧ slot < cdf.getD (j + 1) 0 then some j else none)).getD 0

/-- Decode one symbol with table `t` on state `q` (R313). -/
def decSym (data : Nat → Byte × Bool) (len q : Nat) (t : CdfTable) (d : Dec) : Int × Dec :=
  let j := findIdx t.cdf (d.xs.getD q 0 % 32768)
  let d := decOp data len q (t.cdf.getD (j + 1) 0 - t.cdf.getD j 0) (t.cdf.getD j 0) d
  if t.esc > 0 ∧ j = t.alpha - 1 then
    let p := (escChunks t.esc).foldl (fun (p : Nat × Dec) ch =>
      let f := 2 ^ (15 - ch.2)
      let v := p.2.xs.getD q 0 % 32768 / f
      (p.1 + v * 2 ^ (8 * ch.1), decOp data len q f (v * f) p.2)) (0, d)
    ((p.1 : Int) - 2 ^ (t.esc - 1), p.2)
  else (t.low + j, d)

/-- Decode symbols from index `i` on; a symbol without a table, or on a poisoned state, stops the substream: it and
every later symbol is `none` (R323). -/
def decLoop (data : Nat → Byte × Bool) (len ni : Nat) : Nat → List (Option CdfTable) → Dec → List (Option Int) × Option Dec
  | _, [], d => ([], some d)
  | i, t :: l, d =>
    let q := i % ni
    match t with
    | none => (List.replicate (l.length + 1) none, none)
    | some t =>
      if d.bad.getD q false || symBad t (findIdx t.cdf (d.xs.getD q 0 % 32768)) then (List.replicate (l.length + 1) none, none)
      else
        let p := decSym data len q t d
        if p.2.bad.getD q false then (List.replicate (l.length + 1) none, none)
        else
          let r := decLoop data len ni (i + 1) l p.2
          (some p.1 :: r.1, r.2)

/-- Decode a substream of `len` bytes with the tables `l` (R313): the symbols, and whether the end check of R324 fails; a stopped
substream has no end check. -/
def decSub (data : Nat → Byte × Bool) (len ni : Nat) (l : List (Option CdfTable)) : List (Option Int) × Bool :=
  if l.isEmpty then ([], decide (len ≠ 0))
  else
    let st := (List.range ni).map (fun q => readBE data len (4 * q) 4)
    let r := decLoop data len ni 0 l ⟨st.map (·.1), st.map (·.2), 4 * ni⟩
    (r.1, match r.2 with
      | none => false
      | some d => !(d.xs.all (· == 65536) && d.pos == len))

end Sys2Proof.Machine
end

