-- ==== Sys2Proof/Machine/Num.lean ====
section
/-! DEFINITION. Number formats (04 R97 to R101), the named roundings (R102), Assay requantisation (R105,
R107), Float group values and Bough trees (R116, R117), narrowing (05 R135, R148), strict IEEE
operations (04 R128 to R131) and the functions of FUNC (06 R173). Codes are natural numbers; a real
value is an exact fraction `num / den`. -/

namespace Sys2Proof.Machine

/-- The element formats, in the order of their codes (06 R156). -/
inductive Fmt where
  | int4 | int8 | int16 | int32 | int48 | fp4 | e4m3 | e5m2 | bf16 | fp16 | f32 | raw8
deriving DecidableEq, Repr

/-- Format of code `c`; codes 12 to 15 name none (R156). -/
def fmtOf : Nat → Option Fmt
  | 0 => some .int4 | 1 => some .int8 | 2 => some .int16 | 3 => some .int32 | 4 => some .int48
  | 5 => some .fp4 | 6 => some .e4m3 | 7 => some .e5m2 | 8 => some .bf16 | 9 => some .fp16
  | 10 => some .f32 | 11 => some .raw8
  | _ => none

/-- Bits one element takes in memory; an INT48 partial takes 64 (04 R105). -/
def fmtBits : Fmt → Nat
  | .int4 | .fp4 => 4
  | .int8 | .e4m3 | .e5m2 | .raw8 => 8
  | .int16 | .bf16 | .fp16 => 16
  | .int32 | .f32 => 32
  | .int48 => 64

/-- An integer format. -/
def fmtInt : Fmt → Bool
  | .int4 | .int8 | .int16 | .int32 | .int48 => true
  | _ => false

/-- A floating-point format. -/
def fmtFloat : Fmt → Bool
  | .fp4 | .e4m3 | .e5m2 | .bf16 | .fp16 | .f32 => true
  | _ => false

/-- Least value of an integer format (R97). -/
def fmtMin : Fmt → Int
  | .int48 => -(2 ^ 47)
  | f => -(2 ^ (fmtBits f - 1))

/-- Largest value of an integer format (R97). -/
def fmtMax : Fmt → Int
  | .int48 => 2 ^ 47 - 1
  | f => 2 ^ (fmtBits f - 1) - 1

/-- Mantissa bits of a floating-point format (R99). -/
def fmtMant : Fmt → Nat
  | .fp4 => 1 | .e4m3 => 3 | .e5m2 => 2 | .bf16 => 7 | .fp16 => 10 | _ => 23

/-- Exponent bias (R99). -/
def fmtBias : Fmt → Nat
  | .fp4 => 1 | .e4m3 => 7 | .e5m2 => 15 | .fp16 => 15 | _ => 127

/-- Magnitude code of the largest finite value (R99). -/
def fmtMaxMag : Fmt → Nat
  | .fp4 => 0x7 | .e4m3 => 0x7E | .e5m2 => 0x7B | .bf16 => 0x7F7F | .fp16 => 0x7BFF | _ => 0x7F7FFFFF

/-- Magnitude code of infinity, where the format has one (R99). -/
def fmtInf : Fmt → Option Nat
  | .e5m2 => some 0x7C | .bf16 => some 0x7F80 | .fp16 => some 0x7C00 | .f32 => some 0x7F800000
  | _ => none

/-- The canonical quiet NaN (R101); 0 for a format without NaN codes. -/
def fmtNaN : Fmt → Nat
  | .e4m3 => 0x7F | .e5m2 => 0x7E | .bf16 => 0x7FC0 | .fp16 => 0x7E00 | .f32 => 0x7FC00000
  | _ => 0

/-- Code of a sign and a magnitude. -/
def signed (f : Fmt) (neg : Bool) (mag : Nat) : Nat := mag + b2n neg * 2 ^ (fmtBits f - 1)

/-- Code of infinity of a sign, or of the largest finite value where the format has no infinity. -/
def infCode (f : Fmt) (neg : Bool) : Nat := signed f neg ((fmtInf f).getD (fmtMaxMag f))

/-- A decoded floating-point value; `fin neg n sh` is `± n / 2^sh`. -/
inductive FVal where
  | nan
  | inf (neg : Bool)
  | fin (neg : Bool) (n : Nat) (sh : Nat)
deriving DecidableEq, Repr

/-- Value of a code (R99, R100). -/
def fdec (f : Fmt) (c : Nat) : FVal :=
  let w := fmtBits f - 1
  let mag := c % 2 ^ w
  let neg := bit c w
  if fmtInf f = some mag then .inf neg
  else if fmtMaxMag f < mag then .nan
  else
    let e := mag / 2 ^ fmtMant f
    let m := mag % 2 ^ fmtMant f
    .fin neg (if e = 0 then m else (2 ^ fmtMant f + m) * 2 ^ (e - 1)) (fmtBias f - 1 + fmtMant f)

/-- Signed numerator of a finite value. -/
def fnum : FVal → Int
  | .fin neg n _ => if neg then -(n : Int) else n
  | _ => 0

/-- Power of two that divides a finite value's numerator. -/
def fsh : FVal → Nat
  | .fin _ _ sh => sh
  | _ => 0

/-- A NaN. -/
def fIsNaN : FVal → Bool
  | .nan => true
  | _ => false

/-- An infinity. -/
def fIsInf : FVal → Bool
  | .inf _ => true
  | _ => false

/-- A zero of either sign. -/
def fIsZero : FVal → Bool
  | .fin _ 0 _ => true
  | _ => false

/-- The sign. -/
def fNeg : FVal → Bool
  | .inf s => s
  | .fin s _ _ => s
  | .nan => false

/-- The state arithmetic carries: the FLUSH field of the mode word (R96), the sticky flags raised, numbered
as 19 R506, and the elements counted by TALLY.NARROW_SAT (05 R134). -/
structure ArithSt where
  flush : Bool
  flags : Nat
  sat   : Nat
deriving DecidableEq, Repr

/-- A computation that may raise flags and count saturations. -/
abbrev Arith (α : Type) := StateM ArithSt α

/-- Sticky flag numbers of R506 that arithmetic raises. -/
def flFlushed : Nat := 1
def flNanNarrowed : Nat := 2
def flInvalid : Nat := 4
def flDivZero : Nat := 8
def flOverflow : Nat := 16
def flUnderflow : Nat := 32
def flInexact : Nat := 64

/-- Raise flags. -/
def setFlags (m : Nat) : Arith Unit := fun s => ((), { s with flags := s.flags ||| m })

/-- Count one saturated element (05 R134). -/
def countSat : Arith Unit := fun s => ((), { s with sat := s.sat + 1 })

/-- The FLUSH field. -/
def flushMode : Arith Bool := fun s => (s.flush, s)

/-- Integer right shift, nearest, ties to even (R102). -/
def rneShift (x : Int) (s : Nat) : Int :=
  if s = 0 then x
  else
    let q := x / 2 ^ s
    let r := x - q * 2 ^ s
    let h := 2 ^ (s - 1)
    if r > h ∨ (r = h ∧ q % 2 = 1) then q + 1 else q

/-- Nearest integer to `num / den`, ties to even (R102); `den` positive. -/
def roundHalfEven (num : Int) (den : Nat) : Int :=
  let q := num / den
  let r2 := 2 * (num - q * den)
  if r2 > den ∨ (r2 = den ∧ q % 2 = 1) then q + 1 else q

/-- `floor (log2 (a / b))`, for positive `a` and `b`. -/
def floorLog2 (a b : Nat) : Int :=
  let k : Int := (Nat.log2 a : Int) - Nat.log2 b
  if a * 2 ^ (-k).toNat < b * 2 ^ k.toNat then k - 1 else k

/-- The magnitude code that `a / b` rounds to in format `f`, as an unbounded code in the format's numbering
(a code above the largest finite one is an overflow), by the rounding `rnd` of an integer quotient. -/
def roundMag (rnd : Int → Nat → Int) (f : Fmt) (a b : Nat) : Nat :=
  let e := max (floorLog2 a b) (1 - (fmtBias f : Int))
  let u := e - fmtMant f
  let q := (rnd ((a * 2 ^ (-u).toNat : Nat) : Int) (b * 2 ^ u.toNat)).toNat
  (e + fmtBias f - 1).toNat * 2 ^ fmtMant f + q

/-- Formats whose results FLUSH affects (R126). -/
def flushable : Fmt → Bool
  | .bf16 | .fp16 | .f32 => true
  | _ => false

/-- R102: the exact value `num / den` to format `f`, nearest, ties to even; `zs` is the sign of a zero. A
saturation counts once (05 R135). -/
def roundFmt (f : Fmt) (num : Int) (den : Nat) (zs sat : Bool) : Arith Nat := do
  if num = 0 then return signed f zs 0
  let neg := decide (num < 0)
  let mag := roundMag roundHalfEven f num.natAbs den
  if mag > fmtMaxMag f then
    if (fmtInf f).isSome && !sat then return infCode f neg
    if sat then countSat
    return signed f neg (fmtMaxMag f)
  if mag = 0 then return signed f neg 0
  if (← flushMode) && flushable f && mag < 2 ^ fmtMant f then
    setFlags flFlushed
    return signed f neg 0
  return signed f neg mag

/-- round_f32 (R102). -/
def roundF32 (num : Int) (den : Nat) (zs : Bool) : Arith Nat := roundFmt .f32 num den zs false

/-- Value of a code after the input flush of R126. -/
def fin (f : Fmt) (c : Nat) : Arith FVal := do
  let v := fdec f c
  let mag := c % 2 ^ (fmtBits f - 1)
  if (← flushMode) && flushable f && mag < 2 ^ fmtMant f && mag ≠ 0 then
    setFlags flFlushed
    return .fin (fNeg v) 0 (fsh v)
  return v

/-- round_int (R102): a binary32 code to the range `lo` to `hi`. -/
def roundInt (c : Nat) (lo hi : Int) : Arith Int := do
  let x ← fin .f32 c
  match x with
  | .nan => setFlags flNanNarrowed; return clamp 0 lo hi
  | .inf neg => if !neg then countSat; return hi else countSat; return lo
  | .fin .. =>
    let t := roundHalfEven (fnum x) (2 ^ fsh x)
    if t < lo ∨ hi < t then countSat
    return clamp t lo hi

/-- add_f32 (R117). -/
def addF32 (x y : Nat) : Arith Nat := do
  let a ← fin .f32 x
  let b ← fin .f32 y
  if fIsNaN a || fIsNaN b then return fmtNaN .f32
  if fIsInf a && fIsInf b && fNeg a ≠ fNeg b then return fmtNaN .f32
  if fIsInf a then return infCode .f32 (fNeg a)
  if fIsInf b then return infCode .f32 (fNeg b)
  let zs := fIsZero a && fIsZero b && fNeg a && fNeg b
  roundF32 (fnum a + fnum b) (2 ^ 149) zs

/-- Largest power of two below `n` (R117), for `n` at least 2. -/
def boughLeft (n : Nat) : Nat := 2 ^ Nat.log2 (n - 1)

/-- The Bough tree of R117 over the codes `l`, with the addition `add`; the first argument bounds the
depth and `l.length` always suffices. -/
def boughWith (add : Nat → Nat → Arith Nat) : Nat → List Nat → Arith Nat
  | _, [] => pure 0
  | _, [x] => pure x
  | 0, x :: _ => pure x
  | d + 1, l => do
    let n := boughLeft l.length
    let a ← boughWith add d (l.take n)
    let b ← boughWith add d (l.drop n)
    add a b

/-- bough (R117). -/
def bough (l : List Nat) : Arith Nat := boughWith addF32 l.length l

/-- An element of a Float-class product: its value, integer formats as `c - z`. -/
def elemVal (f : Fmt) (c : Nat) (z : Int) : Arith FVal :=
  if fmtInt f then
    let v := sext (fmtBits f) c - z
    return .fin (decide (v < 0)) v.natAbs 0
  else fin f c

/-- A group scale: a NaN or an infinite code counts as NaN (R116). -/
def scaleVal (c : Nat) : Arith FVal := do
  let v ← fin .bf16 c
  return if fIsInf v then .nan else v

/-- What group_value gathers from its elements (R116). -/
structure GroupAcc where
  nan : Bool
  pinf : Bool
  ninf : Bool
  sum : Int
  count : Nat
  negZero : Bool
deriving DecidableEq, Repr

/-- One element pair of a group; the sum is held in units of `2^-sh`. -/
def groupStep (sh : Nat) (g : GroupAcc) (x y : FVal) : GroupAcc :=
  let g := { g with count := g.count + 1 }
  if fIsNaN x || fIsNaN y then { g with nan := true }
  else if fIsInf x || fIsInf y then
    if fIsZero x || fIsZero y then { g with nan := true }
    else if fNeg x ≠ fNeg y then { g with ninf := true }
    else { g with pinf := true }
  else
    let p := fnum x * fnum y
    { g with sum := g.sum + p * 2 ^ (sh - fsh x - fsh y)
             negZero := g.negZero && (p = 0 && fNeg x ≠ fNeg y) }

/-- R116: the binary32 partial of one group over its element pairs, with scales `sa` and `sw`. -/
def groupValue (sa sw : FVal) (l : List (FVal × FVal)) : Arith Nat := do
  let sh := 266
  let g := l.foldl (fun g p => groupStep sh g p.1 p.2) ⟨false, false, false, 0, 0, true⟩
  if g.nan || fIsNaN sa || fIsNaN sw || (g.pinf && g.ninf) then return fmtNaN .f32
  let sc := fNeg sa != fNeg sw
  if g.pinf || g.ninf then
    if fIsZero sa || fIsZero sw then return fmtNaN .f32
    return infCode .f32 (g.ninf != sc)
  let zs := if g.sum ≠ 0 then decide (g.sum < 0) else decide (g.count > 0) && g.negZero
  roundF32 (g.sum * fnum sa * fnum sw) (2 ^ (sh + fsh sa + fsh sw)) (zs != sc)

/-- The scale 1.0. -/
def scaleOne : FVal := .fin false 1 0

/-- narrow (05 R135); `s` is the group's BF16 scale, `z` the zero point. -/
def narrow (x : Nat) (s : FVal) (f : Fmt) (z lo hi : Int) : Arith Nat := do
  let v ← fin .f32 x
  match v with
  | .nan =>
    if f = .e4m3 || f = .e5m2 then return fmtNaN f
    setFlags flNanNarrowed
    if fmtInt f then return code (fmtBits f) (clamp z lo hi)
    return 0
  | .inf neg =>
    if f = .e5m2 then return infCode f neg
    countSat
    if fmtInt f then return code (fmtBits f) (if neg then lo else hi)
    return signed f neg (fmtMaxMag f)
  | .fin neg n sh =>
    -- x / s = (± n / 2^sh) / (sn / 2^ssh)
    let sn := (fnum s).natAbs
    let num : Int := (if neg != fNeg s then -1 else 1) * ((n * 2 ^ fsh s : Nat) : Int)
    let den := sn * 2 ^ sh
    if den = 0 then return fmtNaN f
    if fmtInt f then
      let t := roundHalfEven num den + z
      if t < lo ∨ hi < t then countSat
      return code (fmtBits f) (clamp t lo hi)
    roundFmt f num den neg true

/-- A binary32 result to a wide format (R119): binary32 as it is, BF16 and FP16 by round_fmt. -/
def toWide (f : Fmt) (x : Nat) : Arith Nat := do
  if f = .f32 then return x
  let v ← fin .f32 x
  match v with
  | .nan => return fmtNaN f
  | .inf neg => return infCode f neg
  | .fin neg _ sh => roundFmt f (fnum v) (2 ^ sh) neg false

/-- out_round (06 R168): R119 for BF16, FP16 and binary32, round_int for INT32 and INT16 without a scale
(05 R133), narrow for the rest. -/
def outRound (f : Fmt) (s : FVal) (z lo hi : Int) (x : Nat) : Arith Nat :=
  match f with
  | .f32 | .bf16 | .fp16 => toWide f x
  | .int32 | .int16 => do return code (fmtBits f) (← roundInt x lo hi)
  | _ => narrow x s f z lo hi

/-- Smallest integer `e` with `2^e * maxfinite >= n / 2^sh`, for a format (05 R148). -/
def pow2Exp (f : Fmt) (n sh : Nat) : Int :=
  let mx := fnum (fdec f (fmtMaxMag f))
  let den := mx.natAbs * 2 ^ sh
  let num := n * 2 ^ fsh (fdec f (fmtMaxMag f))
  let e := floorLog2 num den
  if num * 2 ^ (-e).toNat = den * 2 ^ e.toNat then e else e + 1

/-- pow2_scale (05 R148): the BF16 scale code of a group of binary32 codes. -/
def pow2Scale (l : List Nat) (f : Fmt) : Nat :=
  let vs := l.map (fdec .f32)
  if vs.any fIsInf then signed .bf16 false ((127 + 127) * 128)
  else
    let amax := vs.foldl (fun a v => max a (fnum v).natAbs) 0
    if amax = 0 then 0x3F80
    else
      let e := clamp (pow2Exp f amax 149) (-126) 127
      (e + 127).toNat * 128

/-! Strict IEEE operations. -/

/-- Rounding of an integer quotient in direction `dir` (R130): 0 ties to even, 1 toward zero, 2 toward
positive, 3 toward negative, for a magnitude whose sign is `neg`. -/
def dirRound (dir : Nat) (neg : Bool) (num : Int) (den : Nat) : Int :=
  let up := if num % den = 0 then num / den else num / den + 1
  match dir with
  | 0 => roundHalfEven num den
  | 1 => num / den
  | 2 => if neg then num / den else up
  | _ => if neg then up else num / den

/-- The exact value `num / den` rounded as IEEE 754 does in direction `dir`; `sticky` says that the exact
value lies strictly between this fraction and the next representable refinement (used for roots). Raises
OVERFLOW, UNDERFLOW (tininess after rounding) and INEXACT. -/
def ieeeRound (f : Fmt) (dir : Nat) (num : Int) (den : Nat) (zs : Bool) : Arith Nat := do
  if num = 0 then return signed f zs 0
  let neg := decide (num < 0)
  let a := num.natAbs
  let mag := roundMag (dirRound dir neg) f a den
  if mag > fmtMaxMag f then
    setFlags (flOverflow ||| flInexact)
    let toInf := match dir with
      | 0 => true
      | 1 => false
      | 2 => !neg
      | _ => neg
    return if toInf then infCode f neg else signed f neg (fmtMaxMag f)
  let v := fdec f mag
  let exact := a * 2 ^ fsh v = (fnum v).natAbs * den
  if !exact then
    let e := floorLog2 a den
    let u := e - fmtMant f
    let q := (dirRound dir neg ((a * 2 ^ (-u).toNat : Nat) : Int) (den * 2 ^ u.toNat)).toNat
    let e' := if q = 2 ^ (fmtMant f + 1) then e + 1 else e
    if e' < 1 - (fmtBias f : Int) then setFlags (flUnderflow ||| flInexact) else setFlags flInexact
  return signed f neg mag

/-- A signalling NaN: a NaN whose top mantissa bit is clear. -/
def isSNaN (f : Fmt) (c : Nat) : Bool := fIsNaN (fdec f c) && !bit c (fmtMant f - 1)

/-- Raise INVALID for each signalling input (R130). -/
def sigCheck (f : Fmt) (l : List Nat) : Arith Unit :=
  if l.any (isSNaN f) then setFlags flInvalid else pure ()

/-- Sign of an exact zero sum (R130). -/
def zeroSumSign (dir : Nat) (a b : FVal) : Bool := if fNeg a = fNeg b then fNeg a else dir = 3

/-- An invalid operation: raise INVALID and answer the canonical NaN. -/
def invalidOp (f : Fmt) : Arith Nat := do
  setFlags flInvalid
  return fmtNaN f

/-- IEEE addition (R129). -/
def ieeeAdd (f : Fmt) (dir : Nat) (x y : Nat) : Arith Nat := do
  sigCheck f [x, y]
  let a := fdec f x
  let b := fdec f y
  if fIsNaN a || fIsNaN b then return fmtNaN f
  if fIsInf a && fIsInf b && fNeg a ≠ fNeg b then invalidOp f
  else if fIsInf a then return infCode f (fNeg a)
  else if fIsInf b then return infCode f (fNeg b)
  else ieeeRound f dir (fnum a + fnum b) (2 ^ fsh a) (zeroSumSign dir a b)

/-- The code with its sign bit inverted. -/
def negCode (f : Fmt) (x : Nat) : Nat :=
  let w := fmtBits f - 1
  if bit x w then x - 2 ^ w else x + 2 ^ w

/-- IEEE subtraction. -/
def ieeeSub (f : Fmt) (dir : Nat) (x y : Nat) : Arith Nat := do
  sigCheck f [y]
  ieeeAdd f dir x (negCode f y)

/-- IEEE multiplication. -/
def ieeeMul (f : Fmt) (dir : Nat) (x y : Nat) : Arith Nat := do
  sigCheck f [x, y]
  let a := fdec f x
  let b := fdec f y
  let sg := fNeg a != fNeg b
  if fIsNaN a || fIsNaN b then return fmtNaN f
  if (fIsInf a && fIsZero b) || (fIsZero a && fIsInf b) then invalidOp f
  else if fIsInf a || fIsInf b then return infCode f sg
  else ieeeRound f dir (fnum a * fnum b) (2 ^ (fsh a + fsh b)) sg

/-- IEEE division. -/
def ieeeDiv (f : Fmt) (dir : Nat) (x y : Nat) : Arith Nat := do
  sigCheck f [x, y]
  let a := fdec f x
  let b := fdec f y
  let sg := fNeg a != fNeg b
  if fIsNaN a || fIsNaN b then return fmtNaN f
  if (fIsInf a && fIsInf b) || (fIsZero a && fIsZero b) then invalidOp f
  else if fIsInf a then return infCode f sg
  else if fIsInf b then return signed f sg 0
  else if fIsZero b then
    setFlags flDivZero
    return infCode f sg
  else
    let n := (fnum a).natAbs
    let d := (fnum b).natAbs
    ieeeRound f dir (if sg then -(n : Int) else n) d sg

/-- Integer square root by bits, from bit `b - 1` down. -/
def isqrtFrom (n : Nat) : Nat → Nat → Nat
  | 0, r => r
  | b + 1, r => isqrtFrom n b (if (r + 2 ^ b) * (r + 2 ^ b) ≤ n then r + 2 ^ b else r)

/-- Largest `r` with `r * r ≤ n`. -/
def isqrt (n : Nat) : Nat := isqrtFrom n (Nat.log2 n / 2 + 1) 0

/-- A fraction with denominator `2^k` whose every rounding to a format equals that of the square root of
`a / b`: the root to 600 fraction bits with a sticky bit. -/
def sqrtFrac (a b : Nat) : Nat × Nat :=
  let n := a * 2 ^ 1200
  let r := isqrt (n / b)
  (2 * r + (if r * r * b = n then 0 else 1), 2 ^ 601)

/-- IEEE square root. -/
def ieeeSqrt (f : Fmt) (dir : Nat) (x : Nat) : Arith Nat := do
  sigCheck f [x]
  let a := fdec f x
  if fIsNaN a then return fmtNaN f
  if fIsZero a then return x
  if fNeg a then invalidOp f
  else if fIsInf a then return infCode f false
  else
    let q := sqrtFrac (fnum a).natAbs (2 ^ fsh a)
    ieeeRound f dir q.1 q.2 false

/-- IEEE fusedMultiplyAdd `x * y + z` (04 R130). DESIGN CHOICE (log entry 104): the product of 0 and an infinity raises INVALID also where the addend is a
quiet NaN. -/
def ieeeFma (f : Fmt) (dir : Nat) (x y z : Nat) : Arith Nat := do
  sigCheck f [x, y, z]
  let a := fdec f x
  let b := fdec f y
  let c := fdec f z
  let sg := fNeg a != fNeg b
  if (fIsInf a && fIsZero b) || (fIsZero a && fIsInf b) then invalidOp f
  else if fIsNaN a || fIsNaN b || fIsNaN c then return fmtNaN f
  else if fIsInf a || fIsInf b then
    if fIsInf c && fNeg c ≠ sg then invalidOp f else return infCode f sg
  else if fIsInf c then return infCode f (fNeg c)
  else
    let p : FVal := .fin sg (fnum a * fnum b).natAbs (fsh a + fsh b)
    ieeeRound f dir (fnum p + fnum c * 2 ^ (fsh p - fsh c)) (2 ^ fsh p) (zeroSumSign dir p c)

/-- Order of two values that are not NaN, as integers of one unit; infinities lie beyond. -/
def fcmpKey (v : FVal) : Int :=
  match v with
  | .inf neg => if neg then -(2 ^ 1000) else 2 ^ 1000
  | .fin .. => fnum v * 2 ^ (200 - fsh v)
  | .nan => 0

/-- IEEE less-than; unordered is false. -/
def ieeeLt (f : Fmt) (x y : Nat) : Bool :=
  let a := fdec f x
  let b := fdec f y
  !fIsNaN a && !fIsNaN b && decide (fcmpKey a < fcmpKey b)

/-- IEEE equality; unordered is false and the zeros are equal. -/
def ieeeEq (f : Fmt) (x y : Nat) : Bool :=
  let a := fdec f x
  let b := fdec f y
  !fIsNaN a && !fIsNaN b && decide (fcmpKey a = fcmpKey b)

/-- IEEE minimum (`max = false`) or maximum: a NaN input gives the canonical NaN, and −0 is below +0. -/
def ieeeMinMax (f : Fmt) (max : Bool) (x y : Nat) : Arith Nat := do
  sigCheck f [x, y]
  let a := fdec f x
  let b := fdec f y
  if fIsNaN a || fIsNaN b then return fmtNaN f
  let lt := decide (fcmpKey a < fcmpKey b) || (fcmpKey a = fcmpKey b && fNeg a && !fNeg b)
  return if lt = max then y else x

/-- Conversion between binary16 and binary32 (R130). -/
def ieeeCvt (src dst : Fmt) (dir : Nat) (x : Nat) : Arith Nat := do
  sigCheck src [x]
  let a := fdec src x
  match a with
  | .nan => return fmtNaN dst
  | .inf neg => return infCode dst neg
  | .fin neg _ sh => ieeeRound dst dir (fnum a) (2 ^ sh) neg

/-- binary32 to INT32 under a direction: NaN gives 0 and a value out of range saturates, both raising
INVALID (06 R185). -/
def ieeeToInt (dir : Nat) (x : Nat) : Arith Nat := do
  match fdec .f32 x with
  | .nan => setFlags flInvalid; return 0
  | .inf neg => setFlags flInvalid; return if neg then 2 ^ 31 else 2 ^ 31 - 1
  | .fin neg n sh =>
    let m := dirRound dir neg n (2 ^ sh)
    let t := if neg then -m else m
    if t < -(2 ^ 31) ∨ 2 ^ 31 - 1 < t then
      setFlags flInvalid
      return code 32 (clamp t (-(2 ^ 31)) (2 ^ 31 - 1))
    if n % 2 ^ sh ≠ 0 then setFlags flInexact
    return code 32 t

/-- INT32 to binary32 under a direction. -/
def ieeeOfInt (dir : Nat) (c : Nat) : Arith Nat := ieeeRound .f32 dir (sext 32 c) 1 false

/-- The Bough tree of IEEE additions (R129). -/
def ieeeBough (f : Fmt) (dir : Nat) (l : List Nat) : Arith Nat := boughWith (ieeeAdd f dir) l.length l

/-- A strict tree over elements. The root of one element is that element, taken as an operand is: a signalling NaN raises INVALID, and a NaN is
written as the canonical one (R101, R130). -/
def ieeeTree (f : Fmt) (dir : Nat) (l : List Nat) : Arith Nat :=
  match l with
  | [x] => do sigCheck f [x]; return if fIsNaN (fdec f x) then fmtNaN f else x
  | _ => ieeeBough f dir l

/-! Assay class. -/

/-- Requantisation (R107). -/
def requant (acc m : Int) (s : Nat) (zo lo hi : Int) : Int := clamp (rneShift (acc * m) s + zo) lo hi

/-- A value in the INT48 range (R111). -/
def inI48 (x : Int) : Bool := decide (-(2 ^ 47) ≤ x) && decide (x < 2 ^ 47)

/-- A 64-bit partial whose bits [63:47] are all equal (R105). -/
def partialOk (c : Nat) : Bool := bits c 47 17 = 0 || bits c 47 17 = 2 ^ 17 - 1

/-! The functions of FUNC (06 R173), in fixed point with `fxP` fraction bits. -/

/-- Fraction bits of the working precision. -/
def fxP : Nat := 640

/-- The odd series of 2·atanh(z), z in fixed point: terms from `2z z^(2k) / (2k + 1)`. -/
def atanhTerms (z2 : Int) : Nat → Nat → Int → Int
  | 0, _, _ => 0
  | n + 1, k, t => t / (2 * k + 1) + atanhTerms z2 n (k + 1) (t * z2 / 2 ^ fxP)

/-- ln of `a / b`, for `a / b` from 1 to 2, in fixed point. -/
def lnFx (a b : Nat) : Int :=
  let z : Int := (((a : Int) - b) * 2 ^ fxP) / (a + b)
  2 * atanhTerms (z * z / 2 ^ fxP) 220 0 z

/-- ln 2 in fixed point. -/
def ln2Fx : Int := lnFx 2 1

/-- Taylor terms of exp. -/
def expTerms (x : Int) : Nat → Nat → Int → Int
  | 0, _, _ => 0
  | n + 1, k, t => t + expTerms x n (k + 1) (t * x / 2 ^ fxP / (k + 1))

/-- exp of a fixed-point `x` from 0 to 1. -/
def expFx (x : Int) : Int := expTerms x 160 0 (2 ^ fxP)

/-- `2^k * m / 2^fxP` as a fraction. -/
def scaleFrac (k m : Int) : Int × Nat := (m * 2 ^ k.toNat, 2 ^ (fxP + (-k).toNat))

/-- `exp (num / den)` as a fraction, the argument held within ±900. -/
def expFrac (num : Int) (den : Nat) : Int × Nat :=
  let x := clamp (num * 2 ^ fxP / den) (-(900 * 2 ^ fxP)) (900 * 2 ^ fxP)
  let k := x / ln2Fx
  scaleFrac k (expFx (x - k * ln2Fx))

/-- `2^(num / den)` as a fraction, the argument held within ±900; exact for an integer argument. -/
def exp2Frac (num : Int) (den : Nat) : Int × Nat :=
  if num > 900 * den then (2 ^ 900, 1)
  else if num < -(900 * den) then (1, 2 ^ 900)
  else
    let k := num / den
    let r := num - k * den
    if r = 0 then scaleFrac k (2 ^ fxP)
    else scaleFrac k (expFx (r * ln2Fx / den))

/-- log2 of the positive fraction `a / b`; exact for a power of two. -/
def log2Frac (a b : Nat) : Int × Nat :=
  let e := floorLog2 a b
  let a' := a * 2 ^ (-e).toNat
  let b' := b * 2 ^ e.toNat
  if a' = b' then (e, 1)
  else (e * 2 ^ fxP + lnFx a' b' * 2 ^ fxP / ln2Fx, 2 ^ fxP)

/-- tanh of a nonzero fraction. -/
def tanhFrac (num : Int) (den : Nat) : Int × Nat :=
  let x := clamp num (-(400 * den)) (400 * den)
  let e := expFrac (2 * x) den
  (e.1 - e.2, e.2 + e.1.toNat)

/-- sigmoid of a fraction. -/
def sigmoidFrac (num : Int) (den : Nat) : Int × Nat :=
  let e := expFrac num den
  (e.1, e.2 + e.1.toNat)

/-- What f(x) is before its one rounding (06 R173): a special code, or an exact fraction with the sign of a
zero result. The two numbers of the first kind are the code and the flags a strict operation raises. -/
inductive FuncVal where
  | nan (flags : Nat)
  | inf (neg : Bool) (flags : Nat)
  | frac (num : Int) (den : Nat) (zs : Bool)
deriving DecidableEq, Repr

/-- f(x) of function code `fn` (R173). -/
def funcVal (fn : Nat) (v : FVal) : FuncVal :=
  let n := fnum v
  let d := 2 ^ fsh v
  let ofF (p : Int × Nat) : FuncVal := .frac p.1 p.2 false
  match fn, v with
  | _, .nan => .nan 0
  | 0, .inf neg => if neg then .frac 0 1 false else .inf false 0
  | 0, .fin .. => ofF (exp2Frac n d)
  | 1, .inf neg => if neg then .nan flInvalid else .inf false 0
  | 1, .fin neg m _ =>
    if m = 0 then .inf true flDivZero else if neg then .nan flInvalid else ofF (log2Frac m d)
  | 2, .inf neg => .frac 0 1 neg
  | 2, .fin neg m _ =>
    if m = 0 then .inf neg flDivZero else .frac (if neg then -(d : Int) else d) m neg
  | 3, .inf neg => if neg then .nan flInvalid else .frac 0 1 false
  | 3, .fin neg m _ =>
    if m = 0 then .inf neg flDivZero
    else if neg then .nan flInvalid
    else let q := sqrtFrac d m; .frac q.1 q.2 false
  | 4, .inf neg => if neg then .nan flInvalid else .inf false 0
  | 4, .fin neg m _ =>
    if m = 0 then .frac 0 1 neg
    else if neg then .nan flInvalid
    else let q := sqrtFrac m d; .frac q.1 q.2 false
  | 5, .inf neg => .frac (if neg then -1 else 1) 1 false
  | 5, .fin neg m _ => if m = 0 then .frac 0 1 neg else ofF (tanhFrac n d)
  | 6, .inf neg => if neg then .frac 0 1 false else .frac 1 1 false
  | 6, .fin .. => ofF (sigmoidFrac n d)
  | _, .inf neg => if neg then .frac 0 1 false else .inf false 0
  | _, .fin .. => ofF (expFrac n d)

/-- FUNC of one element outside strict operations: one rounding to BF16 or binary32, else through
binary32 and out_round (R172, R173). -/
def funcElem (fn : Nat) (x : FVal) (f : Fmt) (s : FVal) (z lo hi : Int) : Arith Nat := do
  let g : Fmt := if f = .bf16 then .bf16 else .f32
  let y ← match funcVal fn x with
    | .nan _ => pure (fmtNaN g)
    | .inf neg _ => pure (infCode g neg)
    | .frac num den zs => roundFmt g num den zs false
  if f = g then return y else outRound f s z lo hi y

/-- FUNC of one element as a strict operation (04 R128, R130). -/
def funcStrict (fn : Nat) (f : Fmt) (dir c : Nat) : Arith Nat := do
  sigCheck f [c]
  match funcVal fn (fdec f c) with
  | .nan fl => setFlags fl; return fmtNaN f
  | .inf neg fl => setFlags fl; return infCode f neg
  | .frac num den zs => ieeeRound f dir num den zs

end Sys2Proof.Machine
end

