-- ==== Sys2Proof/Machine/Sequencer.lean ====
section
/-! DEFINITION. Region sequencers: stream order, placement records, shape slots and buckets, retirement and the gate that every
macro-instruction passes (06 R161, R162, R188; 09 R245, R262). -/

namespace Sys2Proof.Machine

/-- What `exec` answers. -/
abbrev Ans := Host.Outcome State Fault Refusal

/-- The lowest number of `l` that is at least `lo`, or `d`. -/
def lowestFrom (l : List Nat) (lo d : Nat) : Nat := l.foldl (fun a x => if lo ≤ x ∧ x < a then x else a) d

/-- Index of the first macro-instruction at or after `i` that region `r` executes: one with a placement record for it (R245). -/
def pcFrom (j : Job) (r i : Nat) : Nat :=
  lowestFrom ((j.places.filter (fun p => p.region = r)).map (·.instr)) i j.macros.length

/-- Placement records of instruction `i` on region `r`. -/
def placesOf (s : State) (r i : Nat) : List Place :=
  match s.job with
  | none => []
  | some j => j.places.filter (fun p => p.instr = i && p.region = r)

/-- Context of a schedule segment: the live one bound to it, or the file context that the load gave (09 R262, R263). -/
def segmentCtx (s : State) (seg : Nat) : Option Nat :=
  if seg = 0 then none
  else match (List.range 96).find? (fun k => rd s (Fk.liveSlotEn k) = 1 && rd s (Fk.liveSlotSegment k) = seg) with
  | some k => some (rd s (Fk.liveSlotCtx k))
  | none => s.job.bind (fun j => (j.segCtx.find? (fun x => x.1 = seg)).map (·.2))

/-- Context that an instruction at `i` of region `r` works for. -/
def ctxOfInstr (s : State) (r i : Nat) : Option Nat :=
  (placesOf s r i).head?.bind (fun p => segmentCtx s p.segment)

/-- The sequencer of region `r` may execute its next instruction. -/
def seqOk (s : State) (r : Nat) : Bool := running s && (getRegion s r).run = .running

/-- DATA of a dispatch or retirement of instruction `i` on region `r`: INSTR, TAG of its P1 (R168, R172) and SPAN (18 R480). -/
def dispatchData (s : State) (r i : Nat) : List Byte :=
  let w := (s.job.bind (fun j => j.macros[i]?)).getD 0
  let tag := if 0x10 ≤ bits w 120 8 ∧ bits w 120 8 ≤ 0x17 ∨ bits w 120 8 = 0x30 then bits w 32 16 else 0
  toLE 4 i ++ toLE 2 tag ++ toLE 4 (((placesOf s r i).head?.map (·.span)).getD 0)

/-- Retire the instruction at which region `r` stands: its index goes to the region's next instruction and the retirement is
traced (18 R480). -/
def retire (s : State) (r : Nat) : State :=
  let i := (getRegion s r).pc
  let next := match s.job with
    | some j => pcFrom j r (i + 1)
    | none => i + 1
  trace (modRegion s r (fun x => { x with pc := next, run := .running, prog := [], draw := none })) 0 1 (srcRegion s r) (dispatchData s r i)

/-- Trace the dispatch of the instruction at which region `r` stands, unless it goes on after a hold. -/
def dispatch (s : State) (r : Nat) : State :=
  if (getRegion s r).prog ≠ [] then s
  else trace s 0 0 (srcRegion s r) (dispatchData s r (getRegion s r).pc)

/-- The instruction's segment is common, or was judged ready at the release (09 R262, R263). -/
def segmentReady (s : State) (r : Nat) : Bool :=
  match (placesOf s r (getRegion s r).pc).head? with
  | none => true
  | some p => p.segment = 0 || (getRegion s r).ready.contains p.segment

/-! Descriptors and shapes. -/

/-- Descriptor `i` of the job. -/
def descOf (s : State) (i : Nat) : Option Desc := s.job.bind (fun j => j.descs[i]?)

/-- Dimension `d` of a descriptor as declared. -/
def declDim (x : Desc) (d : Nat) : Nat := if d = 0 then x.n0 else if d = 1 then x.n1 else x.n2

/-- The bucket set of a descriptor. -/
def bktOf (s : State) (x : Desc) : Option Bkt := if x.bkt = 0 then none else s.job.bind (fun j => j.bkts[x.bkt - 1]?)

/-- Value of shape slot `k` of region `r` in dimension `d` (R161). -/
def shapeVal (s : State) (r k d : Nat) : Nat := mget (fun _ => 0) (getRegion s r).shapes (3 * k + d)

/-- Actual size of dimension `d` (R162). -/
def actualDim (s : State) (r : Nat) (x : Desc) (d : Nat) : Nat :=
  match bktOf s x with
  | some b => if bit b.dyn d then shapeVal s r b.slot d else declDim x d
  | none => declDim x d

/-- The bucket that dimension `d` runs in: the smallest that holds the actual size. -/
def bucketDim (s : State) (r : Nat) (x : Desc) (d : Nat) : Nat :=
  match bktOf s x with
  | some b =>
    if bit b.dyn d then
      ((b.sizes.getD d []).find? (fun z => decide (shapeVal s r b.slot d ≤ z))).getD (declDim x d)
    else declDim x d
  | none => declDim x d

/-- The first dynamic dimension above its largest bucket: slot, dimension, size and bucket (R162 case 1, R471). -/
def shapeOver (s : State) (r : Nat) (l : List Desc) : Option (Nat × Nat × Nat × Nat) :=
  l.findSome? (fun x => match bktOf s x with
    | none => none
    | some b => (List.range 3).findSome? (fun d =>
        if bit b.dyn d ∧ shapeVal s r b.slot d > declDim x d then some (b.slot, d, shapeVal s r b.slot d, declDim x d)
        else none))

/-- Some dynamic dimension's actual size is 0 (R162 case 2). -/
def shapeZero (s : State) (r : Nat) (l : List Desc) : Bool :=
  l.any (fun x => match bktOf s x with
    | none => false
    | some b => (List.range 3).any (fun d => bit b.dyn d && decide (shapeVal s r b.slot d = 0)))

/-- The distinct bucketed dimensions of an instruction, in the order of its descriptors: slot, dimension and sizes. -/
def comboDims (s : State) (l : List Desc) : List (Nat × Nat × List Nat) :=
  (l.flatMap (fun x => match bktOf s x with
    | none => []
    | some b => ((List.range 3).filter (fun d => bit b.dyn d)).map (fun d => (b.slot, d, b.sizes.getD d [])))).eraseDups

/-- COMBO of the placement record that the actual shapes select (R245; log entry 16). -/
def comboOf (s : State) (r : Nat) (l : List Desc) : Nat :=
  ((comboDims s l).foldl (fun (p : Nat × Nat) x =>
    let k := (x.2.2.findIdx? (fun z => decide (shapeVal s r x.1 x.2.1 ≤ z))).getD 0
    (p.1 + p.2 * k, p.2 * x.2.2.length)) (0, 1)).1

/-- DETAIL of SHAPE_OVER (18 R471). -/
def shapeDetail (x : Nat × Nat × Nat × Nat) : List Byte :=
  toLE 1 x.1 ++ toLE 1 x.2.1 ++ toLE 2 0 ++ toLE 4 x.2.2.1 ++ toLE 4 x.2.2.2

/-! The gate. -/

/-- Some table kind may be used opportunistically (16 R433). -/
def oppOn (s : State) : Bool := [Fk.auditOppCanopy, Fk.auditOppTinlinkTx, Fk.auditOppHearthRemote, Fk.auditOppCellarRemote].any (fun k => decide (rd s k = 1))

/-- The errors that the reads of a macro-instruction met, the beats it moved, and the slots that it used opportunistically where a table kind admits
it (03 R83, 16 R432, R433, 18 R467, R483). -/
def chargeErrs (s : State) (e : MemErrs) : State :=
  memErrors (diverge (tallyAdd (tallyAdd s tHearthBeats e.hearth) tCellarBeats e.cellar) tDivOpp (b2n (oppOn s) * e.opp)) e.ueAt e.ce

/-- The number by which a trace names an awaited item: address, hoop or port. -/
def waitItem (x : Region) (w : Wait) : Nat :=
  match w with
  | .beat => (x.landing.head?.map (·.addr)).getD 0
  | .filled h => h
  | .room h => h
  | .port p => p
  | .records => 0

/-- Region `r` holds for `w` (09 R248): HOLD sets and counter `cnt` counts; `prog` says how far its instruction has come. -/
def holdAs (s : State) (r cnt : Nat) (w : Wait) (prog : List Nat) : State :=
  let s := modRegion s r (fun x => { x with run := .holding, awaits := some w, holdSince := rd s Fk.epochCycle, prog := prog })
  let s := raise (diverge s cnt 1) Fk.schedStatusHold
  trace s 2 0 (srcRegion s r) (toLE 8 (waitItem (getRegion s r) w))

/-- A hold on an elastic path. -/
def holdRegion (s : State) (r : Nat) (w : Wait) (prog : List Nat) : State := holdAs s r tDivHold w prog

/-- SCHED_MISS raised by region `r` (09 R266): `what` is 0 for a timed beat, 1 a hoop, 2 a credit; with the awaited item and the release
cycle. -/
def schedMiss (s : State) (r what item rel : Nat) : State :=
  regionFault (raise s Fk.schedStatusMiss) r fcSchedMiss (toLE 1 what ++ toLE 3 0 ++ toLE 8 item ++ toLE 4 rel)

/-- POISON_CTRL raised by the sequencer of region `r` (09 R268). -/
def regionPoison (s : State) (r use : Nat) : State :=
  regionFault (raise s Fk.schedStatusPoisonCtrl) r fcPoisonCtrl (toLE 2 0xFFFF ++ toLE 1 use)

/-- FUSE of macro-instruction `i` (R163). -/
def fuseBit (j : Job) (i : Nat) : Bool := bit (j.macros.getD i 0) 65

/-- The members of the fused command that instruction `i` belongs to (R166); of a longer run than a command may have, at least nine. -/
def fusedRun (j : Job) (i : Nat) : List Nat :=
  let back := (List.range 8).foldl (fun k _ => if 0 < k ∧ fuseBit j (k - 1) then k - 1 else k) i
  let fwd := (List.range 8).foldl (fun k _ => if fuseBit j k then k + 1 else k) i
  (List.range (fwd + 1 - back)).map (fun k => back + k)

/-- The descriptors of fields `l` of instruction `i` (R163). -/
def fieldDescs (j : Job) (i : Nat) (l : List Nat) : List Desc := l.filterMap (fun k => j.descs[bits (j.macros.getD i 0) (106 - 6 * k) 6]?)

/-- The fields D1 to D4 that instruction `i` uses, by PRES (R163). -/
def inFields (j : Job) (i : Nat) : List Nat :=
  (List.range 4).filterMap (fun k => if bit (j.macros.getD i 0) (60 + k) then some (k + 1) else none)

/-- The descriptors that instruction `i` names: D0, and D1 to D4 by PRES (R163). -/
def macroDescs (j : Job) (i : Nat) : List Desc := fieldDescs j i (0 :: inFields j i)

/-- The descriptors of the whole fused command of an instruction that belongs to one (20 R519 c22). -/
def fusedDescs (s : State) (i : Nat) : List Desc :=
  match s.job with
  | none => []
  | some j => let l := fusedRun j i; if l.length ≤ 1 then [] else l.flatMap (macroDescs j)

/-- The descriptors whose bucketed dimensions number the combinations of an instruction: its own, given as `l`, or the whole fused command's
(20 R519 c22). -/
def comboDescs (s : State) (r : Nat) (l : List Desc) : List Desc :=
  match fusedDescs s (getRegion s r).pc with
  | [] => l
  | f => f

/-- The placement record in force for the instruction of region `r`. -/
def placeFor (s : State) (r : Nat) (l : List Desc) : Option Place :=
  (placesOf s r (getRegion s r).pc).find? (fun p => p.combo = comboOf s r (comboDescs s r l))

/-- Combinations of buckets of the descriptors `l`. -/
def comboCount (s : State) (l : List Desc) : Nat := (comboDims s l).foldl (fun n x => n * x.2.2.length) 1

/-- A fused command that the loader refuses: more than eight members, a member that does not read the output before it, an output between members
outside Crucible and Bench (R166), a coded operand inside the command (12 R334), or a member with a K share (20 R519 c26). -/
def fusedRefuse (s : State) (i : Nat) : Option String :=
  match s.job with
  | none => none
  | some j =>
    let l := fusedRun j i
    let out := fun k => fieldDescs j k [0]
    let ins := fun k => fieldDescs j k (inFields j k)
    let coded := fun (l : List Desc) => l.any (fun d => d.kind = 1)
    if l.length ≤ 1 then none
    else if 8 < l.length then some "R166"
    else if (l.tail).any (fun k => (out (k - 1)).any (fun o =>
        !((ins k).any (fun d => d.base = o.base)) || decide (levelOf o.base ≠ 2 ∧ levelOf o.base ≠ 3))) then some "R166"
    else if l.tail.any (fun k => coded (ins k)) || l.dropLast.any (fun k => coded (out k)) then some "R334"
    else if l.any (fun k => j.places.any (fun p => p.instr = k && p.share = 4)) then some "R519"
    else none

/-- What the loader refuses of the instruction at which region `r` stands, with descriptors `l`: what its form breaks, its fused command, or more
than 64 combinations of buckets (07 R212). -/
def macroRefuse (s : State) (r : Nat) (refuse : Option String) (l : List Desc) : Option String :=
  refuse.orElse (fun _ => (fusedRefuse s (getRegion s r).pc).orElse (fun _ => if comboCount s (comboDescs s r l) > 64 then some "R212" else none))

/-- What an instruction with descriptors does on region `r`. In order (R188): a sequencer that cannot issue, or whose job's accesses are held (03 R77), does
nothing; a form that the loader refuses is refused; an idle segment retires it; SHAPE_OVER; a zero shape retires it; then `f`, given the
placement record and the state after dispatch. -/
def macroDo (s : State) (r : Nat) (refuse : Option String) (descs : List Desc) (early : Option (Nat × Nat × Nat × Nat))
    (f : Place → State → State) : Ans :=
  let all := descs ++ fusedDescs s (getRegion s r).pc
  if !seqOk s r || hotHeld s then .next s
  else match macroRefuse s r refuse descs with
  | some rule => .refused (.loaderRefuses rule)
  | none =>
    if !segmentReady s r then .next (retire s r)
    else match (shapeOver s r all).orElse (fun _ => early) with
    | some x => .next (regionFault s r fcShapeOver (shapeDetail x))
    | none =>
      if shapeZero s r all then .next (retire s r)
      else match placeFor s r descs with
      | none => .refused (.loaderRefuses "R245")
      | some p => .next (f p (dispatch s r))

end Sys2Proof.Machine
end

