-- ==== Sys2Proof/Machine/Coded.lean ====
section
/-! DEFINITION. Coded tensors: the coded record, block index, block format, fetch and write-back (12). -/

namespace Sys2Proof.Machine

/-- A coded record (12 R327). `saux` is 0xFF for none. -/
structure CRec where
  cb : Nat
  ni : Nat
  family : Nat
  bank : Nat
  dataBase : Nat
  dataBytes : Nat
  dstride : Nat
  mean : Nat
  cursor : Nat
  lo : Int
  hi : Int
  hoop : Nat
  saux : Nat
deriving DecidableEq, Repr

/-- The coded record that the AUX descriptor of `x` points at. -/
def codedRec (s : State) (x : Desc) : CRec :=
  let a := ((descOf s x.aux).map (·.base)).getD 0
  let g := fun o n => devLE s [] (a + o) n
  { cb := g 0x05 1, ni := g 0x06 1, family := g 0x07 1, bank := g 0x08 8, dataBase := g 0x10 8, dataBytes := g 0x18 8,
    dstride := g 0x20 8, mean := g 0x28 8, cursor := g 0x30 8, lo := sext 16 (g 0x38 2), hi := sext 16 (g 0x3A 2), hoop := g 0x3C 1,
    saux := g 0x3D 1 }

/-- The CDF bank at a device address, as the loader stored it (R328, 11 R302). -/
def bankAt (s : State) (a : Nat) : List Byte :=
  match s.job with
  | some j => mget (fun _ => []) j.banks a
  | none => []

/-- The half at offset `off` of the bank at `a` is poisoned in table store `st` (4 × position + Drawplate): copied so, or by an error that this read
of the store meets. Errors of a table store are named by half `2^48 × (st + 1) + address / 32` (11 R301, R323). -/
def storeBad (s : State) (ue : List Nat) (st a off : Nat) : Bool :=
  (match s.job with
    | some j => (mget (fun _ => []) j.bankBad a).contains (off / 32)
    | none => false) || ue.contains (2 ^ 48 * (st + 1) + (a + off) / 32)

/-- Table of family `fam` and scale index `k` of the bank at `a` as table store `st` gives it; none where its family entry is poisoned (11 R304,
R323). -/
def storeTable (s : State) (ue : List Nat) (st a fam k : Nat) : Option CdfTable :=
  let e := 0x40 + 128 * fam
  let p := cdfTable (bankAt s a) fam k
  if storeBad s ue st a e || storeBad s ue st a (e + 0x40 + k) then none
  else some { p.2 with bad := (List.range (p.2.alpha + 1)).map (fun j => storeBad s ue st a (p.1 + 2 * j)) }

/-- The lanes of region `r` whose tables of the active set grant the coded tensor of descriptor `di` a slot, as 8 × Drawplate + lane (R336, 09 R241). -/
def codedLanes (s : State) (r di : Nat) : List Nat :=
  let ts := (s.job.bind (fun j => j.tsets[rd s Fk.schedCtlTblset]?)).getD []
  (List.range 32).filter (fun l => ts.any (fun t => decide (t.kind = 4 ∧ t.inst = 32 * r + l) && t.codes.contains (0xC000 + di)))

/-- The table store of the lane that block number `i` of an instruction goes to (R336; log entry 36). -/
def codedStore (s : State) (r di i : Nat) : Nat :=
  let l := codedLanes s r di
  4 * posOf s r + l.getD (i % max 1 l.length) 0 / 8

/-- Counts of blocks (R329). -/
def nbx (x : Desc) : Nat := ceilDiv x.n0 16
def nby (x : Desc) : Nat := ceilDiv x.n1 16
def nbc (x : Desc) (c : CRec) : Nat := ceilDiv x.n2 c.cb

/-- Blocks of a problem. -/
def nBlocks (x : Desc) (c : CRec) : Nat := nbx x * nby x * nbc x c

/-- Entry number of the block that holds element (x, y, ch). -/
def blockOf (d : Desc) (c : CRec) (x y ch : Nat) : Nat := (ch / c.cb * nby d + y / 16) * nbx d + x / 16

/-- First x, y and channel of block `e` and its valid widths in each. -/
def blockBox (d : Desc) (c : CRec) (e : Nat) : (Nat × Nat × Nat) × (Nat × Nat × Nat) :=
  let bx := e % nbx d
  let by' := e / nbx d % nby d
  let bc := e / nbx d / nby d
  ((16 * bx, 16 * by', c.cb * bc), (min 16 (d.n0 - 16 * bx), min 16 (d.n1 - 16 * by'), min c.cb (d.n2 - c.cb * bc)))

/-- The elements of block `e` in coding order: channel outermost, then y, then x (R331). -/
def blockElems (d : Desc) (c : CRec) (e : Nat) : List (Nat × Nat × Nat) :=
  let b := blockBox d c e
  (List.range b.2.2.2).flatMap (fun k => (List.range b.2.2.1).flatMap (fun j => (List.range b.2.1).map (fun i =>
    (b.1.1 + i, b.1.2.1 + j, b.1.2.2 + k))))

/-- Bytes of an element. -/
def codedWidth (d : Desc) : Nat := if d.fmt = 2 then 2 else 1

/-- Mean of channel `ch` and its poison (R327). -/
def codedMean (s : State) (ue : List Nat) (c : CRec) (ch : Nat) : Int × Bool :=
  if c.mean = 0 then (0, false) else (sext 16 (devLE s ue (c.mean + 2 * ch) 2), devBad s ue (c.mean + 2 * ch) 2)

/-- Base of the data area of problem `p`. -/
def dataArea (c : CRec) (p : Nat) : Nat := c.dataBase + p * c.dstride

/-- Address of index entry `e` of problem `p` (R329). -/
def entryAddr (d : Desc) (p e : Nat) : Nat := d.base + 64 * p * d.pstride + 8 * e

/-- Largest size of a block (R333). -/
def blockMax (d : Desc) (c : CRec) : Nat := 64 * ceilDiv (4 + c.cb + 256 * c.cb * codedWidth d) 64

/-- A decoded value, clamped to the record's limits (R332), with the flag of a clamp that changes it. -/
def codedClamp (c : CRec) (v : Int) : Int × Nat := let w := clamp v c.lo c.hi; (w, if w = v then 0 else flLatentRange)

/-- The bytes of block `e` of problem `p` that a fetch reads: none where its index entry names no block (R341). -/
def blockSpan (s : State) (ue : List Nat) (d : Desc) (c : CRec) (p e : Nat) : List (Nat × Nat) :=
  let ea := entryAddr d p e
  let ent := devLE s ue ea 8
  let off := bits ent 0 40
  let len64 := bits ent 40 16
  if devBad s ue ea 8 ∨ bit ent 62 ∨ !bit ent 63 ∨ bits ent 56 6 ≠ 0 ∨ len64 = 0 ∨ len64 * 64 > blockMax d c ∨
      (off + len64) * 64 > c.dataBytes then []
  else [(dataArea c p + 64 * off, 64 * len64)]

/-- The addresses that a use of a coded tensor of `np` problems touches: its record at `a`, the indices, the blocks it fetches or the data areas
it writes, the means and, where it writes, the cursor (R327, R335, R338). -/
def codedAccess (s : State) (ue : List Nat) (d : Desc) (c : CRec) (a np : Nat) (fetch : Bool) : List (Nat × Nat) :=
  let n := nBlocks d c
  (a, 64) :: (List.range np).map (fun p => (entryAddr d p 0, 8 * n)) ++
    (if c.mean = 0 then [] else [(c.mean, 2 * d.n2)]) ++
    (if fetch then (List.range (np * n)).flatMap (fun i => blockSpan s ue d c (i / n) (i % n))
      else (List.range np).map (fun p => (dataArea c p, c.dataBytes)) ++ (if c.cursor = 0 then [] else [(c.cursor, 8)]))

/-- Block `e` of problem `p` as fetch through table store `st` delivers it: its elements in coding order with their poison, and the flags it
sets (R341). -/
def fetchBlock (s : State) (ue : List Nat) (st : Nat) (d : Desc) (c : CRec) (p e : Nat) : List (Int × Bool) × Nat :=
  let els := blockElems d c e
  let n := els.length
  let mean := fun (b : Bool) => els.map (fun x => ((codedClamp c (codedMean s ue c x.2.2).1).1, b))
  let ea := entryAddr d p e
  let ent := devLE s ue ea 8
  let off := bits ent 0 40
  let len64 := bits ent 40 16
  let a := dataArea c p + 64 * off
  let w := codedWidth d
  let len := devLE s ue (a + 2) 2
  let mode := devLE s ue a 1
  let ks := devBytes s ue (a + 4) c.cb
  if devBad s ue ea 8 || bit ent 62 then (mean true, 0)
  else if !bit ent 63 then (mean false, flCodedAbsent)
  else if bits ent 56 6 ≠ 0 ∨ len64 = 0 ∨ len64 * 64 > blockMax d c ∨ (off + len64) * 64 > c.dataBytes then
    (mean false, flCodedDamaged)
  else if devBad s ue a (4 + c.cb) then (mean true, 0)
  else if mode > 1 ∨ devLE s ue (a + 1) 1 ≠ 0 ∨ len64 ≠ ceilDiv (4 + c.cb + len) 64 ∨
      (mode = 1 ∧ (len ≠ n * w ∨ ks.any (· ≠ 0))) ∨
      (mode = 0 ∧ (ks.any (fun k => decide (k.toNat > 63)) ∨ len < 4 * c.ni ∨ len > n * w)) then
    (mean false, flCodedDamaged)
  else
    let pay := a + 4 + c.cb
    let c0 := (blockBox d c e).1.2.2
    let r : List (Option Int) × Bool :=
      if mode = 1 then
        ((List.range n).map (fun i =>
          if devBad s ue (pay + w * i) w then none else some (sext (8 * w) (devLE s ue (pay + w * i) w))), false)
      else
        let q := decSub (fun i => devByte s ue (pay + i)) len c.ni (els.map (fun x =>
          if (codedMean s ue c x.2.2).2 then none
          else storeTable s ue st c.bank c.family (ks.getD (x.2.2 - c0) 0).toNat))
        ((q.1.zip els).map (fun y => y.1.map (· + (codedMean s ue c y.2.2.2).1)), q.2)
    let stop := r.1.findIdx? (fun y => y.isNone) |>.getD n
    let out := ((List.range n).zip (r.1.zip els)).map (fun y =>
      match y.2.1 with
      | some v => if y.1 < stop then (codedClamp c v).1 else (codedClamp c (codedMean s ue c y.2.2.2.2).1).1
      | none => (codedClamp c (codedMean s ue c y.2.2.2.2).1).1)
    let fl := (r.1.take stop).foldl (fun m y => match y with
      | some v => m ||| (codedClamp c v).2
      | none => m) 0
    (((List.range n).zip out).map (fun y => (y.2, decide (stop ≤ y.1))), fl ||| (if r.2 then flCodedCheck else 0))

/-! Write-back (R333, R338, R340). -/

/-- Scale index of a mean deviation (R333). -/
def kq (m : Nat) : Nat :=
  if m = 0 then 0
  else
    let e := Nat.log2 m
    min 63 (1 + 4 * e + m * 4 / 2 ^ e % 4)

/-- Scale index of channel `ch` of a block from its values. -/
def blockK (s : State) (c : CRec) (vals : List ((Nat × Nat × Nat) × Int)) (ch : Nat) : Nat :=
  let l := vals.filter (fun v => v.1.2.2 = ch)
  let a := l.foldl (fun t v => t + (v.2 - (codedMean s [] c ch).1).natAbs) 0
  kq ((16 * a + l.length / 2) / l.length)

/-- The bytes of block `e` for its values in coding order (R331 to R333, R338). A mean or a table-store entry that reads with an error counts as it reads, and
the block is valid (DESIGN CHOICE, log entry 120). -/
def blockBytes (s : State) (d : Desc) (c : CRec) (e : Nat) (vals : List ((Nat × Nat × Nat) × Int)) : List Byte :=
  let c0 := (blockBox d c e).1.2.2
  let w := codedWidth d
  let k := fun ch => blockK s c vals ch
  let ks := (List.range c.cb).map (fun i => if i < (blockBox d c e).2.2.2 then k (c0 + i) else 0)
  let pay := encSub c.ni (vals.map (fun v =>
    symOps (cdfTable (bankAt s c.bank) c.family (ks.getD (v.1.2.2 - c0) 0)).2 (v.2 - (codedMean s [] c v.1.2.2).1)))
  let raw := decide (pay.length > vals.length * w)
  let body := if raw then vals.flatMap (fun v => toLE w (code (8 * w) v.2)) else pay
  let b := toLE 1 (b2n raw) ++ toLE 1 0 ++ toLE 2 body.length ++
    (ks.map (fun x => BitVec.ofNat 8 (if raw then 0 else x))) ++ body
  b ++ List.replicate (64 * ceilDiv b.length 64 - b.length) 0

/-- The index entry of a block at `off` with `len64` units. -/
def indexEntry (off len64 : Nat) : Nat := off + len64 * 2 ^ 40 + 2 ^ 63

/-- Write the index entries of a problem. -/
def writeIndex (s : State) (ue : List Nat) (d : Desc) (p : Nat) (l : List Nat) : State :=
  devWrite s ue (entryAddr d p 0) (l.flatMap (toLE 8)) (fun _ => false)

/-- Write problem `p` of a coded tensor whose elements are given by `val`, with their poison (R338, R340). -/
def writeCoded (s : State) (ue : List Nat) (d : Desc) (c : CRec) (val : Nat → Nat → Nat → Int × Bool) (p : Nat) :
    State × Nat :=
  let n := nBlocks d c
  let append := decide (c.dstride = 0)
  let cur := if append then devLE s ue c.cursor 8 else 0
  let blocks := (List.range n).map (fun e =>
    let vals := (blockElems d c e).map (fun x => (x, val x.1 x.2.1 x.2.2))
    if vals.any (·.2.2) then none else some (blockBytes s d c e (vals.map (fun v => (v.1, v.2.1)))))
  let total := blocks.foldl (fun t b => t + (b.getD []).length) 0
  let bad := if blocks.any (·.isNone) then flCodedPoisoned else 0
  if append ∧ devBad s ue c.cursor 8 then (writeIndex s ue d p (List.replicate n (2 ^ 62)), flCodedPoisoned ||| bad)
  else if cur % 64 ≠ 0 ∨ cur > c.dataBytes ∨ cur + total > c.dataBytes then
    (writeIndex s ue d p (List.replicate n 0), flCodedFull)
  else
    let q := blocks.foldl (fun (q : State × Nat × List Nat) b => match b with
      | none => (q.1, q.2.1, q.2.2 ++ [2 ^ 62])
      | some l => (devPut q.1 (dataArea c p + q.2.1) l, q.2.1 + l.length,
          q.2.2 ++ [indexEntry (q.2.1 / 64) (l.length / 64)])) (s, cur, [])
    let s1 := writeIndex q.1 ue d p q.2.2
    (if append then devWrite s1 ue c.cursor (toLE 8 (cur + total)) (fun _ => false) else s1, bad)

end Sys2Proof.Machine
end

