-- ==== Sys2Proof/Machine/Hoops.lean ====
section
/-! DEFINITION. Stores of bytes with their poison, half by half, and the hoops of a region (03 R84; 09 R254 to R257). -/

namespace Sys2Proof.Machine

/-! Bytes. -/

/-- Change the half that starts at `b` of a memory: poison it, or store `l` (address and byte) by 03 R84; `u` says that the merge
read is uncorrectable. -/
def mergeHalf (u bad : Bool) (l : List (Nat × Byte)) (m : Mem) (b : Nat) : Mem :=
  let put := fun (m : Mem) => l.foldl (fun m x => mSet m (b + x.1 % 32) x.2) m
  if bad then mPoison m (b / 32)
  else if l.length = 32 then put (mClean m (b / 32))
  else if mBad m b || u then mPoison m (b / 32)
  else put m

/-- Change the half at device address `a`; the part reads no host memory to merge, and posted writes are discarded while the PCIe link is down (21 R527). -/
def putHalf (s : State) (ue : List Nat) (a : Nat) (l : List (Nat × Byte)) (bad : Bool) : State :=
  if levelOf a = 5 then
    if s.part.pcieUp then { s with host := mergeHalf false bad l s.host (hostAddr s a) } else s
  else { s with dev := mergeHalf (ue.contains (a / 32)) bad l s.dev a }

/-- Store bytes at ascending addresses, each with its poison, half by half. -/
def putBytes (s : State) (ue : List Nat) (l : List (Nat × Byte × Bool)) : State :=
  ((l.map (fun x => x.1 / 32)).eraseDups).foldl (fun s h =>
    let b := l.filter (fun x => x.1 / 32 = h)
    putHalf s ue (32 * h) (b.map (fun x => (x.1, x.2.1))) (b.any (·.2.2))) s

/-- Write contiguous bytes at a device address, each with its poison. -/
def spanPut (s : State) (ue : List Nat) (a : Nat) (l : List (Byte × Bool)) : State :=
  putBytes s ue (((List.range l.length).zip l).map (fun x => (a + x.1, x.2.1, x.2.2)))

/-- Bytes from contiguous device addresses. -/
def spanGet (s : State) (ue : List Nat) (a n : Nat) : List (Byte × Bool) := (List.range n).map (fun i => devByte s ue (a + i))

/-! Hoops (09 R254 to R257). `n` is the physical position of the region and `h` the index. -/

/-- Bytes of a slot. -/
def hoopBytes (s : State) (n h : Nat) : Nat := 64 * rd s (Fk.hoopCfgSlotBeats n h)

/-- Occupancy: (TAIL - HEAD) mod 2^32. -/
def hoopCount (s : State) (n h : Nat) : Nat := wrapSub 32 (rd s (Fk.hoopTail n h)) (rd s (Fk.hoopHead n h))

/-- Empty and full. -/
def hoopEmpty (s : State) (n h : Nat) : Bool := hoopCount s n h = 0
def hoopFull (s : State) (n h : Nat) : Bool := decide (hoopCount s n h ≥ rd s (Fk.hoopCfgSlots n h))

/-- Device address of slot number `i` (free-running). -/
def hoopSlotAddr (s : State) (n h i : Nat) : Nat :=
  rd s (Fk.hoopBase n h) + hoopBytes s n h * (i % rd s (Fk.hoopCfgSlots n h))

/-- Key of a slot in the MARKs of its region. -/
def markKey (s : State) (n h i : Nat) : Nat := h * 2 ^ 20 + i % rd s (Fk.hoopCfgSlots n h)

/-- The epoch in which the slot was put with MARK, if it carries MARK. -/
def slotMark (s : State) (r h i : Nat) : Option Nat :=
  mget (fun _ => none) (getRegion s r).marks (markKey s (posOf s r) h i)

/-- Close slot TAIL with or without MARK, and advance TAIL. -/
def hoopClose (s : State) (r h : Nat) (mark : Bool) : State :=
  let n := posOf s r
  let t := rd s (Fk.hoopTail n h)
  let m := if mark then some (rd s Fk.epochCount) else none
  let s := modRegion s r (fun x => { x with
    marks := mput (fun _ => none) x.marks (markKey s n h t) m
    fill := mput (fun _ => 0) x.fill h 0 })
  wr s (Fk.hoopTail n h) ((t + 1) % 2 ^ 32)

/-- Put one slot: its bytes, zero beyond them, at TAIL. -/
def hoopPutSlot (s : State) (r h : Nat) (ue : List Nat) (l : List (Byte × Bool)) (mark : Bool) : State :=
  let n := posOf s r
  let b := hoopBytes s n h
  let l := (l ++ List.replicate (b - l.length) (0, false)).take b
  hoopClose (spanPut s ue (hoopSlotAddr s n h (rd s (Fk.hoopTail n h))) l) r h mark

/-- The bytes of slot HEAD. -/
def hoopHeadBytes (s : State) (r h : Nat) (ue : List Nat) : List (Byte × Bool) :=
  let n := posOf s r
  spanGet s ue (hoopSlotAddr s n h (rd s (Fk.hoopHead n h))) (hoopBytes s n h)

/-- Advance HEAD. -/
def hoopPop (s : State) (r h : Nat) : State :=
  let n := posOf s r
  wr s (Fk.hoopHead n h) ((rd s (Fk.hoopHead n h) + 1) % 2 ^ 32)

/-- Advance HEAD by `k` slots. -/
def hoopPops (s : State) (r h : Nat) : Nat → State
  | 0 => s
  | k + 1 => hoopPops (hoopPop s r h) r h k

/-- The records' slots fit the hoop. -/
def slotsFit (s : State) (r h : Nat) (recs : List (List (Byte × Bool))) : Bool :=
  let n := posOf s r
  let b := max 1 (hoopBytes s n h)
  decide (hoopCount s n h + recs.foldl (fun a x => a + ceilDiv x.length b) 0 ≤ rd s (Fk.hoopCfgSlots n h))

/-- Put the records in the hoop; the last slot of each has MARK (11 R315). -/
def putRecords (s : State) (r h : Nat) (recs : List (List (Byte × Bool))) : State :=
  recs.foldl (fun s x =>
    let b := max 1 (hoopBytes s (posOf s r) h)
    let n := ceilDiv x.length b
    (List.range n).foldl (fun s i => hoopPutSlot s r h [] ((x.drop (b * i)).take b) (decide (i + 1 = n))) s) s

/-- What an instruction of region `r` does at a hoop `h` it cannot use (R256): it waits where the other end is elastic, and is late
where it is scheduled. -/
def hoopWait (s : State) (r h other : Nat) (prog : List Nat) : State :=
  let n := posOf s r
  if other = 0 then schedMiss s r 1 h (rd s (Fk.rschedScyc n) % 2 ^ 32)
  else
    let s := trace s 5 0 (srcRegion s r) (toLE 1 h ++ toLE 4 (rd s (Fk.hoopHead n h)) ++ toLE 4 (rd s (Fk.hoopTail n h)))
    holdRegion s r (if hoopEmpty s n h then .filled h else .room h) prog

/-- Hoop index of a HOOP descriptor. -/
def hoopIdx (d : Desc) : Nat := d.padc % 64

end Sys2Proof.Machine
end

