-- ==== Sys2Proof/Machine/Operands.lean ====
section
/-! DEFINITION. Tensor operands: aux records, element addresses, zero points, scales, padding, element reads and the writing of
results (06 R155 to R160, R553, R554; 05 R139 to R152; 07 R207 to R210). -/

namespace Sys2Proof.Machine

/-- An aux record (06 R159): its address if there is one, and its fields; `bad` says that it was delivered poisoned and reads as zeros
(R554); `act` is SCALE_KIND. -/
structure Aux where
  addr : Option Nat
  bad : Bool
  act : Bool
  scale : Nat
  zpa : Nat
  smap : Nat
  sside : Nat
  pitch : Nat
  g : Nat
  zpEn : Bool
  caxis : Bool
  lo : Int
  hi : Int
  zp : Int
deriving DecidableEq, Repr

/-- No aux record: unscaled, no zero point, full clamp, no silver map (R159). -/
def auxNone (f : Fmt) : Aux := ⟨none, false, true, 0, 0, 0, 0, 0, 0, false, false, fmtMin f, fmtMax f, 0⟩

/-- The aux record at device address `a` (R159, R554). -/
def auxAt (s : State) (ue : List Nat) (a : Nat) : Aux :=
  if devBad s ue a 64 then ⟨some a, true, true, 0, 0, 0, 0, 0, 0, false, false, 0, 0, 0⟩
  else
    let g := fun o n => devLE s ue (a + o) n
    let fl := g 0x25 1
    ⟨some a, false, bit fl 1, g 0 8, g 8 8, g 0x10 8, g 0x18 8, g 0x20 4, g 0x24 1, bit fl 0, bit fl 2,
      sext 32 (g 0x28 4), sext 32 (g 0x2C 4), sext 32 (g 0x30 4)⟩

/-- A tensor operand of an instruction on a region: descriptor, its index, format, actual dimensions, the dimensions that memory
holds (padded under SWPAD, R209), aux record, and for a coded tensor its record, the blocks of every problem as fetched, and
whether it is seen in the 2D view (12 R330). `extra` lists the spans that its use touches beside its lines, and `bound` the extent that those keep
to, where a descriptor declares one (03 R80). `cut` says that it is read in two row runs, which end at that row of it and of the output (10 R287). -/
structure Opd where
  d : Desc
  di : Nat
  f : Fmt
  n0 : Nat
  n1 : Nat
  n2 : Nat
  q0 : Nat
  q1 : Nat
  q2 : Nat
  x : Aux
  crec : Option CRec
  twoD : Bool
  blocks : List (List (Int × Bool) × Nat)
  extra : List (Nat × Nat)
  bound : Option (Nat × Nat) := none
  cut : Option (Nat × Nat) := none
deriving DecidableEq, Repr

/-- Format of a descriptor. -/
def descFmt (d : Desc) : Fmt := (fmtOf d.fmt).getD .raw8

/-- The declared extent of a PLAIN or TABLE descriptor over `np` problems, of padded dimensions `q`: first address and bytes (R158). -/
def declSpan (d : Desc) (q : Nat × Nat × Nat) (np : Nat) : Nat × Nat :=
  (d.base, 64 * ((np - 1) * d.pstride + (q.2.2 - 1) * d.pitch2 + (q.2.1 - 1) * d.pitch1) + ceilDiv (q.1 * fmtBits (descFmt d)) 8)

/-- The first byte that a list of spans touches outside the extent `x`, where it touches one (03 R80). -/
def spansLeave (x : Nat × Nat) (l : List (Nat × Nat)) : Option Nat :=
  l.findSome? (fun y => if y.2 = 0 then none else if y.1 < x.1 then some y.1 else if x.1 + x.2 < y.1 + y.2 then some (max y.1 (x.1 + x.2)) else none)

/-- A descriptor that names nothing. -/
def descZero : Desc := ⟨0, 0, 0, 0, false, 0, 0, 0, 0, 0, 0, 0, false, false, 0, 0⟩

/-- Aux record of a descriptor: the one AUX names, or for a coded tensor the one SAUX names; SAUX 0xFF gives no zero point and the full clamp (R155, 12
R327). -/
def auxOf (s : State) (ue : List Nat) (d : Desc) (f : Fmt) : Aux :=
  if !d.auxEn then auxNone f
  else if d.kind = 1 then
    let c := codedRec s d
    if c.saux = 0xFF then auxNone f
    else auxAt s ue (((descOf s c.saux).map (·.base)).getD 0)
  else auxAt s ue (((descOf s d.aux).map (·.base)).getD 0)

/-- Operand `di` of region `r` for `nprob` problems; `mult` rounds its actual dimensions up to what SWPAD covers; `fetch` says that
its coded blocks are read, and `order` in which order (12 R336). -/
def opdOf (s : State) (r : Nat) (ue : List Nat) (di nprob : Nat) (twoD fetch : Bool) (mult : Nat × Nat × Nat) (order : List Nat := []) : Opd :=
  let d := (descOf s di).getD descZero
  let f := (fmtOf d.fmt).getD .raw8
  let a := fun i => actualDim s r d i
  let c := if d.kind = 1 then some (codedRec s d) else none
  let up := fun n m => if d.swpad && d.kind ≠ 1 && m ≠ 0 then roundUp n m else n
  let view := d.kind = 1 && twoD
  { d := d, di := di, f := f
    n0 := if view then d.n0 * d.n1 else a 0
    n1 := if view then d.n2 else a 1
    n2 := if view then 1 else a 2
    q0 := if view then d.n0 * d.n1 else up (a 0) mult.1
    q1 := if view then d.n2 else up (a 1) mult.2.1
    q2 := if view then 1 else up (a 2) mult.2.2
    x := auxOf s ue d f, crec := c, twoD := twoD
    blocks := match c with
      | some c => if fetch then (List.range (nprob * nBlocks d c)).map (fun i =>
          fetchBlock s ue (codedStore s r di ((order.findIdx? (· = i)).getD i)) d c (i / nBlocks d c) (i % nBlocks d c)) else []
      | none => []
    extra := match c with
      | some c => codedAccess s ue d c (((descOf s d.aux).map (·.base)).getD 0) nprob fetch
      | none => [] }

/-- The operand with the aux record of a transport mark on it, if instruction `i` writes a marked edge (06 R154, 05 R145). -/
def withEdge (s : State) (ue : List Nat) (i : Nat) (o : Opd) : Opd :=
  match s.job.bind (fun j => j.edges.find? (fun e => e.producer = i && e.desc = o.di)) with
  | none => o
  | some e => { o with x := if e.aux = 0xFF then auxNone o.f else auxAt s ue (((descOf s e.aux).map (·.base)).getD 0) }

/-- Device address of the byte that holds element (i0, i1, i2) of problem `p` (R157). -/
def elemAddr (o : Opd) (p i0 i1 i2 : Nat) : Nat :=
  o.d.base + 64 * (p * o.d.pstride + i2 * o.d.pitch2 + i1 * o.d.pitch1) + i0 * fmtBits o.f / 8

/-- The code of a generated padding value, given the zero point of its channel (R158). Where PAD repeats or mirrors and there is nothing to repeat, as in the rows
beyond M and the K tail of a CONV (07 R207), it is 0 (DESIGN CHOICE, log entry 120). -/
def padCode (o : Opd) (z : Int) : Nat :=
  match o.d.pad with
  | 1 => o.d.padc % 2 ^ fmtBits o.f
  | 2 => code (fmtBits o.f) z
  | 3 => if fmtInt o.f then code (fmtBits o.f) (fmtMin o.f) else signed o.f true (fmtMaxMag o.f)
  | _ => 0

/-- Memory holds the position. -/
def covers (o : Opd) (i0 i1 i2 : Nat) : Bool := decide (i0 < o.q0) && decide (i1 < o.q1) && decide (i2 < o.q2)

/-- The position of element (i0, i1, i2) in the 3D shape of a coded tensor. -/
def codedPos (o : Opd) (i0 i1 i2 : Nat) : Nat × Nat × Nat :=
  if o.twoD then (i0 % o.d.n0, i0 / o.d.n0, i1) else (i0, i1, i2)

/-- A decoded element: value and its own poison. -/
def codedCell (o : Opd) (c : CRec) (p i0 i1 i2 : Nat) : Int × Bool :=
  let q := codedPos o i0 i1 i2
  let e := blockOf o.d c q.1 q.2.1 q.2.2
  let b := blockBox o.d c e
  let k := ((q.2.2 - b.1.2.2) * b.2.2.1 + (q.2.1 - b.1.2.1)) * b.2.1 + (q.1 - b.1.1)
  (((o.blocks.getD (p * nBlocks o.d c + e) ([], 0)).1).getD k (0, false))

/-- Code and poison of an element that memory holds: a half of a line that holds a poisoned element reads as zeros (03 R84, 12
R341). An INT48 partial whose top bits differ is taken as poisoned (04 R105). -/
def elemAt (s : State) (ue : List Nat) (o : Opd) (p i0 i1 i2 : Nat) : Nat × Bool :=
  let w := fmtBits o.f
  match o.crec with
  | some c =>
    let per := 256 / w
    let l := ((List.range per).map (fun k => i0 / per * per + k)).filter (fun k => k < o.n0)
    if l.any (fun k => (codedCell o c p k i1 i2).2) then (0, true) else (code w (codedCell o c p i0 i1 i2).1, false)
  | none =>
    let a := elemAddr o p i0 i1 i2
    if w = 4 then
      let b := devByte s ue a
      (bits b.1.toNat (4 * (i0 % 2)) 4, b.2)
    else
      let v := devLE s ue a (w / 8)
      if devBad s ue a (w / 8) then (0, true)
      else if o.f = .int48 ∧ !partialOk v then (0, true)
      else (v, false)

/-- Signed value of an integer code: INT48 in its 64-bit form. -/
def intVal (f : Fmt) (c : Nat) : Int := if f = .int48 then sext 48 c else if f = .raw8 then c else sext (fmtBits f) c

/-- Zero point of channel `ch` and its poison (05 R141). -/
def zpOf (s : State) (ue : List Nat) (o : Opd) (ch : Nat) : Int × Bool :=
  if o.x.zpa ≠ 0 then (sext 32 (devLE s ue (o.x.zpa + 4 * ch) 4), devBad s ue (o.x.zpa + 4 * ch) 4)
  else (if o.x.zpEn then o.x.zp else 0, false)

/-- BF16 code of a scale at element index `i` of the scale tensor, with its poison; 1.0 where there is none (R139). -/
def scaleAt (s : State) (ue : List Nat) (o : Opd) (i : Nat) : Nat × Bool :=
  if o.x.scale = 0 then (0x3F80, false)
  else (devLE s ue (o.x.scale + 2 * i) 2, devBad s ue (o.x.scale + 2 * i) 2)

/-- Dimension along which the channels of an operand run (06 R553): the one that its aux record declares, and for a coded tensor that of its view (12
R330). -/
def chanAxis (o : Opd) : Nat := if o.crec.isSome then (if o.twoD then 1 else 2) else if o.x.caxis then 2 else 0

/-- Channel and scale row of a position: the row counts the other dimensions in storage order (06 R553). -/
def chanOf (o : Opd) (i0 i1 i2 : Nat) : Nat := match chanAxis o with
  | 0 => i0
  | 1 => i1
  | _ => i2
def rowOf (o : Opd) (i0 i1 i2 : Nat) : Nat := match chanAxis o with
  | 0 => i2 * o.n1 + i1
  | 1 => i2 * o.n0 + i0
  | _ => i1 * o.n0 + i0

/-- The position is one of the tensor's elements. -/
def inShape (o : Opd) (i0 i1 i2 : Nat) : Bool := decide (i0 < o.n0) && decide (i1 < o.n1) && decide (i2 < o.n2)

/-- The zero point of a tensor where no channel has one: that of the tensor (05 R143). -/
def zpTensor (o : Opd) : Int := if o.x.zpa ≠ 0 then 0 else if o.x.zpEn then o.x.zp else 0

/-- Zero point of an element; beyond the elements, where there is no channel, that of the tensor, and 0 if it has one for each channel (DESIGN CHOICE,
log entry 120). -/
def zpElem (s : State) (ue : List Nat) (o : Opd) (i0 i1 i2 : Nat) : Int × Bool :=
  if inShape o i0 i1 i2 then zpOf s ue o (chanOf o i0 i1 i2) else (zpTensor o, false)

/-- Code and poison at a position that an instruction on elements reads: an element, or padding from memory, or, where memory holds none, the value of
PAD (R158, 07 R209, 12 R330; DEDUCED, log entry 120). -/
def elemIn (s : State) (ue : List Nat) (o : Opd) (p i0 i1 i2 : Nat) : Nat × Bool :=
  if covers o i0 i1 i2 then elemAt s ue o p i0 i1 i2 else (padCode o (zpTensor o), false)

/-- Channels and scale rows of an operand. -/
def chanCount (o : Opd) : Nat := match chanAxis o with
  | 0 => o.n0
  | 1 => o.n1
  | _ => o.n2
def rowCount (o : Opd) : Nat := match chanAxis o with
  | 0 => o.n1 * o.n2
  | 1 => o.n0 * o.n2
  | _ => o.n0 * o.n1

/-- Scale of group `j` of row `n` of a product's operand, a row of A or a column of B, in the layout of its SCALE_KIND (R139, R159). -/
def groupScale (s : State) (ue : List Nat) (o : Opd) (n j : Nat) : Nat × Bool :=
  scaleAt s ue o (if o.x.act then n * o.x.pitch + j else j * o.x.pitch + n)

/-- Scale of the element in scale row `row` and channel `ch`: an activation scale belongs to the row and the channel's group, a weight
scale to the channel and the row's group (R114, R139; log entry 108). -/
def elemScale (s : State) (ue : List Nat) (o : Opd) (row ch : Nat) : Nat × Bool :=
  if o.x.act then groupScale s ue o row (ch / max o.x.g 1) else groupScale s ue o ch (row / max o.x.g 1)

/-- Scale of the element at a position; 1.0 beyond the elements (DESIGN CHOICE, log entry 120). -/
def scaleElem (s : State) (ue : List Nat) (o : Opd) (i0 i1 i2 : Nat) : Nat × Bool :=
  if inShape o i0 i1 i2 then elemScale s ue o (rowOf o i0 i1 i2) (chanOf o i0 i1 i2) else (0x3F80, false)

/-- Slot of channel `ch` in the silver map of the operand, if it is named (R160). -/
def silverSlot (s : State) (ue : List Nat) (o : Opd) (ch : Nat) : Option Nat :=
  if o.x.smap = 0 then none
  else (List.range 8).find? (fun i => devLE s ue (o.x.smap + 8 * (ch / 128) + i) 1 = 0x80 + ch % 128)

/-- Address of slot `i` of block `b` of row `row` in a silver side-operand of `nb` blocks a row (R160; log entry 17). -/
def sideAddr (o : Opd) (nb row b i : Nat) : Nat := o.x.sside + ((row * nb + b) * 8 + i) * 2

/-! Writing. -/

/-- The bytes of cells of a line from element `i0` on; a cell that is not written is `none`; the partner nibble of a 4-bit
element beyond the cells is 0 (R98, R208). -/
def cellBytes (o : Opd) (p i0 i1 i2 : Nat) (l : List (Option (Nat × Bool))) : List (Nat × Byte × Bool) :=
  let w := fmtBits o.f
  if w = 4 then
    ((List.range l.length).filter (fun k => (i0 + k) % 2 = 0 ∨ k = 0)).flatMap (fun k =>
      let i := i0 + k
      let lo := if i % 2 = 0 then l.getD k none else none
      let hi := if i % 2 = 0 then l.getD (k + 1) none else l.getD k none
      if lo.isNone && hi.isNone then []
      else
        let c := fun (x : Option (Nat × Bool)) => (x.map (·.1)).getD 0
        let b := fun (x : Option (Nat × Bool)) => (x.map (·.2)).getD false
        [(elemAddr o p (i / 2 * 2) i1 i2, BitVec.ofNat 8 (c lo % 16 + 16 * (c hi % 16)), b lo || b hi)])
  else
    ((List.range l.length).zip l).flatMap (fun x => match x.2 with
      | none => []
      | some v =>
        let a := elemAddr o p (i0 + x.1) i1 i2
        ((List.range (w / 8)).zip (toLE (w / 8) v.1)).map (fun y =>
          (a + y.1, y.2, v.2)))

/-- What an output element is: not written, its code and poison, or a silver channel's BF16 element with its address. -/
inductive Cell where
  | keep
  | main (c : Nat) (bad : Bool)
  | side (a c : Nat) (bad : Bool)
deriving DecidableEq, Repr

/-- The part of a cell that the tensor's own storage takes. -/
def cellMain : Cell → Option (Nat × Bool)
  | .main c b => some (c, b)
  | _ => none

/-- The bytes that a cell writes to a side-operand. -/
def cellSide : Cell → List (Nat × Byte × Bool)
  | .side a c b => ((List.range 2).zip (toLE 2 c)).map (fun y => (a + y.1, y.2, b))
  | _ => []

/-- A run of output cells of one line: problem, first element, line and plane. -/
structure Run where
  p : Nat
  i0 : Nat
  i1 : Nat
  i2 : Nat
  cells : List Cell
deriving DecidableEq, Repr

/-- The runs of output cells given with their problem and position: one for each line, from its first element to its last. -/
def gatherRuns (l : List ((Nat × Nat × Nat × Nat) × Cell)) : List Run :=
  ((l.map (fun x => (x.1.1, x.1.2.2))).eraseDups).map (fun k =>
    let c := l.filter (fun x => x.1.1 = k.1 && x.1.2.2 = k.2)
    let lo := c.foldl (fun a x => min a x.1.2.1) (((c.head?).map (·.1.2.1)).getD 0)
    let hi := c.foldl (fun a x => max a (x.1.2.1 + 1)) 0
    ⟨k.1, lo, k.2.1, k.2.2, (List.range (hi - lo)).map (fun i =>
      ((c.find? (fun x => x.1.2.1 = lo + i)).map (·.2)).getD .keep)⟩)

/-- The context an instruction of region `r` works for. -/
def regionCtx (s : State) (r : Nat) : Option Nat := ctxOfInstr s r (getRegion s r).pc

/-- Record the flags of an instruction's arithmetic, and the elements that saturated (04 R127, R131; 05 R134, R152). -/
def chargeArith (s : State) (r : Nat) (a : ArithSt) : State :=
  tallyAdd (setStickies s (regionCtx s r) a.flags) tNarrowSat a.sat

/-- Position in the view of an operand of element (x, y, ch) of a coded tensor (12 R330). -/
def viewPos (o : Opd) (x y ch : Nat) : Nat × Nat × Nat := if o.twoD then (y * o.d.n0 + x, ch, 0) else (x, y, ch)

/-- The cell that runs write at a position of problem `p`. -/
def runCell (runs : List Run) (p i0 i1 i2 : Nat) : Option (Nat × Bool) :=
  (runs.find? (fun u => u.p = p && u.i1 = i1 && u.i2 = i2 && u.i0 ≤ i0 && i0 < u.i0 + u.cells.length)).bind
    (fun u => (u.cells[i0 - u.i0]?).bind cellMain)

/-- Value and poison of a written element of a coded output. -/
def codedVal (runs : List Run) (o : Opd) (p x y ch : Nat) : Int × Bool :=
  let t := viewPos o x y ch
  let per := 256 / fmtBits o.f
  let l := (List.range per).map (fun k => t.1 / per * per + k)
  if l.any (fun i => ((runCell runs p i t.2.1 t.2.2).map (·.2)).getD false) then (0, true)
  else (sext (fmtBits o.f) (((runCell runs p t.1 t.2.1 t.2.2).map (·.1)).getD 0), false)

/-- Every block of problem `p` can be encoded: all its elements are staged (12 R338). -/
def codedWhole (runs : List Run) (o : Opd) (p : Nat) : Bool :=
  (List.range o.d.n2).all (fun ch => (List.range o.d.n1).all (fun y => (List.range o.d.n0).all (fun x =>
    let t := viewPos o x y ch
    (runCell runs p t.1 t.2.1 t.2.2).isSome)))

/-- Charge the lane steps of a coded transfer of the blocks `es` (by number over all problems), `per` steps a valid element (12 R336, R338). -/
def chargeLanes (s : State) (r : Nat) (o : Opd) (c : CRec) (es : List Nat) (per : Nat) : State :=
  tallyAdd s tDrawSteps (48 * min (codedLanes s r o.di).length es.length +
    per * es.foldl (fun a e => a + (blockElems o.d c (e % nBlocks o.d c)).length) 0)

/-- Block `e` of problem `p` passes through the hoop that HOOP names, with MARK, if it is read (12 R335). -/
def blockTransit (s : State) (r : Nat) (ue : List Nat) (d : Desc) (c : CRec) (p e : Nat) : State :=
  let h := hoopIdx ((descOf s c.hoop).getD descZero)
  (blockSpan s ue d c p e).foldl (fun s x => hoopPop (hoopPutSlot s r h ue (spanGet s ue x.1 x.2) true) r h) s

/-- The bytes that runs write to a PLAIN operand and its side-operand, each with its poison, in order. -/
def runBytes (o : Opd) (runs : List Run) : List (Nat × Byte × Bool) :=
  runs.flatMap (fun u => cellBytes o u.p u.i0 u.i1 u.i2 (u.cells.map cellMain) ++ u.cells.flatMap cellSide)

/-- Write the runs of an output: PLAIN by byte enables (R208), CODED problem by problem in ascending order, each once all its blocks are encoded (12
R338). -/
def storeRuns (s : State) (r : Nat) (ue : List Nat) (o : Opd) (runs : List Run) : State :=
  match o.crec with
  | none =>
    runs.foldl (fun s u =>
      putBytes (putBytes s ue (cellBytes o u.p u.i0 u.i1 u.i2 (u.cells.map cellMain))) ue (u.cells.flatMap cellSide)) s
  | some c =>
    let ps := ((runs.map (·.p)).eraseDups).filter (codedWhole runs o)
    let n := nBlocks o.d c
    ps.foldl (fun s p =>
      let q := writeCoded s ue o.d c (codedVal runs o p) p
      setStickies q.1 (regionCtx q.1 r) q.2) (chargeLanes s r o c (ps.flatMap (fun p => (List.range n).map (fun e => p * n + e))) 2)

/-- The blocks of a coded operand that hold a position of `l`, by number over all problems. -/
def blocksOf (o : Opd) (l : List (Nat × Nat × Nat × Nat)) : List Nat :=
  match o.crec with
  | none => []
  | some c =>
    let n := nBlocks o.d c
    (l.map (fun x => let q := codedPos o x.2.1 x.2.2.1 x.2.2.2; x.1 * n + blockOf o.d c q.1 q.2.1 q.2.2)).eraseDups

/-- The distinct numbers of a list, ascending. -/
def ascending (l : List Nat) : List Nat := if l = [] then [] else (List.range (l.foldl max 0 + 1)).filter (fun e => l.contains e)

/-- The fetch of the coded blocks `es`, in order: each goes through the hoop to a lane, their flags are set and their lane steps charged
(12 R335, R336, R341, R342). -/
def chargeBlocks (s : State) (r : Nat) (ue : List Nat) (o : Opd) (es : List Nat) : State :=
  match o.crec with
  | none => s
  | some c =>
    let n := nBlocks o.d c
    let s1 := es.foldl (fun s e => blockTransit s r ue o.d c (e / n) (e % n)) s
    chargeLanes (setStickies s1 (regionCtx s r) (es.foldl (fun m e => m ||| (o.blocks.getD e ([], 0)).2) 0)) r o c es 1

/-! Beats (07 R208; 18 R483). -/

/-- Beats of Hearth and of Cellar that spans take, each span once. -/
def spanBeats (l : List (Nat × Nat)) : Nat × Nat :=
  l.foldl (fun t x =>
    let n := if x.2 = 0 then 0 else (x.1 + x.2 - 1) / 64 + 1 - x.1 / 64
    if levelOf x.1 = 1 then (t.1 + n, t.2) else if levelOf x.1 = 0 then (t.1, t.2 + n) else t) (0, 0)

/-- The beats of Hearth or Cellar that hold positions of a plain operand, each once; none where it lies elsewhere. -/
def beatSpans (o : Opd) (l : List (Nat × Nat × Nat × Nat)) : List (Nat × Nat) :=
  if o.crec.isSome || decide (1 < levelOf o.d.base) then []
  else (l.map (fun x => (elemAddr o x.1 x.2.1 x.2.2.1 x.2.2.2 / 64 * 64, 64))).eraseDups

/-- The errors that an instruction's reads met, with the beats that it moves. -/
def withBeats (e : MemErrs) (x : Nat × Nat) : MemErrs := { e with hearth := x.1, cellar := x.2 }

/-! Address faults. -/

/-- The spans of the scales of `n` rows or columns over `k` indices (R139). -/
def scaleSpans (x : Aux) (n k : Nat) : List (Nat × Nat) :=
  let ng := ceilDiv k (max x.g 1)
  if x.scale = 0 then []
  else if x.act then (List.range (if x.pitch = 0 then min n 1 else n)).map (fun m => (x.scale + 2 * m * x.pitch, 2 * ng))
  else (List.range ng).map (fun j => (x.scale + 2 * j * x.pitch, 2 * n))

/-- The spans that an operand's aux record takes up and leads to: the record, the scales of `n` rows of `k` indices, the zero points of `chs`
channels, the silver map over them and the side-operand of `rows` rows (R159, R139, R141, R160). A poisoned record leads nowhere (R554). -/
def auxSpans (o : Opd) (scaled zps map side : Bool) (n k rows chs : Nat) : List (Nat × Nat) :=
  let x := o.x
  match x.addr with
  | none => []
  | some a => (a, 64) ::
    (if scaled then scaleSpans x n k else []) ++
    (if zps && fmtInt o.f && decide (x.zpa ≠ 0) then [(x.zpa, 4 * chs)] else []) ++
    (if map && decide (x.smap ≠ 0) then [(x.smap, 8 * ceilDiv chs 128)] else []) ++
    (if side then [(x.sside, 16 * rows * ceilDiv chs 128)] else [])

/-- A product's operand with the spans of its aux record: `n` rows of A or columns of B, over `k` indices. -/
def withAux (o : Opd) (scaled zps map side : Bool) (n k : Nat) : Opd :=
  { o with extra := o.extra ++ auxSpans o scaled zps map side n k n k }

/-- The operand of an instruction on elements, or an output, with the spans of its aux record by the channel axis that the record declares
(R553). -/
def withAuxAxis (o : Opd) (scaled zps silver : Bool) : Opd :=
  let chs := chanCount o
  let rows := rowCount o
  let sv := silver && decide (o.x.smap ≠ 0)
  { o with extra := o.extra ++ (if o.x.act then auxSpans o scaled zps sv sv rows chs rows chs
      else auxSpans o scaled zps sv sv chs rows rows chs) }

/-- An operand of no lines that stands for the bytes of a table at descriptor `di` over `np` problems; they keep to its declared extent (R158). -/
def tableOpd (s : State) (di np : Nat) (l : List (Nat × Nat)) : Opd :=
  let d := (descOf s di).getD descZero
  { d := d, di := di, f := .raw8, n0 := 0, n1 := 0, n2 := 0, q0 := 0, q1 := 0, q2 := 0, x := auxNone .raw8, crec := none
    twoD := false, blocks := [], extra := l, bound := some (declSpan d (d.n0, d.n1, d.n2) np) }

/-- The fault of an access of `n` bytes at `a` to the table at descriptor `di` over `np` problems, which keeps to its declared extent (03 R80, 06 R158,
R187). -/
def tableFault (s : State) (di np a n : Nat) : Option (Nat × Nat × Nat) := 
  let d := (descOf s di).getD descZero
  (spanFault s a n).elim ((spansLeave (declSpan d (d.n0, d.n1, d.n2) np) [(a, n)]).map (fun x => (fcAddrBounds, x, di))) (fun y => some (y.1, y.2, di))

/-- The lines that an access to problems `p0` to `p1 - 1` of a PLAIN operand covers: first address and bytes. -/
def lineSpans (o : Opd) (p0 p1 : Nat) : List (Nat × Nat) :=
  (List.range (p1 - p0)).flatMap (fun p => (List.range o.q2).flatMap (fun i2 => (List.range o.q1).map (fun i1 =>
    (elemAddr o (p0 + p) 0 i1 i2, ceilDiv (o.q0 * fmtBits o.f) 8))))

/-- The first address fault of an operand: code, address and descriptor index (R471; log entry 108). What the use touches beside the lines comes
first; a coded tensor has no lines. -/
def opdFault (s : State) (p0 p1 : Nat) (o : Opd) : Option (Nat × Nat × Nat) :=
  (o.extra ++ (if o.crec.isSome then [] else lineSpans o p0 p1)).findSome? (fun x =>
    (spanFault s x.1 x.2).elim ((o.bound.bind (fun b => spansLeave b [x])).map (fun a => (fcAddrBounds, a, o.di))) (fun y => some (y.1, y.2, o.di)))

/-- Take the address fault of the first operand that has one, or go on. -/
def guardAddr (s : State) (r p0 p1 : Nat) (l : List Opd) (f : Unit → State) : State :=
  match l.findSome? (opdFault s p0 p1) with
  | some x => addrFaultAt s r x.1 x.2.1 x.2.2
  | none => f ()

end Sys2Proof.Machine
end

