-- ==== Sys2Proof/Machine/Checks.lean ====
section
/-! DEFINITION. What the host's loader checks of an instruction with operands: its descriptors, their padding, overlap and formats (04 R95, R103, R113,
R128; 05 R136, R141; 06 R153 to R168; 07 R207, R212). -/

namespace Sys2Proof.Machine

/-! Fields and descriptors of a macro-instruction. -/

/-- Descriptor index in field D`i` of a macro-instruction. -/
def dField (w : MacroW) (i : Nat) : Nat :=
  match i with
  | 0 => w.d0
  | 1 => w.d1
  | 2 => w.d2
  | 3 => w.d3
  | _ => w.d4

/-- PRES bit of D`i` (R163). -/
def pres (w : MacroW) (i : Nat) : Bool := bit w.p1 (27 + i)

/-- The descriptors of the operands `l` of a macro-instruction. -/
def descsOf (s : State) (w : MacroW) (l : List Nat) : List Desc := l.filterMap (fun i => descOf s (dField w i))

/-- Format of operand D`i`. -/
def fmtField (s : State) (w : MacroW) (i : Nat) : Fmt := (fmtOf (((descOf s (dField w i)).map (·.fmt)).getD 0)).getD .raw8

/-- The operand slots that a macro-instruction uses: D0 where it writes, and D1 to D4 by PRES. -/
def usedSlots (w : MacroW) (writes : Bool) : List Nat :=
  (if writes then [0] else []) ++ (List.range 4).filterMap (fun i => if pres w (i + 1) then some (i + 1) else none)

/-! Padded shapes and extents. -/

/-- h and w of a strike shape (07 R196). -/
def strikeShape (k : Nat) : Nat × Nat :=
  match k with
  | 0 => (128, 128)
  | 1 => (256, 64)
  | 2 => (64, 256)
  | _ => (512, 32)

/-- Dimensions of the operand `k` of an instruction of opcode `op` after SWPAD, with its STRIKE and TRANSB (07 R209). -/
def padShape (op strike : Nat) (tb : Bool) (k : Nat) (d : Desc) : Nat × Nat × Nat :=
  let hw := strikeShape strike
  let line := 512 / fmtBits (descFmt d)
  if ¬ d.swpad then (d.n0, d.n1, d.n2)
  else match op, k with
  | 0x10, 0 => (roundUp d.n0 hw.2, roundUp d.n1 hw.1, d.n2)
  | 0x10, 1 => (roundUp d.n0 128, roundUp d.n1 hw.1, d.n2)
  | 0x10, 2 => if tb then (roundUp d.n0 128, roundUp d.n1 hw.2, d.n2) else (roundUp d.n0 hw.2, roundUp d.n1 128, d.n2)
  | 0x11, 0 => (d.n0, ceilDiv (roundUp (d.n0 * d.n1) hw.1) (max 1 d.n0), roundUp d.n2 hw.2)
  | 0x11, 2 => if tb then (roundUp d.n0 128, roundUp d.n1 hw.2, d.n2) else (roundUp d.n0 hw.2, roundUp d.n1 128, d.n2)
  | op, _ => if (0x13 ≤ op ∧ op ≤ 0x17) ∨ op = 0x20 then (roundUp d.n0 line, d.n1, d.n2) else (d.n0, d.n1, d.n2)

/-- Padded dimensions of operand `k` of the instruction `w` of opcode `op`. -/
def slotShape (op : Nat) (w : MacroW) (k : Nat) (d : Desc) : Nat × Nat × Nat :=
  padShape op (bits w.p1 24 2) (if op = 0x10 then bit w.p1 17 else w.sub3) k d

/-- The extent of a coded tensor of `np` problems: its indices, data areas, means and cursor (12 R327, R329, R340). -/
def codedExtent (d : Desc) (c : CRec) (np : Nat) : List (Nat × Nat) :=
  [(d.base, 64 * (np - 1) * d.pstride + 4096 * ceilDiv (8 * nBlocks d c) 4096), (c.dataBase, (np - 1) * c.dstride + c.dataBytes)] ++
  (if c.mean = 0 then [] else [(c.mean, 2 * d.n2)]) ++ (if c.cursor = 0 then [] else [(c.cursor, 64)])

/-- The spans of a descriptor of an instruction over `np` problems, of padded dimensions `q` (R552). -/
def descExtents (s : State) (d : Desc) (q : Nat × Nat × Nat) (np : Nat) : List (Nat × Nat) :=
  match d.kind with
  | 1 => codedExtent d (codedRec s d) np
  | 2 => [(d.base, 64)]
  | 3 => (d.base, 16 * d.n0) :: (match descOf s d.aux with
    | some x => [declSpan x (x.n0, x.n1, x.n2) 1]
    | none => [])
  | 4 => [(d.base, d.n1 * d.n0 * 64)]
  | _ => [declSpan d q np]

/-! Descriptors. -/

/-- The bucket set of a descriptor is absent or breaks R161, or a dynamic dimension is not its largest bucket. -/
def bktBad (s : State) (d : Desc) : Bool :=
  match bktOf s d with
  | none => true
  | some b => decide (b.slot > 15) || decide (b.dyn > 7) || (List.range 3).any (fun i =>
      let z := b.sizes.getD i []
      if bit b.dyn i then decide (z.length = 0 ∨ 8 < z.length ∨ z.headD 0 = 0) || decide (z.getLastD 0 ≠ declDim d i) ||
        (z.zip z.tail).any (fun x => decide (x.2 ≤ x.1))
      else decide (z ≠ []))

/-- A descriptor breaks a condition on its own fields: kind, alignment and PADC (R155), format (R156), PAD (R158), its aux record (R159), its
static dimensions (20 R524). An AUX descriptor is never an operand, and no operand lies in an Anvil operand store, which data reach through the
tile levels alone (03 R90). -/
def descRefuse (s : State) (d : Desc) : Option String :=
  if d.kind > 5 ∨ d.base % 64 ≠ 0 then some "R155"
  else if d.fmt > 11 then some "R156"
  else if d.kind ≤ 1 ∧ d.padc / 2 ^ min 32 (fmtBits (descFmt d)) ≠ 0 then some "R155"
  else if d.pad > 5 then some "R158"
  else if d.kind = 2 ∨ (d.auxEn ∧ d.kind ≠ 3 ∧ (descOf s d.aux).map (·.kind) ≠ some 2) then some "R159"
  else if d.kind ≤ 1 ∧ (d.n0 = 0 ∨ d.n1 = 0 ∨ d.n2 = 0) then some "R524"
  else if d.bkt ≠ 0 ∧ bktBad s d then some "R161"
  else if levelOf d.base = 4 then some "R90"
  else none

/-- A written descriptor is read-only (R155), or its pitches let rows, planes or problems overlap (R157). -/
def writtenRefuse (d : Desc) : Option String :=
  if d.ronly then some "R155"
  else if d.kind = 0 ∧ (d.pitch1 * 64 < ceilDiv (d.n0 * fmtBits (descFmt d)) 8 ∨ d.pitch2 < d.n1 * d.pitch1 ∨ d.pstride < d.n2 * d.pitch2) then
    some "R157"
  else none

/-- The output's extent overlaps that of an input, which R165 refuses unless the instruction may write in place and D0 equals D1. -/
def overlaps (s : State) (op : Nat) (w : MacroW) (inPlace : Bool) (slots : List Nat) : Bool :=
  let o := (descOf s w.d0).getD descZero
  let spans := fun (i : Nat) (d : Desc) => descExtents s d (slotShape op w i d) (w.rep + 1)
  slots.any (fun i =>
    let d := (descOf s (dField w i)).getD descZero
    let same := decide (d.base = o.base) && decide (d.pitch1 = o.pitch1) && decide (d.pitch2 = o.pitch2) && decide (d.pstride = o.pstride) &&
      decide ((d.n0, d.n1, d.n2) = (o.n0, o.n1, o.n2)) && decide (fmtBits (descFmt d) = fmtBits (descFmt o))
    decide (i ≠ 0) && !(inPlace && decide (i = 1) && same) && (spans 0 o).any (fun x => (spans i d).any (fun y =>
      decide (x.1 < y.1 + y.2) && decide (y.1 < x.1 + x.2))))

/-- `n` bytes at device address `a` are constants of the program (06 R153). -/
def inConsts (s : State) (a n : Nat) : Bool :=
  match s.job with
  | some j => decide (j.consts.1 ≤ a ∧ a + n ≤ j.consts.1 + j.consts.2)
  | none => false

/-- The aux record of a descriptor as the loader sees it: that of the program's constants. One that lies elsewhere is written at run time. -/
def constAux (s : State) (d : Desc) : Aux :=
  if d.auxEn && inConsts s (((descOf s d.aux).map (·.base)).getD 0) 64 then auxOf s [] d (descFmt d) else auxNone (descFmt d)

/-- The loader knows the aux record of a descriptor: there is none, or it is of the constants. -/
def auxKnown (s : State) (d : Desc) : Bool := !d.auxEn || inConsts s (((descOf s d.aux).map (·.base)).getD 0) 64

/-- Declared range of a tensor: the limits of its descriptor's aux record, or its format's range (04 R109; DEDUCED, log entry 109). -/
def declRange (s : State) (d : Desc) : Int × Int := let x := constAux s d; (x.lo, x.hi)

/-- A descriptor has a zero point, so far as the constants say: PAD 2 asks for one (R158). -/
def zpGiven (s : State) (d : Desc) : Bool :=
  let x := constAux s d
  d.auxEn && (x.addr.isNone || x.zpEn || decide (x.zpa ≠ 0))

/-- An input's PAD is one that its use does not accept (R158): PAD 2 without an integer zero point, PAD 1 of an Assay tensor outside its declared range (04 R109), PAD 3 but on the input of a maximum (`mx`),
PAD 4 and 5 but on the input of a window (`win`). -/
def padBad (s : State) (w : MacroW) (win mx : Bool) (i : Nat) : Bool :=
  let d := (descOf s (dField w i)).getD descZero
  let f := descFmt d
  let r := declRange s d
  let c := sext (fmtBits f) (d.padc % 2 ^ fmtBits f)
  d.kind ≤ 1 && ((decide (d.pad = 1) && !w.cls && fmtInt f && auxKnown s d && decide (c < r.1 ∨ r.2 < c)) || (decide (d.pad = 2 ∧ d.kind = 0) && !(zpGiven s d && (f = .int4 || f = .int8 || f = .int16))) || (decide (d.pad = 3) && !mx) ||
    (decide (4 ≤ d.pad) && !(win && decide (i = 1))))

/-- The operand slots of `used` that hold coded tensors. -/
def codedSlots (s : State) (w : MacroW) (used : List Nat) : List Nat :=
  used.filter (fun i => ((descOf s (dField w i)).map (·.kind)) = some 1)

/-- A refusal common to the instructions with operands: a descriptor that does not exist (R153) or breaks a condition on it, an unused slot that is
not 0, LOOP with CLASS 1 (R163), a written descriptor that cannot be written (R155, R157), an output that overlaps an input (R165), a
PAD that the use does not accept (R158), a coded operand in a slot other than `coded`, or more than one (12 R334). -/
def refuseOps (s : State) (op : Nat) (w : MacroW) (need : List Nat) (writes : Bool) (win : Bool := false) (mx : Bool := false)
    (inPlace : Bool := false) (coded : List Nat := []) : Option String :=
  let used := usedSlots w writes
  if used.any (fun i => (descOf s (dField w i)).isNone) then some "R153"
  else if (List.range 4).any (fun i => !pres w (i + 1) && decide (dField w (i + 1) ≠ 0)) then some "R163"
  else if need.any (fun i => !pres w i) then some "R168"
  else if w.loop && w.cls then some "R163"
  else if (codedSlots s w used).any (fun i => !coded.contains i) || decide (1 < (codedSlots s w used).length) then some "R334"
  else (used.findSome? (fun i => (descOf s (dField w i)).bind (descRefuse s))).orElse (fun _ =>
    (if writes then (descOf s w.d0).bind writtenRefuse else none).orElse (fun _ =>
      if writes && overlaps s op w inPlace used then some "R165"
      else if used.any (fun i => decide (i ≠ 0) && padBad s w win mx i) then some "R158"
      else none))

/-! Formats and classes. -/

/-- The job is strict and the operation's formats are all binary16 or all binary32 (R128). DESIGN CHOICE (log entry 120): a Float operation that mixes binary16
or binary32 with another format under STRICT = 1 is an ordinary one, not a strict one of mixed formats. -/
def isStrict (s : State) (flt : Bool) (l : List Fmt) : Bool :=
  flt && (s.job.map (·.strict)).getD false && (l.all (· = .fp16) || l.all (· = .f32))

/-- Formats of a product that some class accepts (R103, R113). -/
def pairOk (flt strict : Bool) (fa fb : Fmt) : Bool :=
  let small := fun f => f = .fp4 || f = .e4m3 || f = .e5m2 || f = .int4 || f = .int8
  if !flt then (fa = .int8 || fa = .int16) && (fb = .int8 || fb = .int4)
  else if strict then fa = fb
  else (small fa && small fb) || (fa = .bf16 && (fb = .bf16 || (small fb))) || (fa = .fp16 && fb = .fp16)

/-- A Float output format: every one but raw bytes and Assay partials. -/
def floatOut (f : Fmt) : Bool := f ≠ .raw8 && f ≠ .int48

/-- An Assay output format (05 R133). -/
def assayOut (f : Fmt) : Bool := f = .int8 || f = .int16 || f = .int32

/-- A K share of the instruction at which region `r` stands. -/
def kShared (s : State) (r : Nat) : Bool := (placesOf s r (getRegion s r).pc).any (fun p => p.share = 4)

/-- The output format of a product that a class does not write (R95): a K share's partials are INT48, binary32 or of the strict
format (R106, R122). -/
def outRefuse (flt strict shared : Bool) (fa fo : Fmt) : Option String :=
  if shared then (if fo = (if !flt then .int48 else if strict then fa else .f32) then none else some "R106")
  else if (if flt then floatOut fo else assayOut fo) then none else some "R95"

/-! Aux records. -/

/-- The rule that the fields of an aux record of the constants break, whatever its use: reserved fields and G (R159), an address of no level or out of range
(00 R17, 03 R69), a scale tensor off a 64-byte boundary (05 R139). -/
def auxFields (s : State) (x : Aux) : Option String :=
  match x.addr with
  | none => none
  | some a =>
    if devLE s [] (a + 0x25) 1 / 8 ≠ 0 ∨ devLE s [] (a + 0x26) 2 ≠ 0 ∨ devLE s [] (a + 0x34) 12 ≠ 0 ∨
        (if x.scale ≠ 0 ∨ x.smap ≠ 0 then ¬ [32, 64, 128].contains x.g else x.g ≠ 0) then some "R159"
    else if x.scale % 64 ≠ 0 then some "R139"
    else ([x.scale, x.zpa, x.smap] ++ (if x.smap = 0 then [] else [x.sside])).findSome? (fun b =>
      if b = 0 then none else (addrFault s b).map (fun c => if c = fcAddrLevel then "R17" else "R69"))

/-- The zero points that a tensor of `chs` channels declares, so far as the constants say (05 R141). -/
def constZps (s : State) (x : Aux) (chs : Nat) : List Int :=
  if x.zpa = 0 then (if x.zpEn then [x.zp] else [])
  else if inConsts s x.zpa (4 * chs) then (List.range chs).map (fun c => sext 32 (devLE s [] (x.zpa + 4 * c) 4)) else []

/-- A BF16 code that a scale tensor may not hold: of activations, one that is not positive and normal; of weights, one that is not finite (05 R137). -/
def scaleCodeBad (act : Bool) (c : Nat) : Bool := if act then decide (c < 0x80 ∨ 0x7F80 ≤ c) else decide (bits c 7 8 = 255)

/-- The scales of `n` rows or columns over `k` indices hold such a code in the program's constants. -/
def scalesBad (s : State) (x : Aux) (n k : Nat) : Bool :=
  (scaleSpans x n k).any (fun y => inConsts s y.1 y.2 && (List.range (y.2 / 2)).any (fun i => scaleCodeBad x.act (devLE s [] (y.1 + 2 * i) 2)))

/-- The pitch of a scale tensor is not one of the layout's (05 R139). -/
def pitchBad (x : Aux) (n k : Nat) : Bool :=
  decide (x.scale ≠ 0) && (if x.act then decide (x.pitch ≠ 0 ∧ x.pitch ≠ roundUp (ceilDiv k (max x.g 1)) 32) else decide (x.pitch ≠ roundUp n 32))

/-- Scale rows, scale indices and channels of an operand, as its aux record is used. -/
structure AuxDims where
  n : Nat
  k : Nat
  chs : Nat

/-- Those of the operand of an instruction on elements, or of an output, by the channel axis that the record declares (R553). -/
def auxDims (d : Desc) (x : Aux) : AuxDims :=
  let c := if d.kind = 1 ∨ x.caxis then (d.n0 * d.n1, d.n2) else (d.n1 * d.n2, d.n0)
  if x.act then ⟨c.1, c.2, c.2⟩ else ⟨c.2, c.1, c.2⟩

/-- The aux record of an operand breaks a condition: its fields (R159), two zero points (R159), a zero point on a tensor that takes none or outside its format
(05 R141), limits that are none of an integer format on an output, and in a narrowing a zero point outside them (04 R107, 05 R136), a scale that is none
(05 R137) or off the layout's pitch (05 R139), or the wrong channel axis (R553). -/
def auxRefuse (s : State) (x : Aux) (f : Fmt) (caxis : Option Bool) (out flt : Bool) (z : AuxDims) : Option String :=
  let zs := constZps s x z.chs
  (auxFields s x).orElse (fun _ =>
    if x.zpEn ∧ x.zpa ≠ 0 then some "R159"
    else if (x.zpEn ∨ x.zpa ≠ 0) ∧ ¬ (f = .int4 ∨ f = .int8 ∨ f = .int16) then some "R141"
    else if zs.any (fun v => decide (v < fmtMin f ∨ fmtMax f < v)) then some "R141"
    else if out ∧ fmtInt f ∧ (x.hi < x.lo ∨ x.lo < fmtMin f ∨ fmtMax f < x.hi) then some (if flt then "R136" else "R107")
    else if out ∧ flt ∧ zs.any (fun v => decide (v < x.lo ∨ x.hi < v)) then some "R136"
    else if pitchBad x z.n z.k then some "R139"
    else if scalesBad s x z.n z.k then some "R137"
    else if x.addr.isSome ∧ (caxis.map (fun c => c != x.caxis)).getD false then some "R553"
    else none)

/-- The zero points of the `chs` channels of an aux record, if the constants give them (05 R141). -/
def zpList (s : State) (x : Aux) (chs : Nat) : Option (List Int) :=
  if x.zpa = 0 then some (List.replicate chs (if x.zpEn then x.zp else 0))
  else if inConsts s x.zpa (4 * chs) then some (constZps s x chs) else none

/-- Two tensors of `chs` channels share their zero points, as far as the constants tell (04 R108, 05 R142). -/
def zpsAgree (s : State) (d1 d2 : Desc) (chs : Nat) : Bool :=
  let x := constAux s d1
  let y := constAux s d2
  !auxKnown s d1 || !auxKnown s d2 || decide (x.zpa = y.zpa ∧ x.zpEn = y.zpEn ∧ x.zp = y.zp) ||
    (match zpList s x chs, zpList s y chs with
    | some a, some b => decide (a = b)
    | _, _ => true)

/-- An aux record has a scale tensor or a silver map. -/
def scaledOrSilver (x : Aux) : Bool := decide (x.scale ≠ 0) || decide (x.smap ≠ 0)

/-- What a class forbids in the aux records `l` of an instruction: scales or a silver map in Assay class (R103, R125) and, with zero points, in a strict
operation (R128); groups of another size than GSEL says, which Assay class leaves 0 (R168). -/
def classRefuse (w : MacroW) (strict : Bool) (l : List Aux) : Option String :=
  let g := bits w.p1 26 2
  if (w.cls ∧ g = 3) ∨ (¬ w.cls ∧ g ≠ 0) then some "R168"
  else if !w.cls && l.any (fun x => decide (x.scale ≠ 0)) then some "R103"
  else if !w.cls && l.any (fun x => decide (x.smap ≠ 0)) then some "R125"
  else if strict && l.any (fun x => scaledOrSilver x || x.zpEn || decide (x.zpa ≠ 0)) then some "R128"
  else if w.cls && !strict && l.any (fun x => scaledOrSilver x && decide (x.g ≠ 32 * 2 ^ g)) then some "R168"
  else none

/-- A requantisation table at `a` of `n` entries of `size` bytes, with s at byte `size - 4` of each, holds in the program's constants a shift above 63 or
a nonzero reserved byte (04 R107; R168, R172). -/
def shiftsBad (s : State) (a n size : Nat) : Option String :=
  if !inConsts s a (size * n) then none
  else if (List.range n).any (fun i => decide (63 < devLE s [] (a + size * i + size - 4) 1)) then some "R107"
  else if (List.range n).any (fun i => decide (devLE s [] (a + size * i + size - 3) 3 ≠ 0)) then some "R172"
  else none

/-- The axis that an operand's aux record must declare: none where it is coded, whose axes follow its view (R553). -/
def axisOf (d : Desc) (axis : Option Bool) : Option Bool := if d.kind = 1 then none else axis

/-- The aux records of a product hold what its class forbids, a zero point on weights (05 R141), or a silver map where A is BF16 or FP16 (R125). -/
def prodAuxRefuse (w : MacroW) (strict : Bool) (fa : Fmt) (xa xb xo : Aux) : Option String :=
  (classRefuse w strict [xa, xb, xo]).orElse (fun _ =>
    if xb.zpEn || decide (xb.zpa ≠ 0) then some "R141"
    else if decide (xa.smap ≠ 0) && (fa = .bf16 || fa = .fp16) then some "R125"
    else none)

/-- Dimension `i` of a descriptor for the comparison of R212: its slot, number and buckets where it is dynamic, or its size. -/
def dimKey (s : State) (d : Desc) (i : Nat) : Nat ⊕ (Nat × Nat × List Nat) :=
  match bktOf s d with
  | some b => if bit b.dyn i then .inr (b.slot, i, b.sizes.getD i []) else .inl (declDim d i)
  | none => .inl (declDim d i)

/-- As `dimKey`, in the 2D view of a coded tensor (12 R330). -/
def dimKey2 (s : State) (d : Desc) (i : Nat) : Nat ⊕ (Nat × Nat × List Nat) :=
  if d.kind = 1 then .inl (if i = 0 then d.n0 * d.n1 else if i = 1 then d.n2 else 1) else dimKey s d i

/-- A code of a floating-point format that PADC may not hold: a NaN or an infinity (R207). -/
def padcBad (d : Desc) : Bool :=
  d.pad = 1 && !(fmtInt (descFmt d)) && descFmt d ≠ .raw8 &&
    (let v := fdec (descFmt d) (d.padc % 2 ^ fmtBits (descFmt d)); fIsNaN v || fIsInf v)

/-! Coded tensors (12 R326 to R339). -/

/-- Bytes of the index of a problem (R329). -/
def indexBytes (d : Desc) (c : CRec) : Nat := 4096 * ceilDiv (8 * nBlocks d c) 4096

/-- A CODED descriptor breaks a condition of R326, over `np` problems. -/
def codedDescBad (s : State) (d : Desc) (c : CRec) (np : Nat) : Bool :=
  let f := descFmt d
  let x := constAux s d
  decide (levelOf d.base > 1 ∨ d.base % 4096 ≠ 0) || !(f = .int8 || f = .int16) || decide (d.pad > 3) || (decide (d.pad = 2) && !x.zpEn && decide (x.zpa = 0)) ||
    !d.swpad || decide (d.bkt ≠ 0 ∨ d.pitch1 ≠ 0 ∨ d.pitch2 ≠ 0) || !d.auxEn || decide (d.pstride % 64 ≠ 0) ||
    decide (1 < np ∧ d.pstride * 64 < indexBytes d c)

/-- The coded record at `a` breaks a condition of R327. -/
def codedRecBad (s : State) (d : Desc) (c : CRec) (a : Nat) : Bool :=
  let f := descFmt d
  let g := fun o n => devLE s [] (a + o) n
  let dram := fun (x : Nat) => decide (levelOf x ≤ 1)
  !inConsts s a 64 || decide (g 0 4 ≠ 0x4B4C4243 ∨ g 4 1 ≠ 1 ∨ g 0x3E 2 ≠ 0) || !([8, 16, 32, 48, 64].contains c.cb) || decide (c.ni = 0 ∨ 8 < c.ni) ||
    decide (c.family ≥ bankLE (bankAt s c.bank) 5 1) || !inConsts s c.bank (max 64 (bankLE (bankAt s c.bank) 8 4)) || !dram c.dataBase || decide (c.dataBase % 64 ≠ 0) ||
    decide (c.dataBytes % 64 ≠ 0 ∨ c.dataBytes < 64) || decide (c.dstride ≠ 0 ∧ (c.dstride % 64 ≠ 0 ∨ c.dstride < c.dataBytes)) ||
    decide (c.mean ≠ 0 ∧ levelOf c.mean > 2) ||
    (if c.dstride = 0 then !dram c.cursor || decide (c.cursor % 64 ≠ 0) else decide (c.cursor ≠ 0)) ||
    decide (c.lo < fmtMin f ∨ fmtMax f < c.hi ∨ c.hi < c.lo) || decide (((descOf s c.hoop).map (·.kind)) ≠ some 4) ||
    decide (c.saux ≠ 0xFF ∧ ((descOf s c.saux).map (·.kind)) ≠ some 2) || (constAux s d).caxis

/-- Every symbol of the tensor can be coded (R328): v from LO to HI, less a mean of the constants, or any INT16 mean that is written at run time. -/
def codedFits (s : State) (d : Desc) (c : CRec) : Bool :=
  let t := (cdfTable (bankAt s c.bank) c.family 0).2
  if c.mean = 0 then codableSpan t c.lo c.hi
  else if inConsts s c.mean (2 * d.n2) then (List.range d.n2).all (fun ch => let m := (codedMean s [] c ch).1; codableSpan t (c.lo - m) (c.hi - m))
  else codableSpan t (c.lo - 32767) (c.hi + 32768)

/-- What the loader refuses of the coded operand in slot `i` (R326 to R328, R330, R335, R339; 20 R519 c14): `threeD` says that the instruction uses the
3D view, and `wrote` gives the range of what it writes where it does not clamp (R339). -/
def codedOpRefuse (s : State) (r : Nat) (w : MacroW) (threeD : Bool) (wrote : Option (Int × Int)) (i : Nat) : Option String :=
  let d := (descOf s (dField w i)).getD descZero
  let c := codedRec s d
  let out := wrote.getD (declRange s d)
  let places := placesOf s r (getRegion s r).pc
  let hoop := (descOf s c.hoop).getD descZero
  let edge := s.job.bind (fun j => j.edges.find? (fun e => e.producer = (getRegion s r).pc && e.desc = dField w i))
  if codedDescBad s d c (w.rep + 1) then some "R326"
  else if codedRecBad s d c (((descOf s d.aux).map (·.base)).getD 0) then some "R327"
  else if !codedFits s d c then some "R328"
  else if !threeD ∧ d.n0 % 16 ≠ 0 then some "R330"
  else if hoop.padc / 64 ≠ 0 then some "R254"
  else if rd s (Fk.hoopCfgPutEnd (posOf s r) (hoopIdx hoop)) ≠ 0 ∨ rd s (Fk.hoopCfgTakeEnd (posOf s r) (hoopIdx hoop)) ≠ 0 then some "R335"
  else if i ≠ 0 then (if hoop.n0 * 64 < blockMax d c then some "R335" else none)
  else if out.1 < c.lo ∨ c.hi < out.2 ∨ places.any (fun p => 1 < p.share) ∨ (c.dstride = 0 ∧ places.any (fun p => p.share = 1)) then some "R339"
  else if (edge.map (fun e => decide (descFmt d = .int8 ∧ e.aux = c.saux))) = some false then some "R519"
  else none

/-- What the loader refuses of an instruction's coded operands among `used`: of each what it breaks, and beside one a silver map (20 R519 c11). -/
def codedRefuse (s : State) (r : Nat) (w : MacroW) (threeD : Bool) (used : List Nat) (wrote : Option (Int × Int) := none) : Option String :=
  let l := codedSlots s w used
  if l ≠ [] ∧ used.any (fun i => decide ((constAux s ((descOf s (dField w i)).getD descZero)).smap ≠ 0)) then some "R519"
  else l.findSome? (codedOpRefuse s r w threeD wrote)

end Sys2Proof.Machine
end

