-- ==== Sys2Proof/Machine/Tiles.lean ====
section
/-! DEFINITION. Shares, the walk and the tiles of a product: their sizes, the panels that a wave finds held, and the beats that the others take (05 R140; 07
R191, R197 to R206, R208, R211). -/

namespace Sys2Proof.Machine

/-! Shares and the walk. -/

/-- The part of an instruction that a region executes: problems, strike rows, strike columns, and the K share (R199). -/
structure Share where
  p0 : Nat
  p1 : Nat
  r0 : Nat
  r1 : Nat
  c0 : Nat
  c1 : Nat
  k : Option (Nat × Nat)
deriving DecidableEq, Repr

/-- The share that a placement record gives, of `np` problems, `nr` strike rows and `nc` strike columns. -/
def shareOf (p : Place) (np nr nc : Nat) : Share :=
  match p.share with
  | 1 => ⟨p.shareLo, min p.shareHi np, 0, nr, 0, nc, none⟩
  | 2 => ⟨0, np, p.shareLo, min p.shareHi nr, 0, nc, none⟩
  | 3 => ⟨0, np, 0, nr, p.shareLo, min p.shareHi nc, none⟩
  | 4 => ⟨0, np, 0, nr, 0, nc, some (p.shareLo, p.shareHi)⟩
  | _ => ⟨0, np, 0, nr, 0, nc, none⟩

/-- Shape of a blank (R201). -/
def blankShape (fm fn r c : Nat) : Nat × Nat := if r ≤ fm then (1, 4) else if c ≤ fn then (4, 1) else (2, 2)

/-- Bytes of `nA` A row-blocks and `nB` B column-blocks over `k` indices (07 panel_bytes), for element widths in bits; `ga` and `gb`
are the groups of scaled operands (0 for unscaled). -/
def panelBytes (h w bA bB ga gb : Nat) (silver zps : Bool) (nA nB k : Nat) : Nat :=
  nA * h * ceilDiv (k * bA) 8 + nB * w * ceilDiv (k * bB) 8 + (if ga = 0 then 0 else nA * h * (k / ga) * 2) +
  (if gb = 0 then 0 else nB * w * (k / gb) * 2) +
  (if silver then (nA * h + nB * w) * (k / 128) * 16 + (k / 128) * 8 else 0) + (if zps then 4 * k else 0)

/-- The strikes of a share in walk order (R202): problem, strike row and strike column. `sA` and `sB` are the bar rows and bar columns
of a slab, 0 where the operand is not slabbed. -/
def walk (fm fn : Nat) (sh : Share) (sA sB : Nat) : List (Nat × Nat × Nat) :=
  let nr := sh.r1 - sh.r0
  let nc := sh.c1 - sh.c0
  let b := blankShape fm fn nr nc
  let wr := fm * b.1
  let wc := fn * b.2
  let br := ceilDiv nr wr
  let bc := ceilDiv nc wc
  let slabs := if sA ≠ 0 then ceilDiv br sA else if sB ≠ 0 then ceilDiv bc sB else 1
  (List.range (sh.p1 - sh.p0)).flatMap (fun p =>
    (List.range slabs).flatMap (fun sl =>
      let rows := if sA ≠ 0 then (List.range (min br (sl * sA + sA) - sl * sA)).map (fun i => sl * sA + i) else List.range br
      let cols := if sA = 0 ∧ sB ≠ 0 then (List.range (min bc (sl * sB + sB) - sl * sB)).map (fun i => sl * sB + i)
                  else List.range bc
      ((List.range rows.length).zip rows).flatMap (fun tr =>
        (if tr.1 % 2 = 0 then cols else cols.reverse).flatMap (fun tc =>
          (List.range fm).flatMap (fun i => (List.range fn).flatMap (fun j =>
            (List.range b.1).flatMap (fun u => (List.range b.2).filterMap (fun v =>
              let r := tr.2 * wr + i * b.1 + u
              let c := tc * wc + j * b.2 + v
              if r < nr ∧ c < nc then some (sh.p0 + p, sh.r0 + r, sh.c0 + c) else none))))))))

/-! Tile sizes (R200). -/

/-- What fixes the tiles of a product on a region, at its bucket's shape. `strikes` are those of its share in walk order; `aUnits` the A row-blocks, or for
a convolution the input lines of each channel group, that a strike reads, `aUnit` the bytes of one over `k` indices, `aRow` and `bCol` the row-block
and the column-block of a strike, by the problem whose bytes they are; `side` the bytes of A's scales, silver elements and zero points and of B, of
`nA` row-blocks and `nB` column-blocks over `k` indices; `levA` and `levB` the levels from which the operands enter the walk; `out` the bits of an
output; `coded` the coded operand, if there is one: whether it is A, the blocks that strikes need over a range of indices, and the bytes of one as
decoded, which take the place of its panels (12 R335); `slabs` says that a slab of a Cellar operand holds a bar; `rowA`, `rowB` the beats of a unit of A and of a column-block of B over K; and `k` the reduction indices that are stepped. -/
structure Geom where
  fm : Nat
  fn : Nat
  h : Nat
  w : Nat
  k : Nat
  kpad : Nat
  ks : Nat
  strikes : List (Nat × Nat × Nat)
  aUnits : Nat × Nat × Nat → List (Nat × Nat × Nat)
  aUnit : Nat → Nat
  aRow : Nat × Nat × Nat → Nat × Nat
  bCol : Nat × Nat × Nat → Nat × Nat
  side : Bool → Nat → Nat → Nat → Nat
  levA : Nat
  levB : Nat
  out : Nat
  coded : Option (Bool × (Nat × Nat → List (Nat × Nat × Nat) → List Nat) × Nat)
  slabs : Bool
  rowA : Nat × Nat × Nat → Nat
  rowB : Nat × Nat → Nat

/-- k_s of R200, where one A row-block and one B column-block take `bytes k` over `k` indices. -/
def chunkLen (bytes : Nat → Nat) (kpad : Nat) : Nat :=
  if bytes kpad ≤ 262144 then kpad
  else 128 * ((List.range (kpad / 128)).filter (fun i => decide (bytes (128 * i) ≤ 262144))).getLastD 0

/-- The waves of a walk (R203). -/
def wavesOf (a : Nat) (l : List (Nat × Nat × Nat)) : List (List (Nat × Nat × Nat)) :=
  (List.range (ceilDiv l.length (max 1 a))).map (fun i => (l.drop (i * a)).take a)

/-- The blanks of a wave: the strikes of each of its Forges (R203). -/
def blanksOf (wave : List (Nat × Nat × Nat)) : List (List (Nat × Nat × Nat)) :=
  (List.range (ceilDiv wave.length 4)).map (fun f => (wave.drop (4 * f)).take 4)

/-- The waves of a product. -/
def Geom.waves (g : Geom) : List (List (Nat × Nat × Nat)) := wavesOf (4 * g.fm * g.fn) g.strikes

/-- Bytes of the blocks of a coded operand that strikes need over any `k` indices, as a whole (12 R335). -/
def Geom.codedPanels (g : Geom) (inA inB : Bool) (l : List (Nat × Nat × Nat)) (k : Nat) : Nat :=
  match g.coded with
  | none => 0
  | some c =>
    if (if c.1 then inA else inB) then
      c.2.2 * (List.range (ceilDiv g.k (max 1 k))).foldl (fun x t => max x (c.2.1 (t * k, min g.k (t * k + k)) l).length) 0
    else 0

/-- panel_bytes of the distinct panels of the strikes `l` over `k` indices, of the operands named (R200, R206). -/
def Geom.panels (g : Geom) (inA inB : Bool) (l : List (Nat × Nat × Nat)) (k : Nat) : Nat :=
  (if inA then ((l.flatMap g.aUnits).eraseDups).length * g.aUnit k else 0) + g.codedPanels inA inB l k +
    g.side inA (if inA then ((l.map g.aRow).eraseDups).length else 0) (if inB then ((l.map g.bCol).eraseDups).length else 0) k

/-- `kpad` if every footprint there is within the grant; else the largest multiple of `q` below it for which it is, or 0. -/
def tileLen (foots : List (Nat → Nat)) (grant q kpad : Nat) : Nat :=
  let fits := fun (k : Nat) => foots.all (fun f => decide (f k ≤ grant))
  if fits kpad then kpad else (((List.range (ceilDiv kpad (max 1 q))).map (· * q)).filter fits).getLastD 0

/-- K_b under a Bench grant of `beta` bytes: an operand in Bench is no part of the footprint, and output staging is. -/
def Geom.kb (g : Geom) (beta : Nat) : Nat :=
  tileLen ((g.waves.flatMap blanksOf).map (fun l k => g.panels (decide (g.levA ≠ 3)) (decide (g.levB ≠ 3)) l k + 8192 * g.out)) beta g.ks g.kpad

/-- K_r under a Crucible grant of `gamma` bytes: only operands from Hearth and Cellar are part of the footprint. -/
def Geom.kr (g : Geom) (beta gamma : Nat) : Nat :=
  tileLen (g.waves.map (fun l => g.panels (decide (g.levA ≤ 1)) (decide (g.levB ≤ 1)) l)) gamma (g.kb beta) g.kpad

/-- Bars of a slab under a Hearth grant of `eta` bytes, of `n` bars: the most of which every run fits, where the panels of bars `i` to `j - 1` over K_pad take
`bytes i j`; 0 if none does. -/
def slabBars (bytes : Nat → Nat → Nat) (eta n : Nat) : Nat :=
  (((List.range n).map (· + 1)).filter (fun z => (List.range (ceilDiv n z)).all (fun t => decide (bytes (t * z) (min n (t * z + z)) ≤ eta)))).getLastD 0

/-- Beats of a line from element `i` to element `j - 1`, of `w` bits each (R208). -/
def lineBeats (w i j : Nat) : Nat := if j ≤ i then 0 else ceilDiv (j * w) 512 - i * w / 512

/-- Beats of columns `n0` to `n1 - 1` of a B operand over indices `k0` to `k1 - 1`, in either orientation (R208). -/
def colBeats (b : Opd) (tb : Bool) (n0 n1 k0 k1 : Nat) : Nat :=
  let w := fmtBits b.f
  if tb then (min n1 b.q1 - n0) * lineBeats w k0 (min k1 b.q0) else (min k1 b.q1 - k0) * lineBeats w n0 (min n1 b.q0)

/-- The level at which an operand enters the walk: its own; the blocks of a coded one are decoded into the Benches, past the slab and the bar (R90, R197, 12
R335). -/
def walkLevel (d : Desc) : Nat := if d.kind = 1 then 2 else levelOf d.base

/-- The blocks of a coded operand that the lines of strikes need over a range of indices: `prob` gives the problem of a strike, `line` its lines, and `pos`
the position of an index of a line. -/
def lineNeed (o : Opd) (prob : Nat × Nat × Nat → Nat) (line : Nat × Nat × Nat → Nat × Nat) (pos : Nat → Nat → Nat × Nat × Nat) (k : Nat × Nat)
    (l : List (Nat × Nat × Nat)) : List Nat :=
  blocksOf o (((l.map (fun t => (prob t, line t))).eraseDups).flatMap (fun y => (List.range (y.2.2 - y.2.1)).flatMap (fun i =>
    (List.range (k.2 - k.1)).map (fun j => (y.1, pos (y.2.1 + i) (k.1 + j))))))

/-- Bytes of a block of a coded operand as decoded, its padding included (12 R335). -/
def blockRoom (o : Opd) : Nat := 256 * ((o.crec.map (·.cb)).getD 0) * fmtBits o.f / 8

/-- The problem whose bytes an operand reads: with PSTRIDE 0 all problems read those of one (R205, R206). -/
def sameProb (d : Desc) (p : Nat) : Nat := if d.pstride = 0 then 0 else p

/-- The Forges, as region and Forge, in whose Benches lie those of operands `l` that lie in Bench (03 R68). -/
def benchesOf (l : List Desc) : List (Nat × Nat) :=
  (l.filter (fun d => decide (levelOf d.base = 3))).map (fun d => (bits d.base 27 3, bits d.base 23 4))

/-! What is held (R205). -/

/-- The panels, of those that each wave needs, that it does not find held: all of them where the level holds less than K_pad at a time. -/
def notHeld {α : Type} [DecidableEq α] (whole : Bool) : List α → List (List α) → List (List α)
  | _, [] => []
  | held, n :: l => (if whole then n.filter (fun x => !held.contains x) else n) :: notHeld whole n l

/-- Beats of Hearth and of Cellar that the operands of a product take on their way to the Crucibles: those from Hearth by bars; those from Cellar once for
each slab into Hearth, and from there by bars (R197, R203, R205, R208). A strike outside the actual shape, where `live` fails, reads nothing (R211). -/
def Geom.beats (g : Geom) (live : Nat × Nat × Nat → Bool) (beta gamma : Nat) : Nat × Nat :=
  let waves := g.waves.map (fun l => l.filter live)
  let strikes := g.strikes.filter live
  let whole := decide (g.kr beta gamma = g.kpad)
  let sum := fun (l : List Nat) => l.foldl (· + ·) 0
  let barA := sum ((notHeld whole [] (waves.map (fun l => (l.flatMap g.aUnits).eraseDups))).flatMap (fun l => l.map g.rowA))
  let barB := sum ((notHeld whole [] (waves.map (fun l => (l.map g.bCol).eraseDups))).flatMap (fun l => l.map g.rowB))
  let allA := sum (((strikes.flatMap g.aUnits).eraseDups).map g.rowA)
  let allB := sum (((strikes.map g.bCol).eraseDups).map g.rowB)
  let one := fun (lev bar all : Nat) => if lev = 0 then (all + bar, all) else if lev = 1 then (bar, 0) else (0, 0)
  ((one g.levA barA allA).1 + (one g.levB barB allB).1, (one g.levA barA allA).2 + (one g.levB barB allB).2)

/-- The rule by which the loader refuses a product for its tiles under the grants of a placement record: K_b or K_r is 0, or a slab holds no bar, or an
operand in Bench, by the region and Forge whose it is, lies in that of another Forge than reads it, which R259 alone moves (R200). -/
def Geom.refuse (g : Geom) (pl : Place) (bench : List (Nat × Nat)) : Option String :=
  let mine := (List.range (min (pl.fm * pl.fn) (ceilDiv g.strikes.length 4))).map (fun i => (pl.region, bits pl.forges (4 * i) 4))
  if g.strikes = [] then none
  else if g.kb (1024 * pl.beta) = 0 ∨ g.kr (1024 * pl.beta) (1024 * pl.gamma) = 0 ∨ !g.slabs then some "R200"
  else if pl.wmode = 0 ∧ bench.any (fun b => mine.any (fun f => decide (f ≠ b))) then some "R200"
  else none

/-- The chunk that each Anvil's operand store holds after the walk, by Forge and Anvil as 4 × Forge + Anvil: its strike and the reduction indices of the
last chunk of it (R191, R204). -/
def Geom.chunks (g : Geom) (forges : Nat) : List (Nat × List Nat) :=
  let a := 4 * g.fm * g.fn
  (List.range (min a g.strikes.length)).filterMap (fun i =>
    ((((List.range g.strikes.length).zip g.strikes).filter (fun x => x.1 % a = i)).getLast?).map (fun x =>
      (4 * bits forges (4 * (i / 4)) 4 + i % 4, [x.2.1, x.2.2.1, x.2.2.2, (g.k - 1) / max 1 g.ks * g.ks, g.k])))

/-! Buckets (06 R161, R211). -/

/-- The sizes of the bucketed dimensions of descriptors `l` in combination `c` of buckets, by slot and dimension (09 R245; log entry 16). -/
def comboSizes (s : State) (l : List Desc) (c : Nat) : List ((Nat × Nat) × Nat) :=
  ((comboDims s l).foldl (fun (q : Nat × List ((Nat × Nat) × Nat)) x =>
    (q.1 / max 1 x.2.2.length, q.2 ++ [((x.1, x.2.1), x.2.2.getD (q.1 % max 1 x.2.2.length) 0)])) (c, [])).2

/-- Dimension `i` of a descriptor in those sizes. -/
def sizeDim (s : State) (z : List ((Nat × Nat) × Nat)) (d : Desc) (i : Nat) : Nat :=
  match bktOf s d with
  | some b => if bit b.dyn i then ((z.find? (fun y => decide (y.1 = (b.slot, i)))).map (·.2)).getD (declDim d i) else declDim d i
  | none => declDim d i

/-! Coded blocks (12 R335, R336). -/

/-- The blocks of a coded operand that a walk fetches, in order: for each blank, wave by wave, over each K_b indices, the blocks that it needs (`need`) and
does not hold, in ascending number. -/
def Geom.fetchOrder (g : Geom) (beta : Nat) (need : Nat × Nat → List (Nat × Nat × Nat) → List Nat) : List Nat :=
  let kb := max 1 (g.kb beta)
  let steps := ceilDiv g.k kb
  let waves := g.waves.map blanksOf
  (((List.range waves.length).zip waves).flatMap (fun x => (List.range steps).flatMap (fun t => (List.range x.2.length).flatMap (fun f =>
    let here := ascending (need (t * kb, min g.k (t * kb + kb)) (x.2.getD f []))
    let held := if steps = 1 ∧ x.1 ≠ 0 then need (0, g.k) ((waves.getD (x.1 - 1) []).getD f []) else []
    here.filter (fun e => !held.contains e)))))

end Sys2Proof.Machine
end

