-- ==== Sys2Proof/Machine/Matrix.lean ====
section
/-! DEFINITION. Matrix products and convolutions: MMUL, CONV, STEM (04 R103 to R132; 06 R168, R169, R171; 07; 08). -/

namespace Sys2Proof.Machine

/-! The product. -/

/-- A product or convolution reduced to rows, columns and a reduction index: how its elements, scales and zero points are found. Codes
come with their poison. -/
structure Prod where
  fa : Fmt
  fb : Fmt
  k : Nat
  g : Nat
  a : Nat → Nat → Nat → Nat → Nat × Bool
  chan : Nat → Nat → Nat
  b : Nat → Nat → Nat → Nat × Bool
  za : Nat → Int × Bool
  zPer : Bool
  sa : Nat → Nat → Nat → Nat × Bool
  sb : Nat → Nat → Nat × Bool
  kpad : Nat
  silver : Option (Nat → Nat → List (List (Nat × (Nat × Bool) × (Nat × Bool)) × Bool))
  bias : Nat → Nat × Bool
  hasBias : Bool
  fbias : Fmt

/-- Value of a bias as an INT32. -/
def biasInt (q : Prod) (n : Nat) : Int := if q.hasBias then sext 32 (q.bias n).1 else 0

/-- Poison of the elements, zero points, scales and bias that an output depends on, over indices `k0` to `k1 - 1` (R132, R150). The elements at an
index that `skip` names, a silver one, are ignored (R123). -/
def prodBad (q : Prod) (flt : Bool) (p m n k0 k1 : Nat) (bias : Bool) (skip : Nat → Bool) : Bool :=
  (List.range (k1 - k0)).any (fun i =>
    (!skip (k0 + i) && ((q.a p m n (k0 + i)).2 || (q.b p n (k0 + i)).2 || (q.za (q.chan n (k0 + i))).2)) ||
      (flt && ((q.sa m n ((k0 + i) / q.g)).2 || (q.sb n ((k0 + i) / q.g)).2))) || (bias && q.hasBias && (q.bias n).2)

/-- The Assay accumulator over indices `k0` to `k1 - 1` from `acc`, and the first step at which it leaves INT48 (R104, R111). -/
def assayAcc (q : Prod) (p m n k0 k1 : Nat) (acc : Int) : Int × Option Nat :=
  (List.range (k1 - k0)).foldl (fun (t : Int × Option Nat) i =>
    let k := k0 + i
    let v := t.1 + (intVal q.fa (q.a p m n k).1 - (q.za (q.chan n k)).1) * intVal q.fb (q.b p n k).1
    (v, t.2.orElse (fun _ => if inI48 v then none else some k))) (acc, if inI48 acc then none else some k0)

/-- Value of element `k` of A as a Float operand; an index at or beyond K is padding (R114, R207, R143), from which no zero point is subtracted where A has one
per channel (DESIGN CHOICE, log entry 120). -/
def aVal (q : Prod) (p m n k : Nat) : Arith FVal :=
  if k < q.k then elemVal q.fa (q.a p m n k).1 (q.za (q.chan n k)).1
  else if q.kpad = 2 ^ 64 then pure (.fin false 0 0)
  else elemVal q.fa q.kpad (if q.zPer then 0 else (q.za 0).1)

/-- Value of element `k` of B; zero beyond K. -/
def bVal (q : Prod) (p n k : Nat) : Arith FVal :=
  if k < q.k then elemVal q.fb (q.b p n k).1 0 else pure (.fin false 0 0)

/-- The leaf of group `j`: the group value over the indices of the group that `skip` does not name (R116, R123). -/
def groupLeaf (q : Prod) (p m n j : Nat) (skip : Nat → Bool) : Arith Nat := do
  let ks := ((List.range q.g).map (fun i => j * q.g + i)).filter (fun k => !skip k)
  let l ← ks.mapM (fun k => do return (← aVal q p m n k, ← bVal q p n k))
  groupValue (← scaleVal (q.sa m n j).1) (← scaleVal (q.sb n j).1) l

/-- The leaves of R118 for one output, each with its poison; the silver leaf of a block follows its groups. -/
def leavesOf (q : Prod) (p m n : Nat) : List (Arith Nat × Bool) :=
  let gbad := fun j => prodBad q true p m n (j * q.g) (min q.k (j * q.g + q.g)) false
  match q.silver with
  | none => (List.range (ceilDiv q.k q.g)).map (fun j => (groupLeaf q p m n j (fun _ => false), gbad j (fun _ => false)))
  | some sv =>
    let blocks := sv m n
    (List.range (ceilDiv q.k 128)).flatMap (fun b =>
      let bl := blocks.getD b ([], false)
      let named := bl.1.map (fun e => 128 * b + e.1)
      let ng := ceilDiv (min q.k (128 * b + 128) - 128 * b) q.g
      (List.range ng).map (fun i =>
        let j := 128 / q.g * b + i
        (groupLeaf q p m n j (fun k => named.contains k), gbad j (fun k => named.contains k) || bl.2)) ++
      [((do
          let l ← bl.1.mapM (fun e => do
            if 128 * b + e.1 < q.k then return (← fin .bf16 e.2.1.1, ← fin .bf16 e.2.2.1)
            else return ((.fin false 0 0 : FVal), (.fin false 0 0 : FVal)))
          groupValue scaleOne scaleOne l),
        bl.2 || bl.1.any (fun e => e.2.1.2 || e.2.2.2))])

/-- The leaves of a strict tree: one product for each index (R129). -/
def strictLeaves (q : Prod) (dir p m n : Nat) : List (Arith Nat × Bool) :=
  (List.range q.k).map (fun k => (ieeeMul q.fa dir (q.a p m n k).1 (q.b p n k).1, prodBad q false p m n k (k + 1) false (fun _ => false)))

/-- Run leaves in order. -/
def runLeaves (l : List (Arith Nat × Bool)) : Arith (List Nat) := l.mapM (·.1)

/-- The Float result of one output before the output stage, in binary32 or the strict format, with its poison; a K share has the
node of its leaves and no bias (R118, R119, R121, R129). -/
def floatDot (q : Prod) (strict : Bool) (dir p m n : Nat) (share : Option (Nat × Nat)) : Arith Nat × Bool :=
  let all := if strict then strictLeaves q dir p m n else leavesOf q p m n
  let l := match share with
    | some sh => (all.drop sh.1).take (sh.2 - sh.1)
    | none => all
  let addBias := q.hasBias && share.isNone
  ((do
    let xs ← runLeaves l
    let root ← if strict then ieeeBough q.fa dir xs else bough xs
    if addBias then
      if strict then ieeeAdd q.fa dir root (q.bias n).1
      else addF32 root (if q.fbias = .bf16 then (q.bias n).1 * 2 ^ 16 else (q.bias n).1)
    else return root), l.any (·.2) || (addBias && (q.bias n).2))

/-! The output stage. -/

/-- Requantisation of an output channel: multiplier, shift and poison, from a table of `cnt` entries or per tensor (R107, R168). -/
structure Requant where
  tab : Option Nat
  m : Int
  s : Nat
  cnt : Nat
deriving DecidableEq, Repr

/-- Multiplier and shift of channel `n`, with the poison of its table entry. A padded column has no entry, and its accumulator is 0 (07 R207). -/
def requantAt (s : State) (ue : List Nat) (q : Requant) (n : Nat) : Int × Nat × Bool :=
  if q.cnt ≤ n then (0, 0, false)
  else match q.tab with
  | some a => (sext 32 (devLE s ue (a + 8 * n) 4), devLE s ue (a + 8 * n + 4) 1, devBad s ue (a + 8 * n) 8)
  | none => (q.m, q.s, false)

/-- Formats that `narrow` writes (05 R135). -/
def narrowFmt (f : Fmt) : Bool :=
  match f with
  | .e4m3 | .e5m2 | .fp4 | .int8 | .int4 => true
  | _ => false

/-- Write a Float result to format of `o` for scale row `row` and channel `ch` (R119, R135, R145, R150, R151): a silver channel of
a narrowed tensor goes to its side-operand in BF16. `nb` is the number of silver blocks of a row. Padding (`real` is false) has no channel: the tensor's zero
point, the scale 1.0 and no silver (DESIGN CHOICE, log entry 120). -/
def floatCell (s : State) (ue : List Nat) (o : Opd) (real : Bool) (row ch nb x : Nat) (bad : Bool) : Arith Cell := do
  let z := if real then zpOf s ue o ch else (zpTensor o, false)
  match (if narrowFmt o.f && real then silverSlot s ue o ch else none) with
  | some i => return .side (sideAddr o nb row (ch / 128) i) (← outRound .bf16 scaleOne 0 0 0 x) (bad || o.x.bad)
  | none =>
    let sc := if narrowFmt o.f && real then elemScale s ue o row ch else (0x3F80, false)
    let sv := if sc.2 then scaleOne else fdec .bf16 sc.1
    return .main (← outRound o.f sv z.1 o.x.lo o.x.hi x) (bad || sc.2 || (fmtInt o.f && z.2) || o.x.bad)

/-- A narrowing to `o` forms the scale of each group from the group itself: a training state tensor, which a job that may hold one (05 R147) writes with
activation scales that are none of the program's constants, as the scales of every other activation are (05 R137, R148; DEDUCED, log entry 123). -/
def ownScales (s : State) (o : Opd) : Bool :=
  decide (o.f = .e4m3 ∨ o.f = .e5m2) && o.x.act && decide (o.x.scale ≠ 0 ∧ o.x.pitch ≠ 0 ∧ o.x.g = 32) && !inConsts s o.x.scale 2 &&
    decide ((s.job.map (·.kind)).getD 0 ≠ 0)

/-- `o` as an output that is not narrowed: binary32, without scales. -/
def wideOpd (o : Opd) : Opd := { o with f := .f32, x := auxNone .f32 }

/-- The scales of `o` for the elements `l`, each by scale row and channel with its value in binary32, stored in the layout of R139 (05 R148); a poisoned member
poisons the scale of its group. -/
def formScales (s : State) (ue : List Nat) (o : Opd) (l : List ((Nat × Nat) × Cell)) : State :=
  let key := fun (y : (Nat × Nat) × Cell) => y.1.1 * o.x.pitch + y.1.2 / max o.x.g 1
  ((l.map key).eraseDups).foldl (fun s k =>
    let m := (l.filter (fun y => decide (key y = k))).filterMap (fun y => cellMain y.2)
    devWrite s ue (o.x.scale + 2 * k) (toLE 2 (pow2Scale (m.map (·.1)) o.f)) (fun _ => m.any (·.2))) s

/-- The code and poison of an Assay output of channel `n` (R107). -/
def assayCell (s : State) (ue : List Nat) (o : Opd) (rq : Requant) (n : Nat) (acc : Int) (bad : Bool) : Cell :=
  let t := requantAt s ue rq n
  let z := if n < rq.cnt then zpOf s ue o n else (zpTensor o, false)
  .main (code (fmtBits o.f) (requant acc t.1 t.2.1 z.1 o.x.lo o.x.hi)) (bad || t.2.2 || z.2 || o.x.bad)

/-- Everything a product instruction needs beside the product. `pos` gives the position of row `m`, column `n` in D0; `rowIx` its scale
row; `key` the strike of an output. -/
structure ProdCmd where
  q : Prod
  o : Opd
  rq : Requant
  flt : Bool
  strict : Bool
  rnd : Nat
  np : Nat
  m : Nat
  n : Nat
  h : Nat
  w : Nat
  rows : Nat
  cols : Nat
  chkRows : Nat
  chkCols : Nat
  pos : Nat → Nat → Nat × Nat × Nat
  rowIx : Nat → Nat
  key : Nat → Nat → Nat → Nat × Nat × Nat
  bad : Bool

/-- One output of a product: its cell. A K share writes its accumulator in the 64-bit form of R105. DESIGN CHOICE (log entry 27): the spec does not
say which K share adds the bias of an Assay product; the share whose lower bound is 0 does. -/
def prodCell (s : State) (ue : List Nat) (c : ProdCmd) (sh : Share) (p m n : Nat) : Arith Cell := do
  if c.flt then
    let r := floatDot c.q c.strict c.rnd p m n sh.k
    let x ← r.1
    if c.strict ∨ sh.k.isSome then return .main x (r.2 || c.bad)
    else floatCell s ue c.o (decide (m < c.m) && decide (n < c.n)) (c.rowIx m) n (ceilDiv c.n 128) x (r.2 || c.bad)
  else
    match sh.k with
    | some ks =>
      let k1 := min ks.2 c.q.k
      let acc := (assayAcc c.q p m n ks.1 k1 (if ks.1 = 0 then biasInt c.q n else 0)).1
      return .main (code 64 acc) (prodBad c.q false p m n ks.1 k1 (ks.1 = 0) (fun _ => false) || c.bad)
    | none =>
      return assayCell s ue c.o c.rq n (assayAcc c.q p m n 0 c.q.k (biasInt c.q n)).1
        (prodBad c.q false p m n 0 c.q.k true (fun _ => false) || c.bad)

/-- First step at which an output overflows. -/
def prodOver (c : ProdCmd) (sh : Share) (p m n : Nat) : Option Nat :=
  if c.flt then none
  else match sh.k with
  | some ks => (assayAcc c.q p m n ks.1 (min ks.2 c.q.k) (if ks.1 = 0 then biasInt c.q n else 0)).2
  | none => (assayAcc c.q p m n 0 c.q.k (biasInt c.q n)).2

/-- The outputs of a share, problem by problem and row by row. -/
def shareOuts (c : ProdCmd) (sh : Share) : List (Nat × Nat × Nat) :=
  (List.range (sh.p1 - sh.p0)).flatMap (fun p => (List.range c.rows).flatMap (fun m => (List.range c.cols).filterMap (fun n =>
    let k := c.key (sh.p0 + p) m n
    if sh.r0 ≤ k.2.1 ∧ k.2.1 < sh.r1 ∧ sh.c0 ≤ k.2.2 ∧ k.2.2 < sh.c1 then some (sh.p0 + p, m, n) else none)))

/-- The outputs that R111 checks: those of the share, and the padded ones of its strikes that can differ from 0, for each of the rows and columns
that `c` names to check (R215). -/
def checkOuts (c : ProdCmd) (sh : Share) : List (Nat × Nat × Nat) := shareOuts { c with rows := c.chkRows, cols := c.chkCols } sh

/-- FLUSH of the job (04 R126). -/
def jobFlush (s : State) : Bool := (s.job.map (·.flush)).getD false

/-- The scales that a product's narrowing forms of its own groups (05 R148). -/
def prodScales (s : State) (ue : List Nat) (c : ProdCmd) (sh : Share) (outs : List (Nat × Nat × Nat)) : State :=
  if c.flt && !c.strict && sh.k.isNone && ownScales s c.o then
    let l := outs.filter (fun x => decide (x.2.1 < c.m ∧ x.2.2 < c.n))
    formScales s ue c.o ((l.map (fun x => (c.rowIx x.2.1, x.2.2))).zip
      ((l.mapM (fun x => prodCell s ue { c with o := wideOpd c.o } sh x.1 x.2.1 x.2.2)) ⟨jobFlush s, 0, 0⟩).1)
  else s

/-- Compute outputs and write them; the arithmetic's flags and counts are charged. -/
def runProd (s : State) (r : Nat) (ue : List Nat) (c : ProdCmd) (sh : Share) (outs : List (Nat × Nat × Nat)) : State :=
  let s := prodScales s ue c sh outs
  let p := (outs.mapM (fun x => prodCell s ue c sh x.1 x.2.1 x.2.2)) ⟨jobFlush s && !c.strict, 0, 0⟩
  let cells := (outs.zip p.1).map (fun x => ((x.1.1, c.pos x.1.2.1 x.1.2.2), x.2))
  chargeArith (storeRuns s r ue c.o (gatherRuns cells)) r p.2

/-- DETAIL of ACC_OVERFLOW (18 R471). -/
def overDetail (p sr sc m n : Nat) : List Byte := toLE 4 p ++ toLE 4 sr ++ toLE 4 sc ++ toLE 4 m ++ toLE 4 n

/-- The least element of a list by a key. -/
def leastBy {α : Type} (key : α → List Nat) : List α → Option α
  | [] => none
  | x :: l => match leastBy key l with
    | none => some x
    | some y => if (key y) < (key x) then some y else some x

/-- Steps of one strike over `k` indices, from twice the c of R167. -/
def strikeSteps (k c2 : Nat) : Nat := ceilDiv (k * c2) 2

/-- Twice the c of R167. -/
def costC2 (fa fb : Fmt) (flt strict : Bool) : Nat :=
  if strict then (if fa = .f32 then 128 else 32)
  else if flt && (fa = .bf16 || fa = .fp16) then 8
  else if !flt && fa = .int16 then 4
  else if fmtBits fa = 4 ∧ fmtBits fb = 4 then 1
  else 2

/-! MMUL (R168). -/

/-- GSEL to G. -/
def gsel (w : MacroW) : Nat := 32 * 2 ^ bits w.p1 26 2

/-- The silver blocks of a product: for each block, the used entries with the elements of both side-operands, and the poison of the map
(R123, R160). -/
def silverOf (s : State) (ue : List Nat) (a b : Opd) (k : Nat) : Option (Nat → Nat → List (List (Nat × (Nat × Bool) × (Nat × Bool)) × Bool)) :=
  if a.x.smap = 0 then none
  else
    let nb := ceilDiv k 128
    let rd2 := fun (o : Opd) (row blk i : Nat) => (devLE s ue (sideAddr o nb row blk i) 2, devBad s ue (sideAddr o nb row blk i) 2)
    some (fun m n => (List.range nb).map (fun blk =>
      ((List.range 8).filterMap (fun i =>
        let v := devLE s ue (a.x.smap + 8 * blk + i) 1
        if v ≥ 0x80 then some (v % 128, rd2 a m blk i, rd2 b n blk i) else none),
       devBad s ue (a.x.smap + 8 * blk) 8)))

/-- Both operands of a product lie in Cellar as plain tensors, which R200 refuses. -/
def bothCellar (a b : Desc) : Bool :=
  decide (levelOf a.base = 0) && decide (levelOf b.base = 0) && decide (a.kind = 0) && decide (b.kind = 0)

/-- The reading of a bias operand: codes by channel, the same for every problem (R206). -/
def biasAt (s : State) (ue : List Nat) (o : Opd) (n : Nat) : Nat × Bool := elemAt s ue o 0 n 0 0

/-- A product with its operands, the tables beside them, shares, tiles and steps, the strikes that do not lie outside the actual
shape, and the blocks of the coded operand, if there is one, that strikes need over a range of indices. -/
structure ProdPlan where
  c : ProdCmd
  a : Opd
  b : Opd
  tabs : List Opd
  sh : Share
  g : Geom
  steps : Nat
  live : Nat × Nat × Nat → Bool
  need : Nat × Nat → List (Nat × Nat × Nat) → List Nat

/-- The operands of a product whose addresses are checked. -/
def prodOpds (q : ProdPlan) : List Opd := [q.a, q.b, q.c.o] ++ q.tabs

/-- The bias D3 and the requantisation table D4 of `n` channels, as bytes; the same for every problem (R168, R206). -/
def prodTables (s : State) (w : MacroW) (bias : Opd) (n : Nat) : List Opd :=
  (if pres w 3 then [tableOpd s w.d3 1 (lineSpans bias 0 1)] else []) ++
    (if pres w 4 then [tableOpd s w.d4 1 [(((descOf s w.d4).map (·.base)).getD 0, 8 * n)]] else [])

/-- The reduction indices that the bounds of a K share stand for: themselves in Assay class; in Float class they count the leaves of R118, one for
each index of a strict tree, else one for each group and one for each silver block (R199). -/
def shareIdx (flt strict silver : Bool) (g k : Nat) (share : Option (Nat × Nat)) : Nat × Nat :=
  let at_ := fun l =>
    if !flt || strict then l
    else if silver then 128 * (l / (128 / g + 1)) + min (l % (128 / g + 1)) (128 / g) * g
    else l * g
  match share with
  | none => (0, k)
  | some x => (min k (at_ x.1), min k (at_ x.2))

/-- The coded blocks that a product fetches of A and of B, in order (12 R335, R336). -/
def prodOrder (q : ProdPlan) (pl : Place) : List Nat × List Nat :=
  let order := fun (o : Opd) => if o.crec.isSome then q.g.fetchOrder (1024 * pl.beta) (fun k l => q.need k (l.filter q.live)) else []
  (order q.a, order q.b)

/-- The coded blocks that a product reads come in. -/
def prodBlocks (s : State) (r : Nat) (ue : List Nat) (q : ProdPlan) (pl : Place) : State :=
  let x := prodOrder q pl
  let s := if q.a.crec.isSome then chargeBlocks s r ue q.a x.1 else s
  if q.b.crec.isSome then chargeBlocks s r ue q.b x.2 else s

/-- A plan `f` of a product, its coded blocks decoded by the lanes that their order gives. -/
def prodPlan (f : List Nat → List Nat → ProdPlan) (pl : Place) : ProdPlan :=
  let q := f [] []
  if q.a.crec.isNone && q.b.crec.isNone then q else let x := prodOrder q pl; f x.1 x.2

/-- The spans that a fetch of the coded blocks `order` of an operand reads: the blocks, and of each problem the index; of a plain operand those beside its
lines. -/
def opdSpans (s : State) (ue : List Nat) (o : Opd) (order : List Nat) : List (Nat × Nat) :=
  match o.crec with
  | none => o.extra
  | some c =>
    let n := nBlocks o.d c
    order.flatMap (fun e => blockSpan s ue o.d c (e / n) (e % n)) ++ ((order.map (· / n)).eraseDups).map (fun p => (entryAddr o.d p 0, 8 * n))

/-- Beats of the blocks of a coded output as written, and of their index, over the problems `ps` (12 R338). -/
def codedOutBeats (s : State) (o : Opd) (ps : List Nat) : Nat × Nat :=
  match o.crec with
  | none => (0, 0)
  | some c => let n := nBlocks o.d c; spanBeats (opdSpans s [] o (ps.flatMap (fun p => (List.range n).map (fun e => p * n + e))))

/-- Beats of Hearth and of Cellar that a product moves beside a coded output: plain operands by the walk, coded blocks as fetched; aux records, scales, tables
and bias once (DESIGN CHOICE, log entry 121); each beat that holds an output of the share once. -/
def prodBeats (s : State) (ue : List Nat) (q : ProdPlan) (pl : Place) : Nat × Nat :=
  let o := q.c.o
  let outs := beatSpans o ((shareOuts q.c q.sh).map (fun x => (x.1, q.c.pos x.2.1 x.2.2)))
  let z := prodOrder q pl
  let x := spanBeats (outs ++ (if o.crec.isSome then [] else o.extra) ++ opdSpans s ue q.a z.1 ++ opdSpans s ue q.b z.2 ++ q.tabs.flatMap (·.extra))
  let y := q.g.beats q.live (1024 * pl.beta) (1024 * pl.gamma)
  (x.1 + y.1, x.2 + y.2)

/-- Execute a product on Anvils. ACC_OVERFLOW (R111, R215) writes the strikes of the waves before the one it arises in, and names the
first element to overflow. After the command each Anvil's operand store holds its last chunk (R191). ANVIL_STEPS counts the steps of the bucket's walk,
idle ones included (R211; DESIGN CHOICE, log entry 120). -/
def anvilProd (s : State) (r : Nat) (e : MemErrs) (pl : Place) (q : ProdPlan) : State :=
  let ue := e.ue
  let c := q.c
  let outs := shareOuts c q.sh
  let anvils := 4 * pl.fm * pl.fn
  let overs := (checkOuts c q.sh).filterMap (fun x => (prodOver c q.sh x.1 x.2.1 x.2.2).map (fun k => (x, k)))
  let entry := fun (x : Nat × Nat × Nat) => (q.g.strikes.findIdx? (fun t => t = c.key x.1 x.2.1 x.2.2)).getD 0
  let beats := prodBeats s e.ue q pl
  match leastBy (fun y => [entry y.1 / anvils, y.2, entry y.1 % anvils, y.1.2.1, y.1.2.2]) overs with
  | none =>
    let s1 := runProd s r ue c q.sh outs
    let z := codedOutBeats s1 c.o ((outs.map (·.1)).eraseDups)
    let i := instrOf s r
    let s2 := modRegion (tallyAdd s1 tAnvilSteps (q.g.strikes.length * q.steps)) r (fun x => { x with
      chunks := (q.g.chunks pl.forges).foldl (fun m y => mput (fun _ => []) m y.1 (i :: y.2)) x.chunks })
    retire (chargeErrs s2 (withBeats e (beats.1 + z.1, beats.2 + z.2))) r
  | some y =>
    let wave := entry y.1 / anvils
    let s1 := runProd s r ue c q.sh (outs.filter (fun x => entry x / anvils < wave))
    let i := entry y.1 % anvils
    let forge := bits pl.forges (4 * (i / 4)) 4
    let t := c.key y.1.1 y.1.2.1 y.1.2.2
    jobFault (chargeErrs s1 (withBeats e beats)) ⟨fcAccOverflow, 0, 4, source (posOf s r) forge (4 * forge + i % 4), instrOf s r,
      overDetail t.1 t.2.1 t.2.2 y.1.2.1 y.1.2.2⟩

/-- The operands of a product: D0 to D2, and D3 where it is present. -/
def prodDescs (s : State) (w : MacroW) : List Desc := descsOf s w ([0, 1, 2] ++ (if pres w 3 then [3] else []))

/-- The job is strict and D1, D2 and D0 have one strict format. -/
def prodStrict (s : State) (w : MacroW) : Bool := isStrict s w.cls [fmtField s w 1, fmtField s w 2, fmtField s w 0]

/-- The leaves `lo` to `hi - 1` are those of one node of the tree over `n` leaves, to a depth (04 R117, R121). -/
def isNode : Nat → Nat → Nat → Nat → Bool
  | 0, n, lo, hi => decide (lo = 0 ∧ hi = n)
  | d + 1, n, lo, hi =>
    let m := boughLeft n
    decide (lo = 0 ∧ hi = n) || (decide (2 ≤ n) && (if hi ≤ m then isNode d m lo hi else decide (m ≤ lo) && isNode d (n - m) (lo - m) (hi - m)))

/-- Leaves of a Float tree over `k` indices in groups of `g`: one an index where it is strict; with a silver map one more for each block (04 R118, R129). -/
def leafCount (strict silver : Bool) (g k : Nat) : Nat :=
  if strict then k else ceilDiv k g + (if silver then ceilDiv k 128 else 0)

/-- Leaf `i` of the `n` of a tree with silver leaves is one of them. -/
def silverLeaf (g n i : Nat) : Bool := decide (i < n) && (decide (i % (128 / g + 1) = 128 / g) || decide (i + 1 = n))

/-- Dimension `i` of a descriptor is dynamic. -/
def dynDim (s : State) (d : Desc) (i : Nat) : Bool :=
  match dimKey s d i with
  | .inl _ => false
  | .inr _ => true

/-- What the loader refuses of the K shares of a Float product over `k` indices, dynamic where `dyn`: a dynamic K (07 R199), a share that is no node of
the tree (04 R121), or one that parts a block's groups from its silver leaf (20 R519 c13). -/
def shareRefuse (s : State) (r : Nat) (w : MacroW) (silver dyn : Bool) (k : Nat) : Option String :=
  let n := leafCount (prodStrict s w) silver (gsel w) k
  let l := (placesOf s r (getRegion s r).pc).filter (fun p => p.share = 4)
  if !w.cls || l.isEmpty then none
  else if dyn then some "R199"
  else if l.any (fun p => !isNode 32 n p.shareLo p.shareHi) then some "R121"
  else if silver && l.any (fun p => silverLeaf (gsel w) n p.shareLo || silverLeaf (gsel w) n p.shareHi) then some "R519"
  else none

/-- A silver map in the program's constants breaks R160, its used entries first and strictly ascending and its unused ones 0, or names an index at or
beyond K (04 R125). -/
def silverMapBad (s : State) (x : Aux) (k : Nat) : Bool :=
  let nb := ceilDiv k 128
  decide (x.smap ≠ 0) && inConsts s x.smap (8 * nb) && (List.range nb).any (fun b =>
    let l := (devBytes s [] (x.smap + 8 * b) 8).map (·.toNat)
    let used := l.takeWhile (fun v => decide (128 ≤ v))
    (l.drop used.length).any (fun v => decide (v ≠ 0)) || (used.zip used.tail).any (fun y => decide (y.2 ≤ y.1)) ||
      used.any (fun v => decide (k ≤ 128 * b + v % 128)))

/-- The formats of a bias: INT32 in Assay class (R104), that of a strict operation (R128), else BF16 or binary32 (R119). -/
def biasRefuse (s : State) (w : MacroW) (st : Bool) : Option String :=
  let f := fmtField s w 3
  if !pres w 3 then none
  else if !w.cls then (if f = .int32 then none else some "R104")
  else if st then (if f = fmtField s w 1 then none else some "R128")
  else if f = .bf16 ∨ f = .f32 then none else some "R119"

/-- The requantisation table D4 of `n` channels: KIND TABLE of INT32, with shifts that R107 accepts (R168). -/
def requantRefuse (s : State) (w : MacroW) (n : Nat) : Option String :=
  let d := (descOf s w.d4).getD descZero
  if !pres w 4 then none
  else if d.kind ≠ 5 ∨ descFmt d ≠ .int32 then some "R168"
  else shiftsBad s d.base n 8

/-- The checks of formats, classes, aux records and K shares that MMUL, CONV and STEM have in common, over `k` reduction indices that are dynamic where
`dyn`: `axis` is the CAXIS that the operands must declare, `za` and `zb` what the aux records of D1 and D2 cover, and `n` the output channels. -/
def prodRefuse (s : State) (r : Nat) (w : MacroW) (axis : Option Bool) (dyn : Bool) (k n : Nat) (za zb : AuxDims) : Option String :=
  let f := fmtField s w
  let d := fun i => (descOf s (dField w i)).getD descZero
  let x := fun i => constAux s (d i)
  let st := prodStrict s w
  if !pairOk w.cls st (f 1) (f 2) then some "R113"
  else if w.rnd ≠ 0 ∧ !st then some "R163"
  else [outRefuse w.cls st (kShared s r) (f 1) (f 0), biasRefuse s w st, prodAuxRefuse w st (f 1) (x 1) (x 2) (x 0),
    auxRefuse s (x 1) (f 1) (axisOf (d 1) axis) false w.cls za,
    auxRefuse s (x 2) (f 2) (axisOf (d 2) (if axis = some false then axis else none)) false w.cls zb,
    auxRefuse s (x 0) (f 0) (axisOf (d 0) axis) true w.cls (auxDims (d 0) (x 0)), requantRefuse s w n,
    if silverMapBad s (x 1) k then some "R125" else none, shareRefuse s r w (!st && decide ((x 1).smap ≠ 0)) dyn k].findSome? id

/-- The rule by which a product is refused for its tiles, on any of its placements on the region: `f` gives the tiles at the sizes of one's combination of
buckets (R200). -/
def tileRefuse (s : State) (r : Nat) (w : MacroW) (f : Place → List ((Nat × Nat) × Nat) → Geom) : Option String :=
  let b := benchesOf (descsOf s w [1, 2])
  (placesOf s r (getRegion s r).pc).findSome? (fun p => (f p (comboSizes s (prodDescs s w) p.combo)).refuse p b)

/-- An operand as the loader sees it, for the tiles. -/
def tileOpd (s : State) (r di : Nat) (twoD : Bool) : Opd :=
  { opdOf s r [] di 1 twoD false (1, 1, 1) with x := constAux s ((descOf s di).getD descZero) }

/-- Dimension `i` of an operand at the sizes `z` of a combination of buckets; a coded one has no other than its own. -/
def tileDim (s : State) (z : List ((Nat × Nat) × Nat)) (o : Opd) (i : Nat) : Nat :=
  if o.crec.isSome then (if i = 0 then o.n0 else if i = 1 then o.n1 else o.n2) else sizeDim s z o.d i

/-- G of an operand's scales as the footprints count them; 0 of an unscaled one. -/
def tileG (w : MacroW) (flt : Bool) (o : Opd) : Nat := if flt && decide (o.x.scale ≠ 0) then gsel w else 0

/-- The blocks that the strikes of an MMUL need of the coded one of its operands. -/
def mmulNeed (a b : Opd) (tb : Bool) (hw : Nat × Nat) (m n k0 : Nat) (k : Nat × Nat) (l : List (Nat × Nat × Nat)) : List Nat :=
  if a.crec.isSome then lineNeed a (·.1) (fun t => (t.2.1 * hw.1, min m (t.2.1 * hw.1 + hw.1))) (fun i k => (k, i, 0)) (k0 + k.1, k0 + k.2) l
  else lineNeed b (·.1) (fun t => (t.2.2 * hw.2, min n (t.2.2 * hw.2 + hw.2))) (fun i k => if tb then (k, i, 0) else (i, k, 0)) (k0 + k.1, k0 + k.2) l

/-- The share and the tiles of an MMUL on a region, at the sizes `m`, `n` and `k` of its bucket (R197 to R206). -/
def mmulGeom (w : MacroW) (pl : Place) (strict : Bool) (a b o : Opd) (m n k : Nat) : Share × Geom :=
  let tb := bit w.p1 17
  let hw := strikeShape (bits w.p1 24 2)
  let sh := shareOf pl (w.rep + 1) (ceilDiv m hw.1) (ceilDiv n hw.2)
  let flt := w.cls && !strict
  let sv := flt && decide (a.x.smap ≠ 0)
  let zps := decide (a.x.zpa ≠ 0)
  let ga := tileG w flt a
  let gb := tileG w flt b
  let ix := shareIdx w.cls strict sv (gsel w) k sh.k
  let ax := shareIdx w.cls strict sv (gsel w) a.n0 sh.k
  let kEnd := if sh.k.isNone then a.q0 else ax.2
  let kpad := roundUp (ix.2 - ix.1) 128
  let rows := sh.r1 - sh.r0
  let cols := sh.c1 - sh.c0
  let bl := blankShape pl.fm pl.fn rows cols
  let wr := pl.fm * bl.1
  let wc := pl.fn * bl.2
  let slabA := decide (walkLevel a.d = 0)
  let slabB := decide (walkLevel b.d = 0)
  let sA := if slabA then slabBars (fun i j => panelBytes hw.1 hw.2 (fmtBits a.f) 0 ga 0 sv zps (min rows (j * wr) - i * wr) 0 kpad)
    (1024 * pl.eta) (ceilDiv rows (max 1 wr)) else 0
  let sB := if slabB then slabBars (fun i j => panelBytes hw.1 hw.2 0 (fmtBits b.f) 0 gb sv false 0 (min cols (j * wc) - i * wc) kpad)
    (1024 * pl.eta) (ceilDiv cols (max 1 wc)) else 0
  (sh, { fm := pl.fm, fn := pl.fn, h := hw.1, w := hw.2, k := ix.2 - ix.1, kpad := kpad
         ks := chunkLen (panelBytes hw.1 hw.2 (fmtBits a.f) (fmtBits b.f) ga gb sv zps 1 1) kpad
         strikes := walk pl.fm pl.fn sh sA sB
         aUnits := fun t => [(sameProb a.d t.1, t.2.1, 0)]
         aUnit := fun k => if a.crec.isSome then 0 else hw.1 * ceilDiv (k * fmtBits a.f) 8
         aRow := fun t => (sameProb a.d t.1, t.2.1), bCol := fun t => (sameProb b.d t.1, t.2.2)
         side := fun inA nA nB k => panelBytes hw.1 hw.2 0 (if b.crec.isSome then 0 else fmtBits b.f) (if inA then ga else 0) gb sv (inA && zps) nA nB k
         levA := walkLevel a.d, levB := walkLevel b.d, out := fmtBits o.f
         coded := if a.crec.isNone && b.crec.isNone then none
           else some (a.crec.isSome, mmulNeed a b tb hw m n ix.1, blockRoom (if a.crec.isSome then a else b))
         slabs := !((slabA && decide (sA = 0)) || (slabB && decide (sB = 0)))
         rowA := fun u => (min a.q1 (u.2.1 * hw.1 + hw.1) - u.2.1 * hw.1) * lineBeats (fmtBits a.f) ax.1 kEnd
         rowB := fun u => colBeats b tb (u.2 * hw.2) (u.2 * hw.2 + hw.2) ax.1 (if sh.k.isNone then 2 ^ 20 else ax.2) })

/-- The rule by which an MMUL is refused for its tiles (R200). -/
def mmulTiles (s : State) (r : Nat) (w : MacroW) : Option String :=
  let a := tileOpd s r w.d1 true
  let b := tileOpd s r w.d2 true
  let o := tileOpd s r w.d0 true
  tileRefuse s r w (fun p z => (mmulGeom w p (prodStrict s w) a b o (tileDim s z a 1) (tileDim s z o 0) (tileDim s z a 0)).2)

/-- The loader's checks of an MMUL. -/
def mmulRefuse (s : State) (r : Nat) (w : MacroW) : Option String :=
  (refuseOps s 0x10 w [1, 2] true (coded := [0, 1, 2])).orElse (fun _ =>
    let tb := bit w.p1 17
    let key := dimKey2 s
    let d := fun i => (descOf s (dField w i)).getD descZero
    let a := d 1
    let k := if a.kind = 1 then a.n0 * a.n1 else a.n0
    let n := if tb then (d 2).n1 else (d 2).n0
    if w.sub3 ∨ bit w.p1 16 ∨ ((w.cls ∨ pres w 4) ∧ (w.p0 ≠ 0 ∨ bits w.p1 18 6 ≠ 0)) then some "R168"
    else if (d 2).pad ≠ 0 ∨ padcBad (d 1) then some "R207"
    else if bothCellar (d 1) (d 2) then some "R200"
    else if key (d 1) 0 ≠ key (d 2) (if tb then 0 else 1) ∨ key (d 1) 1 ≠ key (d 0) 1 ∨ key (d 2) (if tb then 1 else 0) ≠ key (d 0) 0 ∨
        (pres w 3 ∧ key (d 3) 0 ≠ key (d 0) 0) then
      some "R212"
    else (prodRefuse s r w (some false) (dynDim s (d 1) 0) k n ⟨if a.kind = 1 then a.n2 else a.n1, k, k⟩ ⟨n, k, k⟩).orElse (fun _ =>
      (codedRefuse s r w false [0, 1, 2]).orElse (fun _ => mmulTiles s r w)))

/-- The product of D1 and D2 with optional bias D3 and requantisation table D4; `ordA` and `ordB` the order of their coded blocks. -/
def mmulPlan (s : State) (r : Nat) (w : MacroW) (e : MemErrs) (pl : Place) (ordA ordB : List Nat) : ProdPlan :=
  let np := w.rep + 1
  let ue := e.ue
  let tb := bit w.p1 17
  let hw := strikeShape (bits w.p1 24 2)
  let fa := fmtField s w 1
  let fb := fmtField s w 2
  let strict := prodStrict s w
  let a := opdOf s r ue w.d1 np true true (128, hw.1, 1) ordA
  let b := opdOf s r ue w.d2 np true true (if tb then (128, hw.2, 1) else (hw.2, 128, 1)) ordB
  let o := withEdge s ue (instrOf s r) (opdOf s r ue w.d0 np true false (hw.2, hw.1, 1))
  let bias := opdOf s r ue w.d3 1 true false (1, 1, 1)
  let k := a.n0
  let m := a.n1
  let n := if tb then b.n1 else b.n0
  let bpos := fun n k => if tb then (k, n) else (n, k)
  let q : Prod :=
    { fa := fa, fb := fb, k := k, g := gsel w
      a := fun p m _ k => if covers a k m 0 then elemAt s ue a p k m 0 else (padCode a (zpOf s ue a k).1, false)
      chan := fun _ k => k
      b := fun p n k => if covers b (bpos n k).1 (bpos n k).2 0 then elemAt s ue b p (bpos n k).1 (bpos n k).2 0 else (0, false)
      za := fun c => if fmtInt fa then zpOf s ue a c else (0, false)
      zPer := a.x.zpa ≠ 0
      sa := fun m _ j => if strict then (0x3F80, false) else groupScale s ue a m j
      sb := fun n j => if strict then (0x3F80, false) else groupScale s ue b n j
      kpad := if a.d.pad = 2 ∧ a.x.zpa ≠ 0 then 2 ^ 64 else padCode a (zpOf s ue a 0).1
      silver := if w.cls && !strict then silverOf s ue a b k else none
      bias := fun n => if n < bias.n0 then biasAt s ue bias n else (0, false)
      hasBias := pres w 3, fbias := bias.f }
  let mb := match descOf s w.d1 with
    | some d => if d.kind = 1 then m else bucketDim s r d 1
    | none => m
  let nb := match descOf s w.d0 with
    | some d => if d.kind = 1 then n else bucketDim s r d 0
    | none => n
  let kb := match descOf s w.d1 with
    | some d => if d.kind = 1 then k else bucketDim s r d 0
    | none => k
  let c : ProdCmd :=
    { q := q, o := o
      rq := ⟨if pres w 4 then some (((descOf s w.d4).map (·.base)).getD 0) else none, sext 32 w.p0, bits w.p1 18 6, n⟩
      flt := w.cls, strict := strict, rnd := w.rnd, np := np, m := m, n := n, h := hw.1, w := hw.2
      rows := o.q1, cols := o.q0, chkRows := min (roundUp m hw.1) (max m a.q1 + 1), chkCols := min (roundUp n hw.2) (max n (if tb then b.q1 else b.q0))
      pos := fun m n => (n, m, 0), rowIx := fun m => m, key := fun p m n => (p, m / hw.1, n / hw.2)
      bad := a.x.bad || b.x.bad }
  let t := mmulGeom w pl strict a b o mb nb kb
  let sh := t.1
  let ix := shareIdx w.cls strict q.silver.isSome (gsel w) k sh.k
  let flt := w.cls && !strict
  let sv := flt && decide (a.x.smap ≠ 0)
  let narrow := w.cls && sh.k.isNone && narrowFmt o.f
  { c := { c with o := withAuxAxis o narrow sh.k.isNone narrow }
    a := withAux a flt true flt sv m k, b := withAux b flt false false sv n k, tabs := prodTables s w bias n
    sh := sh, g := t.2, steps := strikeSteps t.2.k (costC2 fa fb w.cls strict)
    live := fun x => decide (x.2.1 * hw.1 < o.q1) && decide (x.2.2 * hw.2 < o.q0)
    need := mmulNeed a b tb hw m n ix.1 }

/-- MMUL. -/
def execMmul (r : Nat) (w : MacroW) (e : MemErrs) (s : State) : Ans :=
  macroDo s r (mmulRefuse s r w) (prodDescs s w) none (fun pl s =>
    let q := prodPlan (mmulPlan s r w e pl) pl
    guardAddr s r q.sh.p0 q.sh.p1 (prodOpds q) (fun _ => anvilProd (prodBlocks s r e.ue q pl) r e pl q))

end Sys2Proof.Machine
end

