-- ==== Sys2Proof/Machine/Conv.lean ====
section
/-! DEFINITION. Convolution on Anvils and on the Stem engines, and pooling (06 R169 to R171; 08). -/

namespace Sys2Proof.Machine

/-- Window of a CONV, STEM or POOL: filter sides, strides, dilations, left and top padding (06 R169). -/
structure Win where
  kw : Nat
  kh : Nat
  sx : Nat
  sy : Nat
  dx : Nat
  dy : Nat
  pl : Nat
  pt : Nat
deriving DecidableEq, Repr

/-- The window fields of a macro-instruction. -/
def winOf (w : MacroW) : Win :=
  ⟨bits w.p1 13 5 + 1, bits w.p1 8 5 + 1, bits w.p1 4 4 + 1, bits w.p1 0 4 + 1, bits w.p0 26 6 + 1, bits w.p0 20 6 + 1,
   bits w.p0 15 5, bits w.p0 10 5⟩

/-- Reflection that excludes the edge sample (08 R219). -/
def mir (x : Int) (n : Nat) : Nat :=
  if n = 1 then 0
  else
    let p : Int := 2 * n - 2
    let r := x % p
    if r < n then r.toNat else (p - r).toNat

/-- Input position of tap `t` for output (x, y) (R217). -/
def tapPos (v : Win) (x y t : Nat) : Int × Int :=
  ((x * v.sx : Int) - v.pl + (t % v.kw) * v.dx, (y * v.sy : Int) - v.pt + (t / v.kw) * v.dy)

/-- The position lies inside the input. -/
def tapIn (o : Opd) (q : Int × Int) : Bool := decide (0 ≤ q.1) && decide (q.1 < o.n0) && decide (0 ≤ q.2) && decide (q.2 < o.n1)

/-- The input element that a tap reads, if it reads one: its own when inside, the mapped one under PAD 4 and 5 (R219, R221). -/
def tapSrc (o : Opd) (q : Int × Int) : Option (Nat × Nat) :=
  if tapIn o q then some (q.1.toNat, q.2.toNat)
  else if o.d.pad = 4 then some (mir q.1 o.n0, mir q.2 o.n1)
  else if o.d.pad = 5 then some ((clamp q.1 0 (o.n0 - 1)).toNat, (clamp q.2 0 (o.n1 - 1)).toNat)
  else none

/-- Code and poison of a tap of channel `ch` (R220); a poisoned zero point poisons the taps that it pads (05 R150). -/
def tapCode (s : State) (ue : List Nat) (o : Opd) (p ch : Nat) (q : Int × Int) : Nat × Bool :=
  match tapSrc o q with
  | some z => elemAt s ue o p z.1 z.2 ch
  | none => (padCode o (zpOf s ue o ch).1, decide (o.d.pad = 2) && (zpOf s ue o ch).2)

/-! The two row runs of a picture in a refresh cycle (10 R287). -/

/-- The clean bound of the picture that context `c` codes, and the rows of its latent, where it cuts the picture in two. -/
def cleanCut (s : State) (c : Nat) : Option (Nat × Nat) :=
  let st := getS s c false
  match st.pkg, st.header with
  | some p, some h =>
    let e := if rd s (Fk.ctxCfgDir c) = 1 then (st.refs.find? (fun f => decide ((f.num + 1) % 2 ^ 32 = st.picNum))).map (·.bound) else st.enc.bind (·.cyc)
    (e.filter (fun e => decide (0 < e ∧ e < latH p h))).map (fun e => (e, latH p h))
  | _, _ => none

/-- The row of a tensor of `n` rows at which latent row `e` of `hl` begins: a tensor has a whole number of rows for a latent row, or of latent rows for a row. -/
def cutRow (e hl n : Nat) : Nat := if hl ≤ n then e * ceilDiv n hl else e / ceilDiv hl (max 1 n)

/-- `a` as an instruction of the loop set reads it for output `o`: in two runs, where the picture is cut; a coded tensor is read whole (log entry 120). -/
def inRuns (s : State) (r : Nat) (w : MacroW) (a o : Opd) : Opd :=
  match (if w.loop && a.crec.isNone then (regionCtx s r).bind (cleanCut s) else none) with
  | none => a
  | some x =>
    let i := cutRow x.1 x.2 a.n1
    let j := cutRow x.1 x.2 o.n1
    if 0 < i ∧ i < a.n1 ∧ 0 < j ∧ j < o.n1 then { a with cut := some (i, j) } else a

/-- The rows of `a` that output row `y` sees as the whole input, the run of the one and the other kept apart, and that row's number in its run. -/
def runOf (a : Opd) (y : Nat) : Opd × Nat :=
  match a.cut with
  | none => (a, y)
  | some x =>
    if y < x.2 then ({ a with n1 := x.1, q1 := min a.q1 x.1 }, y)
    else ({ a with n1 := a.n1 - x.1, q1 := a.q1 - x.1, d := { a.d with base := a.d.base + 64 * x.1 * a.d.pitch1 } }, y - x.2)

/-- The first row of `a` that output row `y` sees. -/
def runRow (a : Opd) (y : Nat) : Nat := match a.cut with
  | none => 0
  | some x => if y < x.2 then 0 else x.1

/-- Right or bottom excess above 31 (R218): sizes, stride and padding of one axis. -/
def excessOver (nOut st pad nIn : Nat) : Bool := decide (((nOut : Int) - 1) * st - pad - ((nIn : Int) - 1) > 31)

/-- The excess breach of a bucketed instruction, as SHAPE_OVER names it (R218; log entry 18). -/
def excessFault (s : State) (r : Nat) (w : MacroW) : Option (Nat × Nat × Nat × Nat) :=
  match descOf s w.d1, descOf s w.d0 with
  | some a, some o =>
    if (bktOf s a).isNone ∧ (bktOf s o).isNone then none
    else
      let v := winOf w
      let slot := (((bktOf s o).orElse (fun _ => bktOf s a)).map (·.slot)).getD 0
      if excessOver (actualDim s r o 0) v.sx v.pl (actualDim s r a 0) then some (slot, 0, actualDim s r o 0, o.n0)
      else if excessOver (actualDim s r o 1) v.sy v.pt (actualDim s r a 1) then some (slot, 1, actualDim s r o 1, o.n1)
      else none
  | _, _ => none

/-- A KW or KH of 31, or an excess of static shapes, which the loader refuses (R218). -/
def refuseWin (s : State) (r : Nat) (w : MacroW) : Option String :=
  let v := winOf w
  match descOf s w.d1, descOf s w.d0 with
  | some a, some o =>
    if v.kw = 32 ∨ v.kh = 32 then some "R218"
    else if (bktOf s a).isNone ∧ (bktOf s o).isNone ∧
        (excessOver (actualDim s r o 0) v.sx v.pl a.n0 ∨ excessOver (actualDim s r o 1) v.sy v.pt a.n1) then some "R218"
    else none
  | _, _ => none

/-- Groups of a CONV or STEM (R226). -/
def groupsOf (w : MacroW) (sub n : Nat) : Nat := if sub = 2 then n else if sub = 1 then bits w.p0 0 10 + 1 else 1

/-- The product that a CONV or STEM forms (R217, R220, R222), with `k` reduction indices and `cg` channels a group. Rows beyond M, and columns whose
group has no input channel, take the PAD value (07 R207). -/
def convProd (s : State) (ue : List Nat) (w : MacroW) (v : Win) (a b o bias : Opd) (tb strict : Bool) (k cg ngc : Nat) : Prod :=
  let bpos := fun n k => if tb then (k, n) else (n, k)
  let grp := fun n => if cg = a.n2 then 0 else n / ngc
  let ch := fun n k => grp n * cg + k % cg
  { fa := a.f, fb := b.f, k := k, g := gsel w
    a := fun p m n k =>
      if ch n k ≥ a.n2 then (padCode a (if a.x.zpa ≠ 0 then 0 else (zpOf s ue a 0).1), false)
      else if m ≥ o.n0 * o.n1 then (padCode a (zpOf s ue a (ch n k)).1, false)
      else let t := runOf a (m / o.n0); tapCode s ue t.1 p (ch n k) (tapPos v (m % o.n0) t.2 (k / cg))
    chan := ch
    b := fun p n k => if covers b (bpos n k).1 (bpos n k).2 0 then elemAt s ue b p (bpos n k).1 (bpos n k).2 0 else (0, false)
    za := fun c => if fmtInt a.f ∧ (c < a.n2 ∨ a.x.zpa = 0) then zpOf s ue a c else (0, false)
    zPer := a.x.zpa ≠ 0
    sa := fun _ n j => if strict then (0x3F80, false) else groupScale s ue a 0 ((grp n * cg + j * gsel w % cg) / gsel w)
    sb := fun n j => if strict then (0x3F80, false) else groupScale s ue b n j
    kpad := if a.d.pad = 2 ∧ a.x.zpa ≠ 0 then 2 ^ 64 else padCode a (zpOf s ue a 0).1
    silver := if w.cls && !strict then silverOf s ue a b k else none
    bias := fun n => if n < bias.n0 then biasAt s ue bias n else (0, false)
    hasBias := pres w 3, fbias := bias.f }

/-- The input elements that outputs read at reduction indices `ix.1` to `ix.2 - 1` (R221). -/
def convReads (a o : Opd) (v : Win) (cg ngc : Nat) (ix : Nat × Nat) (outs : List (Nat × Nat × Nat)) : List (Nat × Nat × Nat × Nat) :=
  outs.flatMap (fun x => if x.2.2 < o.n2 ∧ x.2.1 < o.n0 * o.n1 then
      let u := runOf a (x.2.1 / o.n0)
      (List.range (v.kw * v.kh)).flatMap (fun t =>
        match tapSrc u.1 (tapPos v (x.2.1 % o.n0) u.2 t) with
        | some z => (List.range cg).filterMap (fun ci =>
            if ix.1 ≤ t * cg + ci ∧ t * cg + ci < ix.2 then some (x.1, z.1, z.2 + runRow a (x.2.1 / o.n0), x.2.2 / ngc * cg + ci) else none)
        | none => [])
    else [])

/-- The input lines that the windows of output positions `m0` to `m1 - 1` touch, each once (R221). -/
def winLines (a : Desc) (v : Win) (wo m0 m1 : Nat) : List Nat :=
  let o : Nat → Int → List Nat := fun h y =>
    if 0 ≤ y ∧ y < h then [y.toNat]
    else if a.pad = 4 then [mir y h] else if a.pad = 5 then [(clamp y 0 (h - 1)).toNat] else []
  ((List.range ((m1 - 1) / max 1 wo + 1 - m0 / max 1 wo)).flatMap (fun i => (List.range v.kh).flatMap (fun j =>
    o a.n1 ((((m0 / max 1 wo + i) * v.sy : Nat) : Int) - v.pt + ((j * v.dy : Nat) : Int))))).eraseDups

/-- The 64-byte beats of input lines that the windows of output positions `m0` to `m1 - 1` touch, as line and beat (R221). -/
def winBeats (a : Desc) (v : Win) (wo m0 m1 : Nat) : List (Nat × Nat) :=
  let per := 512 / fmtBits (descFmt a)
  let at_ : Nat → Int → List Nat := fun n x =>
    if 0 ≤ x ∧ x < n then [x.toNat]
    else if a.pad = 4 then [mir x n] else if a.pad = 5 then [(clamp x 0 (n - 1)).toNat] else []
  ((List.range (m1 - m0)).flatMap (fun i => (List.range (v.kw * v.kh)).flatMap (fun t =>
    let q := tapPos v ((m0 + i) % max 1 wo) ((m0 + i) / max 1 wo) t
    (at_ a.n1 q.2).flatMap (fun y => (at_ a.n0 q.1).map (fun x => (y, x / per)))))).eraseDups

/-- Bytes of the largest chunk of the diagonal mapping (R227), at a shape: the beats of the lines that a strike's windows touch, for every channel that its
columns use, and its 128 columns of filter. A coded input counts its elements as decoded (12 R335). -/
def diagChunk (a b : Desc) (v : Win) (wo m n cg ngc : Nat) : Nat :=
  let top := fun (l : List Nat) => l.foldl max 0
  let chs := top ((List.range (ceilDiv n 128)).map (fun c => (min n (128 * c + 128) - 1) / max 1 ngc + 1 - 128 * c / max 1 ngc)) * cg
  let lines := top ((List.range (ceilDiv m 128)).map (fun r => (winBeats a v wo (128 * r) (min m (128 * r + 128))).length))
  chs * lines * 64 + 128 * ceilDiv (v.kw * v.kh * cg * fmtBits (descFmt b)) 8

/-- The descriptor at the sizes `z` of a combination of buckets. -/
def sizedDesc (s : State) (z : List ((Nat × Nat) × Nat)) (d : Desc) : Desc :=
  if d.kind = 1 then d else { d with n0 := sizeDim s z d 0, n1 := sizeDim s z d 1, n2 := sizeDim s z d 2 }

/-- The largest chunk of the diagonal mapping over all combinations of buckets (R227). -/
def diagChunks (s : State) (w : MacroW) (sub : Nat) : Nat :=
  let d := fun i => (descOf s (dField w i)).getD descZero
  let l := [d 0, d 1]
  ((List.range ((comboDims s l).foldl (fun n x => n * max 1 x.2.2.length) 1)).map (fun c =>
    let z := comboSizes s l c
    let a := sizedDesc s z (d 1)
    let o := sizedDesc s z (d 0)
    let ng := max 1 (groupsOf w sub o.n2)
    diagChunk a (d 2) (winOf w) o.n0 (o.n0 * o.n1) o.n2 (a.n2 / ng) (o.n2 / ng))).foldl max 0

/-- The shapes, groups and mapping of a CONV or STEM that the loader refuses (R216, R222, R226, R227). -/
def convShapeRefuse (s : State) (sub : Nat) (w : MacroW) (stem : Bool) : Option String :=
  let d := fun i => (descOf s (dField w i)).getD descZero
  let a := d 1
  let o := d 0
  let b := d 2
  let v := winOf w
  let ng := groupsOf w sub o.n2
  let cg := a.n2 / ng
  let diag := decide (sub = 2) || (decide (sub = 1) && decide (cg ≤ 16))
  let xa := constAux s a
  let key := dimKey s
  let kd := if w.sub3 then 0 else 1
  let kn := if w.sub3 then (b.n0, b.n1) else (b.n1, b.n0)
  if a.n2 % ng ≠ 0 ∨ o.n2 % ng ≠ 0 ∨ (sub = 2 ∧ o.n2 ≠ a.n2) then some "R226"
  else if kn ≠ (v.kw * v.kh * cg, o.n2) ∨ b.n2 ≠ 1 then some "R216"
  else if key b (1 - kd) ≠ key o 2 ∨ (pres w 3 ∧ key (d 3) 0 ≠ key o 2) ∨ (sub = 2 ∧ key a 2 ≠ key o 2) ∨
      (if v.kw * v.kh = 1 ∧ sub = 0 then key b kd ≠ key a 2 else dynDim s b kd ∨ (sub ≠ 2 ∧ dynDim s a 2)) then some "R212"
  else if diag ∧ !stem ∧ bits w.p1 24 2 ≠ 0 then some "R227"
  else if xa.smap ≠ 0 ∧ (sub ≠ 0 ∨ stem) then some "R222"
  else if w.cls ∧ xa.scale ≠ 0 ∧ (xa.pitch ≠ 0 ∨ (if diag then ¬ [1, 2, 4, 8, 16].contains cg else cg % gsel w ≠ 0)) then some "R222"
  else if diag ∧ !stem ∧ diagChunks s w sub > 262144 then some "R227"
  else none

/-- Bytes of a plain operand's rows, as the coefficient store holds them. -/
def storeBytes (d : Desc) : Nat := d.n2 * d.n1 * ceilDiv (d.n0 * fmtBits (descFmt d)) 8

/-- What a Stem engine cannot hold or reach (R232, R233, 06 R171): STRIKE, strict operations and binary32; its channels; D1 and D0 in Hearth or in
the Crucible of the region; the coefficient store and the line store. -/
def stemRefuse (s : State) (r sub : Nat) (w : MacroW) : Option String :=
  let d := fun i => (descOf s (dField w i)).getD descZero
  let v := winOf w
  let far := fun (x : Desc) => ¬ (levelOf x.base = 1 ∨ (levelOf x.base = 2 ∧ bits x.base 27 3 = r))
  if bits w.p1 24 2 ≠ 0 ∨ prodStrict s w ∨ fmtField s w 1 = .f32 ∨ (sub = 2 ∧ (d 1).n2 > 16) then some "R232"
  else if (d 1).n2 > 16 ∧ (d 0).n2 > 16 then some "R171"
  else if far (d 1) ∨ far (d 0) ∨
      (([2, 3, 4].filter (pres w)).map (fun i => storeBytes (d i))).foldl (· + ·) 0 > 262144 ∨
      ((v.kh - 1) * v.dy + 1 + v.sy) * (d 1).pitch1 * 64 * (d 1).n2 > 2097152 then some "R233"
  else none

/-- How a CONV is cut into problems and strikes (R226): whether its groups are problems of their own, whether its mapping is diagonal, the groups, the input and
output channels of one, and the strike shape. -/
structure ConvCut where
  block : Bool
  diag : Bool
  ng : Nat
  cg : Nat
  ngc : Nat
  hw : Nat × Nat

/-- That of an input of `c` channels and an output of `n`. -/
def convCut (w : MacroW) (sub c n : Nat) : ConvCut :=
  let ng := max 1 (groupsOf w sub n)
  let cg := c / ng
  let block := decide (sub = 1 ∧ cg > 16)
  let diag := decide (sub ≠ 0) && !block
  ⟨block, diag, ng, cg, max 1 (n / ng), if diag then (128, 128) else strikeShape (bits w.p1 24 2)⟩

/-- Problem of a strike, its group where each group is a problem, and its output columns. -/
def ConvCut.prob (c : ConvCut) (t : Nat × Nat × Nat) : Nat := if c.block then t.1 / c.ng else t.1
def ConvCut.group (c : ConvCut) (t : Nat × Nat × Nat) : Nat := if c.block then t.1 % c.ng else 0
def ConvCut.cols (c : ConvCut) (n : Nat) (t : Nat × Nat × Nat) : Nat × Nat :=
  let lo := c.group t * c.ngc + t.2.2 * c.hw.2
  (lo, min (if c.block then c.group t * c.ngc + c.ngc else n) (lo + c.hw.2))

/-- The channel groups whose input a strike reads. -/
def ConvCut.groups (c : ConvCut) (n : Nat) (t : Nat × Nat × Nat) : List Nat :=
  if c.diag then let x := c.cols n t; (List.range ((x.2 - 1) / c.ngc + 1 - x.1 / c.ngc)).map (x.1 / c.ngc + ·) else [c.group t]

/-- The blocks that the strikes of a CONV need of the coded one of its operands. -/
def convNeed (w : MacroW) (c : ConvCut) (a b o : Opd) (m n k0 : Nat) (k : Nat × Nat) (l : List (Nat × Nat × Nat)) : List Nat :=
  let ks := (k0 + k.1, k0 + k.2)
  if a.crec.isSome then
    blocksOf a (convReads a o (winOf w) c.cg c.ngc ks ((l.flatMap (fun t => (c.groups n t).map (fun g => (c.prob t, t.2.1, g)))).eraseDups.flatMap (fun x =>
      (List.range (min m (x.2.1 * c.hw.1 + c.hw.1) - x.2.1 * c.hw.1)).map (fun i => (x.1, x.2.1 * c.hw.1 + i, x.2.2 * c.ngc)))))
  else lineNeed b c.prob (c.cols n) (fun i k => if w.sub3 then (k, i, 0) else (i, k, 0)) ks l

/-- The share and the tiles of a CONV on a region, at the sizes of its bucket: `a` and `o` its input and output in them (R197 to R206, 08 R223, R226, R227);
`ac` and `oc` are the operands at their actual sizes. -/
def convGeom (w : MacroW) (sub : Nat) (pl : Place) (strict : Bool) (a b o ac oc : Opd) : Share × Geom :=
  let tb := w.sub3
  let v := winOf w
  let n := o.n2
  let m := o.n0 * o.n1
  let x := convCut w sub a.n2 n
  let y := convCut w sub ac.n2 oc.n2
  let hw := x.hw
  let sh0 := shareOf pl (w.rep + 1) (ceilDiv m hw.1) (ceilDiv (if x.block then x.ngc else n) hw.2)
  let sh := if x.block then { sh0 with p0 := sh0.p0 * x.ng, p1 := sh0.p1 * x.ng } else sh0
  let flt := w.cls && !strict
  let sv := flt && decide (a.x.smap ≠ 0)
  let zps := decide (a.x.zpa ≠ 0)
  let ga := tileG w flt a
  let gb := tileG w flt b
  let ix := shareIdx w.cls strict sv (gsel w) (v.kw * v.kh * x.cg) sh.k
  let ax := shareIdx w.cls strict sv (gsel w) (v.kw * v.kh * y.cg) sh.k
  let kpad := roundUp (ix.2 - ix.1) 128
  let rows := sh.r1 - sh.r0
  let cols := sh.c1 - sh.c0
  let bl := blankShape pl.fm pl.fn rows cols
  let wr := pl.fm * bl.1
  let wc := pl.fn * bl.2
  let slabA := decide (walkLevel a.d = 0)
  let slabB := decide (walkLevel b.d = 0)
  let line := fun k => a.d.pitch1 * 64 * min k x.cg
  let lines := fun r0 r1 => winLines { a.d with n0 := a.n0, n1 := a.n1 } v o.n0 (r0 * hw.1) (min m (r1 * hw.1))
  let gs := if x.diag then ceilDiv n x.ngc else 1
  let sA := if slabA then slabBars (fun i j => (lines (sh.r0 + i * wr) (sh.r0 + min rows (j * wr))).length * line kpad * gs +
      panelBytes hw.1 hw.2 0 0 ga 0 sv zps (min rows (j * wr) - i * wr) 0 kpad) (1024 * pl.eta) (ceilDiv rows (max 1 wr)) else 0
  let sB := if slabB then slabBars (fun i j => panelBytes hw.1 hw.2 0 (fmtBits b.f) 0 gb sv false 0 (min cols (j * wc) - i * wc) kpad)
    (1024 * pl.eta) (ceilDiv cols (max 1 wc)) else 0
  let beats := winBeats { ac.d with n0 := ac.n0, n1 := ac.n1 } v oc.n0 (sh.r0 * hw.1) (min (oc.n0 * oc.n1) (sh.r1 * hw.1))
  (sh0, { fm := pl.fm, fn := pl.fn, h := hw.1, w := hw.2, k := ix.2 - ix.1, kpad := kpad
          ks := if x.diag then kpad else chunkLen (panelBytes hw.1 hw.2 (fmtBits a.f) (fmtBits b.f) ga gb sv zps 1 1) kpad
          strikes := walk pl.fm pl.fn sh sA sB
          aUnits := fun t => (x.groups n t).flatMap (fun g => (lines t.2.1 (t.2.1 + 1)).map (fun l => (sameProb a.d (x.prob t), g, l)))
          aUnit := fun k => if a.crec.isSome then 0 else line k
          aRow := fun t => (sameProb a.d (x.prob t) * x.ng + x.group t, t.2.1)
          bCol := fun t => (sameProb b.d (x.prob t) * x.ng + x.group t, t.2.2)
          side := fun inA nA nB k => panelBytes hw.1 hw.2 0 (if b.crec.isSome then 0 else fmtBits b.f) (if inA then ga else 0) gb sv (inA && zps) nA nB k
          levA := walkLevel a.d, levB := walkLevel b.d, out := fmtBits o.f
          coded := if a.crec.isNone && b.crec.isNone then none
            else some (a.crec.isSome, convNeed w x a b o m n ix.1, blockRoom (if a.crec.isSome then a else b))
          slabs := !((slabA && decide (sA = 0)) || (slabB && decide (sB = 0)))
          rowA := fun u => y.cg * (beats.filter (fun z => decide (z.1 = u.2.2))).length
          rowB := fun u => let z := y.cols oc.n2 (if x.block then u.1 else 0, 0, u.2)
            colBeats b tb z.1 z.2 ax.1 (if sh.k.isNone then 2 ^ 20 else ax.2) })

/-- The rule by which a CONV is refused for its tiles (R200). -/
def convTiles (s : State) (r sub : Nat) (w : MacroW) : Option String :=
  let a := tileOpd s r w.d1 false
  let b := tileOpd s r w.d2 false
  let o := tileOpd s r w.d0 false
  let sized := fun z (o : Opd) => { o with n0 := tileDim s z o 0, n1 := tileDim s z o 1, n2 := tileDim s z o 2 }
  tileRefuse s r w (fun p z => (convGeom w sub p (prodStrict s w) (sized z a) b (sized z o) (sized z a) (sized z o)).2)

/-- The loader's checks of a CONV or STEM. -/
def convRefuse (s : State) (r sub : Nat) (w : MacroW) (stem : Bool) : Option String :=
  let d := fun i => (descOf s (dField w i)).getD descZero
  (refuseOps s (if stem then 0x30 else 0x11) w [1, 2] true (win := true) (coded := if stem then [] else [0, 1, 2])).orElse (fun _ =>
    let k := if w.sub3 then (d 2).n0 else (d 2).n1
    let n := if w.sub3 then (d 2).n1 else (d 2).n0
    (if sub > 2 ∨ (stem ∧ sub = 1) then some "R169"
    else if sub ≠ 1 ∧ bits w.p0 0 10 ≠ 0 then some "R169"
    else if (w.cls ∨ pres w 4) ∧ bits w.p1 18 6 ≠ 0 then some "R168"
    else if (d 2).pad ≠ 0 ∨ padcBad (d 1) then some "R207"
    else if (d 1).pad = 3 then some "R219"
    else if !stem && bothCellar (d 1) (d 2) then some "R200"
    else if stem then stemRefuse s r sub w else none).orElse (fun _ =>
      (prodRefuse s r w (some true) (dynDim s (d 1) 2) k n ⟨1, (d 1).n2, (d 1).n2⟩ ⟨n, k, k⟩).orElse (fun _ => (convShapeRefuse s sub w stem).orElse (fun _ =>
        (refuseWin s r w).orElse (fun _ => (codedRefuse s r w true [0, 1, 2]).orElse (fun _ => if stem then none else convTiles s r sub w))))))

/-- The product that a CONV or STEM forms of D1 and D2, under its window, groups and strike shape. -/
def convPlan (s : State) (r sub : Nat) (w : MacroW) (e : MemErrs) (pl : Place) (ordA ordB : List Nat) : ProdPlan :=
  let np := w.rep + 1
  let ue := e.ue
  let tb := w.sub3
  let v := winOf w
  let strict := prodStrict s w
  let o0 := opdOf s r ue w.d0 np false false (1, 1, 1)
  let a := inRuns s r w (opdOf s r ue w.d1 np false true (1, 1, 1) ordA) o0
  let n := o0.n2
  let y := convCut w sub a.n2 n
  let hw := y.hw
  let b := opdOf s r ue w.d2 np false true (if tb then (128, hw.2, 1) else (hw.2, 128, 1)) ordB
  let bias := opdOf s r ue w.d3 1 true false (1, 1, 1)
  let o1 := withEdge s ue (instrOf s r) o0
  let m := o1.n0 * o1.n1
  let sw := o1.d.swpad && o1.crec.isNone
  let rows := if sw then roundUp m hw.1 else m
  let cols := if sw then roundUp n hw.2 else n
  let o := if sw then { o1 with q1 := ceilDiv rows o1.n0, q2 := cols } else o1
  let k := v.kw * v.kh * y.cg
  let sized := fun (x : Opd) => if x.crec.isSome then x else { x with n0 := bucketDim s r x.d 0, n1 := bucketDim s r x.d 1, n2 := bucketDim s r x.d 2 }
  let t := convGeom w sub pl strict (sized a) b (sized o0) a o0
  let sh := t.1
  let ix := shareIdx w.cls strict (w.cls && !strict && decide (a.x.smap ≠ 0)) (gsel w) k sh.k
  let flt := w.cls && !strict
  let sv := flt && decide (a.x.smap ≠ 0)
  let narrow := w.cls && sh.k.isNone && narrowFmt o.f
  let c : ProdCmd :=
    { q := convProd s ue w v a b o0 bias tb strict k y.cg y.ngc, o := withAuxAxis o narrow sh.k.isNone narrow
      rq := ⟨if pres w 4 then some (((descOf s w.d4).map (·.base)).getD 0) else none, 1, bits w.p1 18 6, n⟩
      flt := w.cls, strict := strict, rnd := w.rnd, np := np, m := m, n := n, h := hw.1, w := hw.2
      rows := rows, cols := cols, chkRows := min (roundUp m hw.1) (max rows (m + 1))
      chkCols := if y.block then n else min (roundUp n hw.2) (max cols (if tb then b.q1 else b.q0))
      pos := fun m n => (m % o1.n0, m / o1.n0, n), rowIx := fun m => m
      key := fun p m n => if y.block then (p * y.ng + n / y.ngc, m / hw.1, n % y.ngc / hw.2) else (p, m / hw.1, n / hw.2)
      bad := a.x.bad || b.x.bad }
  { c := c, a := withAux a flt true sv sv 1 a.n2, b := withAux b flt false false sv n k, tabs := prodTables s w bias n, sh := sh, g := t.2
    steps := strikeSteps t.2.k (costC2 a.f b.f w.cls strict) * (if y.diag ∧ v.sx > 1 then 2 else 1)
    live := fun x => decide (x.2.1 * hw.1 < rows) && decide ((y.cols cols x).1 < (y.cols cols x).2)
    need := convNeed w y a b o0 m n ix.1 }

/-- CONV on Anvils. -/
def execConv (r sub : Nat) (w : MacroW) (e : MemErrs) (s : State) : Ans :=
  macroDo s r (convRefuse s r sub w false) (prodDescs s w) (excessFault s r w) (fun pl s =>
    let q := prodPlan (convPlan s r sub w e pl) pl
    guardAddr s r q.sh.p0 q.sh.p1 (prodOpds q) (fun _ => anvilProd (prodBlocks s r e.ue q pl) r e pl q))

/-- Beats of Hearth that a Stem engine moves: the input lines once for the windows of its share, the coefficients, aux records and tables once, and the
outputs (08 R221, R233; DESIGN CHOICE, log entry 121). -/
def stemBeats (q : ProdPlan) : Nat × Nat :=
  let outs := shareOuts q.c q.sh
  let reads := (((q.g.strikes.filter q.live).flatMap q.g.aUnits).eraseDups).map q.g.rowA
  let x := spanBeats (beatSpans q.c.o (outs.map (fun x => (x.1, q.c.pos x.2.1 x.2.2))) ++ q.c.o.extra ++ q.a.extra ++ q.b.extra ++ lineSpans q.b 0 1 ++
    q.tabs.flatMap (·.extra))
  (x.1 + (if q.g.levA = 1 then reads.foldl (· + ·) 0 else 0), x.2)

/-- A product on a Stem engine: the same bits; ACC_OVERFLOW keeps the lines before the faulting one (08 R234). -/
def stemProd (s : State) (r : Nat) (e : MemErrs) (pl : Place) (q : ProdPlan) : State :=
  let c := q.c
  let sh := q.sh
  let e := withBeats e (stemBeats q)
  let wo := c.o.n0
  let outs := shareOuts c sh
  let overs := outs.filter (fun x => (prodOver c sh x.1 x.2.1 x.2.2).isSome)
  match leastBy (fun (x : Nat × Nat × Nat) => [x.1, x.2.1 / wo, x.2.1 % wo, x.2.2]) overs with
  | none => retire (chargeErrs (runProd s r e.ue c sh outs) e) r
  | some y =>
    let s1 := runProd s r e.ue c sh (outs.filter (fun x => x.1 < y.1 ∨ (x.1 = y.1 ∧ x.2.1 / wo < y.2.1 / wo)))
    jobFault (chargeErrs s1 e) ⟨fcAccOverflow, 0, 4, source (posOf s r) 31 (96 + pl.unit % 2), instrOf s r,
      overDetail y.1 0 0 y.2.1 y.2.2⟩

/-- STEM. -/
def execStem (r sub : Nat) (w : MacroW) (e : MemErrs) (s : State) : Ans :=
  macroDo s r (convRefuse s r sub w true) (prodDescs s w) (excessFault s r w) (fun pl s =>
    let q := convPlan s r sub w e pl [] []
    guardAddr s r q.sh.p0 q.sh.p1 (prodOpds q) (fun _ => stemProd s r e pl q))

/-! Pooling (R228 to R231). -/

/-- The tap set S of an output: the taps' positions (R230). -/
def poolTaps (a : Opd) (v : Win) (valid : Bool) (x y : Nat) : List (Int × Int) :=
  ((List.range (v.kw * v.kh)).map (fun t => tapPos v x y t)).filter (fun q => !valid || tapIn a q)

/-- One output of a POOL: its cell, or none for an Assay sum outside INT48 (R111). -/
abbrev PoolFn := State → List Nat → MacroW → Opd → Opd → Nat → Nat → Nat → Nat → Option (Arith Cell)

/-- The formats and aux records of a POOL that R228 and R222 accept; `mx` for a maximum. What only run-time records say is not judged. -/
def poolOk (s : State) (w : MacroW) (mx : Bool) : Bool :=
  let fa := fmtField s w 1
  let fo := fmtField s w 0
  let d := fun i => (descOf s (dField w i)).getD descZero
  let x := fun i => constAux s (d i)
  let known := auxKnown s (d 0) && auxKnown s (d 1)
  let int := fun (f : Fmt) => f = .int8 || f = .int16
  let wide := fun (f : Fmt) => f = .bf16 || f = .fp16 || f = .f32
  let scales := fun (x : Aux) => if x.scale = 0 then (0, 0, 0) else (x.scale, x.pitch, x.g)
  if mx then decide (fo = fa) && (if w.cls then (wide fa || fa = .e4m3 || fa = .e5m2 || fa = .fp4) && (!known || decide (scales (x 0) = scales (x 1)))
      else int fa && zpsAgree s (d 0) (d 1) (d 1).n2 && (!known || decide ((x 0).lo = (x 1).lo ∧ (x 0).hi = (x 1).hi)))
  else if w.cls then wide fa && wide fo && decide ((x 1).scale = 0)
  else int fa && int fo

/-- The loader's checks of a POOL; `mx` for a maximum, and `refuse` adds those of its kind. -/
def poolRefuse (s : State) (r : Nat) (w : MacroW) (mx : Bool) (refuse : Option String) : Option String :=
  let d := fun i => (descOf s (dField w i)).getD descZero
  let x := fun i => constAux s (d i)
  let st := isStrict s w.cls [fmtField s w 1, fmtField s w 0]
  let aux := fun i out => auxRefuse s (x i) (fmtField s w i) (axisOf (d i) (some true)) out w.cls (auxDims (d i) (x i))
  (refuseOps s 0x12 w [1] true (win := true) (mx := mx) (coded := [1])).orElse (fun _ =>
    if bits w.p1 24 4 ≠ 0 ∨ w.sub3 ∨ bits w.p0 1 9 ≠ 0 then some "R228"
    else if dimKey s (d 0) 2 ≠ dimKey s (d 1) 2 then some "R212"
    else if padcBad (d 1) then some "R207"
    else if (x 1).smap ≠ 0 ∨ (w.cls ∧ (x 1).scale ≠ 0 ∧ (x 1).pitch ≠ 0) then some "R222"
    else if !w.cls ∧ ((x 0).scale ≠ 0 ∨ (x 1).scale ≠ 0) then some "R103"
    else if st ∧ (scaledOrSilver (x 0) ∨ scaledOrSilver (x 1)) then some "R128"
    else if !poolOk s w mx then some "R228"
    else if w.rnd ≠ 0 ∧ !st then some "R163"
    else [aux 1 false, aux 0 true, refuse, refuseWin s r w, codedRefuse s r w true [0, 1]].findSome? id)

/-- The input and D0 of a POOL. -/
def poolIn (s : State) (r : Nat) (w : MacroW) (e : MemErrs) (order : List Nat := []) : Opd :=
  withAuxAxis (inRuns s r w (opdOf s r e.ue w.d1 (w.rep + 1) false true (1, 1, 1) order) (opdOf s r [] w.d0 1 false false (1, 1, 1))) false true false
def poolOut (s : State) (r : Nat) (w : MacroW) (e : MemErrs) : Opd :=
  withAuxAxis (withEdge s e.ue (instrOf s r) (opdOf s r e.ue w.d0 (w.rep + 1) false false (1, 1, 1))) false true false

/-- The share of a POOL on its output, as strike rows and columns of 128. -/
def poolShare (pl : Place) (w : MacroW) (o : Opd) : Share := shareOf pl (w.rep + 1) (ceilDiv (o.n0 * o.n1) 128) (ceilDiv o.n2 128)

/-- The outputs of a share: problem, pixel and channel. -/
def poolOuts (sh : Share) (o : Opd) : List (Nat × Nat × Nat) :=
  (List.range (sh.p1 - sh.p0)).flatMap (fun p => (List.range o.n2).flatMap (fun n =>
    (List.range (o.n0 * o.n1)).filterMap (fun m =>
      if sh.r0 ≤ m / 128 ∧ m / 128 < sh.r1 ∧ sh.c0 ≤ n / 128 ∧ n / 128 < sh.c1 then some (sh.p0 + p, m, n) else none)))

/-- Position of an output in D0. -/
def poolPos (o : Opd) (x : Nat × Nat × Nat) : Nat × Nat × Nat × Nat := (x.1, x.2.1 % o.n0, x.2.1 / o.n0, x.2.2)

/-- Compute steps of a POOL of `n` outputs on `a` Anvils, summed over them (06 R170). -/
def poolSteps (v : Win) (n a : Nat) : Nat := ceilDiv (n * v.kw * v.kh) (4096 * a) * a

/-- The positions that the window taps of the outputs `outs` read. -/
def poolReads (w : MacroW) (a o : Opd) (outs : List (Nat × Nat × Nat)) : List (Nat × Nat × Nat × Nat) :=
  convReads a o (winOf w) 1 1 (0, (winOf w).kw * (winOf w).kh) outs

/-- The coded blocks that a POOL reads, in order (12 R336). -/
def poolOrder (w : MacroW) (a o : Opd) (outs : List (Nat × Nat × Nat)) : List Nat :=
  if a.crec.isSome then ascending (blocksOf a (poolReads w a o outs)) else []

/-- Those blocks come in. -/
def poolBlocks (s : State) (r : Nat) (w : MacroW) (e : MemErrs) (a o : Opd) (outs : List (Nat × Nat × Nat)) : State :=
  if a.crec.isSome then chargeBlocks s r e.ue a (poolOrder w a o outs) else s

/-- Beats of Hearth and of Cellar that a POOL moves: those of its read set, its aux records and its outputs, each once (08 R221; DESIGN CHOICE, log entry
121). -/
def poolBeats (s : State) (w : MacroW) (e : MemErrs) (a o : Opd) (outs : List (Nat × Nat × Nat)) : Nat × Nat :=
  spanBeats (beatSpans o (outs.map (fun x => (x.1, x.2.1 % o.n0, x.2.1 / o.n0, x.2.2))) ++ o.extra ++
    (if a.crec.isSome then opdSpans s e.ue a (poolOrder w a o outs) else beatSpans a (poolReads w a o outs) ++ a.extra))

/-- What the POOL instructions share; `f` gives the cell of output (p, x, y, n). -/
def poolDo (s : State) (r : Nat) (w : MacroW) (e : MemErrs) (mx : Bool) (refuse : Option String) (f : PoolFn) : Ans :=
  macroDo s r (poolRefuse s r w mx refuse) (descsOf s w [0, 1]) (excessFault s r w) (fun pl s =>
    let o := poolOut s r w e
    let sh := poolShare pl w o
    let outs := poolOuts sh o
    let a := poolIn s r w e (poolOrder w (poolIn s r w e) o outs)
    guardAddr s r sh.p0 sh.p1 [a, o] (fun _ =>
      let e := withBeats e (poolBeats s w e a o outs)
      let s := poolBlocks s r w e a o outs
      let cell := fun (x : Nat × Nat × Nat) => let t := runOf a (x.2.1 / o.n0); f s e.ue w t.1 o x.1 (x.2.1 % o.n0) t.2 x.2.2
      match outs.find? (fun x => (cell x).isNone) with
      | some x =>
        overFault (chargeErrs s e) r (overDetail x.1 (x.2.1 / 128) (x.2.2 / 128) x.2.1 x.2.2)
      | none =>
        let p := (outs.mapM (fun x => (cell x).getD (pure .keep))) ⟨jobFlush s, 0, 0⟩
        let cells := (outs.zip p.1).map (fun x => (poolPos o x.1, x.2))
        let s := chargeArith (storeRuns s r e.ue o (gatherRuns cells)) r p.2
        retire (chargeErrs (tallyAdd s tAnvilSteps (poolSteps (winOf w) outs.length (4 * pl.fm * pl.fn))) e) r))

/-- Poison of the taps of an output and of the aux records. -/
def poolBad (s : State) (ue : List Nat) (a : Opd) (p n : Nat) (taps : List (Int × Int)) : Bool :=
  a.x.bad || taps.any (fun q => (tapCode s ue a p n q).2)

/-- Order of float codes for selection: +0 above −0 (R229). -/
def selKey (f : Fmt) (c : Nat) : Int := 2 * fcmpKey (fdec f c) + (if fNeg (fdec f c) then 0 else 1)

/-- The code of largest (or smallest) value of a nonempty list; the canonical NaN if any is one (R229, 04 R120). -/
def selFloat (f : Fmt) (max : Bool) (l : List Nat) : Nat :=
  if l.any (fun c => fIsNaN (fdec f c)) then fmtNaN f
  else l.foldl (fun a c => if max then (if selKey f a < selKey f c then c else a) else (if selKey f c < selKey f a then c else a))
    (l.headD 0)

/-- The code of largest (or smallest) signed integer of a nonempty list. -/
def selInt (f : Fmt) (max : Bool) (l : List Nat) : Nat :=
  l.foldl (fun a c => if max then (if intVal f a < intVal f c then c else a) else (if intVal f c < intVal f a then c else a))
    (l.headD 0)

/-- A Float input to a selection after the input flush (04 R126). -/
def flushIn (f : Fmt) (c : Nat) : Arith Nat := do
  let v ← fin f c
  return if fIsZero v then signed f (fNeg v) 0 else c

/-- POOL SUB 0: the largest element of each window. -/
def poolMaxCell : PoolFn := fun s ue w a o p x y n =>
  let taps := poolTaps a (winOf w) false x y
  let l := taps.map (fun q => (tapCode s ue a p n q).1)
  let bad := poolBad s ue a p n taps || o.x.bad
  some (if w.cls then do
      let strict := isStrict s true [a.f, o.f]
      let l ← if strict then do sigCheck a.f l; pure l else l.mapM (flushIn a.f)
      return .main (selFloat a.f true l) bad
    else pure <| .main (selInt a.f true l) bad)
def poolMaxRefuse (w : MacroW) : Option String := if bits w.p1 18 6 ≠ 0 ∨ bit w.p0 0 then some "R228" else none
def execPoolMax (r : Nat) (w : MacroW) (e : MemErrs) (s : State) : Ans := poolDo s r w e true (poolMaxRefuse w) poolMaxCell

/-- The Assay accumulator of a pool: Σ (a − z_a) over the taps (R230). -/
def poolAcc (s : State) (ue : List Nat) (a : Opd) (p n : Nat) (taps : List (Int × Int)) : Int :=
  taps.foldl (fun t q => t + (intVal a.f (tapCode s ue a p n q).1 - (zpOf s ue a n).1)) 0

/-- The tree T of a Float pool over its taps, in binary32 or the strict format (R231). -/
def poolTree (s : State) (ue : List Nat) (a : Opd) (p n rnd : Nat) (strict : Bool) (taps : List (Int × Int)) : Arith Nat := do
  let l ← taps.mapM (fun q => do
    let c := (tapCode s ue a p n q).1
    if strict then return c
    let v ← fin a.f c
    match v with
    | .nan => return fmtNaN .f32
    | .inf neg => return infCode .f32 neg
    | .fin neg _ sh => roundF32 (fnum v) (2 ^ sh) neg)
  if strict then ieeeTree a.f rnd l else bough l

/-- Multiplier and shift of an Assay average over `n` taps (R230). -/
def avgScale (n : Nat) : Int × Nat := (roundHalfEven (2 ^ (30 + Nat.log2 n)) n, 30 + Nat.log2 n)

/-- POOL SUB 1: the average of each window. -/
def poolAverageCell : PoolFn := fun s ue w a o p x y n =>
  let taps := poolTaps a (winOf w) (bit w.p0 0) x y
  let bad := poolBad s ue a p n taps || o.x.bad
  let cnt := taps.length
  if w.cls then
    let strict := isStrict s true [a.f, o.f]
    some (do
      if cnt = 0 then return .main 0 bad
      let t ← poolTree s ue a p n w.rnd strict taps
      let v := fdec (if strict then a.f else .f32) t
      if strict then
        if fIsNaN v ∨ fIsInf v then return .main t bad
        let q ← ieeeDiv a.f w.rnd t ((ieeeRound a.f 0 cnt 1 false) ⟨false, 0, 0⟩).1
        return .main q bad
      else
        if fIsNaN v ∨ fIsInf v then return .main (← outRound o.f scaleOne 0 o.x.lo o.x.hi t) bad
        let q ← roundF32 (fnum v) (2 ^ fsh v * cnt) (fNeg v)
        return .main (← outRound o.f scaleOne 0 o.x.lo o.x.hi q) bad)
  else
    let acc := poolAcc s ue a p n taps
    let z := zpOf s ue o n
    if !inI48 acc then none
    else some (pure <| .main (code (fmtBits o.f) (if cnt = 0 then clamp z.1 o.x.lo o.x.hi
        else requant acc (avgScale cnt).1 (avgScale cnt).2 z.1 o.x.lo o.x.hi)) (bad || z.2 || (zpOf s ue a n).2))
def poolAverageRefuse (w : MacroW) : Option String := if bits w.p1 18 6 ≠ 0 then some "R228" else none
def execPoolAverage (r : Nat) (w : MacroW) (e : MemErrs) (s : State) : Ans := poolDo s r w e false (poolAverageRefuse w) poolAverageCell

/-- POOL SUB 2: the sum of each window. -/
def poolSumCell : PoolFn := fun s ue w a o p x y n =>
  let taps := poolTaps a (winOf w) false x y
  let bad := poolBad s ue a p n taps || o.x.bad
  if w.cls then
    let strict := isStrict s true [a.f, o.f]
    some (do
      let t ← poolTree s ue a p n w.rnd strict taps
      if strict then return .main t bad
      else return .main (← outRound o.f scaleOne 0 o.x.lo o.x.hi t) bad)
  else
    let acc := poolAcc s ue a p n taps
    let z := zpOf s ue o n
    if !inI48 acc then none
    else some (pure <| .main (code (fmtBits o.f) (requant acc 1 (bits w.p1 18 6) z.1 o.x.lo o.x.hi))
      (bad || z.2 || (zpOf s ue a n).2))
def poolSumRefuse (w : MacroW) : Option String := if bit w.p0 0 ∨ (w.cls ∧ bits w.p1 18 6 ≠ 0) then some "R228" else none
def execPoolSum (r : Nat) (w : MacroW) (e : MemErrs) (s : State) : Ans := poolDo s r w e false (poolSumRefuse w) poolSumCell

end Sys2Proof.Machine
end

