-- ==== Sys2Proof/Machine/Extents.lean ====
section
/-! DEFINITION. The extents of a job (06 R552, R158; 07 R209; 12 R340). -/

namespace Sys2Proof.Machine

/-- The descriptor index that field `k` of the macro-instruction word `w` names (R163). -/
def wordD (w k : Nat) : Nat := bits w (106 - 6 * k) 6

/-- Instruction `w` names no D0: SEND and ROTATE. -/
def noD0 (w : Nat) : Bool := decide (bits w 120 8 = 0x24) || (decide (bits w 120 8 = 0x20) && decide (bits w 116 4 = 3))

/-- The descriptor slots that word `w` uses: D0, and D1 to D4 by PRES; none for a control instruction. -/
def wordSlots (w : Nat) : List Nat :=
  if 0x10 ≤ bits w 120 8 ∧ bits w 120 8 ≤ 0x33 then
    (if noD0 w then [] else [0]) ++ (List.range 4).filterMap (fun k => if bit w (60 + k) then some (k + 1) else none)
  else []

/-- Dimensions of descriptor `d` in slot `k` of word `w` after SWPAD (R209). -/
def paddedDims (w k : Nat) (d : Desc) : Nat × Nat × Nat :=
  padShape (bits w 120 8) (bits w 56 2) (if bits w 120 8 = 0x10 then bit w 49 else bit w 119) k d

/-- The largest count of problems and the largest padded dimensions with which the job uses descriptor `i`; one problem and its unpadded
dimensions where no instruction names it. -/
def descUse (j : Job) (i : Nat) (d : Desc) : Nat × Nat × Nat × Nat :=
  j.macros.foldl (fun (u : Nat × Nat × Nat × Nat) w =>
    (wordSlots w).foldl (fun u k =>
      if wordD w k = i then
        let q := paddedDims w k d
        (max u.1 (bits w 66 16 + 1), max u.2.1 q.1, max u.2.2.1 q.2.1, max u.2.2.2 q.2.2)
      else u) u) (1, d.n0, d.n1, d.n2)

/-- The declared extent of descriptor `i`, as first address and bytes (R158). -/
def plainSpan (j : Job) (i : Nat) (d : Desc) : Nat × Nat := let u := descUse j i d; declSpan d u.2 u.1

/-- The spans of descriptor `i` (R552). -/
def descSpans (s : State) (j : Job) (i : Nat) (d : Desc) : List (Nat × Nat) :=
  match d.kind with
  | 1 => codedExtent d (codedRec s d) (descUse j i d).1
  | 3 => (d.base, 16 * d.n0) :: (match j.descs[d.aux]? with
    | some x => [plainSpan j d.aux x]
    | none => [])
  | _ => let u := descUse j i d; descExtents s d u.2 u.1

/-- The extents of the loaded job (R552): image, save image, descriptors, and the areas that the loader placed. -/
def jobSpans (s : State) : List (Nat × Nat) :=
  match s.job with
  | none => []
  | some j => ((j.imageAddr, j.imageLen) :: (if j.saveAddr = 0 then [] else [(j.saveAddr, j.saveLen)]) ++
      ((List.range j.descs.length).zip j.descs).flatMap (fun x => descSpans s j x.1 x.2) ++
      j.areas.map (fun x => (x.addr, x.bytes))).filter (fun x => decide (x.2 > 0))

/-- Two spans share an address. -/
def spansMeet (x y : Nat × Nat) : Bool := decide (x.1 < y.1 + y.2) && decide (y.1 < x.1 + x.2)

/-- The least bytes that a save image of the loaded job takes: header, the records of its memory extents with their data, and that of the model identity (16
R446). -/
def saveBytes (s : State) : Nat :=
  match s.job with
  | none => 0
  | some j => (((List.range j.descs.length).zip j.descs).filter (fun x => !x.2.ronly)).foldl (fun n x =>
      (descSpans s j x.1 x.2).foldl (fun n y => n + 32 + roundUp y.2 64) n) 160

/-- The span `x` meets an extent of the loaded job. -/
def meetsJob (s : State) (x : Nat × Nat) : Bool := loaded s && (jobSpans s).any (spansMeet x)

/-- A span of device addresses lies in Cellar or Hearth, within its level and in range (03 R69). -/
def spanDram (s : State) (a n : Nat) : Bool :=
  decide (levelOf a ≤ 1) && decide (a < 2 ^ 52) && decide (levelOf (a + n - 1) = levelOf a) &&
    (if n = 0 then (addrFault s a).isNone else (addrFault s a).isNone && (addrFault s (a + n - 1)).isNone &&
      (levelOf a = 0 || decide (bits a 36 4 = bits (a + n - 1) 36 4)))

end Sys2Proof.Machine
end

