-- ==== Sys2Proof/Machine/Dataflow.lean ====
section
/-! DEFINITION. How a program's tensors go from the instructions that write them to those that read them: ranges, zero points, channel axes and scales, and the
proof that no Assay sum overflows (04 R109, R110; 05 R138, R142, R146; 06 R553). -/

namespace Sys2Proof.Machine

/-! Writers and readers. -/

/-- OP and SUB of instruction `i`. -/
def opAt (j : Job) (i : Nat) : Nat := bits (j.macros.getD i 0) 120 8
def subAt (j : Job) (i : Nat) : Nat := bits (j.macros.getD i 0) 116 4

/-- The instructions without descriptors, by OP (06 R181). -/
def memberControl (op : Nat) : Bool := [0x40, 0x41, 0x42, 0x43, 0x44, 0x01, 0x50].contains op

/-- Instruction `i` writes the descriptor that its D0 names: every one but a control instruction, SEND and ROTATE. -/
def writesD0 (j : Job) (i : Nat) : Bool := !memberControl (opAt j i) && !noD0 (j.macros.getD i 0)

/-- Index of D0 of instruction `i`. -/
def outDesc (j : Job) (i : Nat) : Nat := bits (j.macros.getD i 0) 106 6

/-- The descriptor that instruction `i` writes, with the aux record of a transport mark on it. -/
def markedOut (j : Job) (i : Nat) : Desc :=
  let d := (j.descs[outDesc j i]?).getD descZero
  match j.edges.find? (fun e => e.producer = i && e.desc = outDesc j i) with
  | some e => { d with auxEn := decide (e.aux ≠ 0xFF), aux := e.aux }
  | none => d

/-- The last instruction before `k` that writes the tensor at `a`. -/
def lastWriter (j : Job) (k a : Nat) : Option Nat :=
  ((List.range k).filter (fun i => writesD0 j i && decide (((j.descs[outDesc j i]?).map (·.base)) = some a))).getLast?

/-- The fields of an instruction whose operands are activations. -/
def actFields (op sub : Nat) : List Nat :=
  if op = 0x13 ∨ (op = 0x31 ∧ sub % 8 = 0) then [1, 2]
  else if op = 0x31 then [2]
  else if [0x10, 0x11, 0x12, 0x14, 0x15, 0x16, 0x17, 0x20, 0x30].contains op then [1] else []

/-- The activations that instruction `i` reads, by descriptor. -/
def actDescs (j : Job) (i : Nat) : List Desc :=
  fieldDescs j i ((actFields (opAt j i) (subAt j i)).filter (fun k => (inFields j i).contains k))

/-- Instruction `i` copies the bits of its D1: a copy, a transposition or an MCAST. -/
def copies (j : Job) (i : Nat) : Bool := (decide (opAt j i = 0x20) && decide (subAt j i < 2)) || decide (opAt j i = 0x23)

/-- Instruction `i` hands on the values of its D1 as they are: a bit copy, or a widening of Assay class. -/
def passesOn (j : Job) (i : Nat) : Bool := copies j i || (decide (opAt j i = 0x17) && !bit (j.macros.getD i 0) 115)

/-- D1 of instruction `i`. -/
def firstDesc (j : Job) (i : Nat) : Desc := ((fieldDescs j i [1]).head?).getD descZero

/-! Ranges (04 R109). -/

/-- The range that the producer of the tensor of descriptor `d`, as instruction `k` reads it, guarantees: the limits of the requantisation, lookup or narrowing
that wrote it, a copy's of what it copies, the constant of a FILL, and else the whole of its format. DEDUCED (log entry 122): a selection keeps to the
limits of its D0. -/
def madeRange (t : State) (j : Job) : Nat → Nat → Desc → Int × Int
  | 0, _, d => (fmtMin (descFmt d), fmtMax (descFmt d))
  | n + 1, k, d =>
    let full := (fmtMin (descFmt d), fmtMax (descFmt d))
    match lastWriter j k d.base with
    | none => full
    | some i =>
      let o := markedOut j i
      if passesOn j i then madeRange t j n i (firstDesc j i)
      else if opAt j i = 0x20 then (let v := sext (fmtBits (descFmt o)) (o.padc % 2 ^ fmtBits (descFmt o)); (v, v))
      else if 0x10 ≤ opAt j i ∧ opAt j i ≤ 0x17 ∨ opAt j i = 0x30 then (if auxKnown t o then declRange t o else full)
      else full

/-- An activation of the Assay instruction `k` declares a range narrower than its producer guarantees. -/
def rangeRefuse (t : State) (j : Job) (k : Nat) : Option String :=
  if bit (j.macros.getD k 0) 115 then none
  else if (actDescs j k).any (fun d =>
      let r := declRange t d
      let m := madeRange t j k k d
      fmtInt (descFmt d) && auxKnown t d && (decide (m.1 < r.1) || decide (r.2 < m.2))) then some "R109"
  else none

/-! Zero points, channel axes and scales (05 R138, R142; 06 R553). -/

/-- The descriptor that states the zero point of the tensor of `d` as instruction `k` reads it: that of the instruction that wrote it, of what a copy copies,
and for a tensor of the host or of media, that of the first instruction to read it. -/
def zpOrigin (j : Job) : Nat → Nat → Desc → Desc
  | 0, _, d => d
  | n + 1, k, d =>
    match lastWriter j k d.base with
    | some i => if passesOn j i then zpOrigin j n i (firstDesc j i) else markedOut j i
    | none => (((List.range k).flatMap (actDescs j)).find? (fun x => decide (x.base = d.base))).getD d

/-- An activation of instruction `k` declares another zero point than the tensor was written with, or another channel axis than its producer. -/
def zpRefuse (t : State) (j : Job) (k : Nat) : Option String :=
  (actDescs j k).findSome? (fun d =>
    let o := zpOrigin j k k d
    let x := constAux t d
    let f := descFmt d
    let int := f = .int4 || f = .int8 || f = .int16
    if int && descFmt o == f && !zpsAgree t o d (if x.caxis ∨ d.kind = 1 then d.n2 else d.n0) then some "R142"
    else match (lastWriter j k d.base).map (markedOut j) with
    | some y => if d.kind = 0 ∧ y.kind = 0 ∧ x.addr.isSome ∧ (constAux t y).addr.isSome ∧ (constAux t y).caxis ≠ x.caxis then some "R553" else none
    | none => none)

/-- The rule that a scaled input of instruction `k` breaks: its scale tensor, G and channel axis are those of the narrowing that wrote it, so far as the
program's constants say (05 R138; of a marked edge R146). Scales that the part forms of a group are not compared (R148). -/
def scaleRefuse (t : State) (j : Job) (k : Nat) : Option String :=
  (fieldDescs j k (inFields j k)).findSome? (fun d =>
    let x := constAux t d
    if d.kind ≠ 0 ∨ x.scale = 0 then none
    else (lastWriter j k d.base).bind (fun i =>
      let y := constAux t (markedOut j i)
      if y.scale = 0 ∨ bit (j.macros.getD i 0) 115 = false ∨ (y.act ∧ ¬ inConsts t y.scale 2) ∨ (x.scale, x.g, x.caxis) = (y.scale, y.g, y.caxis) then none
      else some (if j.edges.any (fun e => e.producer = i && e.desc = outDesc j i) then "R146" else "R138")))

/-! The overflow proof (04 R110). -/

/-- A of R110: the largest distance of a declared code of the activation `d` from its zero points; those that only the run gives may be any. -/
def actSpan (t : State) (d : Desc) : Nat :=
  let x := constAux t d
  let r := declRange t d
  let f := descFmt d
  let of_ := fun (z : Int) => max (r.1 - z).natAbs (r.2 - z).natAbs
  let known := auxKnown t d && (decide (x.zpa = 0) || inConsts t x.zpa (4 * (if x.caxis then d.n2 else d.n0)))
  if known then (if x.zpa = 0 then [if x.zpEn then x.zp else 0] else constZps t x (if x.caxis then d.n2 else d.n0)).foldl (fun m z => max m (of_ z)) 0
  else max (of_ (fmtMin f)) (of_ (fmtMax f))

/-- The sum of the magnitudes of a column of weights: of constants their values; of weights of the run, 128 or 8 each. -/
def weightSum (t : State) (d : Desc) (tb : Bool) (p n k : Nat) : Nat :=
  let f := descFmt d
  let o : Opd := { d := d, di := 0, f := f, n0 := d.n0, n1 := d.n1, n2 := d.n2, q0 := d.n0, q1 := d.n1, q2 := d.n2, x := auxNone f
                   crec := none, twoD := true, blocks := [], extra := [] }
  let x := declSpan d (d.n0, d.n1, d.n2) (p + 1)
  if d.kind = 0 ∧ inConsts t x.1 x.2 then
    (List.range k).foldl (fun m i => m + (intVal f (elemAt t [] o p (if tb then i else n) (if tb then n else i) 0).1).natAbs) 0
  else k * (if f = .int4 then 8 else 128)

/-- The magnitude of the bias of column `n`: 2^31 if only the run gives it. -/
def biasSize (t : State) (d : Option Desc) (n : Nat) : Nat :=
  match d with
  | none => 0
  | some d => if inConsts t d.base (4 * d.n0) then (sext 32 (devLE t [] (d.base + 4 * n) 4)).natAbs else 2 ^ 31

/-- B_n of an Assay product or convolution `i` for column `n` of problem `p`. -/
def boundOf (t : State) (j : Job) (i p n : Nat) : Nat :=
  let v := j.macros.getD i 0
  let tb := if opAt j i = 0x10 then bit v 49 else bit v 119
  let b := ((fieldDescs j i [2]).head?).getD descZero
  let k := if b.kind = 1 then (if tb then b.n0 * b.n1 else b.n2) else if tb then b.n0 else b.n1
  biasSize t (if (inFields j i).contains 3 then (fieldDescs j i [3]).head? else none) n + actSpan t (firstDesc j i) * weightSum t b tb p n k

/-- The refusal of a model whose product `i` has a B_n above 2^47 - 1, with the instruction and n. -/
def boundRefuse (t : State) (j : Job) (i : Nat) : Option String :=
  let v := j.macros.getD i 0
  let b := ((fieldDescs j i [2]).head?).getD descZero
  let n := ((fieldDescs j i [0]).head?).elim 0 (fun d => if opAt j i = 0x10 then (if d.kind = 1 then d.n2 else d.n0) else d.n2)
  if !([0x10, 0x11, 0x30].contains (opAt j i)) || bit v 115 then none
  else (List.range (if b.pstride = 0 then 1 else bits v 66 16 + 1)).findSome? (fun p => (List.range n).findSome? (fun c =>
    if boundOf t j i p c > 2 ^ 47 - 1 then some ("R110: instruction " ++ toString i ++ ", n " ++ toString c) else none))

/-- The rule that the activation scales of what instruction `k` writes break where they are none of the program's constants: only a training state tensor has
such (05 R137), and only a job that may hold one (05 R147). -/
def trainRefuse (t : State) (j : Job) (k : Nat) : Option String :=
  let d := markedOut j k
  let x := constAux t d
  if !writesD0 j k ∨ x.scale = 0 ∨ !x.act ∨ inConsts t x.scale 2 then none
  else if ¬ (descFmt d = .e4m3 ∨ descFmt d = .e5m2) then some "R137"
  else if j.kind = 0 then some "R147" else none

/-- The rule that the flow of tensors of job `j`, which `t` holds, breaks. -/
def flowRefuse (t : State) (j : Job) : Option String :=
  (List.range j.macros.length).findSome? (fun k =>
    [trainRefuse t j k, rangeRefuse t j k, zpRefuse t j k, scaleRefuse t j k, boundRefuse t j k].findSome? id)

end Sys2Proof.Machine
end

