-- ==== Sys2Proof/Machine/Link.lean ====
section
/-! DEFINITION. Tinlink flits and what a port sends (15 R400 to R402, R405, R410, R411). -/

namespace Sys2Proof.Machine

/-- Flit types (R400). -/
def ftIdle : Nat := 0
def ftData : Nat := 1
def ftLast : Nat := 2
def ftSide : Nat := 3

/-- Port states (R423). -/
def psDown : Nat := 0
def psTraining : Nat := 1
def psAligned : Nat := 2
def psUp : Nat := 3
def psRetrain : Nat := 4
def psFailed : Nat := 5

/-- A flit that carries nothing. -/
def flitEmpty : Flit := ⟨0, 0, 0, 15, 0, false, 0, 0, []⟩

/-- State of port `p`. -/
def portState (s : State) (p : Nat) : Nat := rd s (Fk.tlPstateState p)

/-- Exactly 512 bytes. -/
def payload512 (l : List Byte) : List Byte := (l ++ List.replicate 512 0).take 512

/-- The header of a flit sent with the link fields of its port: ACK, NAK and CREDIT; the CRC covers bits [95:0] and the payload
(R400). -/
def flitHeader (f : Flit) (ack credit : Nat) (nak : Bool) : Nat :=
  let h := f.ty % 16 + f.stream % 64 * 2 ^ 4 + f.seq % 4096 * 2 ^ 10 + ack % 4096 * 2 ^ 22 + b2n nak * 2 ^ 34 +
    credit % 64 * 2 ^ 35 + f.beatsM1 % 16 * 2 ^ 41 + f.sidePos % 4 * 2 ^ 45 + b2n f.sideV * 2 ^ 47 +
    f.poison % 2 ^ 16 * 2 ^ 48 + f.side % 2 ^ 32 * 2 ^ 64
  h + crc32 (toLE 12 h ++ payload512 f.payload) * 2 ^ 96

/-- Send one flit: its header is formed from the port as it stands, and an owed NAK goes with it. -/
def sendFlit (s : State) (p : Nat) (f : Flit) : State :=
  let x := getPort s p
  emit (modPort s p (fun x => { x with nak := false })) (.flit p (flitHeader f ((x.rxSeq + 4095) % 4096) x.freed x.nak)
    (payload512 f.payload))

/-- The side bytes that the next sequenced flit carries: position and four bytes of the first queued message (R410). -/
def nextSide (x : Port) : Option (Nat × Nat) := x.sideQ.head?.map (fun m => (x.sideTx, ofLE ((m.drop (4 * x.sideTx)).take 4)))

/-- The port after it has sent side bytes. -/
def sideSent (x : Port) : Port :=
  if x.sideTx < 3 then { x with sideTx := x.sideTx + 1 } else { x with sideTx := 0, sideQ := x.sideQ.tail }

/-- Send the next flit of port `p`, if there is one and the link takes it: UP, fewer than 256 flits unacknowledged, and for data a
credit (R401, R402). A queued side message travels with data flits, else in SIDE flits. -/
def pumpOne (s : State) (p : Nat) : Option State :=
  let x := getPort s p
  let up := portState s p = psUp
  let link := up || portState s p = psAligned || (portState s p = psRetrain && x.synced)
  if x.unacked.length ≥ 256 then none
  else
    let put := fun (f : Flit) (x' : Port) =>
      let f := match nextSide x with
        | some (pos, v) => { f with sidePos := pos, sideV := true, side := v }
        | none => f
      let f := { f with seq := x.txSeq % 4096 }
      let x' := if (nextSide x).isSome then sideSent x' else x'
      sendFlit (modPort s p (fun _ => { x' with unacked := x'.unacked ++ [f], txSeq := (x.txSeq + 1) % 4096 })) p f
    match x.txq with
    | f :: l =>
      if up && decide (rd s (Fk.tlPcredTxCredit p) > 0) then
        some (tallyAdd (wr (put f { x with txq := l }) (Fk.tlPcredTxCredit p) (rd s (Fk.tlPcredTxCredit p) - 1)) tTinlinkFlits 1)
      else if link && x.sideQ ≠ [] then some (put { flitEmpty with ty := ftSide } x) else none
    | [] => if link && x.sideQ ≠ [] then some (put { flitEmpty with ty := ftSide } x) else none

/-- Send while port `p` can. -/
def pumpLoop (p : Nat) : Nat → State → State
  | 0, s => s
  | n + 1, s => match pumpOne s p with
    | some s => pumpLoop p n s
    | none => s

/-- Send all that port `p` can send now: at most 256 flits may be unacknowledged. -/
def pump (s : State) (p : Nat) : State := pumpLoop p 257 s

/-- Send from every port. -/
def pumpAll (s : State) : State := (List.range 16).foldl pump s

/-- The flits that carry bytes to a receive stream (R405): 512 bytes each with one poison bit a beat, the last DATA_LAST. -/
def flitsOf (stream : Nat) (l : List (Byte × Bool)) : List Flit :=
  let n := ceilDiv l.length 512
  (List.range n).map (fun i =>
    let part := (l.drop (512 * i)).take 512
    let bad := fun j => ((part.drop (32 * j)).take 32).any (·.2)
    let last := i + 1 = n
    { flitEmpty with
      ty := if last then ftLast else ftData, stream := stream
      beatsM1 := if last then ceilDiv part.length 32 - 1 else 15
      poison := ((List.range 16).filter bad).foldl (fun m j => m + 2 ^ j) 0
      payload := ((List.range part.length).zip part).map (fun y => if bad (y.1 / 32) then 0 else y.2.1) })

/-- A DATA or DATA_LAST flit. -/
def isDataFlit (f : Flit) : Bool := f.ty = ftData || f.ty = ftLast

/-- Every data flit that the part has handed to its ports is acknowledged (R412). -/
def flitsQuiet (s : State) : Bool :=
  (List.range 16).all (fun p => !((getPort s p).txq ++ (getPort s p).unacked).any isDataFlit)

/-- TIME_STATE values (02 R54). -/
def tsFree : Nat := 0
def tsTracking : Nat := 1
def tsLocked : Nat := 2
def tsHoldover : Nat := 3

/-- The part enters HOLDOVER (02 R66). -/
def holdover (s : State) : State := raise (wr s Fk.epochTimeAuxTimeState tsHoldover) Fk.epochStatusHoldover

/-- The part takes its Rootline frames from the side path (02 R57). -/
def onSidePath (s : State) : Bool := decide (s.root.missed ≥ 4)

/-! Port states (R403, R404). -/

/-- Port `p` leads to the time parent (02 R54). -/
def isParentPort (s : State) (p : Nat) : Bool := decide (rd s Fk.epochCfgRole = 2) && decide (rd s Fk.epochCfgTimeParent = p)

/-- Port `p` leads to a time child (R409). -/
def isChildPort (s : State) (p : Nat) : Bool := rdBit s Fk.tlDomainChildren p

/-- The job uses port `p` (R404): a table of its schedule grants slots on it, an enabled receive stream names it, or it is a time-parent
or child port. -/
def jobUsesPort (s : State) (p : Nat) : Bool :=
  (match s.job with
  | some j => j.tsets.any (fun ts => ts.any (fun t => decide (t.kind = 8) && decide (t.inst = p) && t.codes.any (fun c => decide (c ≠ 0))))
  | none => false) ||
  (List.range 64).any (fun k => decide (rd s (Fk.tlRxsEn k) = 1) && decide (rd s (Fk.tlRxsPort k) = p)) ||
  isParentPort s p || isChildPort s p

/-- A port entering FAILED loses its unacknowledged flits, and those that it has not sent (DESIGN CHOICE, log entry 120), and faults a running job that uses it (R404). -/
def portFailed (s : State) (p : Nat) : State :=
  let used := running s && jobUsesPort s p
  let s := modPort (raiseBit s Fk.tlStatusDown p) p (fun x => { x with unacked := [], txq := [], nak := false, resends := [] })
  if used then jobFault s ⟨fcTinlinkDown, 3, 4, srcIo (p / 8), noInstr, toLE 1 p⟩ else s

/-- What entering state `st` does beside the records (R403, R423). DESIGN CHOICE (log entry 104): only entering RETRAIN is a retrain of the time parent's
link (02 R58); a port that goes through DOWN and TRAINING keeps CAL_VALID. In DOWN and TRAINING a port holds no flit, message or sequence number (DESIGN
CHOICE, log entry 120); at training it has 512 credits (R402). -/
def portEntered (s : State) (p st : Nat) : State :=
  match st with
  | 0 => modPort (wr (wr (wr (wr s (Fk.tlPerrFecCorr p) 0) (Fk.tlPerrReplays p) 0) (Fk.tlPerrRetrains p) 0) (Fk.tlPdelayDelayValid p) 0) p
      (fun _ => portEmpty)
  | 1 => modPort (wr (wr s (Fk.tlPstatePeerValid p) 0) (Fk.tlPcredTxCredit p) 512) p (fun _ => portEmpty)
  | 4 =>
    let s := wr (bump (raiseBit s Fk.tlStatusRetrained p) (Fk.tlPerrRetrains p) 8) (Fk.tlPdelayDelayValid p) 0
    let s := if isParentPort s p then
        let s := wr s Fk.epochCalCalValid 0
        if rd s Fk.epochTimeAuxTimeState = tsLocked then wr s Fk.epochTimeAuxTimeState tsTracking else s
      else s
    modPort s p (fun x => { x with helloSent := false, synced := false, resends := [] })
  | 5 => portFailed s p
  | _ => s

/-- Port `p` enters state `st`: the LINK_STATE entry, the trace event and the alarm of R485, and what the state itself does. A time parent's port that
leaves UP while the part takes its frames from the side path was its last Rootline source (02 R66). -/
def portEnter (s : State) (p st : Nat) : State :=
  let old := portState s p
  if old = st then s
  else
    let s := wr s (Fk.tlPstateState p) st
    let s := hwRecord s false (hwEntry s 0x0106 3 0 (srcIo (p / 8)) noInstr (toLE 1 p ++ toLE 1 old ++ toLE 1 st))
    let s := trace s 6 0 (srcIo (p / 8)) (toLE 1 p ++ toLE 1 st)
    let s := if st = 4 ∨ st = 5 then alarmEvent s 6 else s
    let s := portEntered s p st
    if role s = roleMember ∧ isParentPort s p ∧ onSidePath s ∧ old = psUp then holdover s else s

end Sys2Proof.Machine
end

