-- ==== Sys2Proof/Machine/Time.lean ====
section
/-! DEFINITION. The part's time: the nominal CCLK timeline, EPOCH.CYCLE, SCYC, LAG and EPOCH.TIME_NS (02 R37, R38, R54; 09 R247). -/

namespace Sys2Proof.Machine

/-- Thirds of 2^-16 ns in the reference time: one CCLK period is 131,072 of them (2/3 ns). -/
def timeThirds (s : State) : Nat := (rd s Fk.epochTimeNs * 65536 + rd s Fk.epochTimeAuxTimeFrac) * 3 + s.trem

/-- Set the reference time from thirds of 2^-16 ns. -/
def setTimeThirds (s : State) (t : Nat) : State :=
  wr (wr { s with trem := t % 3 } Fk.epochTimeNs (t / 3 / 65536 % 2 ^ 64)) Fk.epochTimeAuxTimeFrac (t / 3 % 65536)

/-- SCYC of logical region `r` advances `n` edges, of which EPOCH.CYCLE has counted the last. Where the region holds, SCYC stands from the first multiple
of 32 of EPOCH.CYCLE at or after the moment at which the region held, so that every hold lasts a multiple of 32 cc, and LAG grows, to saturate (09 R247 to
R249; log entry 107). -/
def advanceRegion (n : Nat) (s : State) (r : Nat) : State :=
  let p := posOf s r
  let x := getRegion s r
  let run := if x.run = .holding then min n (roundUp x.holdSince 32 - (rd s Fk.epochCycle - n)) else n
  let t := wr s (Fk.rschedScyc p) ((rd s (Fk.rschedScyc p) + run) % 2 ^ 64)
  if run < n then wr t (Fk.rschedLag p) (min (rd s (Fk.rschedLag p) + (n - run)) (2 ^ 32 - 1)) else t

/-- `n` nominal CCLK periods pass. Where the clocks have stopped (17 R463) only the nominal time passes. -/
def advance (s : State) (n : Nat) : State :=
  let s := { s with cc := s.cc + n }
  if n = 0 ∨ ¬ s.part.clocks then s
  else
    let s := setTimeThirds (wr s Fk.epochCycle ((rd s Fk.epochCycle + n) % 2 ^ 64)) (timeThirds s + n * 131072)
    (List.range (regionCount s)).foldl (advanceRegion n) s

/-- Time passes until the nominal edge `t`, if it is not past. -/
def advanceTo (s : State) (t : Nat) : State := advance s (t - s.cc)

/-- One TCLK period: 8 CCLK periods (R38). -/
def tclk (s : State) : State := advance s 8

end Sys2Proof.Machine
end

