-- ==== Sys2Proof/Machine/Power.lean ====
section
/-! DEFINITION. Bellows: power samples, paces, thermal states and floors, droop stretches and ballast (17 R449 to R466). -/

namespace Sys2Proof.Machine

/-! Demands and the estimate (R450). -/

/-- Logical regions. -/
def logicals (s : State) : List Nat := List.range (regionCount s)

/-- D_r: the demand of region `r`. -/
def demandOf (p : PowerSample) (r : Nat) : Nat := p.d.getD (3 * r) 0 + p.d.getD (3 * r + 1) 0 + p.d.getD (3 * r + 2) 0

/-- Demand of region `r` in class `x`; class 3 stands for ALL. -/
def demandIn (p : PowerSample) (r x : Nat) : Nat := if x < 3 then p.d.getD (3 * r + x) 0 else demandOf p r

/-- D_x: the total of class `x`. -/
def classTotal (s : State) (p : PowerSample) (x : Nat) : Nat := (logicals s).foldl (fun a r => a + p.d.getD (3 * r + x) 0) 0

/-- P: the package demand. -/
def packageDemand (s : State) (p : PowerSample) : Nat := p.u + (logicals s).foldl (fun a r => a + demandOf p r) 0

/-- S_r. -/
def staticW (s : State) : Nat := rd s Fk.bellowsStaticSRegionW

/-- Pace of logical region `r`. -/
def paceOf (s : State) (r : Nat) : Nat := rd s (Fk.bellowsRegionPwrPace (posOf s r))

/-- E_r(q). -/
def estRegion (s : State) (p : PowerSample) (r q : Nat) : Int :=
  let sr : Int := ((staticW s : Nat) : Int)
  sr + ((((demandOf p r : Nat) : Int) - sr) * ((4 + paceOf s r : Nat) : Int)).tdiv ((4 + q : Nat) : Int)

/-- The package estimate at paces `q`. -/
def estPackage (s : State) (p : PowerSample) (q : List Nat) : Int :=
  (logicals s).foldl (fun a r => a + estRegion s p r (q.getD r 0)) ((p.u : Nat) : Int)

/-- The cap and the release hysteresis in watts (R451). -/
def capW (s : State) : Int := ((rd s Fk.bellowsCapStgCap * 50 : Nat) : Int)
def hystW (s : State) : Int := ((rd s Fk.bellowsCapStgHyst * 50 : Nat) : Int)

/-- Classes from highest to lowest priority. -/
def prioHigh (s : State) : List Nat := [rd s Fk.bellowsCapStgPrio0, rd s Fk.bellowsCapStgPrio1, rd s Fk.bellowsCapStgPrio2]

/-! The paces (R452). -/

/-- Insert by a comparison that says whether the first stands before the second. -/
def insertBy (lt : Nat → Nat → Bool) (x : Nat) : List Nat → List Nat
  | [] => [x]
  | y :: l => if lt x y then x :: y :: l else y :: insertBy lt x l

/-- Regions of class `x` (3 for ALL), by ascending region. -/
def regionsOf (s : State) (p : PowerSample) (x : Nat) : List Nat :=
  (logicals s).filter (fun r => x = 3 || decide (demandIn p r x ≥ classTotal s p x / max 1 (regionCount s)))

/-- Regions of a class by descending demand, ties by ascending region. -/
def setDown (s : State) (p : PowerSample) (x : Nat) : List Nat :=
  (regionsOf s p x).foldl (fun l r => insertBy (fun a b => decide (demandIn p a x > demandIn p b x)) r l) []

/-- Regions of a class by ascending demand, ties by descending region. -/
def setUp (s : State) (p : PowerSample) (x : Nat) : List Nat := (setDown s p x).reverse

/-- One round over a set: raise each region's pace by 1 while the estimate exceeds the cap. -/
def raiseRound (s : State) (p : PowerSample) (set q : List Nat) : List Nat :=
  set.foldl (fun q r => if estPackage s p q > capW s ∧ q.getD r 0 < 12 then q.set r (q.getD r 0 + 1) else q) q

/-- Rounds over one class: a pace rises at most twelve times. -/
def raiseClass (s : State) (p : PowerSample) (q : List Nat) (x : Nat) : List Nat :=
  (List.range 12).foldl (fun q _ => raiseRound s p (setDown s p x) q) q

/-- Lower one region's pace while the estimate allows. -/
def lowerRegion (s : State) (p : PowerSample) (q : List Nat) (r : Nat) : List Nat :=
  (List.range 12).foldl (fun q _ =>
    let q' := q.set r (q.getD r 0 - 1)
    if q.getD r 0 > 0 ∧ estPackage s p q' ≤ capW s - hystW s then q' else q) q

/-- Ballast gives way before any pace rises (R461): the levels fall toward static power in the order of R452 while the estimate exceeds the
cap. The answer is the state and the demands that remain. -/
def lowerBallast (s : State) (p : PowerSample) (q : List Nat) : State × PowerSample :=
  let order := ((prioHigh s).reverse ++ [3]).flatMap (fun x => setDown s p x)
  order.foldl (fun (y : State × PowerSample) r =>
    let excess := (estPackage y.1 y.2 q - capW y.1).toNat
    let spare := (getRegion y.1 r).ballastW - staticW y.1
    let cut := min excess spare
    if cut = 0 then y
    else (modRegion y.1 r (fun x => { x with ballastW := x.ballastW - cut }),
      { y.2 with d := y.2.d.set (3 * r) (y.2.d.getD (3 * r) 0 - cut) })) (s, p)

/-- The computation of R452 on the demands `p`: it leaves PENDING of every region, and CAP_UNMET where pace 12 everywhere is not enough
(R453). -/
def computePaces (s : State) (p : PowerSample) : State :=
  let q0 := (logicals s).map (fun r => rd s (Fk.bellowsRegionPwrPending (posOf s r)))
  let y := if estPackage s p q0 > capW s then lowerBallast s p q0 else (s, p)
  let s := y.1
  let p := y.2
  let q :=
    if estPackage s p q0 > capW s then ((prioHigh s).reverse ++ [3]).foldl (raiseClass s p) q0
    else if estPackage s p q0 < capW s - hystW s then
      (prioHigh s ++ [3]).foldl (fun q x => (setUp s p x).foldl (lowerRegion s p) q) q0
    else q0
  let unmet := estPackage s p q > capW s && q.all (fun v => decide (v = 12))
  let s := if unmet then statusAlarm s Fk.bellowsStatusCapUnmet 9 else s
  (logicals s).foldl (fun s r =>
    let n := posOf s r
    wr s (Fk.bellowsRegionPwrPending n) (max (q.getD r 0) (rd s (Fk.bellowsRegionPwrFloor n)))) s

/-- The region's clock is stretched: by its pace or by droop (R454, R459). -/
def stretchedNow (s : State) (r : Nat) : Bool := decide (paceOf s r > 0) || decide ((getRegion s r).droopExt > 0)

/-- A stretch that ends or changes now was in force up to the cycle before (02 R50). -/
def noteStretch (s : State) (r : Nat) : State :=
  let c := rd s (Fk.rschedScyc (posOf s r))
  if stretchedNow s r ∧ 0 < c then modRegion s r (fun x => { x with lastStretch := some (c - 1) }) else s

/-- Region `r` adopts its pending pace; a change is traced (18 R480). -/
def adoptPace (s : State) (r : Nat) (urgent : Bool) : State :=
  let n := posOf s r
  let q := rd s (Fk.bellowsRegionPwrPending n)
  if q = rd s (Fk.bellowsRegionPwrPace n) then s
  else trace (wr (noteStretch s r) (Fk.bellowsRegionPwrPace n) q) 3 0 (srcRegion s r)
    (toLE 1 q ++ toLE 1 (rd s (Fk.bellowsRegionPwrFloor n)) ++ toLE 1 (b2n urgent))

/-- Adopt at once, outside governor points (R458, R462): a pace that rose counts once (R455). -/
def adoptNow (s : State) (r : Nat) : State :=
  let n := posOf s r
  let rose := decide (rd s (Fk.bellowsRegionPwrPending n) > rd s (Fk.bellowsRegionPwrPace n))
  diverge (adoptPace s r true) tDivStretch (b2n rose)

/-- A governor point of region `r` (R455 to R457): the pending pace is adopted, unless the region is in an open exchange, and the span
that begins counts where its pace is above 0. `release` says that the point is an epoch release. -/
def governorPoint (s : State) (r : Nat) (release : Bool) : State :=
  let n := posOf s r
  let wait := !release && decide ((getRegion s r).openEx ≠ 0)
  let differs := decide (rd s (Fk.bellowsRegionPwrPending n) ≠ rd s (Fk.bellowsRegionPwrPace n))
  let s := if wait then (if differs then raise s Fk.bellowsStatusDeferred else s) else adoptPace s r false
  diverge s tDivStretch (b2n (decide (rd s (Fk.bellowsRegionPwrPace n) > 0)))

/-! Samples (R450, R458, R462, R463). -/

/-- The mean of samples, truncated. -/
def meanSample (l : List PowerSample) : PowerSample :=
  let n := max 1 l.length
  ⟨(List.range 24).map (fun i => (l.foldl (fun a p => a + p.d.getD i 0) 0) / n), (l.foldl (fun a p => a + p.u) 0) / n⟩

/-- The thermal state after a reading of `t` °C in state `st` (R462). -/
def nextTstate (s : State) (st t : Nat) : Nat :=
  let warm := rd s Fk.bellowsThermWarmC
  let hot := rd s Fk.bellowsThermHotC
  let h := rd s Fk.bellowsThermHystC
  if t ≥ rd s Fk.bellowsThermTripC then 3
  else if t ≥ hot ∨ (st ≥ 2 ∧ t + h ≥ hot) then 2
  else if t ≥ warm ∨ (st ≥ 1 ∧ t + h ≥ warm) then 1 else 0

/-- Ballast of region `r` ends (R461). -/
def ballastStop (s : State) (r : Nat) : State :=
  wr (modRegion s r (fun x => { x with ballastW := 0 })) (Fk.bellowsRegionPwrBallastOn (posOf s r)) 0

/-- Floor 6 at least, applied at once, and ballast stops (R462 HOT). -/
def hotRegion (s : State) (r : Nat) : State :=
  let n := posOf s r
  let f := max 6 (rd s (Fk.bellowsRegionPwrFloor n))
  let s := wr s (Fk.bellowsRegionPwrFloor n) f
  let s := wr s (Fk.bellowsRegionPwrPending n) (max f (rd s (Fk.bellowsRegionPwrPending n)))
  ballastStop (adoptNow s r) r

/-- TRIP (R463): the clocks stop, THERMAL_TRIP is raised, THERMTRIP_N goes low, and drains stop without holds. -/
def thermalTrip (s : State) (src level sensor t : Nat) : State :=
  if s.part.thermtrip then s
  else
    let s := { s with part := { s.part with clocks := false, thermtrip := true } }
    let s := partFault s ⟨fcThermalTrip, level, 5, src, noInstr, toLE 2 sensor ++ toLE 2 t⟩
    stopDrains (emit s (.pin "THERMTRIP_N" false))

/-- A thermal state changes: the THERMAL entry (18 R476), the status bits and what the state does at once. -/
def thermalChange (s : State) (die : Nat) (isIo : Bool) (st sensor t : Nat) (regions : List Nat) : State :=
  let src := if isIo then srcIo die else source die 31 127
  let s := hwRecord s false (hwEntry s 0x0108 (if isIo then 3 else 2) 0 src noInstr
    (toLE 1 (if isIo then 8 + die else die) ++ toLE 1 st ++ toLE 2 t))
  match st with
  | 1 => statusAlarm s Fk.bellowsStatusThermalWarm 8
  | 2 => regions.foldl hotRegion (statusAlarm s Fk.bellowsStatusThermalHot 8)
  | 3 => thermalTrip s src (if isIo then 3 else 2) sensor t
  | _ => s

/-- The readings of position `n`: its hottest sensor's number and temperature. -/
def thermalRegion (s : State) (n : Nat) (x : Nat × Nat) : State :=
  match logicalOf s n with
  | none => s
  | some r =>
    let old := rd s (Fk.bellowsRegionPwrTstate n)
    let st := nextTstate s old x.2
    let s := wr (wr s (Fk.bellowsRegionPwrTjMax n) (x.2 % 256)) (Fk.bellowsRegionPwrTstate n) st
    if st = old then s else thermalChange s n false st x.1 x.2 [r]

/-- The readings of I/O die `d`. -/
def thermalIo (s : State) (d : Nat) (x : Nat × Nat) : State :=
  let old := mget (fun _ => 0) s.bellows.io d
  let st := nextTstate s old x.2
  let s := { s with bellows := { s.bellows with io := mput (fun _ => 0) s.bellows.io d st } }
  if st = old then s else thermalChange s d true st x.1 x.2 (logicals s)

/-- Add a sample to both means. -/
def addSample (b : Bellows) (p : PowerSample) : Bellows :=
  { b with fast := ((p :: b.fast).take 32)
           govSum := (List.range 24).map (fun i => b.govSum.getD i 0 + p.d.getD i 0), govU := b.govU + p.u, govN := b.govN + 1 }

/-- Ballast of region `r` before a job's first release: by the microsecond it rises by RAMP to START_W (R461). -/
def ballastRamp (s : State) (r : Nat) : State :=
  let top := rd s Fk.bellowsBallastStartW
  let x := getRegion s r
  let k := (s.cc - x.ballastSince) / usCc
  if rd s (Fk.bellowsRegionPwrBallastOn (posOf s r)) = 0 ∨ x.run = .barrier ∨ top ≤ x.ballastW ∨ k = 0 then s
  else modRegion s r (fun x => { x with ballastW := min top (x.ballastW + rd s Fk.bellowsBallastRamp * k), ballastSince := x.ballastSince + k * usCc })

/-- BELLOWS_SAMPLE: one sample period of 64 TCLK ends. `d` holds the demand of class `x` that region `r` is charged with at `3 r + x`, `u`
the unattributed power, `tj` and `io` the number and temperature of the hottest sensor of each position and I/O die. -/
def execBellowsSample (d : List Nat) (u : Nat) (tj io : List (Nat × Nat)) (s : State) : Ans :=
  .next (if ¬ s.part.clocks then s
  else
    let s := { s with bellows := addSample s.bellows ⟨d, u⟩ }
    let p := meanSample s.bellows.fast
    let s := (logicals s).foldl ballastRamp s
    let s := (logicals s).foldl (fun s r => wr s (Fk.bellowsRegionPwrRegionW (posOf s r)) (demandOf p r % 65536)) s
    let s := (List.range 8).foldl (fun s n => thermalRegion s n (tj.getD n (0, 0))) s
    let s := (List.range 2).foldl (fun s k => thermalIo s k (io.getD k (0, 0))) s
    if s.part.clocks ∧ ((packageDemand s p : Nat) : Int) > capW s * ((100 + rd s Fk.bellowsCapStgFastPct : Nat) : Int) / 100 then
      (logicals s).foldl adoptNow (computePaces (statusAlarm s Fk.bellowsStatusUrgent 9) p)
    else s)

/-! The governor window (R452, R462, R464). -/

/-- The figure that a DRAM device must stay below: stack below 16, else a package (R464). DESIGN CHOICE (log entry 104): it goes by MEM.REFRESH alone. -/
def dramFigure (s : State) (dev : Nat) : Nat :=
  if rd s (if dev < 16 then Fk.memRefreshHearth2x else Fk.memRefreshCellar2x) = 1 then 90 else 80

/-- Logical regions whose floor a device raises: the owner of a stack, the enabled region of the column where a fused position owns it, and
every region for a package (01 R19). -/
def dramRegions (s : State) (dev : Nat) : List Nat :=
  if dev < 16 then
    let n := dev / 2
    match logicalOf s n with
    | some r => [r]
    | none => (logicalOf s (if n < 4 then n + 4 else n - 4)).toList
  else logicals s

/-- Temperature last reported by a device. -/
def dramTemp (s : State) (dev : Nat) : Nat := mget (fun _ => 0) s.bellows.dram dev

/-- The floor of region `r` at the end of a window. -/
def floorStep (s : State) (r : Nat) : State :=
  let n := posOf s r
  let st := max (rd s (Fk.bellowsRegionPwrTstate n)) (max (mget (fun _ => 0) s.bellows.io 0) (mget (fun _ => 0) s.bellows.io 1))
  let devs := (List.range 48).filter (fun v => (dramRegions s v).contains r)
  let hot := devs.any (fun v => decide (dramTemp s v > dramFigure s v))
  let cool := devs.all (fun v => decide (dramTemp s v + 3 ≤ dramFigure s v))
  let f := rd s (Fk.bellowsRegionPwrFloor n)
  let f := if st = 1 ∨ hot then min 12 (f + 1) else if st = 0 ∧ cool then f - 1 else f
  wr s (Fk.bellowsRegionPwrFloor n) (if st ≥ 2 then max 6 f else f)

/-- GOVERNOR_WINDOW: the floors, the measured totals and the pending paces from the governor mean; the next window begins. -/
def execGovernorWindow (s : State) : Ans :=
  .next (if ¬ s.part.clocks then s
  else
    let b := s.bellows
    let n := max 1 b.govN
    let p : PowerSample := ⟨b.govSum.map (· / n), b.govU / n⟩
    let s := { s with bellows := { b with govSum := List.replicate 24 0, govU := 0, govN := 0 } }
    let s := wr (wr (wr (wr s Fk.bellowsMeasPkgW (packageDemand s p % 65536)) Fk.bellowsMeasComputeW (classTotal s p 0 % 65536))
      Fk.bellowsMeasMemoryW (classTotal s p 1 % 65536)) Fk.bellowsMeasLinksW (classTotal s p 2 % 65536)
    computePaces ((logicals s).foldl floorStep s) p)

/-! Droop (R459). -/

/-- DROOP_TRIP: a detector of position `n` trips. A new stretch begins and counts once;
during one the clear count starts again. -/
def execDroopTrip (n : Nat) (s : State) : Ans :=
  .next (match logicalOf s n with
  | none => s
  | some r =>
    if rd s (Fk.bellowsRegionPwrStretchOn n) = 1 then modRegion s r (fun x => { x with droopClear := s.cc })
    else
      let s := modRegion s r (fun x => { x with droopExt := rd s Fk.bellowsDroopExt, droopClear := s.cc })
      let s := diverge (wr s (Fk.bellowsRegionPwrStretchOn n) 1) tDivStretch 1
      trace s 2 2 (srcRegion s r) (toLE 8 0))

/-- Root periods of a CCLK period of region `r` (R454). -/
def cclkRoots (s : State) (r : Nat) : Nat := min 16 (4 + paceOf s r + (getRegion s r).droopExt)

/-- DROOP_CLEAR: every detector of position `n` has been clear for HOLD_CC region cycles since the last trip. -/
def execDroopClear (n : Nat) (s : State) : Ans :=
  .next (match logicalOf s n with
  | none => s
  | some r =>
    if rd s (Fk.bellowsRegionPwrStretchOn n) = 0 then s
    else
      let s := advanceTo s ((getRegion s r).droopClear + ceilDiv (rd s Fk.bellowsDroopHoldCc * cclkRoots s r) 4)
      let s := wr (modRegion (noteStretch s r) r (fun x => { x with droopExt := 0 })) (Fk.bellowsRegionPwrStretchOn n) 0
      trace s 2 3 (srcRegion s r) (toLE 8 0))

/-! Ballast (R460, R461). -/

/-- Region `r` begins ballast at `w` watts, where it is enabled and the region is not HOT. -/
def ballastStart (s : State) (r w : Nat) : State :=
  let n := posOf s r
  if rd s Fk.bellowsBallastEn = 1 ∧ rd s (Fk.bellowsRegionPwrTstate n) < 2 then
    wr (modRegion s r (fun x => { x with ballastW := w, ballastSince := s.cc })) (Fk.bellowsRegionPwrBallastOn n) 1
  else s

/-- Level of a region that arrives at a barrier: PCT percent of its fast mean. -/
def ballastArrive (s : State) (r : Nat) : State :=
  ballastStart s r (rd s (Fk.bellowsRegionPwrRegionW (posOf s r)) * rd s Fk.bellowsBallastPct / 100)

/-- BALLAST_RAMP_DOWN: region `r` has waited MAX_US; its level falls by RAMP for each microsecond past it, to static power. -/
def execBallastRampDown (r : Nat) (s : State) : Ans :=
  .next (if rd s (Fk.bellowsRegionPwrBallastOn (posOf s r)) = 0 ∨ (getRegion s r).run ≠ .barrier then s
  else
    let max_ := rd s Fk.bellowsBallastMaxUs
    let since := (getRegion s r).ballastSince
    let s := advanceTo s (since + (max_ + 1) * usCc)
    let k := (s.cc - since) / usCc - max_
    modRegion s r (fun x => { x with ballastW := max (x.ballastW - rd s Fk.bellowsBallastRamp * k) (min x.ballastW (staticW s))
                                     ballastSince := since + k * usCc }))

end Sys2Proof.Machine
end

