-- ==== Sys2Proof/Machine/Control.lean ====
section
/-! DEFINITION. Control macro-instructions (06 R181), arrival at barriers (02 R53) and the end of a job that has not faulted (19
R502, 17 R460). -/

namespace Sys2Proof.Machine

/-- The loader's checks of a control instruction: no descriptors, CLASS 0, RND 0, and no member of a fused command (R163, R166, R181). -/
def ctrlRefuse (w : MacroW) : Option String :=
  if w.d0 ≠ 0 ∨ w.d1 ≠ 0 ∨ w.d2 ≠ 0 ∨ w.d3 ≠ 0 ∨ w.d4 ≠ 0 ∨ w.cls ∨ bits w.p1 28 4 ≠ 0 then some "R181"
  else if w.rnd ≠ 0 then some "R163"
  else if w.fuse then some "R166" else none

/-- A control instruction on region `r`: `f` acts after dispatch; `seg` says that an idle segment retires it untouched (09 R262). -/
def ctrlDo (s : State) (r : Nat) (w : MacroW) (refuse : Option String) (seg : Bool) (f : State → State) : Ans :=
  if !seqOk s r then .next s
  else match (ctrlRefuse w).orElse (fun _ => refuse) with
  | some rule => .refused (.loaderRefuses rule)
  | none => if seg && !segmentReady s r then .next (retire s r) else .next (f (dispatch s r))

/-- NOP: retires. -/
def execNopMacro (r : Nat) (w : MacroW) (s : State) : Ans := ctrlDo s r w none true (fun s => retire s r)

/-! Barriers (02 R53). -/

/-- Region `r` counts as arrived: it waits at a BAR, or its stream has reached HALT. -/
def regionArrived (s : State) (r : Nat) : Bool := (getRegion s r).run = .barrier || (getRegion s r).run = .halted

/-- Every region that the job uses has arrived. -/
def allArrived (s : State) : Bool :=
  match s.job with
  | some j => (jobRegions j).all (regionArrived s)
  | none => true

/-- Every region that the job uses has reached HALT. -/
def allHalted (s : State) : Bool :=
  match s.job with
  | some j => (jobRegions j).all (fun r => decide ((getRegion s r).run = .halted))
  | none => false

/-- The conditions of R412 that are the part's own: its regions have arrived and its data flits are acknowledged; without a running job, the
second. -/
def ownArrived (s : State) : Bool := (!running s || allArrived s) && flitsQuiet s

/-- In a domain, SELF_ARRIVED and WAIT_EPOCH show the part's own arrival at the barrier of a running job (15 R412, R423). -/
def noteOwn (s : State) : State :=
  if role s ≠ roleSolo ∧ running s ∧ ownArrived s then
    wr (wr s Fk.tlBarrierSelfArrived 1) Fk.tlBarrierWaitEpoch ((rd s Fk.epochCount + 1) % 2 ^ 32)
  else s

/-- The last arrival of the part's own regions is timed once they have all arrived. -/
def noteArrival (s : State) : State :=
  if allArrived s then noteOwn { s with root := { s.root with
    lastArr := s.cc
    firstArr := some (s.root.firstArr.getD s.cc) } }
  else s

/-- BAR: the region arrives and waits for the release; ballast begins (R53, 17 R460). P0[0] is the SCOPE. -/
def execBar (r : Nat) (w : MacroW) (s : State) : Ans :=
  ctrlDo s r w none false (fun s =>
    noteArrival (ballastArrive (modRegion s r (fun x => { x with run := .barrier, scope := w.p0 % 2, arrivedAt := s.cc })) r))

/-- LAYER: waits for the drain of the region's earlier instructions. -/
def execLayer (r : Nat) (w : MacroW) (s : State) : Ans :=
  ctrlDo s r w none false (fun s => modRegion s r (fun x => { x with run := .layer }))

/-- LAYER_RETIRE: the drain of region `r` completes; the LAYER retires and the region is at a governor point (17 R456). -/
def execLayerRetire (r : Nat) (s : State) : Ans :=
  .next (if running s ∧ (getRegion s r).run = .layer then governorPoint (retire s r) r false else s)

/-- TEMPER: marks set P0[15:0] for the next release, so that it is PENDING; a set that has ceased to be STAGED is not marked. -/
def execTemperMark (r : Nat) (w : MacroW) (s : State) : Ans :=
  let n := bits w.p0 0 16
  ctrlDo s r w (if n < 16 then none else some "R181") true (fun s =>
    retire (if rdBit s Fk.temperSetsStaged n then
      setBit (modRegion s r (fun x => { x with marked := x.marked ++ [n] })) Fk.temperSetsPending n else s) r)

/-- POST: its record is asked for; the region holds while the buffer of waiting records is full (19 R510). -/
def execPost (r : Nat) (w : MacroW) (s : State) : Ans :=
  ctrlDo s r w none true (fun s =>
    if s.waitRecs.length ≥ 256 then holdRegion s r .records [1]
    else retire (modJob s (fun j => { j with
      posts := j.posts ++ [⟨r, (getRegion s r).pc, w.p0 % 2 ^ 32, bits w.p1 0 9, bit w.p1 9⟩] })) r)

/-- Every instruction before `i` has retired in every region of the job. -/
def retiredBefore (s : State) (j : Job) (i : Nat) : Bool :=
  (jobRegions j).all (fun r => decide ((getRegion s r).run = .halted) || decide (i ≤ (getRegion s r).pc))

/-- POST_WRITE: the first POST whose earlier instructions have all retired writes its record, on queue 0 (19 R509). -/
def execPostWrite (s : State) : Ans :=
  .next (match s.job with
  | none => s
  | some j =>
    match j.posts.find? (fun p => retiredBefore s j p.instr) with
    | none => s
    | some p =>
      let rec_ : RecFields :=
        { tag := p.tag, status := stDone, poison := false, code := 0, ctx := 0xFFFF, slot := 0xFFFF, flags := j.flags, bytes := 0,
          entry := (j.run.map (·.idx)).getD 0, hallmark := none }
      cqPost (modJob s (fun j => { j with posts := j.posts.erase p })) 0 (recordBytes s 0 rec_) (if p.raise then some p.vector else none))

/-! The end of a job. -/

/-- Ballast stops in every region. -/
def ballastAllStop (s : State) : State := (logicals s).foldl ballastStop s

/-- The job has ended by HALT in every region or by STOP (19 R502): RUN, and STOP where there is one, complete as DONE. -/
def endJob (s : State) : State :=
  match s.job with
  | none => s
  | some j =>
    let s := wr (ballastAllStop s) Fk.bootJobJstate jEnded
    let done := fun (s : State) (e : Entry) => completeEntry s e { entryRec e stDone 0 with flags := j.flags }
    let s := match j.run with
      | some e => done s e
      | none => s
    let s := j.stops.foldl done s
    modJob s (fun j => { j with run := none, stops := [], waiting := false })

/-- HALT: the region's stream ends. The last region ends the job. -/
def execHalt (r : Nat) (w : MacroW) (s : State) : Ans :=
  ctrlDo s r w none false (fun s =>
    let i := (getRegion s r).pc
    let s := trace (modRegion s r (fun x => { x with run := .halted })) 0 1 (srcRegion s r) (dispatchData s r i)
    let s := noteArrival s
    if allHalted s then endJob s else s)

/-- The rule that a BURIN which starts the Burins `named` at `entry` breaks: a Forge that is not there, or an entry outside the Izuno-S image, a static fault that
the loader refuses (R182). -/
def burinRefuse (s : State) (r : Nat) (named : List Nat) (entry : Nat) : Option String :=
  if ¬ named.all (fun k => forgeEn s r (k / 2)) then some "R503"
  else if named ≠ [] ∧ (s.job.map (·.burinBytes)).getD 0 ≤ entry then some "R182" else none

/-- BURIN: every named Burin starts at the entry; the instruction retires when all have halted (R181). -/
def execBurin (r : Nat) (w : MacroW) (s : State) : Ans :=
  let named := (List.range 32).filter (fun k => bit w.p1 (k / 2) && bit w.p1 (16 + k % 2))
  let entry := if bits w.p0 0 16 = 0xFFFF then (s.job.map (·.burinEntry)).getD 0 else bits w.p0 0 16
  ctrlDo s r w (burinRefuse s r named entry) true (fun s =>
    let mask := named.foldl (fun m k => m + 2 ^ k) 0
    let s := modRegion s r (fun x => { x with burinMask := mask, run := .burins })
    let s := named.foldl (fun s k => putBurin s (32 * r + k) { getBurin s (32 * r + k) with pc := BitVec.ofNat 16 entry, running := true }) s
    if named = [] then retire s r else s)

end Sys2Proof.Machine
end

