-- ==== Sys2Proof/Machine/Pool.lean ====
section
/-! DEFINITION. What the part writes for the networks of a codec job in the areas that the loader placed for a stream (10 R278, R279, R285 to R287, R293;
log entry 105): the qp plane, the buffers of the reference pool, and the inputs of COND and PRIOR. -/

namespace Sys2Proof.Machine

/-- The areas of a stream of context `c` that hold `role`, in order. -/
def areasOf (s : State) (c : Nat) (a : Bool) (role : Nat) : List AreaIn :=
  ((s.job.map (·.areas)).getD []).filter (fun x => decide (x.ctx = c) && x.audio == a && decide (x.role = role))

/-- Area `i` of those. -/
def areaOf (s : State) (c : Nat) (a : Bool) (role i : Nat) : Option AreaIn := (areasOf s c a role).find? (fun x => decide (x.index = i))

/-- Row `y` of the qp plane of a stream: clamp(QP_ROW[y] + OFF[y][x], 0, 63), INT8 (R278, R279). -/
def qpLine (st : Stream) (y : Nat) : List Byte :=
  let w := st.off.length / max 1 st.qpRow.length
  ((st.off.drop (w * y)).take w).map (fun o => BitVec.ofInt 8 (clamp (((st.qpRow.getD y 0 : Nat) : Int) + o) 0 63))

/-- The qp plane of the coding state of context `c`, for its CTX networks. -/
def writeQp (s : State) (c : Nat) : State :=
  let st := getS s c false
  (areasOf s c false 1).foldl (fun s x =>
    (List.range st.qpRow.length).foldl (fun s y => devPut s (x.addr + y * x.pitch) (qpLine st y)) s) s

/-- Bytes with the poison of each. -/
def writeMarked (s : State) (a : Nat) (l : List (Byte × Bool)) : State :=
  devWrite s [] a (l.map (·.1)) (fun h => ((l.drop (32 * h - a)).take 32).any (·.2))

/-- Bytes from a device address with the poison of each. -/
def readMarked (s : State) (a n : Nat) : List (Byte × Bool) := (List.range n).map (fun i => devByte s [] (a + i))

/-- A buffer of the pool that holds no reference of `l` (14 R387). -/
def freeBuf (s : State) (c : Nat) (l : List RefPic) : Option Nat :=
  ((areasOf s c false 2).find? (fun x => l.all (fun r => decide (r.buf ≠ some x.index)))).map (·.index)

/-- Every picture stored whose buffer lacks it takes SYNTH's tap (R285). -/
def settleRefs (s : State) (c : Nat) : State :=
  match areaOf s c false 3 0 with
  | none => s
  | some t =>
    let s := ((getS s c false).refs.filter (fun r => !r.full)).foldl (fun s r =>
      match r.buf.bind (areaOf s c false 2) with
      | some b => writeMarked s b.addr (readMarked s t.addr (min t.bytes b.bytes))
      | none => s) s
    modS s c false (fun x => { x with refs := x.refs.map (fun r => { r with full := true }) })

/-- Byte `i` of reference input `x` under the neutral reference: NEUTRAL[c] at every position of channel c (R286), in audio the neutral vector of each
step (R293). -/
def neutralByte (p : Pkg) (x : AreaIn) (i : Nat) : Byte :=
  if p.audio then p.neutral.getD (i % max 1 p.neutral.length) 0 else p.neutral.getD (i / max 1 (x.bytes / max 1 p.refC)) 0

/-- The weights of every layer that the areas of role `dst` hold come from those of role `of`: 10 those that SYNTH reads, 11 the base set, 12 CURRENT, 13 PENDING
(10 R297; log entry 105). -/
def copyWeights (s : State) (c of dst : Nat) : State :=
  (areasOf s c false dst).foldl (fun s x => match areaOf s c false of x.index with
    | some y => writeMarked s x.addr (readMarked s y.addr (min x.bytes y.bytes))
    | none => s) s

/-- Reference input `x` from the bytes at `src`, an address and a clean bound: the rows below `e` from that bound on, and all of them where nothing is named, are
the neutral reference (R286, R287). -/
def inputBytes (s : State) (p : Pkg) (x : AreaIn) (e : Nat) (src : Option (Nat × Nat)) : List (Byte × Bool) :=
  let plane := max 1 (x.bytes / max 1 p.refC)
  (List.range x.bytes).map (fun i => match src with
    | some y => if i % plane / max 1 x.pitch < y.2 ∨ e ≤ i % plane / max 1 x.pitch then devByte s [] (y.1 + i) else (neutralByte p x i, false)
    | none => (neutralByte p x i, false))

/-- A decoder cannot use a reference that holds poisoned beats where no buffer holds its data (14 R391); one whose buffer does is used with its poison, so that
the picture is poisoned in turn (10 R289; DEDUCED, log entry 118). -/
def refBad (s : State) (c : Nat) (r : RefPic) : Bool :=
  decide (rd s (Fk.ctxCfgDir c) = 1) && r.bad && (r.buf.bind (areaOf s c false 2)).isNone

/-- Reference `n`, where the context holds it for use. -/
def heldRef (s : State) (c n : Nat) : Option RefPic := (getS s c false).refs.find? (fun r => decide (r.num = n) && !refBad s c r)

/-- The buffer of the reference that input `i` takes, of the names `l`, and that reference's clean bound; a picture that names one supplies it to both
inputs, and one that is not held for use is the neutral reference (R286, 14 R391). -/
def namedRef (s : State) (c : Nat) (l : List Nat) (i : Nat) : Option (Nat × Nat) :=
  match (l[min i (l.length - 1)]?).bind (heldRef s c) with
  | none => none
  | some r => (r.buf.bind (areaOf s c false 2)).map (fun b => (b.addr, r.bound))

/-- The reference inputs of COND for a picture that names `l`, of clean bound `e` in a refresh cycle, else 0: in its run on [0, e) the rows beyond a reference's
clean bound are neutral (R286, R287); at the first picture of a cycle (`first`) no row of a reference is clean (14 R393). A second input, where the loader placed
one, holds those of that run only. -/
def supplyRefs (s : State) (c : Nat) (p : Pkg) (l : List Nat) (first : Bool) (e : Nat) : State :=
  let put := fun (role e : Nat) (s : State) => (areasOf s c false role).foldl (fun s x =>
    writeMarked s x.addr (inputBytes s p x e ((namedRef s c l x.index).map (fun y => (y.1, if first then 0 else y.2))))) s
  put 5 (2 ^ 32) (put 4 e s)

/-- The inputs of PRIOR for a packet: the reconstruction of each channel's previous packet, or, without one or after a refresh marker (`marker`), the
neutral reference (R293). An input that holds the previous packet already stays: a packet that ended in a hold leaves it (R288). -/
def supplyPrior (s : State) (c : Nat) (p : Pkg) (marker : Bool) : State :=
  let st := getS s c true
  let neutral := marker || st.prevAudio.isNone
  if !neutral && decide (st.prior = st.prevAudio) then s
  else
    let s := (areasOf s c true 4).foldl (fun s x => writeMarked s x.addr (match areaOf s c true 3 x.index with
      | some t => if neutral then inputBytes s p x 0 none else readMarked s t.addr (min t.bytes x.bytes)
      | none => inputBytes s p x 0 none)) s
    modS s c true (fun y => { y with prior := if neutral then none else st.prevAudio })

end Sys2Proof.Machine
end

