-- ==== Sys2Proof/Machine/Encode.lean ====
section
/-! DEFINITION. The encoder of a context: the buffer model, quantisers, passes, references, refresh cycles, regions of interest and the
access units it writes into the drain hoop (14 R374, R375, R378 to R395). -/

namespace Sys2Proof.Machine

/-! The drain's opportunities (14 R374 to R376). -/

/-- Opportunity classes: 0 video, 1 audio, 2 null, for opportunities 3 on (R375). -/
def classLoop (n cv ca : Int) : Nat → Int → Int → Int → List Nat
  | 0, _, _, _ => []
  | k + 1, av, aa, an =>
    let av := av + cv
    let aa := aa + ca
    let an := an + (n - cv - ca)
    if av ≥ aa ∧ av ≥ an then 0 :: classLoop n cv ca k (av - n) aa an
    else if aa ≥ an then 1 :: classLoop n cv ca k av (aa - n) an
    else 2 :: classLoop n cv ca k av aa (an - n)

/-- Classes of opportunities 3 to C - 1 of a cycle of drain `c`. -/
def oppClasses (s : State) (c : Nat) : List Nat :=
  let n := rd s (Fk.drainCycleC c) - 3
  classLoop n (rd s (Fk.drainCycleCV c)) (rd s (Fk.drainCycleCA c)) n 0 0 0

/-- Time of opportunity `i` of cycle `q` (R374). -/
def oppTime (s : State) (c q i : Nat) : Nat :=
  rd s (Fk.drainStartTD c) + 20000000 * q + i * 20000000 / max 1 (rd s (Fk.drainCycleC c))

/-- Departure of the datagram that holds opportunity `i` (R376). -/
def oppDepart (s : State) (c q i : Nat) : Nat := oppTime s c q (7 * (i / 7) + 6)

/-- Opportunities of a stream of drain `c` in cycles `q0` to `q0 + k - 1`: time and departure. -/
def oppList (s : State) (c : Nat) (a : Bool) (q0 k : Nat) : List (Nat × Nat) :=
  let cl := oppClasses s c
  let idx := ((List.range cl.length).filter (fun i => cl.getD i 2 = b2n a)).map (· + 3)
  (List.range k).flatMap (fun q => idx.map (fun i => (oppTime s c (q0 + q) i, oppDepart s c (q0 + q) i)))

/-- Picture rate of a context's video stream, as numerator and denominator: of its flow where it is live, else of its header. -/
def rateOf (s : State) (c : Nat) : Nat × Nat :=
  if rd s (Fk.ctxCfgMode c) = 2 then (rd s (Fk.mediaFlowRateRateNum c), rd s (Fk.mediaFlowRateRateDen c))
  else
    let h := ((getS s c false).header).getD []
    (hdrNum h, hdrDen h)

/-- Time of slot `n` after T_D in ns (R377). -/
def slotOffset (s : State) (c : Nat) (a : Bool) (n : Nat) : Nat :=
  if a then 20000000 * n else n * 1000000000 * (rateOf s c).2 / max 1 (rateOf s c).1

/-- Availability time of slot `n` (R377). -/
def slotTime (s : State) (c : Nat) (a : Bool) (n : Nat) : Nat := rd s (Fk.drainStartTD c) + slotOffset s c a n

/-- DELAY of a stream in ns. -/
def delayNs (s : State) (c : Nat) (a : Bool) : Nat :=
  1000 * rd s (if a then Fk.drainAmodelDelayUs c else Fk.drainVmodelDelayUs c)

/-- BUF of a stream. -/
def bufOf (s : State) (c : Nat) (a : Bool) : Nat := rd s (if a then Fk.drainAmodelBuf c else Fk.drainVmodelBuf c)

/-! The receiver buffer model (R379, R380). -/

/-- TS packets of an access unit of `a` bytes. -/
def pk (a : Nat) : Nat :=
  let first := min a 65527
  let rest := a - first
  ceilDiv (first + 14) 184 + rest / 65532 * ceilDiv (65532 + 9) 184 +
    (if rest % 65532 = 0 then 0 else ceilDiv (rest % 65532 + 9) 184)

/-- Send queued packets at opportunities: units are (slot, availability, packets left), in order; the answer lists slot and departure of
each packet. -/
def sendLoop : List (Nat × Nat) → List (Nat × Nat × Nat) → List (Nat × Nat)
  | [], _ => []
  | o :: os, us =>
    match us.dropWhile (fun u => u.2.2 = 0) with
    | [] => []
    | u :: us' =>
      if u.2.1 ≤ o.1 then (u.1, o.2) :: sendLoop os ((u.1, u.2.1, u.2.2 - 1) :: us') else sendLoop os (u :: us')

/-- The access units of the slots before `n` with their packets: as written, and one for a slot without, which is a hold (R378). -/
def earlierUnits (x : Stream) (n : Nat) : List (Nat × Nat) :=
  (List.range n).map (fun i => (i, ((x.sizes.find? (fun u => u.1 = i)).map (·.2)).getD 1))

/-- Slots that any `d` ns hold, and one more. -/
def slotsIn (s : State) (c : Nat) (a : Bool) (d : Nat) : Nat :=
  if a then d / 20000000 + 2 else d * (rateOf s c).1 / (1000000000 * max 1 (rateOf s c).2) + 2

/-- R379 holds from slot `n` on through every later removal when slot `n` has `p` packets, the units before it are `sizes`, and each later one has one:
two delays after its availability nothing of it is left. -/
def bufferOk (s : State) (c : Nat) (a : Bool) (sizes : List (Nat × Nat)) (n p : Nat) : Bool :=
  let d := delayNs s c a
  let at_ := slotTime s c a
  let ahead := slotsIn s c a (2 * d)
  let us := sizes ++ [(n, p)] ++ (List.range ahead).map (fun k => (n + 1 + k, 1))
  let q0 := (at_ ((us.headD (n, p)).1) - rd s (Fk.drainStartTD c)) / 20000000
  let q1 := (at_ (n + ahead) + d - rd s (Fk.drainStartTD c)) / 20000000 + 1
  let sent := sendLoop (oppList s c a q0 (q1 - q0)) (us.map (fun u => (u.1, at_ u.1, u.2)))
  let removed := fun (t : Nat) => (us.filter (fun u => decide (at_ u.1 + d < t))).foldl (fun x u => x + u.2) 0
  us.all (fun u => decide (u.1 < n) || decide ((sent.filter (fun x => x.1 = u.1 ∧ x.2 ≤ at_ u.1 + d)).length = u.2)) &&
    sent.all (fun x => decide (x.2 < at_ n) || decide ((sent.filter (fun y => decide (y.2 ≤ x.2))).length ≤ bufOf s c a + removed x.2))

/-- Drain `c` carries the stream (R370). -/
def carries (s : State) (c : Nat) (a : Bool) : Bool := decide (rd s (if a then Fk.drainCfgAudio c else Fk.drainCfgVideo c) = 1)

/-- The last slot of an ended stream. -/
def endOf (d : Drain) (a : Bool) : Option Nat := if a then d.aEnd else d.vEnd

/-- Bytes of END in the access unit of slot `n`, where it is known when the unit is written (13 R346; 20 R524; log entry 120). -/
def endLen (s : State) (c : Nat) (a : Bool) (n : Nat) : Nat := if n = 2 ^ 32 - 2 ∨ endOf (getCtx s c).drain a = some n then 10 else 0

/-- An access unit of `n` bytes and END in slot `slot` keeps the model: its packets are at most p_max, the largest count that R379 admits; a stream that no
drain carries has no limit. -/
def fits (s : State) (c : Nat) (a : Bool) (slot n : Nat) : Bool :=
  let sz := earlierUnits (getS s c a) slot
  rd s (Fk.drainCfgEnable c) = 0 || !carries s c a ||
    (List.range (bufOf s c a + 1)).any (fun p => decide (pk (n + endLen s c a slot) ≤ p) && bufferOk s c a sz slot p)

/-! Quantisers (R383). -/

/-- 8 log2(x), truncated. -/
def l8 (x : Nat) : Int := let e := Nat.log2 x; ((8 * e + x * 8 / 2 ^ e % 8 : Nat) : Int)

/-- The pass-1 quantiser of slot `n`. -/
def quantOf (s : State) (c n : Nat) : Nat :=
  let st := getS s c false
  let target := rd s (Fk.drainRateQpTarget c)
  match st.qpLast with
  | none => target
  | some q =>
    if rd s (Fk.drainVmodelMode c) = 1 then target
    else
      let h := st.header.getD []
      let vp : Int := ((rd s (Fk.drainCycleCV c) * 50 * hdrDen h / max 1 (hdrNum h) : Nat) : Int)
      let used : Nat := ((earlierUnits st n).filter (fun u => decide (slotTime s c false u.1 + delayNs s c false > slotTime s c false n))).foldl
        (fun x u => x + u.2) 0
      let t := max 1 (vp + Int.tdiv (((rd s (Fk.drainRateBTarget c) : Nat) : Int) - ((used : Nat) : Int)) 4)
      (clamp (((q : Nat) : Int) + clamp (l8 st.aLast - l8 (184 * t.toNat)) (-8) 8) ((rd s (Fk.drainRateQpMin c) : Nat) : Int)
        ((rd s (Fk.drainRateQpMax c) : Nat) : Int)).toNat

/-! Regions of interest (R395). -/

/-- Offset map of a box list in the D0 layout of 08 R235. -/
def offMap (p : Pkg) (h : List Byte) (roi : Int) (boxes : List Byte) : List Int :=
  let kept := le boxes 0 4
  let box := fun k => let o := 64 + 16 * k; (le boxes o 2, le boxes (o + 2) 2, le boxes (o + 4) 2, le boxes (o + 6) 2)
  (List.range (latH p h)).flatMap (fun y => (List.range (latW p h)).map (fun x =>
    let cx := 4 * p.stride * x + 2 * p.stride
    let cy := 4 * p.stride * y + 2 * p.stride
    if (List.range kept).any (fun k => let b := box k
        decide (b.1 ≤ cx) && decide (cx < b.2.2.1) && decide (b.2.1 ≤ cy) && decide (cy < b.2.2.2)) then roi else 0))

/-! Opening a picture or packet. -/

/-- Distance of PIC_NUM `q` behind `n`, modulo 2^32. -/
def numDist (n q : Nat) : Nat := wrapSub 32 n q

/-- The reference of `l` with the smallest distance. -/
def nearest (n : Nat) (l : List RefPic) : Option RefPic :=
  l.foldl (fun b r => match b with
    | none => some r
    | some x => if numDist n r.num < numDist n x.num then some r else some x) none

/-- References that picture `n` names (R389). -/
def nameRefs (p : Pkg) (st : Stream) (n : Nat) : List Nat :=
  let conf := st.refs.filter (·.confirmed)
  if p.refs = 0 then []
  else match nearest n conf with
  | none => []
  | some r0 =>
    if p.refs < 2 then [r0.num]
    else match nearest n (conf.filter (fun r => r.lt && decide (r.num ≠ r0.num))) with
    | none => [r0.num]
    | some r1 => [r0.num, r1.num]

/-- Clean bound of picture `i` of a cycle of `cycle` pictures (R392). -/
def cleanBound (p : Pkg) (hl i cycle : Nat) : Nat :=
  min hl (p.hyperDown * ceilDiv ((i + 1) * ceilDiv hl p.hyperDown) cycle)

/-- No row of the references held is clean any more (R393). -/
def clearBounds (x : Stream) : Stream := { x with refs := x.refs.map (fun r => { r with bound := 0 }) }

/-- The header body of an encode stream: of a live context from its flow (21 R534), else the one that its load gave. -/
def encHeader (s : State) (c : Nat) (a : Bool) : List Byte :=
  let st := getS s c a
  if rd s (Fk.ctxCfgMode c) = 2 then
    let head := toLE 1 1 ++ toLE 1 0 ++ toLE 1 (b2n a) ++ toLE 1 0 ++ toBE 4 (rd s (Fk.mediaFlowColourStreamId c))
    if a then head ++ toLE 1 (rd s (Fk.mediaFlowAChM1 c) + 1) ++ toLE 1 0
    else head ++ toBE 2 (rd s (Fk.mediaFlowVWidth c)) ++ toBE 2 (rd s (Fk.mediaFlowVHeight c)) ++
      toBE 4 (rd s (Fk.mediaFlowRateRateNum c)) ++ toBE 4 (rd s (Fk.mediaFlowRateRateDen c)) ++
      toLE 1 (rd s (Fk.mediaFlowColourPrimaries c)) ++ toLE 1 (rd s (Fk.mediaFlowColourTransfer c)) ++
      toLE 1 (rd s (Fk.mediaFlowColourMatrix c)) ++ toLE 1 (rd s (Fk.mediaFlowColourFullRange c))
  else st.header.getD []

/-- The fixed part of a VIDEO body before STEP_INDEX (R355). -/
def videoHead (s : State) (c : Nat) (e : EncPic) (st : Stream) : List Byte :=
  toBE 4 e.slot ++ toBE 4 e.num ++ toBE 4 e.graft ++
    toLE 1 (b2n (hmOn s c) + 2 * b2n e.lt + 4 * b2n e.cyc.isSome) ++ toLE 1 e.refs.length ++ toBE 2 (e.cyc.getD 0) ++
    e.refs.flatMap (toBE 4) ++
    ((List.range st.qpRow.length).map (fun y => BitVec.ofNat 8 (st.qpRow.getD y 0 + 128 * st.skip.getD y 0))) ++ offBytes st.off

/-- The fixed part of an AUDIO body before STEP_INDEX (R360). -/
def audioHead (s : State) (c : Nat) (e : EncPic) : List Byte :=
  toBE 4 e.slot ++ toBE 4 e.num ++ toLE 1 (b2n (hmOn s c)) ++ toLE 1 e.ns

/-- The ingot of the open picture or packet from the step records `rs`. -/
def ingotOf (s : State) (c : Nat) (a : Bool) (e : EncPic) (rs : List (List Byte)) : List Byte :=
  let st := getS s c a
  let head := if a then audioHead s c e else videoHead s c e st
  let mh := match st.pkg with
    | none => List.replicate 32 0
    | some p => setHallmark p (if e.graft = 0 then none else e.use.orElse (fun _ => st.current))
  ingotUnit (imgDigest st.pkg 0) (if a then utAudio else utVideo) (hmOn s c) (head ++ toLE 1 rs.length ++ stepsBytes rs) e.chain mh

/-- The hoop that drain `c` takes from: one whose take end is a drain port and whose PORT names it (09 R256; 18 R484), as region and index. -/
def drainHoop (s : State) (c : Nat) : Option (Nat × Nat) :=
  ((List.range 8).flatMap (fun r => (List.range 64).map (fun h => (r, h)))).find? (fun y => let n := posOf s y.1
    decide (rd s (Fk.hoopCfgEnable n y.2) = 1) && decide (rd s (Fk.hoopCfgTakeEnd n y.2) = 4) && decide (rd s (Fk.hoopCfgPort n y.2) = c))

/-- Put the first record of `l` that waits into the hoop of drain `c` where it has room, closed by MARK (R378), and go on. -/
def fillRecs (c : Nat) : List DrainRec → State → State
  | [], s => s
  | r :: l, s =>
    let here := fun (k : Nat) (s : State) => modCtx s c (fun x => { x with drain := { x.drain with recs := x.drain.recs.map (fun q =>
      if q = r then { r with slots := some k, doneAt := rd s Fk.epochTimeNs } else q) } })
    match drainHoop s c with
    | none => fillRecs c l (here 0 s)
    | some y =>
      let b := if r.bytes = [] then [0] else r.bytes
      let b := b.map (fun v => (v, false))
      if slotsFit s y.1 y.2 [b] then fillRecs c l (here (ceilDiv b.length (max 1 (hoopBytes s (posOf s y.1) y.2))) (putRecords s y.1 y.2 [b])) else s

/-- The records that wait go into the hoop in their order. -/
def drainFill (s : State) (c : Nat) : State := fillRecs c ((getCtx s c).drain.recs.filter (fun r => r.slots.isNone)) s

/-- Add a record to the drain hoop of context `c`; one that finds no room there waits for it (09 R248, R256). -/
def drainPut (s : State) (c : Nat) (r : DrainRec) : State :=
  drainFill (modCtx s c (fun x => { x with drain := { x.drain with recs := x.drain.recs ++ [r] } })) c

/-- The records that `out` picks leave the hoop: HEAD goes on by their slots, in the order in which the drain takes them (09 R255; log entry 119), and records
that waited for room are put. -/
def recsLeave (s : State) (c : Nat) (out : DrainRec → Bool) : State :=
  let n := ((getCtx s c).drain.recs.filter out).foldl (fun k r => k + r.slots.getD 0) 0
  let s := modCtx s c (fun x => { x with drain := { x.drain with recs := x.drain.recs.filter (fun r => !out r) } })
  drainFill (match drainHoop s c with
    | some y => hoopPops s y.1 y.2 (min n (hoopCount s (posOf s y.1) y.2))
    | none => s) c

/-- What the networks read that code the picture or packet `e`: of a video the qp plane and COND's references, of audio PRIOR's inputs; `starts` says that a
refresh marker names it. -/
def encSupply (s : State) (c : Nat) (a : Bool) (p : Pkg) (e : EncPic) (starts : Bool) : State :=
  if a then supplyPrior s c p starts else supplyRefs (writeQp (settleRefs s c) c) c p e.refs starts (e.cyc.getD 0)

/-- Substreams and states of the DRAW ENC steps that code a picture or packet of a stream of context `c`, in program order (11 R314, 13 R358). -/
def encDraws (s : State) (c : Nat) (p : Pkg) : List (Nat × Nat) :=
  match s.job with
  | none => []
  | some j =>
    ((List.range j.macros.length).filter (fun i => let v := j.macros.getD i 0
      decide (bits v 120 8 = 0x31 ∧ bits v 116 4 = 0 ∧ bits v 0 7 = c) && (fieldDescs j i [4]).any (fun d => decide (d.base = p.bank)))).flatMap (fun i =>
        let v := j.macros.getD i 0
        List.replicate (bits v 66 16 + 1) ((bits v 54 2 + 1) * (bits v 56 4 + 1), bits v 51 3 + 1))

/-- Step records without data for the steps of a picture or packet from step `k` on (R382, R385). -/
def emptySteps (s : State) (c : Nat) (p : Pkg) (k : Nat) : List (List Byte) :=
  let l := encDraws s c p
  (List.range (stepCount p - k)).map (fun i =>
    let x := l.getD (k + i) (1, 1)
    stepRecord 0 x.1 x.2 false (List.replicate x.1 []))

/-- A refresh cycle is due at picture `num` (R392), or an audio join point at packet `num`, where a packet since the last multiple of AREFRESH had to go without
(R382, R394). -/
def joinDue (s : State) (c : Nat) (a : Bool) (num : Nat) : Bool :=
  let st := getS s c a
  let far := st.cycRun.map (fun r => numDist num r.1)
  if a then
    let per := rd s (Fk.drainRefArefresh c)
    decide (per ≠ 0) && (decide (num % per = 0) || far.any (fun d => decide (d > num % per)))
  else decide (rd s (Fk.drainRefCycle c) ≠ 0) && !(st.cycRun.any (fun r => decide (numDist num r.1 < r.2))) &&
    st.cycDue.all (fun d => decide (numDist num d < 2 ^ 31))

/-- PRE of the open picture or packet `e`: the stream's first units, a join point and a GRAFT where they fit with pass 3 (R382). With it stands whether it
starts a cycle or holds an audio join point, and the set that its GRAFT announces. A new GRAFT stands behind a join point's REFRESH (DESIGN CHOICE, log entry 120). -/
def preOf (s : State) (c : Nat) (a : Bool) (p : Pkg) (e : EncPic) (first : Bool) : Bool × Option GraftSet × List Byte :=
  let st := getS s c a
  let hm := unitBytes utHeader (encHeader s c a) ++ unitBytes utModel (modelBody p)
  let hmg := hm ++ (if a then [] else match st.current with
    | some g => unitBytes utGraft g.body
    | none => [])
  let per := if a then 1 else rd s (Fk.drainRefCycle c)
  let join := hmg ++ unitBytes utRefresh (toBE 4 e.num ++ toBE 2 per ++ toBE 2 0)
  let fixed := (ingotOf s c a e (if a then emptySteps s c p 0 else e.step0 :: emptySteps s c p 1)).length
  let starts := (a && first) || (joinDue s c a e.num && fits s c a e.slot (join.length + fixed))
  let pre0 := if starts then join else if first then hmg else []
  let g := (st.pendingG).bind (fun g =>
    if !a && !g.sent && fits s c a e.slot (pre0.length + (unitBytes utGraft g.body).length + fixed) then some g else none)
  (starts, g, pre0 ++ ((g.map (fun g => unitBytes utGraft g.body)).getD []))

/-- The open picture or packet `e` with PRE `pre`: its cycle, clean bound and weight set stand with it (R389, R392). It names a PENDING set that an earlier PRE
announced. -/
def preSet (s : State) (c : Nat) (a : Bool) (p : Pkg) (e : EncPic) (pre : List Byte) (run : Option (Nat × Nat)) : EncPic :=
  let st := getS s c a
  let use := if a then none else st.pendingG.bind (fun g => if g.merged && g.sent then some g else none)
  let cyc := run.bind (fun r =>
    if !a && decide (numDist e.num r.1 < r.2) then some (cleanBound p (latH p (encHeader s c a)) (numDist e.num r.1) r.2) else none)
  { e with pre := pre, cyc := cyc, use := use, graft := if a then 0 else ((use.orElse (fun _ => st.current)).map (·.num)).getD 0 }

/-- Form PRE of the open picture or packet `e`, of a video when step 0 is coded, and give its networks what they read (R382, R389, R392 to R394). -/
def encPre (s : State) (c : Nat) (a : Bool) (p : Pkg) (e : EncPic) (first : Bool) : State :=
  let per := if a then 1 else rd s (Fk.drainRefCycle c)
  let q := preOf s c a p e first
  let run := if q.1 then some (e.num, per) else (getS s c a).cycRun
  let e := preSet s c a p e q.2.2 run
  let s := modS s c a (fun x =>
    let x := if q.2.1.isSome then { x with pendingG := x.pendingG.map (fun g => { g with sent := true }) } else x
    if q.1 then { x with cycRun := some (e.num, per), cycDue := some ((e.num + per) % 2 ^ 32) } else x)
  let s := copyWeights (modS s c a (fun x => { x with enc := some e })) c
    (if e.use.isSome then 13 else if (getS s c false).current.isSome then 12 else 11) 10
  let s := encSupply s c a p e (run.any (fun r => decide (r.1 = e.num)))
  drainPut s c ⟨!a, e.slot, true, e.pre, e.num, false, 0, none⟩

/-- Begin coding slot `slot` of a stream of context `c`, with a box list and its poison (R378, R383, R389). The references, the Graft sets and the audio
predecessor change when an ingot is written, so that a hold leaves them as they are (10 R288). Where a PRE of it holds both a join point and a new GRAFT, the
GRAFT stands last (`preOf`; DESIGN CHOICE, log entry 120). -/
def encOpen (s : State) (c : Nat) (a : Bool) (slot : Nat) (boxes : List Byte) (bad : Bool) : State :=
  let st := getS s c a
  match st.pkg with
  | none => s
  | some p =>
    let h := encHeader s c a
    let s := if st.fresh then modS s c a (fun x => { x with header := some h, model := some (modelBody p), fresh := false }) else s
    let num := if a then st.pktNum else st.picNum
    let e : EncPic :=
      { slot := slot, num := num, chain := (getCtx s c).chain, pass := 1, qp := if a then 0 else quantOf s c slot, step0 := [],
        steps := [], tally := [], p1Size := 0, bad := bad, pre := [], refs := if a then [] else nameRefs p st num
        lt := !a && decide (rd s (Fk.drainRefLtPeriod c) ≠ 0) && decide (num % rd s (Fk.drainRefLtPeriod c) = 0)
        cyc := none, graft := 0, use := none, ns := rd s (Fk.drainAmodelNsM1 c) + 1, first := st.fresh }
    let hl := latH p h
    let off := if a then [] else offMap p h (sext 8 (rd s (Fk.drainRefRoiOff c))) boxes
    let s := modS s c a (fun x => if a then { x with ns := some e.ns, enc := some e } else
      { x with coding := true, qpRow := List.replicate hl e.qp, skip := List.replicate hl 0, off := off, enc := some e })
    if a then encPre s c a p e st.fresh else encSupply s c a p e (st.cycRun.any (fun r => decide (r.1 = num)))

/-! Closing. -/

/-- The limits of the two reference sets. -/
def refLimit (lt : Bool) : Nat := if lt then 16 else 8

/-- Store a reference and release the farthest of a set above its limit (R388). -/
def storeRef (l : List RefPic) (r : RefPic) : List RefPic :=
  let l := l.filter (fun x => x.num ≠ r.num) ++ [r]
  let set := l.filter (fun x => x.lt = r.lt)
  if set.length ≤ refLimit r.lt then l
  else
    let far := set.foldl (fun (b : Nat) x => max b (numDist r.num x.num)) 0
    l.filter (fun x => ¬ (x.lt = r.lt ∧ numDist r.num x.num = far))

/-- Slot 2^32 - 2 is the last of its stream: END follows its access unit (20 R524). -/
def lastSlotEnd (s : State) (c : Nat) (a : Bool) (slot : Nat) : State :=
  if slot ≠ 2 ^ 32 - 2 then s
  else modCtx s c (fun x => { x with drain := if a then { x.drain with aEnd := some slot } else { x.drain with vEnd := some slot } })

/-- End the open picture with a hold of REASON `reason` (R385, R322): nothing is stored and no count advances. -/
def encHold (s : State) (c : Nat) (a : Bool) (e : EncPic) (reason : Nat) : State :=
  let u := holdUnit e.slot reason
  let s := lastSlotEnd (drainPut s c ⟨!a, e.slot, false, u, e.num, false, 0, none⟩) c a e.slot
  modS s c a (fun x => { x with enc := none, sizes := x.sizes ++ [(e.slot, pk (e.pre.length + u.length + endLen s c a e.slot))] })

/-- Write the ingot of the open picture and store its reference: the PENDING set that it names becomes CURRENT (10 R297), and at the first picture of a
cycle the references held lose their clean rows (R393). -/
def encWrite (s : State) (c : Nat) (a : Bool) (e : EncPic) (u : List Byte) (bad : Bool) : State :=
  let s := lastSlotEnd (drainPut s c ⟨!a, e.slot, false, u, e.num, true, 0, none⟩) c a e.slot
  let n := e.pre.length + u.length
  let s := wr s (Fk.ctxStatResults c) ((rd s (Fk.ctxStatResults c) + 1) % 2 ^ 32)
  let s := if e.use.isSome then copyWeights s c 13 12 else s
  modS s c a (fun x =>
    let x := { x with enc := none, sizes := x.sizes ++ [(e.slot, pk (n + endLen s c a e.slot))], aLast := n + endLen s c a e.slot }
    if a then { x with pktNum := (e.num + 1) % 2 ^ 32, prevAudio := some e.num }
    else
      let x := match e.use with
        | some g => { x with current := some { g with named := true }, pendingG := x.pendingG.filter (fun y => decide (y.num ≠ g.num)) }
        | none => x
      let x := if x.cycRun.any (fun y => decide (y.1 = e.num)) then clearBounds x else x
      let hl := match x.pkg, x.header with
        | some p, some h => latH p h
        | _, _ => 0
      { x with picNum := (e.num + 1) % 2 ^ 32, qpLast := some e.qp
               refs := storeRef x.refs ⟨e.num, e.lt, e.cyc.getD hl, bad, decide (rd s (Fk.ctxCfgMode c) = 1), e.slot, freeBuf s c x.refs, false⟩ })

/-- Code the open picture or packet `e` again from its first step, with the stream changed by `f`. -/
def encAgain (s : State) (c : Nat) (a : Bool) (e : EncPic) (f : Stream → Stream) : State :=
  let s := modS s c a (fun x => f { x with enc := some { e with steps := [] } })
  if a then s else writeQp s c

/-- Every step of the pass is coded: write the ingot, begin the next pass, or send a hold (R385, R386). -/
def encFinish (s : State) (c : Nat) (a : Bool) (e : EncPic) : State :=
  let st := getS s c a
  let rs := if a then e.steps else e.step0 :: e.steps
  let u := ingotOf s c a e rs
  let n := e.pre.length + u.length
  let count := fun (s : State) => bump s (Fk.drainStatFallback c) 16
  if e.bad then encHold s c a e 1
  else if fits s c a e.slot n then encWrite s c a e u false
  else if a then
    if e.pass = 1 then count (encAgain s c a { e with pass := 2, ns := 1 } (fun x => { x with ns := some 1 })) else encHold s c a e 0
  else if e.pass = 1 then
    let hl := st.qpRow.length
    let fixed := n - e.tally.foldl (· + ·) 0
    let r := ((List.range hl).reverse.find? (fun r => fits s c a e.slot
      (fixed + (e.tally.take r).foldl (· + ·) 0 + (hl - r) * rd s (Fk.drainRateFr c)))).getD 0
    count (encAgain s c a { e with pass := 2, p1Size := n } (fun x => { x with
      qpRow := (List.range hl).map (fun y => if y < r then e.qp else 63) }))
  else if e.pass = 2 then
    encAgain s c a { e with pass := 3 } (fun x => { x with qpRow := x.qpRow.map (fun _ => 63), skip := x.skip.map (fun _ => 1) })
  else encHold s c a e 0

/-- Add tallies row by row. -/
def addTally (a b : List Nat) : List Nat := (List.range (max a.length b.length)).map (fun i => a.getD i 0 + b.getD i 0)

/-- A DRAW ENC of context `c` has written a step record (R384, R385): `tally` holds its row tallies and `bad` says that an input was
poisoned. -/
def encStep (s : State) (c : Nat) (a : Bool) (r : List Byte) (tally : List Nat) (bad : Bool) : State :=
  let st := getS s c a
  match st.enc, st.pkg with
  | some e, some p =>
    let e := { e with bad := e.bad || bad }
    if !a && decide (e.pass = 1 ∧ e.step0 = []) then encPre s c a p { e with step0 := r } e.first
    else
      let e := { e with steps := e.steps ++ [r], tally := if e.pass = 1 then addTally e.tally tally else e.tally }
      if e.steps.length ≥ (if a then 1 else stepCount p - 1) then encFinish s c a e
      else modS s c a (fun x => { x with enc := some e })
  | _, _ => s

/-- A box list written by a PRUNE of the context's ENCODE image gives the offset map of the picture being coded (R395). -/
def encBoxes (s : State) (c : Nat) (boxes : List Byte) (bad : Bool) : State :=
  let st := getS s c false
  match st.enc, st.pkg, st.header with
  | some e, some p, some h =>
    writeQp (modS s c false (fun x => { x with enc := some { e with bad := e.bad || bad },
                                               off := offMap p h (sext 8 (rd s (Fk.drainRefRoiOff c))) boxes })) c
  | _, _, _ => s

end Sys2Proof.Machine
end

