-- ==== Sys2Proof/Machine/Pointwise.lean ====
section
/-! DEFINITION. Elementwise, lookup, reduction, function and conversion instructions (04 R108, R120; 05 R133; 06 R172, R173). -/

namespace Sys2Proof.Machine

/-- The values of an element as Float operations take it: its value times its group scale, exact (04 R114, R116). -/
def scaledVal (s : State) (ue : List Nat) (o : Opd) (p i0 i1 i2 : Nat) : Arith FVal := do
  let v ← elemVal o.f (elemIn s ue o p i0 i1 i2).1 (if fmtInt o.f then (zpElem s ue o i0 i1 i2).1 else 0)
  if o.x.scale = 0 then return v
  let k ← scaleVal (scaleElem s ue o i0 i1 i2).1
  match v, k with
  | .nan, _ => return .nan
  | _, .nan => return .nan
  | _, .inf _ => return .nan
  | .inf neg, .fin sn n _ => return if n = 0 then .nan else .inf (neg != sn)
  | .fin neg a sa, .fin sn b sb => return .fin (neg != sn) (a * b) (sa + sb)

/-- Poison of an element with its zero point and scale (05 R150). -/
def elemBad (s : State) (ue : List Nat) (o : Opd) (flt : Bool) (p i0 i1 i2 : Nat) : Bool :=
  (elemIn s ue o p i0 i1 i2).2 || (fmtInt o.f && (zpElem s ue o i0 i1 i2).2) || (flt && (scaleElem s ue o i0 i1 i2).2) || o.x.bad

/-- An exact value to binary32 (04 R120). -/
def toF32 (v : FVal) : Arith Nat :=
  match v with
  | .nan => pure (fmtNaN .f32)
  | .inf neg => pure (infCode .f32 neg)
  | .fin neg _ sh => roundF32 (fnum v) (2 ^ sh) neg

/-- The negated value. -/
def negVal : FVal → FVal
  | .nan => .nan
  | .inf neg => .inf !neg
  | .fin neg n sh => .fin (!neg) n sh

/-- round_f32 of an exact sum, with the special cases of add_f32 (06 R172, 04 R117). -/
def addVals (x y : FVal) : Arith Nat :=
  if fIsNaN x || fIsNaN y then pure (fmtNaN .f32)
  else if fIsInf x && fIsInf y && fNeg x ≠ fNeg y then pure (fmtNaN .f32)
  else if fIsInf x then pure (infCode .f32 (fNeg x))
  else if fIsInf y then pure (infCode .f32 (fNeg y))
  else roundF32 (fnum x * 2 ^ fsh y + fnum y * 2 ^ fsh x) (2 ^ (fsh x + fsh y))
    (fIsZero x && fIsZero y && fNeg x && fNeg y)

/-- round_f32 of an exact product. -/
def mulVals (x y : FVal) : Arith Nat :=
  let sg := fNeg x != fNeg y
  if fIsNaN x || fIsNaN y then pure (fmtNaN .f32)
  else if fIsInf x || fIsInf y then pure (if fIsZero x || fIsZero y then fmtNaN .f32 else infCode .f32 sg)
  else roundF32 (fnum x * fnum y) (2 ^ (fsh x + fsh y)) sg

/-- Strictly less, with −0 below +0; no NaN. -/
def valLt (x y : FVal) : Bool :=
  match x, y with
  | .inf a, .inf b => a && !b
  | .inf a, _ => a
  | _, .inf b => !b
  | _, _ =>
    let a := fnum x * 2 ^ fsh y
    let b := fnum y * 2 ^ fsh x
    decide (a < b) || (decide (a = b) && fNeg x && !fNeg y)

/-- The larger or smaller of two values; NaN if either is (04 R120, 08 R229). -/
def pickVals (max : Bool) (x y : FVal) : FVal :=
  if fIsNaN x || fIsNaN y then .nan else if valLt x y = max then y else x

/-- Silver blocks of a row of channels of an operand. -/
def sideBlocks (o : Opd) : Nat := ceilDiv (chanCount o) 128

/-- The output stage for an element of `o` (05 R133). -/
def pointCell (s : State) (ue : List Nat) (o : Opd) (i0 i1 i2 x : Nat) (bad : Bool) : Arith Cell :=
  floatCell s ue o (inShape o i0 i1 i2) (rowOf o i0 i1 i2) (chanOf o i0 i1 i2) (sideBlocks o) x bad

/-- What the instructions on elements share: the inputs `ins`; `mult` where SWPAD rounds dimension 0 (07 R209); the checks `refuse` of the form, whether the inputs may take PAD 3 (`mx`), D0 may be D1 (`inPlace`, 06 R165)
and which slots may be coded; whether aux records are used (`aux`), and their scales (`flt`); whether the operation is `strict`; the range that it writes where it does not clamp (`wrote`); the tables read, as slot and bytes of a
problem; `reads` the input positions one output reads (by input), `f` its cell, or none for an Assay sum outside INT48; `steps` the compute
steps summed over Anvils. -/
structure PointCmd where
  ins : List Nat
  mult : Bool
  twoD : Bool
  refuse : Option String
  mx : Bool := false
  inPlace : Bool := false
  coded : List Nat := []
  aux : Bool := true
  flt : Bool := false
  strict : Bool := false
  wrote : Option (Int × Int) := none
  tables : List Opd → Opd → List (Nat × Nat) := fun _ _ => []
  reads : List Opd → Opd → Nat → Nat → Nat → Nat → List (Nat × Nat × Nat × Nat)
  f : State → List Nat → List Opd → Opd → Nat → Nat → Nat → Nat → Option (Arith Cell)
  steps : List Opd → Opd → Nat → Nat

/-- Elements of a line that fill 64 bytes, to which SWPAD rounds dimension 0 (07 R209). -/
def lineMult (s : State) (i : Nat) : Nat := 512 / fmtBits ((fmtOf (((descOf s i).map (·.fmt)).getD 0)).getD .raw8)

/-- The loader's checks of the aux records of the operands `l` of an instruction on elements. -/
def auxesRefuse (s : State) (w : MacroW) (strict : Bool) (l : List Nat) : Option String :=
  let d := fun i => (descOf s (dField w i)).getD descZero
  let x := fun i => constAux s (d i)
  (classRefuse w strict (l.map x)).orElse (fun _ =>
    l.findSome? (fun i => auxRefuse s (x i) (fmtField s w i) none (i = 0) w.cls (auxDims (d i) (x i))))

/-- The loader's checks of an instruction of opcode `op` on elements. -/
def pointRefuse (s : State) (r op : Nat) (w : MacroW) (c : PointCmd) : Option String :=
  [refuseOps s op w c.ins true (mx := c.mx) (inPlace := c.inPlace) (coded := c.coded), c.refuse,
    if c.aux then auxesRefuse s w c.strict (0 :: c.ins) else none, codedRefuse s r w (!c.twoD) (0 :: c.ins) c.wrote].findSome? id

/-- Operand D`i`. -/
def pointOpd (s : State) (r : Nat) (w : MacroW) (e : MemErrs) (c : PointCmd) (i : Nat) (fetch : Bool) (order : List Nat := []) : Opd :=
  opdOf s r e.ue (dField w i) (w.rep + 1) c.twoD fetch (if c.mult then lineMult s (dField w i) else 1, 1, 1) order

/-- The inputs, their coded blocks in the order `ord` gives by input, and D0. -/
def pointIns (s : State) (r : Nat) (w : MacroW) (e : MemErrs) (c : PointCmd) (ord : Nat → List Nat := fun _ => []) : List Opd :=
  ((List.range c.ins.length).zip c.ins).map (fun i =>
    let a := pointOpd s r w e c i.2 true (ord i.1); if c.aux then withAuxAxis a c.flt true false else a)
def pointOut (s : State) (r : Nat) (w : MacroW) (e : MemErrs) (c : PointCmd) : Opd :=
  let o := withEdge s e.ue (instrOf s r) (pointOpd s r w e c 0 false)
  if c.aux then withAuxAxis o (c.flt && narrowFmt o.f) true (c.flt && narrowFmt o.f) else o

/-- The tables that problems `p0` to `p1 - 1` read. -/
def pointTables (s : State) (w : MacroW) (c : PointCmd) (ins : List Opd) (o : Opd) (p0 p1 : Nat) : List Opd :=
  (c.tables ins o).map (fun t =>
    let d := (descOf s (dField w t.1)).getD descZero
    tableOpd s (dField w t.1) (w.rep + 1) ((List.range (p1 - p0)).map (fun p => (d.base + 64 * (p0 + p) * d.pstride, t.2))))

/-- The problems of `np` that a placement record gives a region. -/
def problemShare (pl : Place) (np : Nat) : Nat × Nat := if pl.share = 1 then (pl.shareLo, min pl.shareHi np) else (0, np)

/-- The positions of D0 that are computed: its elements, and under SWPAD all of its padding (07 R209). -/
def pointOuts (c : PointCmd) (sh : Nat × Nat) (o : Opd) : List (Nat × Nat × Nat × Nat) :=
  (List.range (sh.2 - sh.1)).flatMap (fun p => (List.range o.q2).flatMap (fun i2 => (List.range o.q1).flatMap (fun i1 =>
    (List.range o.q0).filterMap (fun i0 => if inShape o i0 i1 i2 ∨ c.mult then some (sh.1 + p, i0, i1, i2) else none))))

/-- The positions of input `k` that outputs read, so far as memory holds them. -/
def pointReads (c : PointCmd) (ins : List Opd) (o : Opd) (outs : List (Nat × Nat × Nat × Nat)) (k : Nat) : List (Nat × Nat × Nat × Nat) :=
  (outs.flatMap (fun x => (c.reads ins o k x.2.1 x.2.2.1 x.2.2.2).map (fun y => (x.1, y.2)))).filter (fun y => covers ((ins[k]?).getD o) y.2.1 y.2.2.1 y.2.2.2)

/-- The cell of a position. -/
def pointCellAt (s : State) (e : MemErrs) (c : PointCmd) (ins : List Opd) (o : Opd) (x : Nat × Nat × Nat × Nat) : Option (Arith Cell) :=
  c.f s e.ue ins o x.1 x.2.1 x.2.2.1 x.2.2.2

/-- The coded blocks that the positions `outs` read of input `k`, in order (12 R336). -/
def pointOrder (c : PointCmd) (ins : List Opd) (o : Opd) (outs : List (Nat × Nat × Nat × Nat)) (k : Nat) : List Nat :=
  match ins[k]? with
  | some a => if a.crec.isSome then ascending (blocksOf a (pointReads c ins o outs k)) else []
  | none => []

/-- Those blocks come in. -/
def pointBlocks (s : State) (r : Nat) (e : MemErrs) (c : PointCmd) (ins : List Opd) (o : Opd) (outs : List (Nat × Nat × Nat × Nat)) : State :=
  (List.range ins.length).foldl (fun s k =>
    match ins[k]? with
    | some a => if a.crec.isSome then chargeBlocks s r e.ue a (pointOrder c ins o outs k) else s
    | none => s) s

/-- Beats of Hearth and of Cellar that an instruction on elements moves, each once: of its inputs, aux records, tables and outputs (DESIGN CHOICE, log entry
121). -/
def pointBeats (s : State) (e : MemErrs) (c : PointCmd) (ins tabs : List Opd) (o : Opd) (outs : List (Nat × Nat × Nat × Nat)) : Nat × Nat :=
  spanBeats (beatSpans o outs ++ o.extra ++ tabs.flatMap (·.extra) ++ (List.range ins.length).flatMap (fun k =>
    match ins[k]? with
    | some a => if a.crec.isSome then opdSpans s e.ue a (pointOrder c ins o outs k) else beatSpans a (pointReads c ins o outs k) ++ a.extra
    | none => []))

/-- The scales that a narrowing of elements forms of its own groups, written into `t` (05 R148). -/
def pointScales (s t : State) (e : MemErrs) (c : PointCmd) (ins : List Opd) (o : Opd) (outs : List (Nat × Nat × Nat × Nat)) : State :=
  if c.flt && ownScales s o then
    let l := outs.filter (fun x => inShape o x.2.1 x.2.2.1 x.2.2.2)
    formScales t e.ue o ((l.map (fun x => (rowOf o x.2.1 x.2.2.1 x.2.2.2, chanOf o x.2.1 x.2.2.1 x.2.2.2))).zip
      ((l.mapM (fun x => (pointCellAt s e c ins (wideOpd o) x).getD (pure .keep))) ⟨jobFlush s, 0, 0⟩).1)
  else t

/-- Execute an instruction on elements. DESIGN CHOICE (log entry 104): the spec does not say what of D0 an instruction writes that takes ACC_OVERFLOW at
some output; nothing of D0 is written. -/
def pointDo (s : State) (r op : Nat) (w : MacroW) (e : MemErrs) (c : PointCmd) : Ans :=
  macroDo s r (pointRefuse s r op w c) (descsOf s w (0 :: c.ins)) none (fun pl s =>
    let o := pointOut s r w e c
    let sh := problemShare pl (w.rep + 1)
    let outs := pointOuts c sh o
    let ins := pointIns s r w e c (pointOrder c (pointIns s r w e c) o outs)
    let tabs := pointTables s w c ins o sh.1 sh.2
    guardAddr s r sh.1 sh.2 (ins ++ [o] ++ tabs) (fun _ =>
      let e := withBeats e (pointBeats s e c ins tabs o outs)
      let s1 := pointBlocks s r e c ins o outs
      match outs.find? (fun x => (pointCellAt s e c ins o x).isNone) with
      | some x => overFault (chargeErrs s1 e) r (overDetail x.1 0 0 (x.2.2.2 * o.n1 + x.2.2.1) x.2.1)
      | none =>
        let q := (outs.mapM (fun x => (pointCellAt (pointScales s s e c ins o outs) e c ins o x).getD (pure .keep))) ⟨jobFlush s, 0, 0⟩
        let s2 := chargeArith (storeRuns (pointScales s s1 e c ins o outs) r e.ue o (gatherRuns (outs.zip q.1))) r q.2
        retire (chargeErrs (tallyAdd s2 tAnvilSteps (c.steps ins o (4 * pl.fm * pl.fn))) e) r))

/-- Compute steps over `a` Anvils of an instruction on elements: 64-byte beats of the widest operand (06 R172; log entry 19). -/
def beatSteps (l : List Opd) (o : Opd) (np a : Nat) : Nat :=
  let bytes := fun (x : Opd) => ceilDiv (x.n0 * fmtBits x.f) 8 * x.n1 * x.n2
  ceilDiv (np * (l.map bytes).foldl max (bytes o)) (64 * a) * a

/-- Input `k` of an output at the same position. -/
def sameReads (_ : List Opd) (_ : Opd) (_ i0 i1 i2 : Nat) : List (Nat × Nat × Nat × Nat) := [(0, i0, i1, i2)]

/-- Address of a table of D`i` for problem `p` (R163). -/
def tableAt (s : State) (w : MacroW) (i p : Nat) : Nat :=
  let d := (descOf s (dField w i)).getD descZero
  d.base + 64 * p * d.pstride

/-- The operands `l` share their zero points as far as the constants tell. -/
def sameZp (s : State) (w : MacroW) (l : List Nat) : Bool :=
  let d := fun i => (descOf s (dField w i)).getD descZero
  l.all (fun i => let x := d i; zpsAgree s (d 0) x (if x.kind = 1 ∨ (constAux s x).caxis then x.n2 else x.n0))

/-- Operands that must agree in a dimension do not (07 R212): `dims` pairs those of D0 with those of operand `i`. -/
def dimsDiffer (s : State) (w : MacroW) (i : Nat) (dims : List (Nat × Nat)) : Bool :=
  let d := fun i => (descOf s (dField w i)).getD descZero
  dims.any (fun x => decide (dimKey2 s (d 0) x.1 ≠ dimKey2 s (d i) x.2))

/-- All three dimensions, each with itself. -/
def allDims : List (Nat × Nat) := [(0, 0), (1, 1), (2, 2)]

/-- The table of `size` bytes a problem that D3 names is no TABLE, or holds a shift that R107 refuses. -/
def tableRefuse (s : State) (w : MacroW) (size : Nat) : Option String :=
  if !pres w 3 then none
  else if ((descOf s w.d3).map (·.kind)) ≠ some 5 then some "R172"
  else (List.range (w.rep + 1)).findSome? (fun p => shiftsBad s (tableAt s w 3 p) 1 size)

/-- The D3 TABLE of an Assay ELT for problem `p`: M_a, M_b, s and its poison (R172). -/
def eltTable (s : State) (ue : List Nat) (w : MacroW) (p : Nat) : Int × Int × Nat × Bool :=
  let a := tableAt s w 3 p
  (sext 32 (devLE s ue a 4), sext 32 (devLE s ue (a + 4) 4), devLE s ue (a + 8) 1, devBad s ue a 12)

/-- The elementwise instructions. `assay` gives the exact value before the shift from (a − z_a), (b − z_b), M_a, M_b, or none for a
selection of codes; `flt` and `strict` are the Float forms. -/
def eltCmd (s : State) (w : MacroW) (e : MemErrs) (sel : Option Bool) (assay : Int → Int → Int → Int → Int)
    (flt : FVal → FVal → Arith Nat) (strict : Fmt → Nat → Nat → Nat → Arith Nat) (mb0 : Bool) : PointCmd :=
  let fa := fmtField s w 1
  let fb := fmtField s w 2
  let fo := fmtField s w 0
  let st := isStrict s w.cls [fa, fb, fo]
  let refuse :=
    if !w.cls ∧ sel.isNone ∧ !pres w 3 then some "R172"
    else if (w.cls ∨ sel.isSome) ∧ pres w 3 then some "R172"
    else if !w.cls ∧ !(fmtInt fa && fmtInt fb && fmtInt fo) then some "R95"
    else if !w.cls ∧ sel.isSome ∧ (fa ≠ fb ∨ fo ≠ fa ∨ !sameZp s w [0, 1, 2]) then some "R108"
    else if w.cls ∧ !(floatOut fa && floatOut fb && floatOut fo) then some "R95"
    else if !w.cls ∧ mb0 ∧ (List.range (w.rep + 1)).any (fun p => (eltTable s [] w p).2.1 != 0 && !(eltTable s e.ue w p).2.2.2) then some "R108"
    else if w.rnd ≠ 0 ∧ !st then some "R163"
    else if dimsDiffer s w 1 allDims || dimsDiffer s w 2 allDims then some "R212" else tableRefuse s w 12
  { ins := [1, 2], mult := true, twoD := true, refuse := refuse, reads := sameReads, inPlace := true, coded := [0, 1, 2]
    flt := w.cls && !st, strict := st, tables := fun _ _ => if !w.cls && sel.isNone then [(3, 12)] else []
    f := fun s ue ins o p i0 i1 i2 =>
      let a := ins.headD o
      let b := (ins[1]?).getD o
      let ca := elemIn s ue a p i0 i1 i2
      let cb := elemIn s ue b p i0 i1 i2
      let bad := elemBad s ue a w.cls p i0 i1 i2 || elemBad s ue b w.cls p i0 i1 i2 || o.x.bad
      some (if st then do return .main (← strict fa w.rnd ca.1 cb.1) bad
        else if w.cls then do
          let x ← scaledVal s ue a p i0 i1 i2
          let y ← scaledVal s ue b p i0 i1 i2
          pointCell s ue o i0 i1 i2 (← flt x y) bad
        else match sel with
        | some mx => pure (.main (selInt fa mx [ca.1, cb.1]) bad)
        | none =>
          let t := eltTable s ue w p
          let z := zpElem s ue o i0 i1 i2
          let v := assay (intVal fa ca.1 - (zpElem s ue a i0 i1 i2).1) (intVal fb cb.1 - (zpElem s ue b i0 i1 i2).1)
            t.1 t.2.1
          pure (.main (code (fmtBits fo) (clamp (rneShift v t.2.2.1 + z.1) o.x.lo o.x.hi)) (bad || t.2.2.2 || z.2)))
    steps := fun l o a => beatSteps l o (w.rep + 1) a }

/-- ELT SUB 0: add. -/
def eltAddCmd (s : State) (w : MacroW) (e : MemErrs) : PointCmd :=
  eltCmd s w e none (fun a b ma mb => ma * a + mb * b) addVals (fun f d x y => ieeeAdd f d x y) false
def execEltAdd (r : Nat) (w : MacroW) (e : MemErrs) (s : State) : Ans := pointDo s r 0x13 w e (eltAddCmd s w e)

/-- ELT SUB 1: multiply. -/
def eltMultiplyCmd (s : State) (w : MacroW) (e : MemErrs) : PointCmd :=
  eltCmd s w e none (fun a b ma _ => a * b * ma) mulVals (fun f d x y => ieeeMul f d x y) true
def execEltMultiply (r : Nat) (w : MacroW) (e : MemErrs) (s : State) : Ans := pointDo s r 0x13 w e (eltMultiplyCmd s w e)

/-- ELT SUB 2: subtract. -/
def eltSubtractCmd (s : State) (w : MacroW) (e : MemErrs) : PointCmd :=
  eltCmd s w e none (fun a b ma mb => ma * a - mb * b) (fun x y => addVals x (negVal y)) (fun f d x y => ieeeSub f d x y) false
def execEltSubtract (r : Nat) (w : MacroW) (e : MemErrs) (s : State) : Ans := pointDo s r 0x13 w e (eltSubtractCmd s w e)

/-- ELT SUB 3: the larger. -/
def eltMaxCmd (s : State) (w : MacroW) (e : MemErrs) : PointCmd :=
  eltCmd s w e (some true) (fun a _ _ _ => a) (fun x y => toF32 (pickVals true x y)) (fun f _ x y => ieeeMinMax f true x y) false
def execEltMax (r : Nat) (w : MacroW) (e : MemErrs) (s : State) : Ans := pointDo s r 0x13 w e (eltMaxCmd s w e)

/-- ELT SUB 4: the smaller. -/
def eltMinCmd (s : State) (w : MacroW) (e : MemErrs) : PointCmd :=
  eltCmd s w e (some false) (fun a _ _ _ => a) (fun x y => toF32 (pickVals false x y)) (fun f _ x y => ieeeMinMax f false x y) false
def execEltMin (r : Nat) (w : MacroW) (e : MemErrs) (s : State) : Ans := pointDo s r 0x13 w e (eltMinCmd s w e)

/-- LUT: y = T[a + 2^(b−1)], with the table of 256 or 65,536 entries at D2 (04 R108). -/
def lutCmd (s : State) (w : MacroW) : PointCmd :=
  let fa := fmtField s w 1
  let fo := fmtField s w 0
  let ok := fun (f : Fmt) => f = .int8 || f = .int16
  let n := fmtBits fo / 8 * 2 ^ fmtBits fa
  { ins := [1], mult := true, twoD := true
    refuse := if w.cls ∨ !(ok fa && ok fo) ∨ !pres w 2 ∨ (let d := (descOf s w.d2).getD descZero; (declSpan d (d.n0, d.n1, d.n2) 1).2 < n) then some "R108"
      else if w.rnd ≠ 0 then some "R163" else if dimsDiffer s w 1 allDims then some "R212" else none
    reads := sameReads, tables := fun _ _ => [(2, n)]
    f := fun s ue ins o p i0 i1 i2 =>
      let a := ins.headD o
      let c := elemIn s ue a p i0 i1 i2
      let n := fmtBits fo / 8
      let at_ := tableAt s w 2 p + n * (intVal fa c.1 + 2 ^ (fmtBits fa - 1)).toNat
      some (pure (.main (devLE s ue at_ n) (c.2 || devBad s ue at_ n || a.x.bad || o.x.bad)))
    steps := fun l o a => beatSteps l o (w.rep + 1) a }
def execLut (r : Nat) (w : MacroW) (e : MemErrs) (s : State) : Ans := pointDo s r 0x14 w e (lutCmd s w)

/-! Reductions. -/

/-- Element `k` along the axis of the output position. -/
def axisPos (ax k i0 i1 i2 : Nat) : Nat × Nat × Nat :=
  if ax = 0 then (k, i1, i2) else if ax = 1 then (i0, k, i2) else (i0, i1, k)

/-- Length of the axis. -/
def axisLen (a : Opd) (ax : Nat) : Nat := if ax = 0 then a.n0 else if ax = 1 then a.n1 else a.n2

/-- The D3 TABLE of an Assay sum for problem `p`: M, s and its poison (R172). -/
def redTable (s : State) (ue : List Nat) (w : MacroW) (p : Nat) : Int × Nat × Bool :=
  let a := tableAt s w 3 p
  (sext 32 (devLE s ue a 4), devLE s ue (a + 4) 1, devBad s ue a 8)

/-- The Assay sum of (a − z_a) over an axis; none when a partial sum leaves INT48 (R111). -/
def redSum (s : State) (ue : List Nat) (a : Opd) (l : List (Nat × Nat × Nat)) (p : Nat) : Option Int :=
  l.foldl (fun (t : Option Int) x => t.bind (fun v =>
    let y := v + (intVal a.f (elemIn s ue a p x.1 x.2.1 x.2.2).1 - (zpElem s ue a x.1 x.2.1 x.2.2).1)
    if inI48 y then some y else none)) (some 0)

/-- What the reductions share: `mx` for a maximum, `table` where D3 is read, `f` the cell from the positions along the axis. -/
def redCmd (s : State) (w : MacroW) (mx table : Bool) (refuse : Option String)
    (f : State → List Nat → Opd → Opd → Bool → List (Nat × Nat × Nat) → Nat → Nat → Nat → Nat → Bool → Option (Arith Cell)) : PointCmd :=
  let ax := bits w.p0 0 2
  let st := isStrict s w.cls [fmtField s w 1, fmtField s w 0]
  let pos := fun (a : Opd) (i0 i1 i2 : Nat) => (List.range (axisLen a ax)).map (fun k => axisPos ax k i0 i1 i2)
  { ins := [1], mult := true, twoD := true, coded := [1], flt := w.cls && !st, strict := st, mx := mx
    tables := fun _ _ => if table then [(3, 8)] else []
    refuse := if ax = 3 then some "R172"
      else if !w.cls ∧ !(fmtInt (fmtField s w 1) && assayOut (fmtField s w 0)) then some "R95"
      else if w.cls ∧ !(floatOut (fmtField s w 1) && floatOut (fmtField s w 0)) then some "R95"
      else if pres w 3 ∧ !table then some "R172"
      else if w.rnd ≠ 0 ∧ !st then some "R163"
      else if dimsDiffer s w 1 (allDims.filter (fun x => decide (x.1 ≠ ax))) then some "R212"
      else refuse.orElse (fun _ => tableRefuse s w 8)
    reads := fun ins o _ i0 i1 i2 => (pos (ins.headD o) i0 i1 i2).map (fun x => (0, x))
    f := fun s ue ins o p i0 i1 i2 =>
      let a := ins.headD o
      let l := pos a i0 i1 i2
      let bad := l.any (fun x => elemBad s ue a w.cls p x.1 x.2.1 x.2.2) || o.x.bad
      f s ue a o st l p i0 i1 i2 bad
    steps := fun l o a => beatSteps l o (w.rep + 1) a }

/-- A tree over elements, each formed by `leaf` in binary32 or `sleaf` in the strict format (R120, R129). -/
def redTree (s : State) (ue : List Nat) (w : MacroW) (a o : Opd) (st : Bool) (l : List (Nat × Nat × Nat)) (p i0 i1 i2 : Nat)
    (bad : Bool) (leaf : FVal → Arith Nat) (sleaf : Nat → Arith Nat) : Arith Cell := do
  if st then
    let xs ← l.mapM (fun x => sleaf (elemIn s ue a p x.1 x.2.1 x.2.2).1)
    return .main (← ieeeTree a.f w.rnd xs) bad
  else
    let xs ← l.mapM (fun x => do leaf (← scaledVal s ue a p x.1 x.2.1 x.2.2))
    pointCell s ue o i0 i1 i2 (← bough xs) bad

/-- RED SUB 0: sum. -/
def redSumCmd (s : State) (w : MacroW) : PointCmd :=
  redCmd s w false (!w.cls) (if !w.cls ∧ !pres w 3 then some "R172" else none) (fun s ue a o st l p i0 i1 i2 bad =>
    if w.cls then some (redTree s ue w a o st l p i0 i1 i2 bad toF32 pure)
    else (redSum s ue a l p).map (fun acc =>
      let t := redTable s ue w p
      let z := zpElem s ue o i0 i1 i2
      pure (.main (code (fmtBits o.f) (requant acc t.1 t.2.1 z.1 o.x.lo o.x.hi)) (bad || t.2.2 || z.2))))
def execRedSum (r : Nat) (w : MacroW) (e : MemErrs) (s : State) : Ans := pointDo s r 0x15 w e (redSumCmd s w)

/-- A selection over an axis: exact, NaN if any element is NaN (04 R120). -/
def redSel (s : State) (ue : List Nat) (w : MacroW) (a o : Opd) (st : Bool) (l : List (Nat × Nat × Nat)) (p i0 i1 i2 : Nat)
    (bad mx : Bool) : Arith Cell := do
  let codes := l.map (fun x => (elemIn s ue a p x.1 x.2.1 x.2.2).1)
  if st then
    sigCheck a.f codes
    return .main (selFloat a.f mx codes) bad
  else if w.cls then
    let vs ← l.mapM (fun x => scaledVal s ue a p x.1 x.2.1 x.2.2)
    let v := vs.tail.foldl (pickVals mx) (vs.headD .nan)
    pointCell s ue o i0 i1 i2 (← toF32 v) bad
  else return .main (selInt a.f mx codes) bad

/-- An Assay selection over an axis keeps format and zero point (04 R108). -/
def redSelRefuse (s : State) (w : MacroW) : Option String :=
  if !w.cls ∧ (fmtField s w 0 ≠ fmtField s w 1 ∨ !sameZp s w [0, 1]) then some "R108" else none

/-- RED SUB 1: maximum. -/
def redMaxCmd (s : State) (w : MacroW) : PointCmd :=
  redCmd s w true false (redSelRefuse s w) (fun s ue a o st l p i0 i1 i2 bad => some (redSel s ue w a o st l p i0 i1 i2 bad true))
def execRedMax (r : Nat) (w : MacroW) (e : MemErrs) (s : State) : Ans := pointDo s r 0x15 w e (redMaxCmd s w)

/-- RED SUB 2: minimum. -/
def redMinCmd (s : State) (w : MacroW) : PointCmd :=
  redCmd s w false false (redSelRefuse s w) (fun s ue a o st l p i0 i1 i2 bad => some (redSel s ue w a o st l p i0 i1 i2 bad false))
def execRedMin (r : Nat) (w : MacroW) (e : MemErrs) (s : State) : Ans := pointDo s r 0x15 w e (redMinCmd s w)

/-- RED SUB 3: sum of squares, each square rounded once as a leaf. -/
def redSumOfSquaresCmd (s : State) (w : MacroW) : PointCmd :=
  redCmd s w false false (if !w.cls then some "R172" else none) (fun s ue a o st l p i0 i1 i2 bad =>
    some (redTree s ue w a o st l p i0 i1 i2 bad (fun v => mulVals v v) (fun c => ieeeMul a.f w.rnd c c)))
def execRedSumOfSquares (r : Nat) (w : MacroW) (e : MemErrs) (s : State) : Ans := pointDo s r 0x15 w e (redSumOfSquaresCmd s w)

/-- FUNC: function P0[3:0] of each element (R173). -/
def funcCmd (s : State) (w : MacroW) : PointCmd :=
  let fa := fmtField s w 1
  let st := isStrict s w.cls [fa, fmtField s w 0]
  { ins := [1], mult := true, twoD := true, inPlace := true, flt := !st, strict := st
    refuse := if bits w.p0 0 4 > 7 then some "R173" else if !w.cls then some "R172"
      else if !(floatOut fa && floatOut (fmtField s w 0)) then some "R95"
      else if w.rnd ≠ 0 ∧ !st then some "R163" else if dimsDiffer s w 1 allDims then some "R212" else none
    reads := sameReads
    f := fun s ue ins o p i0 i1 i2 =>
      let a := ins.headD o
      let bad := elemBad s ue a true p i0 i1 i2 || o.x.bad
      let fn := bits w.p0 0 4
      some (if st then do return .main (← funcStrict fn fa w.rnd (elemIn s ue a p i0 i1 i2).1) bad
        else do
          let x ← scaledVal s ue a p i0 i1 i2
          if o.f = .bf16 ∨ o.f = .f32 then
            return .main (← funcElem fn x o.f scaleOne 0 o.x.lo o.x.hi) bad
          else pointCell s ue o i0 i1 i2 (← funcElem fn x .f32 scaleOne 0 0 0) bad)
    steps := fun _ _ _ => 0 }
def execFunc (r : Nat) (w : MacroW) (e : MemErrs) (s : State) : Ans := pointDo s r 0x16 w e (funcCmd s w)

/-- CVT: widening between integer formats is exact, and the one conversion of Assay class; a conversion between binary16 and binary32 in a strict
job is the IEEE one; the rest is round_f32, then the output stage (R172, 04 R95, 05 R133). -/
def cvtCmd (s : State) (w : MacroW) : PointCmd :=
  let fa := fmtField s w 1
  let fo := fmtField s w 0
  let st := w.cls && (s.job.map (·.strict)).getD false && ((fa = .fp16 && fo = .f32) || (fa = .f32 && fo = .fp16))
  let ints := fmtInt fa && fmtInt fo && decide (fmtMin fo ≤ fmtMin fa ∧ fmtMax fa ≤ fmtMax fo)
  { ins := [1], mult := true, twoD := true, inPlace := true, coded := [0, 1], flt := w.cls && !st && !ints, strict := st
    wrote := if ints then some (declRange s ((descOf s w.d1).getD descZero)) else none
    refuse := if fa = .raw8 ∨ fo = .raw8 ∨ fo = .int48 then some "R156"
      else if !w.cls ∧ !(fmtInt fa && fmtInt fo) then some "R95"
      else if !w.cls ∧ !ints then some "R133"
      else if w.rnd ≠ 0 ∧ !st then some "R163" else if dimsDiffer s w 1 allDims then some "R212" else none
    reads := sameReads
    f := fun s ue ins o p i0 i1 i2 =>
      let a := ins.headD o
      let c := elemIn s ue a p i0 i1 i2
      let bad := elemBad s ue a w.cls p i0 i1 i2 || o.x.bad
      some (if ints then pure (.main (code (fmtBits fo) (intVal fa c.1)) bad)
        else if st then do return .main (← ieeeCvt fa fo w.rnd c.1) bad
        else do pointCell s ue o i0 i1 i2 (← toF32 (← scaledVal s ue a p i0 i1 i2)) bad)
    steps := fun l o a => beatSteps l o (w.rep + 1) a }
def execCvt (r : Nat) (w : MacroW) (e : MemErrs) (s : State) : Ans := pointDo s r 0x17 w e (cvtCmd s w)

end Sys2Proof.Machine
end

