-- ==== Sys2Proof/Machine/Streams.lean ====
section
/-! DEFINITION. Moves: MOVE, hoops, chains, MCAST and ROTATE (06 R174 to R177; 09 R250 to R256, R259, R267, R268; 15 R405). -/

namespace Sys2Proof.Machine

/-! MOVE. -/

/-- Code and poison of an element, bits unchanged. -/
def rawAt (s : State) (ue : List Nat) (o : Opd) (p i0 i1 i2 : Nat) : Nat × Bool :=
  if o.crec.isNone && o.f = .int48 then
    let a := elemAddr o p i0 i1 i2
    if devBad s ue a 8 then (0, true) else (devLE s ue a 8, false)
  else elemAt s ue o p i0 i1 i2

/-- CLASS and RND must be 0 in an instruction without arithmetic (R163). -/
def plainRefuse (w : MacroW) : Option String := if w.cls ∨ w.rnd ≠ 0 then some "R163" else none

/-- Code and poison of a position that a move reads, bits unchanged: an element, or padding as `elemIn` has it. -/
def rawIn (s : State) (ue : List Nat) (o : Opd) (p i0 i1 i2 : Nat) : Nat × Bool :=
  if covers o i0 i1 i2 then rawAt s ue o p i0 i1 i2 else elemIn s ue o p i0 i1 i2

/-- A move of elements: `src` gives the position of D1 that a position of D0 takes. -/
def moveCmd (w : MacroW) (coded : List Nat) (refuse : Option String) (wrote : Option (Int × Int)) (src : Opd → Opd → Nat → Nat → Nat → Nat × Nat × Nat) : PointCmd :=
  { ins := [1], mult := true, twoD := true, refuse := (plainRefuse w).orElse (fun _ => refuse), aux := false, coded := coded, wrote := wrote
    reads := fun ins o _ i0 i1 i2 => [(0, src (ins.headD o) o i0 i1 i2)]
    f := fun s ue ins o p i0 i1 i2 =>
      let a := ins.headD o
      let x := src a o i0 i1 i2
      let c := rawIn s ue a p x.1 x.2.1 x.2.2
      some (pure (.main c.1 c.2))
    steps := fun _ _ _ => 0 }

/-- Elements of a descriptor as R174 compares them: the product of its static dimensions, and its dynamic ones by slot, number and buckets. -/
def countKey (s : State) (d : Desc) : Nat × List (Nat × Nat × List Nat) :=
  let ks := (List.range 3).map (dimKey s d)
  (ks.foldl (fun n k => match k with
    | .inl z => n * z
    | .inr _ => n) 1, ks.filterMap (fun k => match k with
    | .inl _ => none
    | .inr z => some z))

/-- D0 and D1 hold equally many elements for every value of their slots (R174). -/
def sameCount (s : State) (w : MacroW) : Bool :=
  match descOf s w.d0, descOf s w.d1 with
  | some o, some a =>
    let x := countKey s o
    let y := countKey s a
    decide (x.1 = y.1) && decide (x.2.length = y.2.length) && x.2.all (fun k => y.2.contains k)
  | _, _ => true

/-- MOVE SUB 0: bit copy with equal formats and element counts; elements keep their order (R174). Between different shapes the padding of D0 takes the PAD
value of D1 (DESIGN CHOICE, log entry 120). -/
def copyCmd (s : State) (w : MacroW) : PointCmd :=
  moveCmd w [0, 1] (if fmtField s w 0 ≠ fmtField s w 1 ∨ !sameCount s w then some "R174" else none)
    (some (declRange s ((descOf s w.d1).getD descZero))) (fun a o i0 i1 i2 =>
    let i := i0 + o.n0 * (i1 + o.n1 * i2)
    if (a.n0, a.n1, a.n2) = (o.n0, o.n1, o.n2) then (i0, i1, i2)
    else if inShape o i0 i1 i2 then (i % a.n0, i / a.n0 % a.n1, i / (a.n0 * a.n1)) else (a.q0, a.q1, a.q2))
def execCopy (r : Nat) (w : MacroW) (e : MemErrs) (s : State) : Ans := pointDo s r 0x20 w e (copyCmd s w)

/-- MOVE SUB 1: dimensions 0 and 1 swapped. -/
def transposeCmd (s : State) (w : MacroW) : PointCmd :=
  moveCmd w [] (if fmtField s w 0 ≠ fmtField s w 1 then some "R174" else if dimsDiffer s w 1 [(0, 1), (1, 0), (2, 2)] then some "R212" else none)
    none (fun _ _ i0 i1 i2 => (i1, i0, i2))
def execTranspose (r : Nat) (w : MacroW) (e : MemErrs) (s : State) : Ans := pointDo s r 0x20 w e (transposeCmd s w)

/-- MOVE SUB 2: D0's PADC to every element. -/
def fillCmd (w : MacroW) : PointCmd :=
  { ins := [], mult := true, twoD := true, refuse := plainRefuse w, aux := false, reads := fun _ _ _ _ _ _ => []
    f := fun _ _ _ o _ _ _ _ => some (pure (.main (o.d.padc % 2 ^ fmtBits o.f) false))
    steps := fun _ _ _ => 0 }
def execFill (r : Nat) (w : MacroW) (e : MemErrs) (s : State) : Ans := pointDo s r 0x20 w e (fillCmd w)

/-! Byte streams of tensors. -/

/-- Bytes of a line of an operand. -/
def rowBytes (o : Opd) : Nat := ceilDiv (o.n0 * fmtBits o.f) 8

/-- Bytes of a problem of an operand, line by line. -/
def streamLen (o : Opd) : Nat := rowBytes o * o.n1 * o.n2

/-- Device address of byte `k` of problem `p`. -/
def streamAddr (o : Opd) (p k : Nat) : Nat :=
  let l := k / rowBytes o
  elemAddr o p 0 (l % o.n1) (l / o.n1) + k % rowBytes o

/-- Bytes `k` to `k + n - 1` of problem `p`, each with its poison. -/
def streamBytes (s : State) (ue : List Nat) (o : Opd) (p k n : Nat) : List (Byte × Bool) :=
  (List.range n).map (fun i => devByte s ue (streamAddr o p (k + i)))

/-- Write bytes from byte `k` of problem `p` on. -/
def streamPut (s : State) (ue : List Nat) (o : Opd) (p k : Nat) (l : List (Byte × Bool)) : State :=
  putBytes s ue (((List.range l.length).zip l).map (fun x => (streamAddr o p (k + x.1), x.2.1, x.2.2)))

/-- Region `r` is in an open exchange from now until the next release (17 R457). -/
def openExchange (s : State) (r : Nat) : State := modRegion s r (fun x => { x with openEx := 1 })

/-- The loader's checks of a SEND; D1 lies in Hearth, in Cellar, or in the Crucible or a Bench of region `r`. DESIGN CHOICE (log entry 120): "PLAIN or RAW8" of
R405 names a kind and a format; KIND PLAIN of any format is accepted. -/
def sendRefuse (s : State) (r : Nat) (w : MacroW) : Option String :=
  (refuseOps s 0x20 w [1] false).orElse (fun _ => (plainRefuse w).orElse (fun _ =>
    if bits w.p0 10 22 ≠ 0 ∨ w.d0 ≠ 0 ∨ bits w.p1 28 4 ≠ 1 then some "R405"
    else
      let d := (descOf s w.d1).getD descZero
      if d.kind ≠ 0 ∨ (1 < levelOf d.base ∧ bits d.base 27 3 ≠ r) then some "R405" else none))

/-- MOVE SUB 3 SEND: the bytes of D1, problem by problem, go to port P0[3:0] as flits of stream P0[9:4] (15 R405). -/
def execSend (r : Nat) (w : MacroW) (e : MemErrs) (s : State) : Ans :=
  macroDo s r (sendRefuse s r w) (descsOf s w [1]) none (fun _ s =>
    let o := opdOf s r e.ue w.d1 (w.rep + 1) false false (1, 1, 1)
    let port := bits w.p0 0 4
    let finish := fun (s : State) => if (getPort s port).txq = [] then retire (chargeErrs s e) r else holdRegion (chargeErrs s e) r (.port port) [1]
    if (getRegion s r).prog ≠ [] then finish (pump s port)
    else guardAddr s r 0 (w.rep + 1) [o] (fun _ =>
      let fl := (List.range (w.rep + 1)).flatMap (fun p => flitsOf (bits w.p0 4 6) (streamBytes s e.ue o p 0 (streamLen o)))
      finish (pump (modPort (openExchange s r) port (fun x => { x with txq := x.txq ++ fl })) port)))

/-! PUT and TAKE. -/

/-- The loader's checks of a HOOP instruction: KIND of the hoop operand `i` (R176), the index (R254), and the fields. -/
def hoopRefuse (s : State) (w : MacroW) (i : Nat) (take : Bool) : Option String :=
  let d := (descOf s (dField w i)).getD descZero
  (refuseOps s 0x22 w [1] true).orElse (fun _ => (plainRefuse w).orElse (fun _ =>
    if d.kind ≠ 4 ∨ d.n1 < 3 ∨ d.n0 < 1 then some "R176"
    else if d.padc / 64 ≠ 0 ∨ bits w.p0 0 6 ≠ hoopIdx d ∨ bits w.p0 7 25 ≠ 0 ∨ (take ∧ bit w.p0 6) then some "R254"
    else none))

/-- The address fault that slot number `i` of a hoop meets, and its taking; `di` is the HOOP descriptor (03 R69). -/
def slotFault (s : State) (n h i : Nat) : Option (Nat × Nat) := spanFault s (hoopSlotAddr s n h i) (hoopBytes s n h)
def slotFaultDo (s : State) (r h i di : Nat) : State :=
  match slotFault s (posOf s r) h i with
  | some x => addrFaultAt s r x.1 x.2 di
  | none => s

/-- PUT from problem `p` on; `k` problems are left. A tensor without a slot's bytes comes before the state of the hoop (06 R188). -/
def putLoop (w : MacroW) (e : MemErrs) (r h : Nat) (o : Opd) : Nat → Nat → State → State
  | 0, _, s => retire (chargeErrs s e) r
  | k + 1, p, s =>
    let n := posOf s r
    if streamLen o < hoopBytes s n h then regionFault (chargeErrs s e) r fcAddrBounds (toLE 8 (streamAddr o p 0 + streamLen o) ++ toLE 1 o.di)
    else if (slotFault s n h (rd s (Fk.hoopTail n h))).isSome then slotFaultDo (chargeErrs s e) r h (rd s (Fk.hoopTail n h)) w.d0
    else if hoopFull s n h then hoopWait (chargeErrs s e) r h (rd s (Fk.hoopCfgTakeEnd n h)) [p]
    else putLoop w e r h o k (p + 1) (hoopPutSlot s r h e.ue (streamBytes s e.ue o p 0 (hoopBytes s n h)) (bit w.p0 6))

/-- HOOP SUB 0 PUT: one slot from D1 to the tail for each problem, with MARK P0[6] (R176, R254, R255). -/
def execPut (r : Nat) (w : MacroW) (e : MemErrs) (s : State) : Ans :=
  macroDo s r (hoopRefuse s w 0 false) (descsOf s w [1]) none (fun _ s =>
    let o := opdOf s r e.ue w.d1 (w.rep + 1) false false (1, 1, 1)
    let p := (getRegion s r).prog.headD 0
    guardAddr s r p (w.rep + 1) [o] (fun _ => putLoop w e r (bits w.p0 0 6) o (w.rep + 1 - p) p s))

/-- TAKE to problem `p` on; `k` problems are left. -/
def takeLoop (w : MacroW) (e : MemErrs) (r h : Nat) (o : Opd) : Nat → Nat → State → State
  | 0, _, s => retire (chargeErrs s e) r
  | k + 1, p, s =>
    let n := posOf s r
    if streamLen o < hoopBytes s n h then regionFault (chargeErrs s e) r fcAddrBounds (toLE 8 (streamAddr o p 0 + streamLen o) ++ toLE 1 o.di)
    else if (slotFault s n h (rd s (Fk.hoopHead n h))).isSome then slotFaultDo (chargeErrs s e) r h (rd s (Fk.hoopHead n h)) w.d1
    else if hoopEmpty s n h then hoopWait (chargeErrs s e) r h (rd s (Fk.hoopCfgPutEnd n h)) [p]
    else takeLoop w e r h o k (p + 1) (hoopPop (streamPut s e.ue o p 0 (hoopHeadBytes s r h e.ue)) r h)

/-- HOOP SUB 1 TAKE: the head slot to D0 for each problem. -/
def execTake (r : Nat) (w : MacroW) (e : MemErrs) (s : State) : Ans :=
  macroDo s r (hoopRefuse s w 1 true) (descsOf s w [0]) none (fun _ s =>
    let o := opdOf s r e.ue w.d0 (w.rep + 1) false false (1, 1, 1)
    let p := (getRegion s r).prog.headD 0
    let s := if rd s (Fk.hoopCfgPutEnd (posOf s r) (bits w.p0 0 6)) = 1 then openExchange s r else s
    guardAddr s r p (w.rep + 1) [o] (fun _ => takeLoop w e r (bits w.p0 0 6) o (w.rep + 1 - p) p s))

/-! Chains (09 R250 to R252). -/

/-- How far a CHAIN has come: problem, data entries moved, next entry's address, whether a LINK led there, bytes of the tensor
moved, and bytes of the entry moved. -/
structure ChainPos where
  p : Nat
  done : Nat
  ea : Nat
  link : Bool
  pos : Nat
  off : Nat
deriving DecidableEq, Repr

/-- The position as kept through a hold, and back. -/
def chainProg (c : ChainPos) : List Nat := [c.p, c.done, c.ea, b2n c.link, c.pos, c.off]
def chainOf (base : Nat) (l : List Nat) : ChainPos :=
  match l with
  | [p, d, ea, k, pos, off] => ⟨p, d, ea, k = 1, pos, off⟩
  | _ => ⟨0, 0, base, false, 0, 0⟩

/-- What a CHAIN moves between: its CHAIN descriptor, the data window, the count of data entries, and the other end, a tensor or a
hoop with its index; `di` and `odi` are the descriptors of both ends. -/
structure ChainCmd where
  read : Bool
  d : Desc
  win : Nat × Nat
  count : Nat
  o : Opd
  hoop : Option Nat
  di : Nat
  odi : Nat
deriving DecidableEq, Repr

/-- CHAIN_ENTRY raised by region `r` at entry `ea`. -/
def chainFault (s : State) (r ea done : Nat) : State :=
  regionFault (raise s Fk.schedStatusChainEntry) r fcChainEntry (toLE 8 ea ++ toLE 4 done)

/-- Move the data of an entry between window and tensor: a move beyond the tensor lacks a credit (R252) or leaves its bounds (R80). -/
def chainTensor (s : State) (r : Nat) (e : MemErrs) (c : ChainCmd) (q : ChainPos) (addr n : Nat) : State ⊕ State :=
  if q.pos + n > streamLen c.o then
    if c.read then .inl (schedMiss (chargeErrs s e) r 2 addr (rd s (Fk.rschedScyc (posOf s r)) % 2 ^ 32))
    else .inl (regionFault (chargeErrs s e) r fcAddrBounds (toLE 8 (streamAddr c.o q.p 0 + streamLen c.o) ++ toLE 1 c.o.di))
  else if c.read then .inr (streamPut s e.ue c.o q.p q.pos (spanGet s e.ue addr n))
  else .inr (spanPut s e.ue addr (streamBytes s e.ue c.o q.p q.pos n))

/-- Move the rest of an entry slot by slot between window and hoop `h`; a slot it cannot use ends the move there. -/
def chainHoop (s : State) (r h : Nat) (e : MemErrs) (c : ChainCmd) (q : ChainPos) (addr n : Nat) (mark : Bool) : Nat → Nat → State ⊕ State
  | 0, _ => .inr s
  | k + 1, off =>
    let m := posOf s r
    let b := max 1 (hoopBytes s m h)
    if off ≥ n then .inr s
    else if c.read then
      if (slotFault s m h (rd s (Fk.hoopTail m h))).isSome then .inl (slotFaultDo (chargeErrs s e) r h (rd s (Fk.hoopTail m h)) c.odi)
      else if hoopFull s m h then .inl (hoopWait (chargeErrs s e) r h (rd s (Fk.hoopCfgTakeEnd m h)) (chainProg { q with off := off }))
      else
        let l := spanGet s e.ue (addr + off) (min b (n - off))
        chainHoop (hoopPutSlot s r h e.ue l (mark && decide (off + b ≥ n))) r h e c q addr n mark k (off + b)
    else if (slotFault s m h (rd s (Fk.hoopHead m h))).isSome then .inl (slotFaultDo (chargeErrs s e) r h (rd s (Fk.hoopHead m h)) c.odi)
    else if hoopEmpty s m h then .inl (hoopWait (chargeErrs s e) r h (rd s (Fk.hoopCfgPutEnd m h)) (chainProg { q with off := off }))
    else
      let l := (hoopHeadBytes s r h e.ue).take (n - off)
      chainHoop (hoopPop (spanPut s e.ue (addr + off) l) r h) r h e c q addr n mark k (off + b)

/-- The bytes of one entry of the chain, to or from the other end. -/
def chainEntry (s : State) (r : Nat) (e : MemErrs) (c : ChainCmd) (q : ChainPos) (addr n : Nat) (mark : Bool) : State ⊕ State :=
  match c.hoop with
  | none => chainTensor s r e c q addr n
  | some h => chainHoop s r h e c q addr n mark (n + 1) q.off

/-- Run a chain from a position: `k` bounds the entries that are read. -/
def chainLoop (w : MacroW) (e : MemErrs) (r : Nat) (c : ChainCmd) : Nat → ChainPos → State → State
  | 0, _, s => s
  | k + 1, q, s =>
    if q.p > w.rep then retire (chargeErrs s e) r
    else if q.done ≥ c.count then chainLoop w e r c k ⟨q.p + 1, 0, c.d.base, false, 0, 0⟩ s
    else if q.ea < c.d.base ∨ q.ea + 16 > c.d.base + 16 * c.d.n0 then chainFault (chargeErrs s e) r q.ea q.done
    else match spanFault s q.ea 16 with
    | some x => addrFaultAt (chargeErrs s e) r x.1 x.2 c.di
    | none =>
      if devBad s e.ue q.ea 16 then regionPoison (chargeErrs s e) r 6
      else
        let a := devLE s e.ue q.ea 8
        let n := devLE s e.ue (q.ea + 8) 4
        let fl := devLE s e.ue (q.ea + 12) 2
        let z := devLE s e.ue (q.ea + 14) 2
        let lk := bit fl 0
        if a % 64 ≠ 0 ∨ a ≥ 2 ^ 52 ∨ fl ≥ 4 ∨ z ≠ 0 ∨ (lk ∧ (n ≠ 0 ∨ q.link)) ∨ (!lk ∧ (n = 0 ∨ n > 64 * c.d.n1)) then
          chainFault (chargeErrs s e) r q.ea q.done
        else if lk then chainLoop w e r c k { q with ea := a, link := true } s
        else if a < c.win.1 ∨ a + n > c.win.1 + c.win.2 then
          addrFaultAt (chargeErrs s e) r fcAddrBounds (if a < c.win.1 then a else max a (c.win.1 + c.win.2)) c.d.aux
        else match spanFault s a n with
        | some x => addrFaultAt (chargeErrs s e) r x.1 x.2 c.d.aux
        | none =>
          let next : ChainPos := ⟨q.p, q.done + 1, q.ea + 16, false, q.pos + n, 0⟩
          match chainEntry s r e c q a n (bit fl 1) with
          | .inl s => s
          | .inr s => chainLoop w e r c k next s

/-- Extent of a PLAIN descriptor with one problem (06 R158). -/
def descExtent (d : Desc) : Nat :=
  64 * ((d.n2 - 1) * d.pitch2 + (d.n1 - 1) * d.pitch1) + ceilDiv (d.n0 * fmtBits ((fmtOf d.fmt).getD .raw8)) 8

/-- The loader's checks of a CHAIN. -/
def chainRefuse (s : State) (w : MacroW) (ci oi : Nat) : Option String :=
  let d := (descOf s (dField w ci)).getD descZero
  let od := (descOf s (dField w oi)).getD descZero
  let ax := (descOf s d.aux).getD descZero
  (refuseOps s 0x21 w [1] true).orElse (fun _ => (plainRefuse w).orElse (fun _ =>
    if d.kind ≠ 3 ∨ w.p0 = 0 then some "R175"
    else if !d.auxEn ∨ d.n2 ≠ 0 ∨ d.pitch1 ≠ 0 ∨ d.pitch2 ≠ 0 ∨ d.pstride ≠ 0 ∨ ax.kind ≠ 0 ∨ ax.fmt ≠ 11 then some "R251"
    else if levelOf ax.base = 4 then some "R90"
    else if od.kind ≠ 0 ∧ od.kind ≠ 4 then some "R175"
    else if od.kind = 4 ∧ od.padc / 64 ≠ 0 then some "R254" else none))

/-- The two CHAIN instructions: `ci` is the operand that is the chain, `oi` the other end. -/
def chainDo (s : State) (r : Nat) (w : MacroW) (e : MemErrs) (read : Bool) (ci oi : Nat) : Ans :=
  let d := (descOf s (dField w ci)).getD descZero
  let od := (descOf s (dField w oi)).getD descZero
  let ax := (descOf s d.aux).getD descZero
  let isHoop := decide (od.kind = 4)
  macroDo s r (chainRefuse s w ci oi) (if isHoop then [] else [od]) none (fun _ s =>
    let o := opdOf s r e.ue (dField w oi) (w.rep + 1) false false (1, 1, 1)
    let c : ChainCmd := ⟨read, d, (ax.base, descExtent ax), w.p0, o, if isHoop then some (hoopIdx od) else none, dField w ci, dField w oi⟩
    let q := chainOf d.base (getRegion s r).prog
    guardAddr s r q.p (w.rep + 1) (if isHoop then [] else [o]) (fun _ =>
      chainLoop w e r c ((w.rep + 1) * (2 * w.p0 + 2) + 1) q s))

/-- CHAIN SUB 0 READ: from the chain D1 to D0. -/
def execChainRead (r : Nat) (w : MacroW) (e : MemErrs) (s : State) : Ans := chainDo s r w e true 1 0

/-- CHAIN SUB 1 WRITE: from D1 to the chain D0. -/
def execChainWrite (r : Nat) (w : MacroW) (e : MemErrs) (s : State) : Ans := chainDo s r w e false 0 1

/-! MCAST and ROTATE (R177, 09 R259, R260). -/

/-- A Bench or Crucible address moved to Forge `f` of region `r`; bits that must be 0 stay as they are (03 R69). -/
def placeAddr (a r f : Nat) : Nat :=
  a / 2 ^ 30 * 2 ^ 30 + r * 2 ^ 27 + (if levelOf a = 3 then f * 2 ^ 23 + bits a 0 23 else bits a 0 27)

/-- The copies a mask asks for at the target level of `a`: one for each Forge in Bench, one for each region in Crucible. -/
def mcastTargets (a mask : Nat) : List (Nat × Nat) :=
  let fs := ((List.range 128).filter (fun i => bit mask i)).map (fun i => (i / 16, i % 16))
  if levelOf a = 3 then fs else ((fs.map (·.1)).eraseDups).map (fun r => (r, 0))

/-- A mask names a Forge that is not there, or of a region that is not (R177). -/
def maskBad (s : State) (mask : Nat) : Bool :=
  (List.range 128).any (fun i => bit mask i && (decide (i / 16 ≥ regionCount s) || !forgeEn s (i / 16) (i % 16)))

/-- The loader's checks of an MCAST. -/
def mcastRefuse (s : State) (w : MacroW) : Option String :=
  let d0 := (descOf s w.d0).getD descZero
  let d1 := (descOf s w.d1).getD descZero
  let d2 := (descOf s w.d2).getD descZero
  (refuseOps s 0x23 w [1, 2] true).orElse (fun _ => (plainRefuse w).orElse (fun _ =>
    if levelOf d1.base ≠ 1 ∨ (levelOf d0.base ≠ 2 ∧ levelOf d0.base ≠ 3) ∨ d2.kind ≠ 5 ∨ d0.kind ≠ 0 ∨ d1.kind ≠ 0 then some "R177"
    else if (List.range (w.rep + 1)).any (fun p =>
      let a := d2.base + 64 * p * d2.pstride
      inConsts s a 16 && maskBad s (devLE s [] a 16)) then some "R177"
    else none))

/-- MCAST: D1 to every Forge of the mask at D2. -/
def execMcast (r : Nat) (w : MacroW) (e : MemErrs) (s : State) : Ans :=
  let d0 := (descOf s w.d0).getD descZero
  let d1 := (descOf s w.d1).getD descZero
  let d2 := (descOf s w.d2).getD descZero
  macroDo s r (mcastRefuse s w) [d0, d1] none (fun pl s =>
    let np := w.rep + 1
    let p0 := if pl.share = 1 then pl.shareLo else 0
    let p1 := if pl.share = 1 then min pl.shareHi np else np
    let o := opdOf s r e.ue w.d0 np false false (1, 1, 1)
    let a := opdOf s r e.ue w.d1 np false false (1, 1, 1)
    let maskAt := fun p => d2.base + 64 * p * d2.pstride
    let step := fun (q : State × Bool) (p : Nat) =>
      let s := q.1
      if q.2 then q
      else match spanFault s (maskAt p) 16 with
      | some x => (addrFaultAt (chargeErrs s e) r x.1 x.2 w.d2, true)
      | none =>
        if devBad s e.ue (maskAt p) 16 then (regionPoison (chargeErrs s e) r 7, true)
        else
          let mask := devLE s e.ue (maskAt p) 16
          if maskBad s mask then
            (addrFaultAt (chargeErrs s e) r fcAddrRange (maskAt p) w.d2, true)
          else
            let tgt := mcastTargets d0.base mask
            let n := streamLen a
            let l := streamBytes s e.ue a p 0 n
            let at_ := fun (t : Nat × Nat) => { o with d := { o.d with base := placeAddr d0.base t.1 t.2 } }
            if streamLen o < n then (addrFaultAt (chargeErrs s e) r fcAddrBounds (streamAddr o p 0 + streamLen o) w.d0, true)
            else (match tgt.findSome? (fun t => spanFault s (streamAddr (at_ t) p 0) n) with
             | some x => (addrFaultAt (chargeErrs s e) r x.1 x.2 w.d0, true)
             | none => (tgt.foldl (fun s t => streamPut s e.ue (at_ t) p 0 l) s, false))
    guardAddr s r p0 p1 [a] (fun _ =>
      let q := (List.range (p1 - p0)).foldl (fun q i => step q (p0 + i)) (s, false)
      if q.2 then q.1 else retire (chargeErrs q.1 e) r))

/-- The ring of an instruction: Forges of its placement records, regions ascending and in the record's order (R259). -/
def ringOf (s : State) (i : Nat) : List (Nat × Nat) :=
  (List.range 8).flatMap (fun r => match (placesOf s r i).head? with
    | none => []
    | some p => (List.range (p.fm * p.fn)).map (fun k => (r, bits p.forges (4 * k) 4)))

/-- The loader's checks of a ROTATE. -/
def rotateRefuse (s : State) (w : MacroW) : Option String :=
  let d1 := (descOf s w.d1).getD descZero
  (refuseOps s 0x24 w [1] false).orElse (fun _ => (plainRefuse w).orElse (fun _ =>
    if levelOf d1.base ≠ 3 ∨ d1.kind ≠ 0 then some "R177" else none))

/-- ROTATE: every Forge of the ring passes the block that D1 describes to the next, all in one step, which the lowest region of the
ring takes. -/
def execRotate (r : Nat) (w : MacroW) (e : MemErrs) (s : State) : Ans :=
  let d1 := (descOf s w.d1).getD descZero
  macroDo s r (rotateRefuse s w) [d1] none (fun _ s =>
    let ring := ringOf s (instrOf s r)
    let np := w.rep + 1
    let o := opdOf s r e.ue w.d1 np false false (1, 1, 1)
    let at_ := fun (t : Nat × Nat) => { o with d := { o.d with base := placeAddr d1.base t.1 t.2 } }
    if (ring.head?.map (·.1)) ≠ some r then retire (chargeErrs s e) r
    else guardAddr s r 0 np (ring.map at_) (fun _ =>
      let blocks := ring.map (fun t => (List.range np).map (fun p => streamBytes s e.ue (at_ t) p 0 (streamLen o)))
      let dst := ring.tail ++ ring.take 1
      let s1 := (dst.zip blocks).foldl (fun s x =>
        ((List.range np).zip x.2).foldl (fun s y => streamPut s e.ue (at_ x.1) y.1 0 y.2) s) s
      retire (chargeErrs s1 e) r))

end Sys2Proof.Machine
end

