-- ==== Sys2Proof/Machine/CodecOps.lean ====
section
/-! DEFINITION. Drawplate, Pruner and Graft instructions (06 R178 to R180; 08 R235 to R238; 10 R294 to R297; 11 R306 to R325). -/

namespace Sys2Proof.Machine

/-! DRAW. -/

/-- Lanes of a DRAW: (PLATES + 1) × (LANES + 1) (11 R314). -/
def drawLanes (w : MacroW) : Nat := (bits w.p1 22 2 + 1) * (bits w.p1 24 4 + 1)

/-- Interleaved states of a substream. -/
def drawNi (w : MacroW) : Nat := bits w.p1 19 3 + 1

/-- Which stream of the context a DRAW codes: the one whose package holds its CDF bank. -/
def drawAudio (s : State) (w : MacroW) : Bool :=
  let c := bits w.p0 0 7
  let bank := ((descOf s w.d4).getD descZero).base
  match (getS s c false).pkg with
  | some p => decide (p.bank ≠ bank) && (getS s c true).pkg.isSome
  | none => (getS s c true).pkg.isSome

/-- The skip marks of the coding state of the DRAW's context; none where it holds no coding state (11 R308). -/
def skipMarks (s : State) (w : MacroW) : List Nat :=
  let st := getS s (bits w.p0 0 7) (drawAudio s w)
  if st.coding then st.skip else []

/-- The skip marks in force when the DRAW of region `r` was dispatched. -/
def drawSkip (s : State) (r : Nat) (w : MacroW) : List Nat := (((getRegion s r).draw).map (·.skip)).getD (skipMarks s w)

/-- The elements of dimension 0 that a DRAW of region `r` codes: all of `n`, of an audio packet the stages below its NS (10 R292; log entry 110), as it was
dispatched. -/
def drawN0 (s : State) (r : Nat) (w : MacroW) (n : Nat) : Nat :=
  match (getRegion s r).draw with
  | some d => d.n0
  | none => if drawAudio s w then min n (((getS s (bits w.p0 0 7) true).ns).getD n) else n

/-- Row `y` is a skip row under the marks `sk`. -/
def skipRow (sk : List Nat) (w : MacroW) (y : Nat) : Bool := bit w.p1 4 && decide (sk.getD y 0 = 1)

/-- The positions of a latent tensor that the walk visits, skip rows included (11 R307). -/
def walkAll (w : MacroW) (o : Opd) : List (Nat × Nat × Nat) :=
  let ok := fun (i0 i1 : Nat) => match bits w.p1 2 2 with
    | 1 => (i0 + i1) % 2 = 0
    | 2 => (i0 + i1) % 2 = 1
    | _ => true
  if bits w.p1 0 2 = 0 then
    (List.range o.n1).flatMap (fun i1 => ((List.range o.n0).filter (fun i0 => ok i0 i1)).flatMap (fun i0 =>
      (List.range o.n2).map (fun i2 => (i0, i1, i2))))
  else
    (List.range o.n2).flatMap (fun i2 => (List.range o.n1).flatMap (fun i1 =>
      ((List.range o.n0).filter (fun i0 => ok i0 i1)).map (fun i0 => (i0, i1, i2))))

/-- Coding order: the walk without skip rows. -/
def codingOrder (sk : List Nat) (w : MacroW) (o : Opd) : List (Nat × Nat × Nat) := (walkAll w o).filter (fun x => !skipRow sk w x.2.1)

/-- Mean of an element, 0 where D2 is absent, and its poison. -/
def drawMean (s : State) (ue : List Nat) (w : MacroW) (m : Opd) (p : Nat) (x : Nat × Nat × Nat) : Int × Bool :=
  if pres w 2 then let c := elemAt s ue m p x.1 x.2.1 x.2.2; (intVal m.f c.1, c.2) else (0, false)

/-- Scale index of an element: value held to 0 to 63, whether it lay outside, and its poison (11 R309). -/
def drawK (s : State) (ue : List Nat) (k : Opd) (p : Nat) (x : Nat × Nat × Nat) : Nat × Bool × Bool :=
  let c := elemAt s ue k p x.1 x.2.1 x.2.2
  let v := intVal k.f c.1
  ((clamp v 0 63).toNat, decide (v < 0 ∨ 63 < v), c.2)

/-- Family of an element: FBASE + i0 mod FSPAN (11 R306). -/
def drawFamily (d4 : Desc) (x : Nat × Nat × Nat) : Nat := d4.n1 + x.1 % max 1 d4.n0

/-- The lanes that a placement record names, as (Drawplate, lane), in the order of R314. -/
def drawUnits (pl : Place) : List (Nat × Nat) :=
  ((List.range 4).filter (bit pl.unit)).flatMap (fun d => ((List.range 8).filter (bit pl.lanes)).map (fun l => (d, l)))

/-- The table store that the lane of substream `b` reads (11 R301, R314). -/
def drawStore (s : State) (r : Nat) (pl : Place) (b : Nat) : Nat := 4 * posOf s r + ((drawUnits pl).getD b (0, 0)).1

/-- First symbol of substream `b` of `n` (11 R314). -/
def subStart (n total b : Nat) : Nat := b * total / n

/-- The stream of the DRAW's context whose package, a video one, holds the bank, if it does. -/
def drawPkg (s : State) (w : MacroW) : Option Pkg :=
  match (getS s (bits w.p0 0 7) false).pkg with
  | some p => if p.bank = ((descOf s w.d4).getD descZero).base then some p else none
  | none => none

/-- The loader's check of a DRAW against the ranges of its package (R310): a symbol of an ENC that some family cannot code, or a clamp of a DEC that is
not that of its step, a latent one in ORDER 0 and the hyper step in ORDER 1 (R307). -/
def drawRange (s : State) (w : MacroW) (hoop : Nat) : Option String :=
  let d := fun i => (descOf s (dField w i)).getD descZero
  let d4 := d 4
  if hoop = 0 then
    let u := declRange s (d 1)
    let m := if pres w 2 then declRange s (d 2) else (0, 0)
    if (List.range (min d4.n0 (d 1).n0)).all (fun i => codableSpan (cdfTable (bankAt s d4.base) (d4.n1 + i) 0).2 (u.1 - m.2) (u.2 - m.1)) then none else some "R310"
  else match drawPkg s w with
  | none => none
  | some p => if declRange s (d 0) = (if bits w.p1 0 2 = 0 then p.yRange else p.zRange) then none else some "R310"

/-- The loader's checks of a DRAW (06 R178, 11 R306, R307, R310, R314; 09 R254). -/
def drawRefuse (s : State) (r : Nat) (w : MacroW) (hoop : Nat) : Option String :=
  let d4 := (descOf s w.d4).getD descZero
  let hd := (descOf s (dField w hoop)).getD descZero
  let bank := bankAt s d4.base
  let dsc := fun i => (descOf s (dField w i)).getD descZero
  let lat := fmtField s w (1 - hoop)
  let int8or16 := fun (f : Fmt) => f = .int8 || f = .int16
  (refuseOps s 0x31 w [1, 3, 4] true).orElse (fun _ => (plainRefuse w).orElse (fun _ =>
    if w.p0 ≥ 128 ∨ bits w.p1 16 3 ≠ 0 ∨ bits w.p1 24 4 > 7 then some "R178"
    else if bits w.p1 0 2 > 1 ∨ bits w.p1 2 2 = 3 ∨ bits w.p1 5 11 ≠ 0 ∨ (bit w.p1 4 ∧ bits w.p1 0 2 = 1) then some "R307"
    else if hd.kind ≠ 4 ∨ d4.kind ≠ 5 ∨ d4.n0 = 0 ∨ d4.n0 > 16 ∨ d4.n1 + d4.n0 > bankLE bank 5 1 then some "R306"
    else if !int8or16 lat ∨ (pres w 2 ∧ !int8or16 (fmtField s w 2)) ∨ fmtField s w 3 ≠ .int8 ∨
        ([2, 3].filter (pres w)).any (fun i => (List.range 3).any (fun k =>
          dimKey s (dsc i) k != dimKey s (dsc (1 - hoop)) k)) then some "R306"
    else if hd.padc / 64 ≠ 0 then some "R254"
    else ([1 - hoop, 2, 3].filter (fun i => i = 0 || pres w i)).findSome? (fun i =>
      let x := constAux s (dsc i)
      auxRefuse s x (fmtField s w i) none (decide (i = 0)) false (auxDims (dsc i) x)) |>.orElse (fun _ =>
    if rd s (Fk.ctxCfgHome (w.p0 % 128)) ≠ r then some "R178"
    else if (placesOf s r (getRegion s r).pc).any (fun p => p.unit ≥ 16 || popCount p.unit 4 != bits w.p1 22 2 + 1 ||
        popCount p.lanes 8 != bits w.p1 24 4 + 1) then some "R314"
    else drawRange s w hoop)))

/-- Words that each symbol of a substream emits, in coding order (14 R384). -/
def encCounts (ni : Nat) (l : List (List (Nat × Nat))) : List Nat :=
  (((List.range l.length).zip l).foldr (fun x (q : (List Nat × List Nat) × List Nat) =>
    let y := encSym ni x.1 x.2 q.1
    (y, (y.2.length - q.1.2.length) :: q.2)) ((List.replicate ni 65536, []), [])).2

/-- A substream's cut of a list. -/
def cutSub {α : Type} (n b : Nat) (l : List α) : List α :=
  (l.drop (subStart n l.length b)).take (subStart n l.length (b + 1) - subStart n l.length b)

/-- What a DRAW ENC makes of problem `p` under the skip marks `sk`, its substreams reading the table stores `st`: the step record, the flags, the row
tallies, and whether an input was poisoned (11 R309, R312, R322). -/
def encRecord (s : State) (ue : List Nat) (sk : List Nat) (st : Nat → Nat) (w : MacroW) (u m k : Opd) (d4 : Desc) (p : Nat) :
    List Byte × Nat × List Nat × Bool :=
  let n := drawLanes w
  let ni := drawNi w
  let els := codingOrder sk w u
  let syms := (List.range n).flatMap (fun b => (cutSub n b els).map (fun x =>
    let c := elemAt s ue u p x.1 x.2.1 x.2.2
    let mu := drawMean s ue w m p x
    let kk := drawK s ue k p x
    let t := storeTable s ue (st b) d4.base (drawFamily d4 x) kk.1
    let bad := c.2 || mu.2 || kk.2.2 || (t.map (fun t => valueBad t (intVal u.f c.1 - mu.1))).getD true || u.x.bad || m.x.bad || k.x.bad
    ((t.map (fun t => symOps t (intVal u.f c.1 - mu.1))).getD [], bad, kk.2.1)))
  let fl := if syms.any (·.2.2) then flScaleRange else 0
  if syms.any (·.2.1) then (stepRecord 0 n ni true (List.replicate n []), fl ||| flEncPoison, [], true)
  else
    let cuts := (List.range n).map (fun b => cutSub n b (syms.map (·.1)))
    let words := cuts.flatMap (encCounts ni)
    let rows := els.map (·.2.1)
    let tally := (List.range u.n1).map (fun y =>
      ((rows.zip words).filter (fun z => z.1 = y)).foldl (fun a z => a + 2 * z.2) 0)
    (stepRecord els.length n ni false (cuts.map (encSub ni)), fl, tally, false)

/-- The slots of a record that starts a hoop slot (11 R315). -/
def recSlots {α : Type} (b : Nat) (l : List α) : List (List α) :=
  (List.range (ceilDiv l.length (max 1 b))).map (fun i => (l.drop (b * i)).take b)

/-- Put the slots of a record from number `i` on; a hoop that is full ends it there. -/
def putRecord (s : State) (r h : Nat) (ue : List Nat) (prog : Nat → List Nat) : Nat → List (List (Byte × Bool)) → State ⊕ State
  | _, [] => .inr s
  | i, l :: ls =>
    let n := posOf s r
    if hoopFull s n h then .inl (hoopWait s r h (rd s (Fk.hoopCfgTakeEnd n h)) (prog i))
    else putRecord (hoopPutSlot s r h ue l ls.isEmpty) r h ue prog (i + 1) ls

/-- Keep what the DRAW of region `r` holds while it waits. -/
def drawKeep (s : State) (r : Nat) (sk : List Nat) (n0 : Nat) (q : Option (List Byte × Nat × List Nat × Bool)) : State :=
  modRegion s r (fun x => { x with draw := some ⟨sk, n0, q⟩ })

/-- The lane area of substream `b` in the Crucible, if the loader placed one (R320; log entry 105). -/
def laneArea (s : State) (r : Nat) (pl : Place) (b : Nat) : Option AreaIn :=
  let u := (drawUnits pl).getD b (0, 0)
  ((s.job.map (·.areas)).getD []).find? (fun x => decide (x.role = 9 ∧ x.ctx = r ∧ x.index = 8 * u.1 + u.2))

/-- The bytes of record `l` that hold the words of substream `b`, as first byte and number, behind its `ni` states (R315). -/
def wordSpan (ni : Nat) (l : List Byte) (b : Nat) : Nat × Nat := (recOff l b + 4 * ni, recLen l b - 4 * ni)

/-- The words of a record go to the lane areas of its substreams, in the order in which a decoder reads them (R320; DESIGN CHOICE, log entry 120). -/
def stageWords (s : State) (ue : List Nat) (ni : Nat) (ar : Nat → Option AreaIn) (l : List Byte) : State :=
  (List.range (le l 8 1)).foldl (fun s b => match ar b with
    | none => s
    | some x => devWrite s ue x.addr (((l.drop (wordSpan ni l b).1).take (wordSpan ni l b).2).take x.bytes) (fun _ => false)) s

/-- The bytes of a record, each poisoned where reading the lane area that staged it is (R320, 03 R84). -/
def stagedBytes (s : State) (ue : List Nat) (ni : Nat) (ar : Nat → Option AreaIn) (l : List Byte) : List (Byte × Bool) :=
  ((List.range l.length).zip l).map (fun y => (y.2, (List.range (le l 8 1)).any (fun b => match ar b with
    | none => false
    | some x =>
      let k := y.1 - (wordSpan ni l b).1
      decide ((wordSpan ni l b).1 ≤ y.1 ∧ k < (wordSpan ni l b).2 ∧ k < x.bytes) && devBad s ue (x.addr + k) 1)))

/-- In a skip row the latent is its mean: the encoder has it there in D1, where its CTX networks read the latents coded (10 R282, R284; DEDUCED, log entry
124). -/
def skipMeans (s : State) (ue : List Nat) (r : Nat) (sk : List Nat) (w : MacroW) (u m : Opd) (p : Nat) : State :=
  storeRuns s r ue u (gatherRuns (((walkAll w u).filter (fun x => skipRow sk w x.2.1)).map (fun x =>
    let c := drawMean s ue w m p x
    ((p, x), Cell.main (code (fmtBits u.f) c.1) (c.2 || m.x.bad)))))

/-- The record of problem `p` of DRAW, staged as `q` where it was formed before, from its slot `i` on; or the hold on a hoop that has no room: a record
is formed once, its words staged in the lane areas `ar`, and then goes to the hoop (R320). A record of which a word is read poisoned holds its picture
back, as one that an input poisons (10 R288; DEDUCED, log entry 120). -/
def encDrawTry (w : MacroW) (e : MemErrs) (r h : Nat) (sk : List Nat) (st : Nat → Nat) (ar : Nat → Option AreaIn) (u m k : Opd) (d4 : Desc) (p i : Nat)
    (q : Option (List Byte × Nat × List Nat × Bool)) (s : State) : State ⊕ State :=
  let fresh := q.isNone
  let q := q.getD (encRecord s e.ue sk st w u m k d4 p)
  let c := bits w.p0 0 7
  let s := if fresh then stageWords (skipMeans s e.ue r sk w u m p) e.ue (drawNi w) ar q.1 else s
  let l := stagedBytes s e.ue (drawNi w) ar q.1
  let q := (q.1, q.2.1, q.2.2.1, q.2.2.2 || l.any (·.2))
  match putRecord s r h e.ue (fun i => [p, i]) i ((recSlots (hoopBytes s (posOf s r) h) l).drop i) with
  | .inl s => .inl (drawKeep s r sk u.n0 (some q))
  | .inr s =>
    let s := setStickies s (some c) q.2.1
    let s := tallyAdd s tDrawSteps (48 * drawLanes w + (codingOrder sk w u).length)
    .inr (encStep s c (drawAudio s w) q.1 q.2.2.1 q.2.2.2)

/-- DRAW ENC from problem `p` on. -/
def encLoop (w : MacroW) (e : MemErrs) (r h : Nat) (sk : List Nat) (st : Nat → Nat) (ar : Nat → Option AreaIn) (u m k : Opd) (d4 : Desc) :
    Nat → Nat → Nat → Option (List Byte × Nat × List Nat × Bool) → State → State
  | 0, _, _, _, s => retire (chargeErrs s e) r
  | j + 1, p, i, q, s =>
    match encDrawTry w e r h sk st ar u m k d4 p i q s with
    | .inl s => chargeErrs s e
    | .inr s => encLoop w e r h sk st ar u m k d4 j (p + 1) 0 none s

/-- Pass of the picture or packet that the stream codes, 0 where it codes none. -/
def encPass (s : State) (c : Nat) (a : Bool) : Nat := ((getS s c a).enc.map (·.pass)).getD 0

/-- The passes that follow code again (14 R384 to R386): regions go back to the first instruction of segment `g` from `i` on, the DRAW of an audio packet, or
what follows step 0's DRAW of a picture, so that its CTX networks and latent DRAWs run again; what stands between runs again with the same results (DESIGN CHOICE,
log entry 120). -/
def encRewind (s : State) (g i : Nat) : State :=
  match s.job with
  | none => s
  | some j => (List.range 8).foldl (fun s r => if (getRegion s r).run = .running then
      modRegion s r (fun x => { x with pc := min x.pc (lowestFrom ((j.places.filter (fun p => p.region = r && p.segment = g)).map (·.instr)) i x.pc) })
    else s) s

/-- Where an overrun picture or packet of context `c` is coded again from: instruction `i`, a DRAW ENC, itself in audio, else what follows the first DRAW ENC of
the context. -/
def rewindTo (s : State) (c : Nat) (a : Bool) (i : Nat) : Nat :=
  if a then i
  else match s.job with
  | none => i
  | some j => (((List.range i).find? (fun k => let v := j.macros.getD k 0; decide (bits v 120 8 = 0x31 ∧ bits v 116 4 = 0 ∧ bits v 0 7 = c))).getD i) + 1

/-- DRAW SUB 0 ENC. -/
def execDrawEnc (r : Nat) (w : MacroW) (e : MemErrs) (s : State) : Ans :=
  macroDo s r (drawRefuse s r w 0) (descsOf s w [1, 3]) none (fun pl s =>
    let np := w.rep + 1
    let mk := fun i => withAuxAxis (opdOf s r e.ue (dField w i) np false true (1, 1, 1)) false false false
    let u := mk 1
    let u := { u with n0 := drawN0 s r w u.n0 }
    let m := mk 2
    let k := mk 3
    let d4 := (descOf s w.d4).getD descZero
    let pg := (getRegion s r).prog
    guardAddr s r (pg.headD 0) np ([u, k] ++ (if pres w 2 then [m] else [])) (fun _ =>
      let t := encLoop w e r (hoopIdx ((descOf s w.d0).getD descZero)) (drawSkip s r w) (drawStore s r pl) (laneArea s r pl) u m k d4 (np - pg.headD 0) (pg.headD 0) (pg.getD 1 0)
        ((getRegion s r).draw.bind (·.staged)) s
      let c := bits w.p0 0 7
      let a := drawAudio s w
      if encPass s c a < encPass t c a then encRewind t pl.segment (rewindTo s c a (getRegion s r).pc) else t))

/-- Slots from HEAD to the first with MARK, if the hoop holds one (R321). -/
def recordSlots (s : State) (r h : Nat) : Option Nat :=
  let n := posOf s r
  ((List.range (hoopCount s n h)).find? (fun i => (slotMark s r h (rd s (Fk.hoopHead n h) + i)).isSome)).map (· + 1)

/-- Byte `k` of the record at HEAD. -/
def recordByte (s : State) (r h : Nat) (ue : List Nat) (k : Nat) : Byte × Bool :=
  let n := posOf s r
  let b := max 1 (hoopBytes s n h)
  devByte s ue (hoopSlotAddr s n h (rd s (Fk.hoopHead n h) + k / b) + k % b)

/-- The record does not match the DRAW (R321): `hd` is its first 192 bytes. -/
def mismatched (hd : List Byte) (n ni total room : Nat) : Bool :=
  let lens := (List.range 32).map (fun b => recLen hd b)
  let sum := ((List.range 32).filter (fun b => b < le hd 8 1)).foldl (fun a b => a + 64 * ceilDiv (lens.getD b 0) 64) 0
  decide (le hd 0 4 ≠ 0x50455453) || decide (le hd 0xA 2 / 2 ≠ 0) || (hd.drop 0x90).any (· ≠ 0) ||
    (List.range 32).any (fun b => decide (b ≥ le hd 8 1) && decide (lens.getD b 0 ≠ 0)) ||
    decide (le hd 8 1 ≠ n) || decide (le hd 9 1 ≠ ni) || decide (le hd 4 4 ≠ total) || decide (le hd 0xC 4 ≠ sum) ||
    decide (192 + le hd 0xC 4 > room)

/-- What a DRAW DEC writes for problem `p` under the skip marks `sk`, its substreams reading the table stores `st`: cells by position, and the flags
(R309, R321 to R325). Bytes beyond the record's slots are not read. DESIGN CHOICE (log entry 120): a header with a poisoned beat is a poisoned one whatever its
other fields hold, and sets no flag; a scale index out of range sets SCALE_RANGE also for elements behind a stop of R323, but not in a record whose header
mismatches or is poisoned. -/
def decCells (s : State) (ue : List Nat) (sk : List Nat) (st : Nat → Nat) (w : MacroW) (r h slots : Nat) (o m k : Opd) (d4 : Desc) (p : Nat) :
    List ((Nat × Nat × Nat × Nat) × Cell) × Nat :=
  let n := drawLanes w
  let ni := drawNi w
  let els := codingOrder sk w o
  let hd := (List.range (min 192 (slots * hoopBytes s (posOf s r) h))).map (recordByte s r h ue)
  let bytes := hd.map (·.1)
  let cl := fun (v : Int) => clamp v o.x.lo o.x.hi
  let cell := fun (x : Nat × Nat × Nat) (v : Int) (bad : Bool) =>
    ((p, x), Cell.main (code (fmtBits o.f) (cl v)) (bad || o.x.bad))
  let mean := fun (x : Nat × Nat × Nat) => drawMean s ue w m p x
  let skips := ((walkAll w o).filter (fun x => skipRow sk w x.2.1)).map (fun x => cell x (mean x).1 (mean x).2)
  let ks := if els.any (fun x => (drawK s ue k p x).2.1) then flScaleRange else 0
  if hd.any (·.2) then (skips ++ els.map (fun x => cell x (mean x).1 true), 0)
  else if mismatched bytes n ni els.length (slots * hoopBytes s (posOf s r) h) then
    (skips ++ els.map (fun x => cell x (mean x).1 (mean x).2), flDrawFormat)
  else
    let subs := (List.range n).map (fun b =>
      let l := cutSub n b els
      let tabs := l.map (fun x =>
        let kk := drawK s ue k p x
        if kk.2.2 || (mean x).2 || m.x.bad || k.x.bad then none else storeTable s ue (st b) d4.base (drawFamily d4 x) kk.1)
      let q := decSub (fun i => recordByte s r h ue (recOff bytes b + i)) (recLen bytes b) ni tabs
      ((l.zip q.1).map (fun y => match y.2 with
        | some v => (cell y.1 (v + (mean y.1).1) false, decide (cl (v + (mean y.1).1) ≠ v + (mean y.1).1))
        | none => (cell y.1 (mean y.1).1 true, false)), q.2))
    (skips ++ subs.flatMap (fun q => q.1.map (·.1)),
      ks ||| (if subs.any (fun q => q.1.any (·.2)) then flLatentRange else 0) ||| (if subs.any (·.2) then flDrawCheck else 0))

/-- One record that DRAW takes from the hoop: the cells it decodes are stored, the stickies set and the step count charged. -/
def decDrawOne (w : MacroW) (e : MemErrs) (r h : Nat) (sk : List Nat) (st : Nat → Nat) (o m k : Opd) (d4 : Desc) (slots p : Nat) (s : State) : State :=
  let c := bits w.p0 0 7
  let a := drawAudio s w
  let q := decCells s e.ue sk st w r h slots o m k d4 p
  let steps := 48 * drawLanes w + (codingOrder sk w o).length
  let s := storeRuns s r e.ue o (gatherRuns q.1)
  let s := tallyAdd (setStickies (hoopPops s r h slots) (some c) q.2) tDrawSteps steps
  let s := if q.2 / flDrawCheck % 2 = 1 then conceal s c a else s
  let badOut := q.1.any (fun x => match x.2 with
    | .main _ b => b
    | _ => false)
  let mark := fun (n : Nat) (f : RefPic) => if (f.num + 1) % 2 ^ 32 = n then { f with bad := true } else f
  if badOut && !a then modS s c a (fun st => { st with refs := st.refs.map (mark st.picNum) }) else s

/-- The next record of DRAW, or the hold on a hoop that has none. -/
def decDrawTry (w : MacroW) (e : MemErrs) (r h : Nat) (sk : List Nat) (st : Nat → Nat) (o m k : Opd) (d4 : Desc) (p : Nat) (s : State) :
    State ⊕ State :=
  match recordSlots s r h with
  | none => .inl (drawKeep (hoopWait s r h (rd s (Fk.hoopCfgPutEnd (posOf s r) h)) [p]) r sk o.n0 none)
  | some slots => .inr (decDrawOne w e r h sk st o m k d4 slots p s)

/-- DRAW DEC to problem `p` on. -/
def decDrawLoop (w : MacroW) (e : MemErrs) (r h : Nat) (sk : List Nat) (st : Nat → Nat) (o m k : Opd) (d4 : Desc) : Nat → Nat → State → State
  | 0, _, s => retire (chargeErrs s e) r
  | j + 1, p, s =>
    match decDrawTry w e r h sk st o m k d4 p s with
    | .inl s => chargeErrs s e
    | .inr s => decDrawLoop w e r h sk st o m k d4 j (p + 1) s

/-- DRAW SUB 1 DEC. -/
def execDrawDec (r : Nat) (w : MacroW) (e : MemErrs) (s : State) : Ans :=
  macroDo s r (drawRefuse s r w 1) (descsOf s w [0, 3]) none (fun pl s =>
    let np := w.rep + 1
    let o := withAuxAxis (withEdge s e.ue (instrOf s r) (opdOf s r e.ue w.d0 np false false (1, 1, 1))) false false false
    let o := { o with n0 := drawN0 s r w o.n0 }
    let mk := fun i => withAuxAxis (opdOf s r e.ue (dField w i) np false true (1, 1, 1)) false false false
    let m := mk 2
    let k := mk 3
    let d4 := (descOf s w.d4).getD descZero
    let p := (getRegion s r).prog.headD 0
    guardAddr s r p np ([o, k] ++ (if pres w 2 then [m] else [])) (fun _ =>
      decDrawLoop w e r (hoopIdx ((descOf s w.d1).getD descZero)) (drawSkip s r w) (drawStore s r pl) o m k d4 (np - p) p s))

/-- The park stores hold `n` entries for lane `lane` beside those of grantees `k` and `l`. -/
def parksHeld (x : Region) (lane k l : Nat) : Nat :=
  (x.parks.filter (fun y => decide (y.1 / 65536 = lane) && decide (y.1 ≠ k) && decide (y.1 ≠ l) && y.2.isSome)).length

/-- The lane's park: the state `c` of grantee `kout` goes to its store, that of grantee `kin` comes back, uncorrectable where `bad` (11 R318). -/
def laneSwap (x : Region) (lane kout kin : Nat) (c : Option Coder) (bad : Bool) : Region :=
  { x with
    parks := mput (fun _ => none) (mput (fun _ => none) x.parks kin none) kout (c.map (fun c => ⟨c, false⟩))
    lanes := mput (fun _ => none) x.lanes lane ((mget (fun _ => none) x.parks kin).map (fun q => { q with bad := q.bad || bad })) }

/-- LANE_PARK: at a slot boundary lane `lane` of region `r` parks the coder state of grantee `gout`, if one of its transfers is in progress, and restores
that of `gin`, if it parked one; the read of the park store may meet an error (11 R301, R318), in a word of it that the spec does not number (free value). Grantees are requester codes of 09 R241, 0 none; the same
grantee on both sides is no boundary. The loader admits 16 transfers in progress on a lane, those parked and the one restored. -/
def execLanePark (r lane gout gin : Nat) (state : ParkIn) (s : State) : Ans :=
  let l := lane % 32
  let key := fun g => l * 65536 + g % 65536
  let x := getRegion s r
  let c := if gout % 65536 = 0 then none else state.coder
  let back := mget (fun _ => none) x.parks (key gin)
  if !running s ∨ key gout = key gin then .next s
  else if parksHeld x l (key gin) (key gout) + b2n c.isSome + b2n back.isSome > 16 then .refused (.loaderRefuses "R318")
  else
    let u := (6, 32 * posOf s r + l)
    let s := modRegion s r (fun x => laneSwap x l (key gout) (key gin) c (decide (state.err = 2)))
    let f := takeFree s 32
    let a := 2 ^ 52 + 8 * f.1
    .next (if back.isNone then s else if state.err = 2 then ueAt f.2 u a else if state.err = 1 then ceAt f.2 u a else s)

/-! PRUNE (08 R235 to R238). -/

/-- round_half_even(2^(16 + f/4096)): the integer nearest the real power, by exact comparison of 4096th powers; the power is never a
tie for f other than 0. -/
def pow2Frac (f : Nat) : Nat :=
  let ok := fun (v : Nat) => decide ((2 * v - 1) ^ 4096 ≤ 2 ^ (17 * 4096 + f))
  (List.range 17).foldl (fun v k => if ok (v + 2 ^ (16 - k)) then v + 2 ^ (16 - k) else v) 65535 |> max 65536

/-- A decoded candidate: box, area, score and index. -/
structure Cand where
  x1 : Int
  y1 : Int
  x2 : Int
  y2 : Int
  score : Nat
  idx : Nat
deriving DecidableEq, Repr

/-- Area of a box. -/
def candArea (c : Cand) : Int := (c.x2 - c.x1) * (c.y2 - c.y1)

/-- Decode candidate `i` from its anchor and deltas (R236). -/
def decodeCand (iw ih : Nat) (anchor : List Nat) (dl : List Int) (score i : Nat) : Cand :=
  let a := fun k => ((anchor.getD k 0 : Nat) : Int)
  let d := fun k => dl.getD k 0
  let size := fun (w q : Int) => rneShift (w * pow2Frac (q % 4096).toNat) (16 - q / 4096).toNat
  let bw := size (a 2) (d 2)
  let bh := size (a 3) (d 3)
  let x0 := a 0 + rneShift (d 0 * a 2) 12 - rneShift bw 1
  let y0 := a 1 + rneShift (d 1 * a 3) 12 - rneShift bh 1
  ⟨clamp x0 0 iw, clamp y0 0 ih, clamp (x0 + bw) 0 iw, clamp (y0 + bh) 0 ih, score, i⟩

/-- Kept box `b` suppresses candidate `c` (R237). -/
def suppresses (t : Nat) (b c : Cand) : Bool :=
  let w := min b.x2 c.x2 - max b.x1 c.x1
  let h := min b.y2 c.y2 - max b.y1 c.y1
  let i := if w > 0 ∧ h > 0 then w * h else 0
  decide (i * 65536 > t * (candArea b + candArea c - i))

/-- Insert a candidate in descending score, equal scores by ascending index. -/
def insertCand (c : Cand) : List Cand → List Cand
  | [] => [c]
  | x :: l => if c.score > x.score then c :: x :: l else x :: insertCand c l

/-- The boxes kept: a walk of the order, at most `n`. -/
def keepBoxes (t n : Nat) (l : List Cand) : List Cand :=
  l.foldl (fun kept c => if kept.length < n ∧ ¬ kept.any (fun b => suppresses t b c) then kept ++ [c] else kept) []

/-- Bytes of D0 (R235, R238). -/
def pruneBytes (maxk passed : Nat) (kept : List Cand) : List Byte :=
  toLE 4 kept.length ++ toLE 4 passed ++ List.replicate 56 0 ++
    kept.flatMap (fun c => toLE 2 c.x1.toNat ++ toLE 2 c.y1.toNat ++ toLE 2 c.x2.toNat ++ toLE 2 c.y2.toNat ++ toLE 2 c.score ++
      toLE 2 c.idx ++ toLE 4 0) ++ List.replicate (16 * (maxk - kept.length)) 0

/-- The loader's checks of a PRUNE (R235); bytes 4 to 63 of anchors that lie in the program's constants must be zero. -/
def pruneRefuse (s : State) (w : MacroW) : Option String :=
  let d := fun i => (descOf s (dField w i)).getD descZero
  (refuseOps s 0x32 w [1, 2, 3] true).orElse (fun _ =>
    if w.cls ∨ w.rnd ≠ 0 then some "R235"
    else if (d 0).kind ≠ 5 ∨ (d 1).kind ≠ 5 ∨ (d 2).kind ≠ 0 ∨ (d 3).kind ≠ 0 ∨ fmtField s w 2 ≠ .int16 ∨ fmtField s w 3 ≠ .int16 then some "R235"
    else if (d 2).n0 ≠ 4 ∨ (d 2).n1 > 65536 ∨ dimKey s (d 2) 1 ≠ dimKey s (d 3) 0 then some "R235"
    else if (declSpan (d 0) ((d 0).n0, (d 0).n1, (d 0).n2) 1).2 < 64 + 16 * (bits w.p1 0 12 + 1) then some "R235"
    else if (List.range (w.rep + 1)).any (fun p => let a := (d 1).base + 64 * p * (d 1).pstride
        inConsts s a 64 && (devBytes s [] (a + 4) 60).any (· ≠ 0)) then some "R235"
    else [2, 3].findSome? (fun i =>
      let x := constAux s (d i)
      auxRefuse s x (fmtField s w i) none false false (auxDims (d i) x)))

/-- The candidates of problem `p`: anchors and deltas decoded, with their scores (R235, R236). -/
def pruneCands (s : State) (ue : List Nat) (d1 : Desc) (dl sc : Opd) (p : Nat) : List Cand :=
  let ab := d1.base + 64 * p * d1.pstride
  (List.range dl.n1).map (fun i => decodeCand (devLE s ue ab 2) (devLE s ue (ab + 2) 2)
    ((List.range 4).map (fun k => devLE s ue (ab + 64 + 8 * i + 2 * k) 2))
    ((List.range 4).map (fun k => intVal .int16 (elemAt s ue dl p k i 0).1)) (elemAt s ue sc p i 0 0).1 i)

/-- The table that PRUNE writes of candidates (R237, R238). -/
def pruneOut (w : MacroW) (cands : List Cand) : List Byte :=
  let maxk := bits w.p1 0 12 + 1
  let passed := cands.filter (fun c => decide (c.score ≥ bits w.p0 0 16))
  pruneBytes maxk passed.length (keepBoxes (bits w.p0 16 16) maxk (passed.foldl (fun l c => insertCand c l) []))

/-- An input of problem `p` is poisoned. -/
def pruneBad (s : State) (ue : List Nat) (d1 : Desc) (dl sc : Opd) (p : Nat) : Bool :=
  devBad s ue (d1.base + 64 * p * d1.pstride) (64 + 8 * dl.n1) || (List.range dl.n1).any (fun i =>
    (elemAt s ue sc p i 0 0).2 || (List.range 4).any (fun k => (elemAt s ue dl p k i 0).2))

/-- PRUNE. -/
def execPrune (r : Nat) (w : MacroW) (e : MemErrs) (s : State) : Ans :=
  let d1 := (descOf s w.d1).getD descZero
  let d0 := (descOf s w.d0).getD descZero
  let maxk := bits w.p1 0 12 + 1
  macroDo s r (pruneRefuse s w) (descsOf s w [2, 3]) none (fun _ s =>
    let np := w.rep + 1
    let dl := withAuxAxis (opdOf s r e.ue w.d2 np false false (1, 1, 1)) false false false
    let sc := withAuxAxis (opdOf s r e.ue w.d3 np false false (1, 1, 1)) false false false
    let one := fun (q : State × Bool) (p : Nat) =>
      if q.2 then q
      else
        let s := q.1
        let ab := d1.base + 64 * p * d1.pstride
        let ob := d0.base + 64 * p * d0.pstride
        let n := dl.n1
        match (tableFault s w.d1 np ab (64 + 8 * n)).orElse (fun _ => tableFault s w.d0 np ob (64 + 16 * maxk)) with
        | some x => (addrFaultAt (chargeErrs s e) r x.1 x.2.1 x.2.2, true)
        | none =>
          let bad := pruneBad s e.ue d1 dl sc p
          let out := pruneOut w (pruneCands s e.ue d1 dl sc p)
          let s := devWrite s e.ue ob out (fun _ => bad)
          (match regionCtx s r with
            | some c => encBoxes s c out bad
            | none => s, false)
    guardAddr s r 0 np [dl, sc] (fun _ =>
      let q := (List.range np).foldl one (s, false)
      if q.2 then q.1 else retire (chargeErrs q.1 e) r))

/-! GMERGE (06 R180, 10 R296). -/

/-- A scale code as GMERGE takes it: an accepted code, or the nearest accepted value. -/
def graftScale (c : Nat) : Nat :=
  let e := bits c 7 8
  if c < 2 ^ 15 ∧ 104 ≤ e ∧ e ≤ 127 then c
  else match fdec .bf16 c with
  | .inf false => 0x3FFF
  | .fin false n sh => if n ≥ 2 * 2 ^ sh then 0x3FFF else 0x3400
  | _ => 0x3400

/-- One merged weight. -/
def mergeWeight (wt p : Int) (cd cu : Nat) : Int :=
  let sig := fun c => ((128 + c % 128 : Nat) : Int)
  clamp (wt + rneShift (p * sig cd * sig cu) (268 - bits cd 7 8 - bits cu 7 8)) (-128) 127

/-- GMERGE: D1 weights, D2 down, D3 up, D4 scales; P0[7:0] the rank. -/
def gmergeCmd (s : State) (w : MacroW) : PointCmd :=
  let d := fun i => (descOf s (dField w i)).getD descZero
  let d4 := d 4
  let rank := bits w.p0 0 8
  { ins := [1, 2, 3], mult := false, twoD := true, tables := fun _ o => [(4, 2 * (o.n1 + o.n0))]
    refuse := if !w.loop ∨ w.cls ∨ w.rnd ≠ 0 ∨ !pres w 4 ∨ d4.kind ≠ 5 ∨ rank = 0 ∨ rank > 64 then some "R180"
      else if fmtField s w 1 ≠ .int8 ∨ fmtField s w 0 ≠ .int8 ∨ fmtField s w 2 ≠ .int4 ∨ fmtField s w 3 ≠ .int4 then some "R294"
      else if (List.range 3).any (fun k => dimKey s (d 1) k != dimKey s (d 0) k) ∨ dimKey s (d 2) 1 ≠ dimKey s (d 0) 1 ∨ dimKey s (d 3) 0 ≠ dimKey s (d 0) 0 ∨
          (d 2).n0 < rank ∨ (d 3).n1 < rank then some "R212"
      else if [0, 1, 2, 3].any (fun i => (constAux s ((descOf s (dField w i)).getD descZero)).caxis) then some "R553"
      else none
    reads := fun _ _ k i0 i1 i2 => match k with
      | 0 => [(0, i0, i1, i2)]
      | 1 => (List.range rank).map (fun j => (0, j, i1, 0))
      | _ => (List.range rank).map (fun j => (0, i0, j, 0))
    f := fun s ue ins o p i0 i1 i2 =>
      let a := ins.headD o
      let dn := ins.getD 1 o
      let up := ins.getD 2 o
      let wt := elemAt s ue a p i0 i1 i2
      let t := (List.range rank).map (fun j => (elemAt s ue dn p j i1 0, elemAt s ue up p i0 j 0))
      let sum := t.foldl (fun (x : Int) y => x + intVal .int4 y.1.1 * intVal .int4 y.2.1) 0
      let at_ := d4.base + 64 * p * d4.pstride
      let cd := at_ + 2 * i1
      let cu := at_ + 2 * (o.n1 + i0)
      let bad := wt.2 || t.any (fun y => y.1.2 || y.2.2) || devBad s ue cd 2 || devBad s ue cu 2 || o.x.bad
      some (pure (.main (code 8 (mergeWeight (intVal .int8 wt.1) sum (graftScale (devLE s ue cd 2)) (graftScale (devLE s ue cu 2)))) bad))
    steps := fun _ o a => (w.rep + 1) * ceilDiv o.n1 128 * ceilDiv o.n0 128 * ceilDiv rank 2 +
      ceilDiv ((w.rep + 1) * o.n1 * o.n0) (64 * a) * a }
def execGmerge (r : Nat) (w : MacroW) (e : MemErrs) (s : State) : Ans := pointDo s r 0x33 w e (gmergeCmd s w)

/-- GRAFT_MERGE: the merge of the Graft unit that context `c` has received, or has coded, completes into PENDING (R297). -/
def execGraftMerge (c : Nat) (s : State) : Ans :=
  .next (modS s c false (fun x => { x with pendingG := x.pendingG.map (fun g =>
    if rd s (Fk.ctxCfgDir c) = 1 ∨ g.sent then { g with merged := true } else g) }))

end Sys2Proof.Machine
end

