-- ==== Sys2Proof/Machine/Units.lean ====
section
/-! DEFINITION. What a decoder does with each unit of an Ingot stream (13 R345 to R369; 10 R286, R297, R298; 14 R388, R391, R393). -/

namespace Sys2Proof.Machine

/-- The stream takes units: its context decodes, and the job that codes it runs. -/
def decodes (s : State) (c : Nat) : Bool := running s && decide (rd s (Fk.ctxCfgMode c) ≠ 0) && decide (rd s (Fk.ctxCfgDir c) = 1)

/-- A decoder's answer to a unit: nothing where its context does not decode. -/
def unitDo (s : State) (c : Nat) (f : State → State) : Ans := .next (if decodes s c then f s else s)

/-- The stream is inside discarded bytes, or no header has been met (R368). -/
def discarding (st : Stream) : Bool := st.resync || (st.header.isNone && !st.otherMajor)

/-- A flag of the context. -/
def flag (s : State) (c f : Nat) : State := setStickies s (some c) f

/-- MINOR of the header in force. -/
def minorOf (st : Stream) : Nat := be (st.header.getD []) 1 1

/-- A body of `n` bytes may have length `len`: exactly, or longer under a later MINOR (R365). -/
def lenOk (minor n len : Nat) : Bool := if minor = 0 then decide (len = n) else decide (n ≤ len)

/-! Outputs. -/

/-- What a slot without a decoded ingot gives: 1 the last picture, 2 black, 3 silence (R362). -/
def fillKind (st : Stream) (a : Bool) : Nat := if a then 3 else if st.shown then 1 else 2

/-- The samples of black and of silence, as runs of a number of samples and their value: luma and then both chroma planes of a picture, 0 or 64 by FULL_RANGE
and 512, or 960 samples of every channel (R362). -/
def fillSamples (st : Stream) (a : Bool) : List (Nat × Nat) :=
  let h := st.header.getD []
  if a then [(960 * be h 8 1, 0)]
  else if st.shown then []
  else [(hdrW h * hdrH h, if be h 23 1 = 1 then 0 else 64), (hdrW h * hdrH h / 2, 512)]

/-- Output of slot `slot` without a decoded ingot. -/
def fillSlot (s : State) (c : Nat) (a : Bool) (slot : Nat) (concealed : Bool) : State :=
  let st := getS s c a
  let s := if fillSamples st a = [] then s else emit s (.samples c a slot (fillSamples st a))
  emit s (.unit c a slot (fillKind st a) concealed)

/-- Output of slot `slot` of a lost ingot (R367), counted under R391. -/
def lostSlot (s : State) (c : Nat) (a : Bool) (slot : Nat) : State :=
  fillSlot (conceal (modS s c a (fun x => { x with concealed := false })) c a) c a slot true

/-- An ingot whose slot cannot be read is lost, and counts (R366, R367). -/
def lostBlind (s : State) (c : Nat) (a : Bool) : State :=
  conceal (modS s c a (fun x => { x with lostUnread := x.lostUnread + 1, prevAudio := none, fresh := false, concealed := false })) c a

/-- Slot `slot` is read: the slots since the last one are output where ingots were lost unread, which counted then, and it becomes the last slot. -/
def slotRead (s : State) (c : Nat) (a : Bool) (slot : Nat) : State :=
  let st := getS s c a
  let from_ := match st.lastSlot with
    | some l => l + 1
    | none => slot
  let s := if st.lostUnread = 0 then s else (List.range (slot - from_)).foldl (fun s i => fillSlot s c a (from_ + i) true) s
  modS s c a (fun x => { x with lastSlot := some slot, lostUnread := 0, concealed := false })

/-- An ingot of a read slot is lost. -/
def lostAt (s : State) (c : Nat) (a : Bool) (slot : Nat) : State :=
  modS (lostSlot (slotRead s c a slot) c a slot) c a (fun x => { x with
    prevAudio := none, fresh := false, refresh := none, join := false, graftJoin := false, refreshJoin := false })

/-! STREAM_HEADER and MODEL. -/

/-- The Accepted conditions of R349; MAJOR is checked apart. The picture sizes of 10 R276 bound the streams of every video package (DESIGN CHOICE, log entry
120). -/
def headerOk (p : Option Pkg) (a : Bool) (l : List Byte) : Bool :=
  let common := lenOk (be l 1 1) (if a then 10 else 24) l.length && decide (be l 2 1 = b2n a) && decide (be l 3 1 = 0) &&
    (p.all (fun p => p.audio = a))
  if a then common && decide (1 ≤ be l 8 1) && decide (be l 8 1 ≤ 16) && decide (be l 9 1 = 0)
  else
    let w := be l 8 2
    let h := be l 10 2
    common && decide (w % 2 = 0) && decide (h % 2 = 0) && decide (64 ≤ w) && decide (w ≤ 8192) && decide (64 ≤ h) &&
      decide (h ≤ 4352) && decide (be l 12 4 ≥ 1) && decide (be l 16 4 ≥ 1) && decide (be l 12 4 ≤ 120 * be l 16 4) && decide (be l 23 1 ≤ 1)

/-- A new stream starts (R348): references, Graft sets, the audio predecessor and the counts are released, the coding state is cleared (11
R308) and the context's input chain starts again (16 R441). -/
def newStream (s : State) (c : Nat) (a : Bool) : State :=
  let s := modCtx s c (fun x => { x with chain := List.replicate 32 0 })
  modS s c a (fun x => { x with
    refs := [], current := none, pendingG := none, used := none, prevAudio := none, prior := none, ns := none, lastSlot := none, lostUnread := 0, picNum := 0, pktNum := 0
    coding := false, qpRow := [], skip := [], off := [], fresh := true, refresh := none, joined := false })

/-- STREAM_HEADER (R348, R349, R366). -/
def execStreamHeader (c : Nat) (a : Bool) (body : List Byte) (s : State) : Ans :=
  unitDo s c (fun s =>
    let st := getS s c a
    if st.resync && !(decide (body.length = if a then 10 else 24) && decide (be body 0 1 = 1)) then s
    else if be body 0 1 ≠ 1 then
      flag (modS s c a (fun x => { x with otherMajor := true, joined := false })) c flStreamVersion
    else if !headerOk st.pkg a body then
      flag (modS s c a (fun x => { x with joined := false, resync := false, join := false, graftJoin := false, refreshJoin := false })) c flStreamSyntax
    else
      let back := st.resync || st.otherMajor
      let s := if st.header = some body then s
        else modS (newStream s c a) c a (fun x => { x with header := some body, model := none, modelOk := false })
      modS s c a (fun x => { x with
        resync := false, otherMajor := false, joined := x.joined && !back, join := false, graftJoin := true, refreshJoin := false }))

/-- The package is the one a MODEL names (R351); the part implements ASSAY_VER 2 and its own TABLE_VER. -/
def modelMatches (s : State) (p : Option Pkg) (l : List Byte) : Bool :=
  match p with
  | none => false
  | some p => decide (be l 0 4 = p.modelId) && decide (be l 4 1 = rd s Fk.auditProfileAssayVer) &&
      decide (be l 5 1 = rd s Fk.auditProfileTableVer) && decide ((l.drop 8).take 32 = p.mh) && decide ((l.drop 40).take 32 = p.bankDigest)

/-- MODEL (R350, R351). -/
def execModelUnit (c : Nat) (a : Bool) (body : List Byte) (s : State) : Ans :=
  unitDo s c (fun s =>
    let st := getS s c a
    if discarding st || st.otherMajor then s
    else if !lenOk (minorOf st) 72 body.length || decide (be body 6 2 ≠ 0) then
      flag (modS s c a (fun x => { x with joined := false, join := false, graftJoin := false, refreshJoin := false })) c flStreamSyntax
    else
      let after := !st.join && st.graftJoin
      let s := if st.model = some body then s
        else
          let s := if st.model.isSome then newStream s c a else s
          modS s c a (fun x => { x with model := some body, modelOk := modelMatches s st.pkg body })
      let s := modS s c a (fun x => { x with join := after, graftJoin := false, refreshJoin := false })
      if (getS s c a).modelOk then s else flag s c flStreamModel)

/-! GRAFT (R352, R353; 10 R294, R296 to R298). -/

/-- The layer records of a GRAFT body from offset `o`: (layer, rank, K, N, scale codes), none where one breaks R352. -/
def graftLayers (l : List Byte) : Nat → Nat → Option (List (Nat × Nat × Nat × Nat × List Nat) × Nat)
  | 0, o => some ([], o)
  | n + 1, o =>
    let rank := be l (o + 4) 1
    let k := be l (o + 8) 4
    let m := be l (o + 12) 4
    let size := 16 + 2 * k + 2 * m + ceilDiv (k * rank) 2 + ceilDiv (rank * m) 2
    let endD := o + 16 + 2 * k + 2 * m + ceilDiv (k * rank) 2
    if o + size > l.length ∨ rank = 0 ∨ rank > 64 ∨ be l (o + 5) 3 ≠ 0 ∨ (k * rank % 2 = 1 ∧ be l (endD - 1) 1 % 16 ≠ 0) ∨
        (rank * m % 2 = 1 ∧ be l (o + size - 1) 1 % 16 ≠ 0) then none
    else (graftLayers l n (o + size)).map (fun r =>
      ((be l o 4, rank, k, m, (List.range (k + m)).map (fun i => be l (o + 16 + 2 * i) 2)) :: r.1, r.2))

/-- The unit keeps R352. -/
def graftForm (p : Option Pkg) (minor : Nat) (l : List Byte) : Bool :=
  decide (8 ≤ l.length) && decide (be l 0 4 ≥ 1) && decide (1 ≤ be l 4 1) && decide (be l 4 1 ≤ 16) && decide (be l 5 3 = 0) &&
    match graftLayers l (be l 4 1) 8 with
    | none => false
    | some r => lenOk minor r.2 l.length && r.1.all (fun x => ((p.map (·.layers)).getD []).contains (x.1, x.2.2.1, x.2.2.2.1))

/-- The unit is accepted: R352 and the other cases of R298 that its body and package show. -/
def graftOk (p : Option Pkg) (minor : Nat) (l : List Byte) : Bool :=
  (p.map (·.graftOk)).getD false && graftForm p minor l &&
    match graftLayers l (be l 4 1) 8 with
    | none => false
    | some r => r.1.all (fun x => x.2.2.2.2.all (fun k => graftScale k = k))

/-- The layer records of a GRAFT body from offset `o`: (layer, rank, K, N, offset). -/
def graftRecords (l : List Byte) : Nat → Nat → List (Nat × Nat × Nat × Nat × Nat)
  | 0, _ => []
  | n + 1, o =>
    let rank := be l (o + 4) 1
    let k := be l (o + 8) 4
    let m := be l (o + 12) 4
    (be l o 4, rank, k, m, o) :: graftRecords l n (o + 16 + 2 * k + 2 * m + ceilDiv (k * rank) 2 + ceilDiv (rank * m) 2)

/-- Codes `i` to `i + n - 1` of the factor at offset `o` of a GRAFT body, of which each byte has the earlier code high (R352), in the packing of memory, the
even one low and the padding 0 (04 R98). -/
def repack (l : List Byte) (o i n : Nat) : List Byte :=
  let code := fun j => if j < n then bits (be l (o + (i + j) / 2) 1) (4 - 4 * ((i + j) % 2)) 4 else 0
  (List.range (ceilDiv n 2)).map (fun j => BitVec.ofNat 8 (code (2 * j) + 16 * code (2 * j + 1)))

/-- `rows` lines of a factor, of `n` codes each, at the areas of `role` that stand for `layer`. -/
def putFactor (s : State) (c role layer : Nat) (body : List Byte) (o rows n : Nat) : State :=
  match areaOf s c false role layer with
  | none => s
  | some x => (List.range rows).foldl (fun s y => devPut s (x.addr + y * x.pitch) (repack body o (n * y) n)) s

/-- An accepted unit moves into memory form where the loader placed its layers: D, U, and the table of scales, each code least significant byte first
(R352, 06 R180; log entry 105). -/
def placeGraft (s : State) (c : Nat) (body : List Byte) : State :=
  (graftRecords body (be body 4 1) 8).foldl (fun s x =>
    let d := x.2.2.2.2 + 16 + 2 * x.2.2.1 + 2 * x.2.2.2.1
    let s := putFactor s c 6 x.1 body d x.2.2.1 x.2.1
    let s := putFactor s c 7 x.1 body (d + ceilDiv (x.2.2.1 * x.2.1) 2) x.2.1 x.2.2.2.1
    match areaOf s c false 8 x.1 with
    | none => s
    | some y => devPut s y.addr ((List.range (x.2.2.1 + x.2.2.2.1)).flatMap (fun i => toLE 2 (be body (x.2.2.2.2 + 16 + 2 * i) 2)))) s

/-- What a GRAFT unit leads to (R353): a repeat of a set held that keeps R352 changes nothing; any other unit is refused or replaces PENDING. -/
def graftTake (s : State) (c minor : Nat) (body : List Byte) (bad : Bool) : State :=
  let st := getS s c false
  let id := be body 0 4
  let held := decide (st.current.map (·.num) = some id) || decide (st.pendingG.map (·.num) = some id)
  if held && graftForm st.pkg minor body then s
  else if bad || !graftOk st.pkg minor body then flag s c flGraftRefused
  else placeGraft (modS s c false (fun x => { x with pendingG := some ⟨id, body, false, false, false⟩ })) c body

/-- GRAFT: in a context that encodes, the unit of a finished preparation is given to the encoder; in one that decodes it is received, and that of
CURRENT after MODEL is a step of a join point (R347). -/
def execGraftUnit (c : Nat) (body : List Byte) (bad : Bool) (s : State) : Ans :=
  .next (
    let st := getS s c false
    if !running s || decide (rd s (Fk.ctxCfgMode c) = 0) then s
    else if rd s (Fk.ctxCfgDir c) = 0 then graftTake s c 0 body bad
    else if discarding st || st.otherMajor then s
    else
      let names := decide (st.current.map (·.num) = some (be body 0 4)) && graftForm st.pkg (minorOf st) body
      modS (graftTake s c (minorOf st) body bad) c false (fun x => { x with graftJoin := if x.join then x.graftJoin || names else false }))

/-! REFRESH, holds and the other units. -/

/-- The units so far make a join point up to REFRESH (R347): header, MODEL and, where CURRENT is not the base set, its GRAFT. -/
def joinRun (st : Stream) : Bool := st.join && (st.current.isNone || st.graftJoin)

/-- REFRESH (R354): kept until the next ingot that codes a picture or packet; out of its place it ends a run toward a join point (R347). -/
def execRefreshUnit (c : Nat) (a : Bool) (body : List Byte) (s : State) : Ans :=
  unitDo s c (fun s =>
    let st := getS s c a
    if discarding st || st.otherMajor then s
    else if !lenOk (minorOf st) 8 body.length || decide (be body 6 2 ≠ 0) || decide (be body 4 2 = 0) || (a && decide (be body 4 2 ≠ 1)) then
      flag s c flStreamSyntax
    else modS s c a (fun x => { x with
      refresh := some (be body 0 4, be body 4 2), join := joinRun x, graftJoin := joinRun x && x.graftJoin, refreshJoin := joinRun x }))

/-- HOLD (R361, R362): the smallest slot above the last whose low bits match; a hold is output without concealment, a lost one with it, and its REASON is
reported. A join point
that ends in a hold stands only while its REFRESH does not conflict with the next ingot that codes (R354). -/
def execHoldIngot (c : Nat) (a : Bool) (body : List Byte) (s : State) : Ans :=
  unitDo s c (fun s =>
    let st := getS s c a
    if st.resync then lostBlind s c a
    else if st.otherMajor then lostBlind s c a
    else if st.header.isNone then s
    else if body.length ≠ 3 then flag (lostBlind s c a) c flStreamSyntax
    else
      let lo := be body 0 2
      let slot := match st.lastSlot with
        | none => lo
        | some l => l + 1 + (lo + 65536 - (l + 1) % 65536) % 65536
      let joins := joinRun st && st.refreshJoin
      let joined := st.joined || joins
      let s := emit (slotRead s c a slot) (.holdReason c a slot (if 3 ≤ be body 2 1 then 0 else be body 2 1))
      let ok := joined && st.modelOk
      let s := if ok then fillSlot s c a slot false else lostSlot s c a slot
      modS s c a (fun x => { x with
        joined := joined, holdJoin := x.holdJoin || (joins && !st.joined), join := false, graftJoin := false, refreshJoin := false }))

/-- END (R363): the decoder holds no stream. -/
def execEndUnit (c : Nat) (a : Bool) (body : List Byte) (s : State) : Ans :=
  unitDo s c (fun s =>
    let st := getS s c a
    if discarding st || st.otherMajor then s
    else if !lenOk (minorOf st) 4 body.length then flag s c flStreamSyntax
    else modS s c a (fun x => { x with header := none, model := none, modelOk := false, joined := false, join := false, graftJoin := false, refreshJoin := false }))

/-- EXTENSION_UNIT: skipped whole (R365). -/
def execExtensionUnit (c : Nat) (a : Bool) (s : State) : Ans := unitDo s c (fun s => modS s c a id)

/-- UNASSIGNED_UNIT: skipped; ingots are lost until the next join point (R368). -/
def execUnassignedUnit (c : Nat) (a : Bool) (s : State) : Ans :=
  unitDo s c (fun s =>
    if discarding (getS s c a) || (getS s c a).otherMajor then s
    else flag (modS s c a (fun x => { x with joined := false, join := false, graftJoin := false, refreshJoin := false })) c flStreamSyntax)

/-- UNIT_SYNC_LOSS: bytes are discarded to the next STREAM_HEADER, or in transport-stream carriage (`ts`) to the next PES packet that starts
an access unit (R368, R369). -/
def execUnitSyncLoss (c : Nat) (a ts : Bool) (s : State) : Ans :=
  unitDo s c (fun s =>
    flag (modS s c a (fun x => { x with
      lostUnread := max 1 x.lostUnread, prevAudio := none, fresh := false, resync := !ts, joined := x.joined && ts, join := false, graftJoin := false, refreshJoin := false, refresh := none })) c flStreamSyntax)

/-! Ingots (R355 to R360). -/

/-- The step index at offset `o`: (NSUB, NI, LENs) of each step and the offset after it. -/
def stepIndex (l : List Byte) : Nat → Nat → Option (List (Nat × Nat × List Nat) × Nat)
  | 0, o => some ([], o)
  | n + 1, o =>
    let ns := be l o 1
    let ni := be l (o + 1) 1
    if o + 2 + 4 * ns > l.length ∨ ns = 0 ∨ ns > 32 ∨ ni = 0 ∨ ni > 8 then none
    else (stepIndex l n (o + 2 + 4 * ns)).map (fun r =>
      ((ns, ni, (List.range ns).map (fun b => be l (o + 2 + 4 * b) 4)) :: r.1, r.2))

/-- An ingot as read: its steps with each substream's offset and length, and whether its lengths sum to LEN. -/
def ingotSteps (minor : Nat) (hm : Bool) (l : List Byte) (n o : Nat) : Option (List (Nat × Nat × List (Nat × Nat))) :=
  match stepIndex l n o with
  | none => none
  | some (ix, d) =>
    let total := ix.foldl (fun t x => t + x.2.2.foldl (· + ·) 0) 0
    if !lenOk minor (d + total + 32 * b2n hm) l.length then none
    else some (ix.foldl (fun (q : List (Nat × Nat × List (Nat × Nat)) × Nat) x =>
      let subs := x.2.2.foldl (fun (y : List (Nat × Nat) × Nat) n => (y.1 ++ [(y.2, n)], y.2 + n)) ([], q.2)
      (q.1 ++ [(x.1, x.2.1, subs.1)], subs.2)) ([], d)).1

/-- The Hallmark of an ingot with steps `x`, which follows its last substream where HM is set (R364). -/
def ingotMark (hm : Bool) (l : List Byte) (x : List (Nat × Nat × List (Nat × Nat))) : Option (List Byte) :=
  if hm then some ((l.drop (x.foldl (fun m y => y.2.2.foldl (fun m z => max m (z.1 + z.2)) m) 0)).take 32) else none

/-- The runs of an offset map (R356): the map, none where a run breaks it. -/
def readRuns (l : List Byte) (total n o : Nat) : Option (List Int) :=
  let rs := (List.range n).map (fun i => (be l (o + 3 * i) 2, sext 8 (be l (o + 3 * i + 2) 1)))
  if rs.any (fun r => decide (r.1 = 0) || decide (r.2 < -63) || decide (63 < r.2)) then none
  else if n = 0 then some (List.replicate total 0)
  else if rs.foldl (fun a r => a + r.1) 0 ≠ total then none
  else some (rs.flatMap (fun r => List.replicate r.1 r.2))

/-- What a VIDEO body says. -/
structure VideoIn where
  num : Nat
  graft : Nat
  lt : Bool
  cyc : Bool
  clean : Nat
  refs : List Nat
  qp : List Nat
  skip : List Nat
  off : List Int
  hm : Option (List Byte)
  steps : List (Nat × Nat × List (Nat × Nat))
deriving DecidableEq, Repr

/-- A VIDEO body that meets its Accepted column. -/
def readVideo (p : Pkg) (h l : List Byte) : Option VideoIn :=
  let hl := latH p h
  let wl := latW p h
  let fl := be l 12 1
  let rc := be l 13 1
  let clean := be l 14 2
  let num := be l 4 4
  let o := 16 + 4 * rc
  let refs := (List.range rc).map (fun i => be l (16 + 4 * i) 4)
  let rows := (List.range hl).map (fun y => be l (o + y) 1)
  let runs := be l (o + hl) 4
  let q := o + hl + 4 + 3 * runs
  if l.length < 16 ∨ fl ≥ 8 ∨ rc > p.refs ∨ l.length < o + hl + 4 ∨ runs > wl * hl ∨ l.length < q + 1 then none
  else if bit fl 2 && !(decide (1 ≤ clean) && decide (clean ≤ hl) && (decide (clean % max 1 p.hyperDown = 0) || decide (clean = hl))) then none
  else if !bit fl 2 && decide (clean ≠ 0) then none
  else if refs.any (fun r => let d := numDist num r; decide (d = 0) || decide (d ≥ 2 ^ 31)) then none
  else if rows.any (fun b => bit b 6) || decide (be l q 1 ≠ stepCount p) then none
  else match readRuns l (wl * hl) runs (o + hl + 4), ingotSteps (be h 1 1) (bit fl 0) l (stepCount p) (q + 1) with
    | some off, some steps => some
        { num := num, graft := be l 8 4, lt := bit fl 1, cyc := bit fl 2, clean := clean, refs := refs
          qp := rows.map (· % 64), skip := rows.map (· / 128), off := off
          hm := ingotMark (bit fl 0) l steps, steps := steps }
    | _, _ => none

/-- Symbols of step `k` of a video picture with skip rows `skip` (R359; 10 R277; 11 R307, R308). -/
def videoSymbols (p : Pkg) (h : List Byte) (skip : List Nat) (k : Nat) : Nat :=
  let wl := latW p h
  let hl := latH p h
  if k = 0 then ceilDiv wl (max 1 p.hyperDown) * ceilDiv hl (max 1 p.hyperDown) * p.hyperC
  else
    let g := if p.checker then (k - 1) / 2 else k - 1
    let pass := (k - 1) % 2
    let pos := (List.range hl).foldl (fun a y =>
      if skip.getD y 0 = 1 then a
      else a + (if p.checker then (if (y + pass) % 2 = 0 then ceilDiv wl 2 else wl / 2) else wl)) 0
    pos * p.groupC.getD g 0

/-- The step record of a step of an ingot body, each byte with its poison. -/
def recordOf (l : List Byte) (poison : List Nat) (symbols : Nat) (x : Nat × Nat × List (Nat × Nat)) : List (Byte × Bool) :=
  let bad := fun (i : Nat) => poison.contains (i / 32)
  let subs := x.2.2.map (fun y => (l.drop y.1).take y.2)
  let r := stepRecord symbols x.1 x.2.1 false subs
  let marks := x.2.2.flatMap (fun y => (List.range y.2).map (fun i => bad (y.1 + i)) ++
    List.replicate (64 * ceilDiv y.2 64 - y.2) false)
  r.zip (List.replicate 192 false ++ marks)

/-- A picture or packet is delivered (19 R505), with the Hallmark that its ingot carries (R364). -/
def delivered (s : State) (c : Nat) (a : Bool) (slot : Nat) (hm : Option (List Byte)) : State :=
  let s := wr s (Fk.ctxStatResults c) ((rd s (Fk.ctxStatResults c) + 1) % 2 ^ 32)
  let s := (hm.toList).foldl (fun s d => emit s (.hallmark c a slot d)) s
  modS (emit s (.unit c a slot 0 (getS s c a).concealed)) c a (fun x => { x with shown := true, mark := hm })

/-- A REFRESH that the ingot numbered `num` meets: 1 it names the ingot, 2 it conflicts (R354). -/
def refreshOf (st : Stream) (num : Nat) : Nat :=
  match st.refresh with
  | none => 0
  | some r => if r.1 = num then 1 else 2

/-- The stream stands joined for an ingot numbered `num` whose run of units makes a join point where `joins`: a join point that ended in a hold does not
stand where the ingot conflicts with its REFRESH (R347, R354). -/
def standsJoined (st : Stream) (num : Nat) (joins : Bool) : Bool :=
  (st.joined && !(st.holdJoin && decide (refreshOf st num = 2))) || joins

/-- The picture uses weight set `g`, of the areas of `role`. -/
def useSet (s : State) (c : Nat) (g : Option GraftSet) (role : Nat) : State :=
  copyWeights (modS s c false (fun x => { x with used := g })) c role 10

/-- The weight set that a picture names (10 R297), in use, and whether the picture is concealed for it. -/
def graftUse (s : State) (c id : Nat) : State × Bool :=
  let st := getS s c false
  if id = 0 then (useSet s c none 11, false)
  else if st.current.map (·.num) = some id then (useSet s c st.current 12, false)
  else match st.pendingG with
  | some g =>
    if g.num = id ∧ g.merged then
      (useSet (copyWeights (modS s c false (fun x => { x with current := some { g with named := true }, pendingG := none })) c 13 12) c (some g) 12, false)
    else (useSet s c none 11, true)
  | none => (useSet s c none 11, true)

/-- The gate of an ingot (R368): what stands before its fields are read. -/
def ingotDo (s : State) (c : Nat) (a : Bool) (body : List Byte) (f : Nat → State → State) : Ans :=
  unitDo s c (fun s =>
    let st := getS s c a
    if st.resync || st.otherMajor then lostBlind s c a
    else if st.header.isNone then s
    else if body.length < 4 then flag (lostBlind s c a) c flStreamSyntax
    else
      let slot := be body 0 4
      if st.lastSlot.any (fun l => decide (slot ≤ l)) then flag s c flStreamOrder else f slot s)

/-- A REFRESH that conflicts with the ingot numbered `num` is flagged (R354). -/
def flagRefresh (s : State) (c : Nat) (a : Bool) (num : Nat) : State :=
  if refreshOf (getS s c a) num = 2 then flag s c flStreamSyntax else s

/-- The ingot numbered `num` of slot `slot` is lost for want of a join point or of its model. -/
def lostUnjoined (s : State) (c : Nat) (a : Bool) (slot num : Nat) (joins : Bool) : State :=
  let stands := standsJoined (getS s c a) num joins
  modS (lostAt (flagRefresh s c a num) c a slot) c a (fun x => { x with joined := stands && x.joined })

/-- What a decoded picture `v` makes of its context: the references that its number clears and stores, the Graft set, the coding state, the inputs of its
networks, and whether it is concealed (R354 to R357; 10 R285 to R287, R297; 14 R388, R391, R393). -/
def videoTake (s : State) (c : Nat) (p : Pkg) (hd : List Byte) (slot : Nat) (v : VideoIn) : State :=
  let st := getS s c false
  let named := decide (refreshOf st v.num = 1)
  let g := graftUse (settleRefs (slotRead (flagRefresh s c false v.num) c false slot) c) c v.graft
  let missing := v.refs.any (fun n => (heldRef g.1 c n).isNone)
  let buf := freeBuf s c st.refs
  let s := modS (supplyRefs g.1 c p v.refs named v.clean) c false (fun x => { x with
    joined := true, holdJoin := false, join := false, graftJoin := false, refreshJoin := false, refresh := none, coding := true, qpRow := v.qp
    skip := v.skip, off := v.off, picNum := (v.num + 1) % 2 ^ 32, fresh := false
    refs := storeRef (if named then clearBounds x else x).refs ⟨v.num, v.lt, if v.cyc then v.clean else latH p hd, false, true, slot, buf, false⟩ })
  writeQp (if missing || g.2 then conceal s c false else s) c

/-- VIDEO: `h` is the hoop of the home region that takes the step records; `poison` lists the 32-byte groups of the body that arrived
poisoned. -/
def execVideoIngot (c h : Nat) (body : List Byte) (poison : List Nat) (s : State) : Ans :=
  ingotDo s c false body (fun slot s =>
    let st := getS s c false
    match st.pkg, st.header with
    | some p, some hd =>
      match readVideo p hd body with
      | none => flag (lostAt s c false slot) c flStreamSyntax
      | some v =>
        let joins := joinRun st && (if st.refreshJoin then decide (refreshOf st v.num = 1) else decide (v.refs = []))
        if !standsJoined st v.num joins || !st.modelOk then lostUnjoined s c false slot v.num joins
        else
          let recs := ((List.range v.steps.length).zip v.steps).map (fun x => recordOf body poison (videoSymbols p hd v.skip x.1) x.2)
          let r := rd s (Fk.ctxCfgHome c)
          if !slotsFit s r h recs then s
          else delivered (putRecords (videoTake s c p hd slot v) r h recs) c false slot v.hm
    | _, _ => lostAt s c false slot)

/-- What a decoded packet numbered `num`, of `ns` stages, makes of its context (R360, R354; 10 R292, R293; 14 R391). -/
def audioTake (s : State) (c : Nat) (p : Pkg) (slot num ns : Nat) : State :=
  let st := getS s c true
  let named := decide (refreshOf st num = 1)
  let gone := !st.fresh && !named && decide (st.prevAudio.map (fun n => (n + 1) % 2 ^ 32) ≠ some num)
  let s := modS (slotRead (flagRefresh s c true num) c true slot) c true (fun x => if gone then { x with prevAudio := none } else x)
  let s := modS (supplyPrior s c p named) c true (fun x => { x with
    joined := true, holdJoin := false, join := false, graftJoin := false, refreshJoin := false, refresh := none, ns := some ns
    pktNum := (num + 1) % 2 ^ 32, prevAudio := some num, fresh := false })
  if gone then conceal s c true else s

/-- AUDIO. -/
def execAudioIngot (c h : Nat) (body : List Byte) (poison : List Nat) (s : State) : Ans :=
  ingotDo s c true body (fun slot s =>
    let st := getS s c true
    match st.pkg, st.header with
    | some p, some hd =>
      let num := be body 4 4
      let ns := be body 9 1
      match (if be body 8 1 ≥ 2 ∨ ns = 0 ∨ ns > p.groups ∨ be body 10 1 ≠ 1 ∨ body.length < 11 then none
        else ingotSteps (be hd 1 1) (bit (be body 8 1) 0) body 1 11) with
      | none => flag (lostAt s c true slot) c flStreamSyntax
      | some steps =>
        let joins := joinRun st && st.refreshJoin && decide (refreshOf st num = 1)
        if !standsJoined st num joins || !st.modelOk then lostUnjoined s c true slot num joins
        else
          let recs := steps.map (recordOf body poison (be hd 8 1 * (960 / max 1 p.stride) * ns))
          let r := rd s (Fk.ctxCfgHome c)
          if !slotsFit s r h recs then s
          else delivered (putRecords (audioTake s c p slot num ns) r h recs) c true slot (ingotMark (bit (be body 8 1) 0) body steps)
    | _, _ => lostAt s c true slot)

end Sys2Proof.Machine
end

