-- ==== Sys2Proof/Machine/Media.lean ====
section
/-! DEFINITION. Media ports: ingress of ST 2110 essence, links and PTP (21 R528 to R534, R542; 02 R64 to R66; 14 live service). -/

namespace Sys2Proof.Machine

/-! Ingress units (R531). -/

/-- The region and hoop that a flow of context `c` is written to: the HOOP of its LIVE entry in its home region, where the hoop is
enabled and its PUT_END is media ingress. -/
def ingressHoop (s : State) (c : Nat) : Option (Nat × Nat) :=
  match (List.range 96).find? (fun i => rd s (Fk.liveSlotEn i) = 1 && rd s (Fk.liveSlotCtx i) = c) with
  | none => none
  | some i =>
    let r := rd s (Fk.ctxCfgHome c)
    let h := rd s (Fk.liveSlotHoop i)
    if rd s (Fk.hoopCfgEnable (posOf s r) h) = 1 ∧ rd s (Fk.hoopCfgPutEnd (posOf s r) h) = 2 then some (r, h) else none

/-- The ingress unit of a flow. -/
def getIn (s : State) (c : Nat) (a : Bool) : Ingress := if a then (getCtx s c).audio else (getCtx s c).video

/-- Change the ingress unit of a flow. -/
def modIn (s : State) (c : Nat) (a : Bool) (f : Ingress → Ingress) : State :=
  modCtx s c (fun x => if a then { x with audio := f x.audio } else { x with video := f x.video })

/-- The sample with number `k`. -/
def gotAt (u : Ingress) (k : Nat) : Option Nat := mget (fun _ => none) u.got k

/-- Number of the sample of plane `p` at column `x` of line `y` of a picture `w` wide. -/
def sampleNo (w p x y : Nat) : Nat := 3 * (y * w + x) + p

/-- The value of a received code (R529): a 10-bit code as it stands, an 8-bit one times 4. -/
def videoValue (depth8 : Bool) (v : Nat) : Nat := if depth8 then 4 * v else v

/-- The sample of plane `p` written at (x, y): 4:2:2 chroma averages two lines; none where a packet left it out. -/
def planeSample (s : State) (c : Nat) (u : Ingress) (p x y : Nat) : Option Nat :=
  let w := rd s (Fk.mediaFlowVWidth c)
  let d := rd s (Fk.mediaFlowVDepth8 c) = 1
  if p = 0 ∨ rd s (Fk.mediaFlowVS420 c) = 1 then (gotAt u (sampleNo w p x y)).map (videoValue d)
  else match gotAt u (sampleNo w p x (2 * y)), gotAt u (sampleNo w p x (2 * y + 1)) with
    | some a, some b => some ((videoValue d a + videoValue d b + 1) / 2)
    | _, _ => none

/-- Bytes of samples, each with whether it is missing. -/
def sampleBytes (l : List (Option Nat)) : List (Byte × Bool) :=
  l.flatMap (fun v => (toLE 2 (v.getD 0)).map (fun b => (b, v.isNone)))

/-- A line padded to a multiple of 64 bytes. -/
def padLine (l : List (Byte × Bool)) : List (Byte × Bool) := l ++ List.replicate (roundUp l.length 64 - l.length) (0, false)

/-- The data of a video unit: Y, then Cb, then Cr. -/
def videoData (s : State) (c : Nat) (u : Ingress) : List (Byte × Bool) :=
  let w := rd s (Fk.mediaFlowVWidth c)
  let h := rd s (Fk.mediaFlowVHeight c)
  (List.range 3).flatMap (fun p =>
    let k := if p = 0 then 1 else 2
    (List.range (h / k)).flatMap (fun y => padLine (sampleBytes ((List.range (w / k)).map (fun x => planeSample s c u p x y)))))

/-- The data of an audio unit: channel after channel. -/
def audioData (s : State) (c : Nat) (u : Ingress) : List (Byte × Bool) :=
  (List.range (rd s (Fk.mediaFlowAChM1 c) + 1)).flatMap (fun ch =>
    sampleBytes ((List.range 960).map (fun i => gotAt u (16 * i + ch))))

/-- Bytes of a unit that a flow is to write, with its header. -/
def unitLen (s : State) (c : Nat) (a : Bool) : Nat :=
  let w := rd s (Fk.mediaFlowVWidth c)
  let h := rd s (Fk.mediaFlowVHeight c)
  64 + (if a then 1920 * (rd s (Fk.mediaFlowAChM1 c) + 1) else roundUp (2 * w) 64 * h + 2 * (roundUp w 64 * (h / 2)))

/-- The hoop has room for a unit of `n` bytes. -/
def unitRoom (s : State) (r h n : Nat) : Bool :=
  let p := posOf s r
  decide (hoopCount s p h + ceilDiv n (max 1 (hoopBytes s p h)) ≤ rd s (Fk.hoopCfgSlots p h))

/-- Slot of a unit: picture periods between its timestamp and that of the context's first picture, rounded to nearest; for audio the
unit's number (R530, 14 R377). -/
def unitSlot (s : State) (c : Nat) (a : Bool) (u : Ingress) : Nat :=
  let d := wrapSub 32 u.ts (u.t0.getD u.ts)
  if a then d / 960
  else
    let n := d * rd s (Fk.mediaFlowRateRateNum c)
    let m := 90000 * max 1 (rd s (Fk.mediaFlowRateRateDen c))
    (2 * n + m) / (2 * m)

/-- Each 32-byte beat of `l` that holds a missing byte is poisoned whole, with zero data. -/
def poisonBeats (l : List (Byte × Bool)) : List (Byte × Bool) :=
  (List.range (ceilDiv l.length 32)).flatMap (fun i =>
    let b := (l.drop (32 * i)).take 32
    if b.any (·.2) then List.replicate b.length (0, true) else b)

/-- Close the open unit of a flow: it is put into the hoop with MARK, or discarded (R531). -/
def unitClose (s : State) (c : Nat) (a : Bool) : State :=
  let u := getIn s c a
  let s := modIn s c a (fun x => { x with isOpen := false, got := [] })
  if ¬ u.isOpen ∨ u.drop then s
  else
    let data := poisonBeats (if a then audioData s c u else videoData s c u)
    let head := toLE 1 (b2n a) ++ toLE 1 (b2n (data.any (·.2))) ++ toLE 2 0 ++ toLE 4 (unitSlot s c a u) ++ toLE 4 u.ts ++
      toLE 4 data.length ++ List.replicate 48 0
    match ingressHoop s c with
    | none => bump s (Fk.mediaFlowDropUnitDrop c) 32
    | some (r, h) =>
      if unitRoom s r h (64 + data.length) then
        bump (putRecords s r h [head.map (fun b => (b, false)) ++ data]) (if a then Fk.mediaFlowAstatUnits c else Fk.mediaFlowVstatPictures c) 32
      else bump s (Fk.mediaFlowDropUnitDrop c) 32

/-- Open a unit at timestamp `ts`; one that finds the hoop full is discarded whole. -/
def unitOpen (s : State) (c : Nat) (a : Bool) (ts : Nat) : State :=
  let room := match ingressHoop s c with
    | some (r, h) => unitRoom s r h (unitLen s c a)
    | none => false
  let s := if room then s else bump s (Fk.mediaFlowDropUnitDrop c) 32
  modIn s c a (fun u => { u with isOpen := true, drop := !room, ts := ts, t0 := some (u.t0.getD ts), got := [] })

/-- `a` is later than `b` on the RTP clock. -/
def rtpLater (a b : Nat) : Bool := let d := wrapSub 32 a b; decide (0 < d) && decide (d < 2 ^ 31)

/-- A packet of timestamp `ts` comes too late: the open unit is a later one, or the last unit, now closed, was its own or a later one (R531, R542). -/
def unitPast (u : Ingress) (ts : Nat) : Bool := if u.isOpen then rtpLater u.ts ts else u.t0.isSome && !rtpLater ts u.ts

/-- The sequence number of a packet: a gap ahead of it counts as missing packets, unless its unit is discarded. -/
def seqNote (s : State) (c : Nat) (a : Bool) (seq w : Nat) : State :=
  let u := getIn s c a
  let gap := match u.nextSeq with
    | some n => wrapSub w seq n
    | none => 0
  let key := if a then Fk.mediaFlowAstatALost c else Fk.mediaFlowVstatVLost c
  if gap ≥ 2 ^ (w - 1) then s
  else
    let s := if u.drop then s else wr s key ((rd s key + gap) % 2 ^ 32)
    modIn s c a (fun u => { u with nextSeq := some ((seq + 1) % 2 ^ w) })

/-- Count an accepted frame, unless its unit is discarded. -/
def rxCount (s : State) (c : Nat) (a : Bool) (p : Nat) : State :=
  if (getIn s c a).drop then s else bump s (Fk.mediaPortCnt0RxFrames p) 32

/-- A packet for context `c` arrives at its flow's port: it is not seen while the link is down, is discarded where the flow is off
(R528), and counts in FORMAT_DROP where it breaks the flow's format. -/
def flowDo (s : State) (p en : Nat) (ok : Bool) (c : Nat) (f : State → State) : Ans :=
  .next (if rd s (Fk.mediaPortStateLinkUp p) = 0 then s
  else if en = 0 then bump s (Fk.mediaPortCnt0RxDiscard p) 32
  else if ok then f s else bump s (Fk.mediaFlowDropFormatDrop c) 32)

/-- The packet keeps its video flow's format. -/
def videoFormatOk (s : State) (c : Nat) (v : VideoPkt) : Bool :=
  let w := rd s (Fk.mediaFlowVWidth c)
  let h := rd s (Fk.mediaFlowVHeight c)
  decide (v.pt = rd s (Fk.mediaFlowVPt c)) && (v.depth8 == decide (rd s (Fk.mediaFlowVDepth8 c) = 1)) &&
    (v.s420 == decide (rd s (Fk.mediaFlowVS420 c) = 1)) &&
    v.samples.all (fun x => match x with
      | (p, y, x, k) => decide (p < 3) && decide (y < if p ≠ 0 ∧ v.s420 then h / 2 else h) && decide (x < if p = 0 then w else w / 2) &&
          decide (k < if v.depth8 then 256 else 1024))

/-- MEDIA_VIDEO_PACKET. -/
def execMediaVideoPacket (c : Nat) (v : VideoPkt) (s : State) : Ans :=
  let p := rd s (Fk.mediaFlowVPort c)
  flowDo s p (rd s (Fk.mediaFlowVEn c)) (videoFormatOk s c v) c (fun s =>
    let u := getIn s c false
    let late := unitPast u v.ts
    let fresh := !late && !(u.isOpen && decide (u.ts = v.ts))
    let s := if fresh then unitOpen (unitClose s c false) c false v.ts else s
    let s := rxCount (seqNote s c false v.seq 32) c false p
    if late then s
    else
      let w := rd s (Fk.mediaFlowVWidth c)
      let s := modIn s c false (fun u => { u with
        got := v.samples.foldl (fun m x => mput (fun _ => none) m (sampleNo w x.1 x.2.2.1 x.2.1) (some x.2.2.2)) u.got })
      if v.marker then unitClose s c false else s)

/-- The packet keeps its audio flow's format. -/
def audioFormatOk (s : State) (c : Nat) (x : AudioPkt) : Bool :=
  let n := if rd s (Fk.mediaFlowAPtime c) = 1 then 6 else 48
  decide (x.pt = rd s (Fk.mediaFlowAPt c)) && (x.l24 == decide (rd s (Fk.mediaFlowAL24 c) = 1)) &&
    decide (x.chans.length = rd s (Fk.mediaFlowAChM1 c) + 1) && x.chans.all (fun l => decide (l.length = n))

/-- The INT16 code of an audio sample (R530). -/
def audioValue (l24 : Bool) (v : Nat) : Nat :=
  if l24 then code 16 (clamp (rneShift (sext 24 v) 8) (-32768) 32767) else v % 65536

/-- Add sample `i` of a packet to its unit, closing the one before. -/
def audioSample (c : Nat) (x : AudioPkt) (s : State) (i : Nat) : State :=
  let ts := (x.ts + i) % 2 ^ 32
  let u := getIn s c true
  let t0 := u.t0.getD ts
  let start := (t0 + wrapSub 32 ts t0 / 960 * 960) % 2 ^ 32
  if unitPast u start then s
  else
    let s := if u.isOpen && decide (u.ts = start) then s else unitOpen (unitClose s c true) c true start
    let k := wrapSub 32 ts start
    modIn s c true (fun u => { u with
      got := ((List.range x.chans.length).zip x.chans).foldl (fun m y =>
        mput (fun _ => none) m (16 * k + y.1) (some (audioValue x.l24 (y.2.getD i 0)))) u.got
      t0 := some t0 })

/-- MEDIA_AUDIO_PACKET. -/
def execMediaAudioPacket (c : Nat) (x : AudioPkt) (s : State) : Ans :=
  let p := rd s (Fk.mediaFlowAPort c)
  flowDo s p (rd s (Fk.mediaFlowAEn c)) (audioFormatOk s c x) c (fun s =>
    let n := (x.chans.headD []).length
    let s := audioSample c x s 0
    let s := rxCount (seqNote s c true x.seq 16) c true p
    (List.range n).foldl (audioSample c x) s)

/-- MEDIA_FRAME_DISCARD: a frame of R528's list arrives at port `p`. -/
def execMediaFrameDiscard (p : Nat) (s : State) : Ans :=
  .next (if rd s (Fk.mediaPortStateLinkUp p) = 1 then bump s (Fk.mediaPortCnt0RxDiscard p) 32 else s)

/-! Reference time (02 R64 to R66). -/

/-- Port `p` steers TIME_NS: the part is ROOT or SOLO and PTP_PORT names it (02 R64). -/
def ptpSteers (s : State) (p : Nat) : Bool := decide (rd s Fk.epochCfgRole ≠ 2) && decide (rd s Fk.epochCfgPtpPort = p)

/-- Port `p` loses its PTP lock. -/
def ptpUnlock (s : State) (p : Nat) : State :=
  let had := rd s (Fk.mediaPortStatePtpLock p) = 1
  let s := wr (wr s (Fk.mediaPortStatePtpLock p) 0) (Fk.mediaPortPtpoffValid p) 0
  let s := { s with root := { s.root with ptpGood := mput (fun _ => 0) s.root.ptpGood p 0 } }
  if had && ptpSteers s p then holdover s else s

/-- PTP_SYNC: a Sync on port `p` measures `offset`, TIME_NS minus PTP time in units of 2^-16 ns (R533). -/
def execPtpSync (p : Nat) (offset : Int) (s : State) : Ans :=
  .next (if rd s (Fk.mediaPortStateLinkUp p) = 0 then s
  else
    let good := decide (offset.natAbs < 100 * 65536)
    let n := if good then mget (fun _ => 0) s.root.ptpGood p + 1 else 0
    let s := { s with root := { s.root with ptpGood := mput (fun _ => 0) s.root.ptpGood p (min n 16) } }
    let s := wr s (Fk.mediaPortPtpoffOffset p) (code 48 offset)
    let s := if n ≥ 16 then
        let s := wr s (Fk.mediaPortStatePtpLock p) 1
        if ptpSteers s p then wr s Fk.epochTimeAuxTimeState tsLocked else s
      else if offset.natAbs > 1000 * 65536 then ptpUnlock s p else s
    let s := if rd s (Fk.mediaPortStatePtpLock p) = 1 then wr s (Fk.mediaPortPtpoffValid p) 1 else s
    if ptpSteers s p then setTimeThirds s (((timeThirds s : Nat) : Int) - 3 * offset).toNat else s)

/-- PTP_ANNOUNCE_TIMEOUT. -/
def execPtpAnnounceTimeout (p : Nat) (s : State) : Ans := .next (ptpUnlock s p)

/-- The MEDIA_LINK entry and alarm of port `p`. -/
def mediaLinkEntry (s : State) (p up : Nat) : State :=
  alarmEvent (hwRecord s false (hwEntry s 0x0109 3 0 (srcIo p) noInstr (toLE 1 p ++ toLE 1 up))) 7

/-- Port `p` loses LINK_UP (R542). -/
def mediaDown (s : State) (p : Nat) : State :=
  if rd s (Fk.mediaPortStateLinkUp p) = 0 then s
  else
    let s := mediaLinkEntry (wr s (Fk.mediaPortStateLinkUp p) 0) p 0
    let s := (List.range 128).foldl (fun s c =>
      let s := if rd s (Fk.mediaFlowVEn c) = 1 ∧ rd s (Fk.mediaFlowVPort c) = p then unitClose s c false else s
      if rd s (Fk.mediaFlowAEn c) = 1 ∧ rd s (Fk.mediaFlowAPort c) = p then unitClose s c true else s) s
    ptpUnlock s p

/-- MEDIA_LINK_DOWN. -/
def execMediaLinkDown (p : Nat) (s : State) : Ans := .next (mediaDown s p)

/-- MEDIA_LINK_UP: an enabled port aligns. -/
def execMediaLinkUp (p : Nat) (s : State) : Ans :=
  .next (if rd s (Fk.mediaPortCtlEnable p) = 1 ∧ rd s (Fk.mediaPortStateLinkUp p) = 0 then
    mediaLinkEntry (wr s (Fk.mediaPortStateLinkUp p) 1) p 1
  else s)

end Sys2Proof.Machine
end

