-- ==== Sys2Proof/Machine/Slots.lean ====
section
/-! DEFINITION. The memory that an instruction touches, the requesters that a job and the drains use, and the slots that they need (01 R27; 03 R88; 09 R240,
R245). -/

namespace Sys2Proof.Machine

/-! What an instruction touches. -/

/-- The spans that instruction `i` reads: its operands with their aux records and the arrays those name, a chain's entries and data window, a coded tensor's indices,
data, means and cursor, the ring of a hoop that it takes from, and the entries of a chain that it writes (02 R49, 09 R245). -/
def sourceSpans (t : State) (j : Job) (i : Nat) : List (Nat × Nat) :=
  let v := j.macros.getD i 0
  let span := fun (k : Nat) (d : Desc) => descExtents t d (paddedDims v k d) (bits v 66 16 + 1)
  let aux := fun (d : Desc) =>
    let x := constAux t d
    if d.kind = 3 ∨ ¬ d.auxEn then [] else
      (((descOf t (if d.kind = 1 then (codedRec t d).saux else d.aux)).map (fun y => (y.base, 64))).toList) ++
      ([x.scale, x.zpa, x.smap].filter (· ≠ 0)).map (fun a => (a, 2)) ++ (if x.smap = 0 then [] else [(x.sside, 2)])
  let ins := (inFields j i).flatMap (fun k => ((fieldDescs j i [k]).flatMap (fun d => span k d ++ aux d)))
  ins ++ (if wordSlots v = [] ∨ noD0 v then [] else (fieldDescs j i [0]).flatMap (fun d => if d.kind = 3 then [(d.base, 16 * d.n0)] else aux d))

/-- The spans that instruction `i` writes. -/
def targetSpans (t : State) (j : Job) (i : Nat) : List (Nat × Nat) :=
  let v := j.macros.getD i 0
  if wordSlots v = [] ∨ noD0 v then [] else (fieldDescs j i [0]).flatMap (fun d => descExtents t d (paddedDims v 0 d) (bits v 66 16 + 1))

/-! Requesters and their slots (01 R27). -/

/-- The channels of Hearth or Cellar that a span lies on, as kind and instance of their slot tables (03 R68, R71). -/
def channelsOf (x : Nat × Nat) : List (Nat × Nat) :=
  if x.2 = 0 ∨ 1 < levelOf x.1 then []
  else if levelOf x.1 = 1 then
    ((List.range (min 16 ((x.1 + x.2 - 1) / 512 + 1 - x.1 / 512))).map (fun i => let a := x.1 + 512 * i; (6, 16 * bits a 36 4 + bits a 9 4))).eraseDups
  else ((List.range (min 64 ((x.1 + x.2 - 1) / 2048 + 1 - x.1 / 2048))).map (fun i => let a := x.1 + 2048 * i; (7, 64 * bits a 40 1 + bits a 11 6))).eraseDups

/-- The requester that moves the Hearth and Cellar data of an instruction on region `r`: the unit that runs it, or the region sequencer (R240). -/
def moverCodes (j : Job) (p : Place) : List Nat :=
  match opAt j p.instr with
  | 0x30 => [0x4000 + 2 * p.region + p.unit % 2]
  | 0x31 => ((List.range 4).filter (bit p.unit)).map (fun d => 0x5000 + 4 * p.region + d)
  | 0x32 => [0x6000 + p.region]
  | _ => [0x7000 + p.region]

/-- The slots that a placement needs, as kind and instance of a table and the requesters of which one must have a slot in it: of the channels of its operands, of
the lanes of a DRAW and of coded operands, and of the port of a SEND. -/
def placeNeeds (s : State) (j : Job) (p : Place) : List (Nat × Nat × List Nat) :=
  let t := { s with job := some j }
  let v := j.macros.getD p.instr 0
  let dram := ((sourceSpans t j p.instr ++ targetSpans t j p.instr).flatMap channelsOf).eraseDups
  dram.map (fun x => (x.1, x.2, moverCodes j p)) ++
  (if opAt j p.instr = 0x31 then (drawLanesOf p).map (fun x => (4, 8 * (4 * p.region + x.1) + x.2, [0xB000 + bits v 0 7])) else []) ++
  (if opAt j p.instr = 0x20 ∧ subAt j p.instr = 3 then [(8, bits v 0 4, [0x7000 + p.region])] else [])
where
  /-- The lanes that a record of a DRAW names. -/
  drawLanesOf (p : Place) : List (Nat × Nat) :=
    ((List.range 4).filter (bit p.unit)).flatMap (fun d => ((List.range 8).filter (bit p.lanes)).map (fun l => (d, l)))

/-- The coded operands of a placement that no lane of its region is granted to. -/
def codedIdle (j : Job) (ts : List SlotTable) (p : Place) : Bool :=
  (wordSlots (j.macros.getD p.instr 0)).any (fun k => let i := wordD (j.macros.getD p.instr 0) k
    decide (((j.descs[i]?).map (·.kind)) = some 1) && !ts.any (fun t => decide (t.kind = 4 ∧ t.inst / 32 = p.region) && t.codes.contains (0xC000 + i)))

/-- The drains that are on, with the media port that each sends on; the host's ring needs no slot (14 R376). -/
def drainPorts (s : State) : List (Nat × Nat) :=
  ((List.range 128).filter (fun c => decide (rd s (Fk.drainCfgEnable c) = 1 ∧ rd s (Fk.drainCfgDest c) < 2))).map (fun c => (c, rd s (Fk.drainCfgDest c)))

/-- A table set leaves a requester of the job without a slot that it needs, so far as the image and the drains in force say. -/
def slotMissing (s : State) (j : Job) (ts : List SlotTable) : Bool :=
  let has := fun (x : Nat × Nat × List Nat) => ts.any (fun t => decide (t.kind = x.1 ∧ t.inst = x.2.1) && t.codes.any (fun c => x.2.2.contains c))
  j.places.any (fun p => (placeNeeds s j p).any (fun x => !has x) || codedIdle j ts p) ||
    (drainPorts s).any (fun x => !has (9, x.2, [0xB000 + x.1]))

/-- HOST has no slot on a channel that an enabled window maps (03 R88). -/
def hostMissing (s : State) (ts : List SlotTable) : Bool :=
  (List.range 16).any (fun n => decide (rd s (Fk.memWinDevEnable n) = 1) &&
    (channelsOf (4096 * rd s (Fk.memWinDevBasePage n), 2 ^ rd s (Fk.memWinDevSizeLog2 n))).any (fun x =>
      !ts.any (fun t => decide ((t.kind, t.inst) = x) && t.codes.contains 0xA000)))

end Sys2Proof.Machine
end

