-- ==== Sys2Proof/Machine/TemperCheck.lean ====
section
/-! DEFINITION. The Temper check (19 R514): every rule of the spec that names it, over the registers in force overlaid with a set. -/

namespace Sys2Proof.Machine

/-- A rule of the check: the keys of the fields it relates, and whether it is broken. -/
abbrev TRule := List Nat × Bool

/-- The registers with a set's writes over them. -/
def overlay (s : State) (t : TSet) : State := t.foldl (fun s x => wr s x.1 x.2) s

/-- The least number of a list. -/
def least : List Nat → Option Nat
  | [] => none
  | x :: l => some (l.foldl min x)

/-- The field at which a broken rule is reported (R514): the lowest of its fields that the set writes, else the lowest. -/
def ruleField (w : List Nat) (x : TRule) : Option Nat :=
  if x.2 then (least (x.1.filter (fun k => w.contains k))).orElse (fun _ => least x.1) else none

/-- Numbers of the instances of a block, `n` of `stride` bytes from `base`, that hold a field not at its reset value. Every rule holds of
an instance at its reset values. -/
def touched (s : State) (base stride n : Nat) : List Nat :=
  ((s.regs.filter (fun x => decide (64 * base ≤ x.1) && decide (x.1 < 64 * (base + stride * n)))).map
    (fun x => (x.1 / 64 - base) / stride)).eraseDups

/-- EPOCH.CFG (02 R54). -/
def rulesEpoch (s : State) : List TRule :=
  let role := rd s Fk.epochCfgRole
  let depth := rd s Fk.epochCfgDepth
  let ptp := rd s Fk.epochCfgPtpPort
  [([Fk.epochCfgRole], decide (role = 3)),
   ([Fk.epochCfgRole, Fk.epochCfgDepth], if role = 2 then decide (depth = 0 ∨ 16 < depth) else decide (depth ≠ 0)),
   ([Fk.epochCfgPtpPort], decide (ptp ≠ 0 ∧ ptp ≠ 1 ∧ ptp ≠ 15)),
   ([Fk.epochCfgLead], decide (rd s Fk.epochCfgLead < 64)),
   ([Fk.epochCfgTimeoutUs], decide (rd s Fk.epochCfgTimeoutUs = 0))]

/-- A share register (03 R75). -/
def rulesShare (s : State) (r w m : Nat) : List TRule :=
  [([r], decide (rd s r % 5 ≠ 0)), ([w], decide (rd s w % 5 ≠ 0)), ([m], decide (rd s m % 5 ≠ 0)),
   ([r, w, m], decide (rd s r + rd s w + rd s m ≠ 100))]

/-- BAR4 offset and bytes of window `n`, where it is enabled. -/
def winSpan (s : State) (n : Nat) : Nat × Nat := (rd s (Fk.memWinBarBarPage n) * 4096, 2 ^ rd s (Fk.memWinDevSizeLog2 n))

/-- Window `n` (03 R87, R89). -/
def rulesWin (s : State) (n : Nat) : List TRule :=
  let base := rd s (Fk.memWinDevBasePage n) * 4096
  let size := 2 ^ rd s (Fk.memWinDevSizeLog2 n)
  let lg := rd s (Fk.memWinDevSizeLog2 n)
  let en := fun k => rd s (Fk.memWinDevEnable k) = 1
  let kb := Fk.memWinDevBasePage n
  let ks := Fk.memWinDevSizeLog2 n
  let kr := Fk.memWinBarBarPage n
  ([ks], decide (lg < 12 ∨ 36 < lg)) ::
  (if rd s (Fk.memWinDevEnable n) = 0 then [] else
    [([kb], decide (levelOf base > 1)), ([kb, ks], decide (base % size ≠ 0)), ([kb, ks], !spanDram s base size),
     ([kr, ks], decide ((winSpan s n).1 % size ≠ 0))] ++
    (touched s 0x4100 0x10 16).map (fun k =>
      ([kr, ks, Fk.memWinBarBarPage k, Fk.memWinDevSizeLog2 k],
        decide (k < n) && decide (en k) && spansMeet (winSpan s n) (winSpan s k))))

/-- CHIP.MEM (03 R75, R87). -/
def rulesMem (s : State) : List TRule :=
  rulesShare s Fk.memHearthShareReadPct Fk.memHearthShareWritePct Fk.memHearthShareRemotePct ++
  rulesShare s Fk.memCellarShareReadPct Fk.memCellarShareWritePct Fk.memCellarShareRemotePct ++
  (touched s 0x4100 0x10 16).flatMap (rulesWin s)

/-- Set TBLSET of the loaded schedule leaves a requester of the job without a slot (01 R27). -/
def setLacks (s : State) : Bool :=
  match s.job with
  | none => false
  | some j => slotMissing s j (j.tsets.getD (rd s Fk.schedCtlTblset) [])

/-- CHIP.SCHED (09 R243): ACTIVE needs a loaded schedule that holds set TBLSET, with a slot for each requester (01 R27). -/
def rulesSched (s : State) : List TRule :=
  let sets := if loaded s then (s.job.map (·.tsets.length)).getD 0 else 0
  [([Fk.schedCtlTblset, Fk.schedCtlActive], decide (rd s Fk.schedCtlActive = 1 ∧ sets ≤ rd s Fk.schedCtlTblset)),
   ([Fk.schedCtlTblset, Fk.schedCtlActive] ++ (drainPorts s).flatMap (fun x => [Fk.drainCfgEnable x.1, Fk.drainCfgDest x.1]),
    decide (rd s Fk.schedCtlActive = 1) && setLacks s)]

/-! Hoops (09 R257, R555). -/

/-- The HOOP descriptors that word `w` uses: its own, and the HOOP of a coded record (12 R327). -/
def wordHoops (s : State) (j : Job) (w : Nat) : List Desc :=
  (wordSlots w).flatMap (fun k => match j.descs[wordD w k]? with
    | none => []
    | some d => if d.kind = 4 then [d] else if d.kind = 1 then
        match j.descs[devLE s [] ((((j.descs[d.aux]?).map (·.base)).getD 0) + 0x3C) 1]? with
        | some h => if h.kind = 4 then [h] else []
        | none => []
      else [])

/-- The hoops of the job: logical region and HOOP descriptor. -/
def jobHoops (s : State) : List (Nat × Desc) :=
  match s.job with
  | none => []
  | some j => (j.places.flatMap (fun p => (wordHoops s j (j.macros.getD p.instr 0)).map (fun d => (p.region, d)))).eraseDups

/-- SLOTS, SLOT_BEATS or BASE of the hoop differs from descriptor `d`. -/
def hoopDiffers (s : State) (n : Nat) (d : Desc) : Bool :=
  let h := d.padc % 64
  decide (rd s (Fk.hoopCfgSlots n h) ≠ d.n1) || decide (rd s (Fk.hoopCfgSlotBeats n h) ≠ d.n0) || decide (rd s (Fk.hoopBase n h) ≠ d.base)

/-- RUN's check (R555): every hoop of the job is enabled and is like its descriptor. -/
def hoopsReady (s : State) : Bool :=
  (jobHoops s).all (fun x => decide (rd s (Fk.hoopCfgEnable (posOf s x.1) (x.2.padc % 64)) = 1) && !hoopDiffers s (posOf s x.1) x.2)

/-- Hoop `h` of position `n`, where it is enabled; its ring is in range (03 R69). -/
def rulesHoop (s : State) (n h : Nat) : List TRule :=
  let p := rd s (Fk.hoopCfgPutEnd n h)
  let t := rd s (Fk.hoopCfgTakeEnd n h)
  let b := rd s (Fk.hoopBase n h)
  let ring := 64 * rd s (Fk.hoopCfgSlots n h) * rd s (Fk.hoopCfgSlotBeats n h)
  if rd s (Fk.hoopCfgEnable n h) = 0 then []
  else
    [([Fk.hoopBase n h], (addrFault s b).isSome),
     ([Fk.hoopCfgSlots n h, Fk.hoopCfgSlotBeats n h, Fk.hoopBase n h], (spanFault s b ring).isSome),
     ([Fk.hoopCfgSlots n h], decide (rd s (Fk.hoopCfgSlots n h) < 3)),
     ([Fk.hoopCfgSlotBeats n h], decide (rd s (Fk.hoopCfgSlotBeats n h) = 0)),
     ([Fk.hoopCfgPutEnd n h], decide (4 < p)), ([Fk.hoopCfgTakeEnd n h], decide (4 < t)),
     ([Fk.hoopCfgPutEnd n h, Fk.hoopCfgTakeEnd n h], decide (1 ≤ p ∧ p ≤ 4 ∧ 1 ≤ t ∧ t ≤ 4))]

/-- REGION.HOOP: enabled hoops, and the hoops of a loaded job, which a set may not disable. -/
def rulesHoops (s0 s : State) : List TRule :=
  (List.range 8).flatMap (fun n => (touched s (0x2020000 + 0x400000 * n) 0x40 64).flatMap (rulesHoop s n)) ++
  (if loaded s then (jobHoops s).flatMap (fun x =>
    let n := posOf s x.1
    let h := x.2.padc % 64
    let k := Fk.hoopCfgEnable n h
    if rd s k = 1 then [([Fk.hoopCfgSlots n h, Fk.hoopCfgSlotBeats n h, Fk.hoopBase n h], hoopDiffers s n x.2)] else [([k], decide (rd s0 k = 1))])
  else [])

/-- CHIP.LIVE (09 R264). -/
def rulesLive (s : State) : List TRule :=
  let l := (touched s 0x6000 8 96).filter (fun i => decide (rd s (Fk.liveSlotEn i) = 1))
  let segs := if loaded s then (s.job.map (fun j => j.places.map (·.segment))).getD [] else []
  l.flatMap (fun i =>
    let hp := Fk.hoopCfgPutEnd (posOf s (rd s (Fk.ctxCfgHome (rd s (Fk.liveSlotCtx i))))) (rd s (Fk.liveSlotHoop i))
    [([Fk.liveSlotSegment i], decide (rd s (Fk.liveSlotSegment i) = 0) || !segs.contains (rd s (Fk.liveSlotSegment i))),
     ([Fk.liveSlotHoop i, hp], decide (rd s hp ≠ 2 ∧ rd s hp ≠ 3))] ++
    (l.filter (fun k => decide (k < i))).flatMap (fun k =>
      [([Fk.liveSlotCtx k, Fk.liveSlotCtx i], decide (rd s (Fk.liveSlotCtx k) = rd s (Fk.liveSlotCtx i))),
       ([Fk.liveSlotSegment k, Fk.liveSlotSegment i], decide (rd s (Fk.liveSlotSegment k) = rd s (Fk.liveSlotSegment i)))]))

/-! Drains (14 R381, R396, R398; 16 R438). -/

/-- The longest gap between consecutive departures of a stream's datagrams, over the cycle that repeats. -/
def drainGap (s : State) (c : Nat) (a : Bool) : Nat :=
  match ((oppList s c a 0 1).map (·.2)).eraseDups with
  | [] => 0
  | x :: l => ((l ++ [x + 20000000]).foldl (fun (p : Nat × Nat) y => (y, max p.2 (y - p.1))) (x, 0)).2

/-- The period of a stream in ns, where the model knows its rate: a live context's flow, or the header of its load. -/
def drainPeriod (s : State) (c : Nat) (a : Bool) : Option Nat :=
  if a then some 20000000
  else if rd s (Fk.ctxCfgMode c) = 2 then
    if rd s (Fk.mediaFlowRateRateNum c) = 0 then none
    else some (1000000000 * rd s (Fk.mediaFlowRateRateDen c) / rd s (Fk.mediaFlowRateRateNum c))
  else match (getS s c false).header with
  | some h => if hdrNum h = 0 then none else some (1000000000 * hdrDen h / hdrNum h)
  | none => none

/-- The STG fields of drain `c` that a set may not change while it runs: all but ENABLE, and T_D where AUTO_START has its value ignored (14 R398). -/
def drainKeys (s : State) (c : Nat) : List Nat :=
  ((drainFields.filter (fun f => f.acc = .stg)).map (fun f => 64 * (f.off + 0x40 * c) + f.lo)).filter (fun k =>
    decide (k ≠ Fk.drainCfgEnable c) && !(decide (k = Fk.drainStartTD c) && decide (rd s (Fk.drainCfgAutoStart c) = 1)))

/-- The gap and model of a carried stream. -/
def rulesStream (s : State) (c : Nat) (a : Bool) : List TRule :=
  let k := [Fk.drainCycleC c, Fk.drainCycleCV c, Fk.drainCycleCA c]
  let cnt := if a then Fk.drainCycleCA c else Fk.drainCycleCV c
  let live := rd s (Fk.ctxCfgMode c) = 2
  let d := delayNs s c a
  if rd s (if a then Fk.drainCfgAudio c else Fk.drainCfgVideo c) = 0 then []
  else
    let gap := drainGap s c a
    [([if a then Fk.drainCfgAudio c else Fk.drainCfgVideo c, cnt], decide (rd s cnt = 0)),
     (k ++ [if a then Fk.drainAmodelDelayUs c else Fk.drainVmodelDelayUs c],
       decide (gap > d) || (match drainPeriod s c a with
         | some p => decide (gap > p)
         | none => false)),
     (k, live && decide (gap > 2000000)),
     ([Fk.drainVmodelDelayUs c], !a && live && (match drainPeriod s c false with
       | some p => decide (d > p)
       | none => false))]

/-- Drain `c`. -/
def rulesDrain (s0 s : State) (c : Nat) : List TRule :=
  let n := rd s (Fk.drainCycleC c)
  let pids := [Fk.drainCfgVideoPid c, Fk.drainCfgAudioPid c, Fk.drainCfgPmtPid c]
  let eq := fun (x y : Nat) => ([x, y], decide (rd s x = rd s y))
  let roi := sext 8 (rd s (Fk.drainRefRoiOff c))
  [([Fk.drainCycleC c], decide (n % 7 ≠ 0)),
   ([Fk.drainCycleC c, Fk.drainCycleCV c, Fk.drainCycleCA c], decide (rd s (Fk.drainCycleCV c) + rd s (Fk.drainCycleCA c) + 3 > n)),
   eq (Fk.drainCfgVideoPid c) (Fk.drainCfgAudioPid c), eq (Fk.drainCfgVideoPid c) (Fk.drainCfgPmtPid c),
   eq (Fk.drainCfgAudioPid c) (Fk.drainCfgPmtPid c),
   ([Fk.drainCfgDest c], decide (rd s (Fk.drainCfgDest c) = 3)),
   ([Fk.drainCfgDest c, Fk.auditWcfgWmode],
     decide (rd s Fk.auditWcfgWmode = 2 ∧ rd s (Fk.drainCfgEnable c) = 1 ∧ rd s (Fk.drainCfgDest c) < 2)),
   ([Fk.drainRateQpMin c, Fk.drainRateQpMax c, Fk.drainRateQpTarget c],
     decide (rd s (Fk.drainRateQpTarget c) < rd s (Fk.drainRateQpMin c) ∨ rd s (Fk.drainRateQpMax c) < rd s (Fk.drainRateQpTarget c))),
   ([Fk.drainRefRoiOff c], decide (roi < -63 ∨ 63 < roi))] ++
  pids.map (fun k => ([k], decide (rd s k < 0x20 ∨ 0x1FFE < rd s k))) ++
  [Fk.drainVmodelBuf c, Fk.drainVmodelDelayUs c].map (fun k => ([k], decide (rd s k = 0))) ++
  rulesStream s c false ++ rulesStream s c true ++
  (if rd s0 (Fk.drainCfgEnable c) = 1 ∧ rd s (Fk.drainCfgEnable c) = 1 then
    (drainKeys s c).map (fun k => ([k], decide (rd s0 k ≠ rd s k))) else [])

/-- CHIP.DRAIN. A drain that one of the rules reads outside its own block is also enabled, so it is touched. -/
def rulesDrains (s0 s : State) : List TRule :=
  ((touched s 0x7000 0x40 128) ++ (touched s0 0x7000 0x40 128)).eraseDups.flatMap (rulesDrain s0 s)

/-- CHIP.TINLINK (15 R423). -/
def rulesTl (s : State) : List TRule :=
  let parts := rd s Fk.tlDomainDomainParts
  let l := (touched s 0x9800 8 64).filter (fun k => decide (rd s (Fk.tlRxsEn k) = 1))
  ([Fk.tlDomainDomainParts], decide (parts = 0 ∨ 131072 < parts)) ::
  (List.range 16).flatMap (fun p =>
    let child := rdBit s Fk.tlDomainChildren p
    [([Fk.tlDomainChildren, Fk.epochCfgTimeParent], child && isParentPort s p),
     ([Fk.tlDomainChildren, Fk.tlPcfgEnable p], child && decide (rd s (Fk.tlPcfgEnable p) = 0))]) ++
  l.flatMap (fun k =>
    let n := posOf s (rd s (Fk.tlRxsRegion k))
    let h := rd s (Fk.tlRxsHoop k)
    [([Fk.tlRxsRegion k, Fk.tlRxsHoop k, Fk.hoopCfgEnable n h], decide (rd s (Fk.hoopCfgEnable n h) ≠ 1)),
     ([Fk.tlRxsRegion k, Fk.tlRxsHoop k, Fk.hoopCfgPutEnd n h], decide (rd s (Fk.hoopCfgPutEnd n h) ≠ 1)),
     ([Fk.tlRxsPort k, Fk.hoopCfgPort n h], decide (rd s (Fk.hoopCfgPort n h) ≠ rd s (Fk.tlRxsPort k)))] ++
    (l.filter (fun i => decide (i < k))).map (fun i =>
      ([Fk.tlRxsRegion i, Fk.tlRxsHoop i, Fk.tlRxsRegion k, Fk.tlRxsHoop k],
        decide (rd s (Fk.tlRxsRegion i) = rd s (Fk.tlRxsRegion k)) && decide (rd s (Fk.tlRxsHoop i) = h))))

/-- CHIP.AUDIT (16 R430, R431). The save area is checked at its base only: its size is known when it is written (log entry 21). -/
def rulesAudit (s0 s : State) : List TRule :=
  let m := rd s Fk.auditWcfgWmode
  let b := rd s Fk.auditWbase
  let n := rd s Fk.auditWsizeSize4k * 4096
  let v := rd s Fk.auditSaveBase
  [([Fk.auditWcfgWmode], decide (m = 3)), ([Fk.auditWcfgWmode, Fk.auditWsizeSize4k], decide (m ≠ 0 ∧ n = 0)),
   ([Fk.auditWbase], decide (m ≠ 0) && (decide (b % 4096 ≠ 0) || !(decide (levelOf b = 5) || spanDram s b n))),
   ([Fk.auditWbase, Fk.auditWsizeSize4k, Fk.auditWcfgWmode], decide (m ≠ 0) && meetsJob s (b, n)),
   ([Fk.auditSaveBase], decide (v ≠ 0) && (decide (v % 4096 ≠ 0) || !spanDram s v 0 || meetsJob s (v, saveBytes s))),
   ([Fk.auditProfileFlush], loaded s && decide (rd s0 Fk.auditProfileFlush ≠ rd s Fk.auditProfileFlush)),
   ([Fk.auditProfileStrict], loaded s && decide (rd s0 Fk.auditProfileStrict ≠ rd s Fk.auditProfileStrict))]

/-- A field outside a range. -/
def outside (s : State) (k lo hi : Nat) : TRule := ([k], decide (rd s k < lo ∨ hi < rd s k))

/-- CHIP.BELLOWS (17 R451, R452, R466). -/
def rulesBellows (s : State) : List TRule :=
  let a := rd s Fk.bellowsCapStgPrio0
  let b := rd s Fk.bellowsCapStgPrio1
  let c := rd s Fk.bellowsCapStgPrio2
  [outside s Fk.bellowsCapStgCap 50 136, outside s Fk.bellowsCapStgFastPct 2 15,
   ([Fk.bellowsCapStgPrio0], decide (a = 3)), ([Fk.bellowsCapStgPrio1], decide (b = 3)), ([Fk.bellowsCapStgPrio2], decide (c = 3)),
   ([Fk.bellowsCapStgPrio0, Fk.bellowsCapStgPrio1], decide (a = b)), ([Fk.bellowsCapStgPrio0, Fk.bellowsCapStgPrio2], decide (a = c)),
   ([Fk.bellowsCapStgPrio1, Fk.bellowsCapStgPrio2], decide (b = c)),
   outside s Fk.bellowsBallastPct 0 100, outside s Fk.bellowsBallastMaxUs 1 65535, outside s Fk.bellowsBallastRamp 1 255,
   outside s Fk.bellowsDroopDroopMv 20 120, outside s Fk.bellowsDroopExt 1 4, outside s Fk.bellowsDroopHoldCc 16 4095,
   ([Fk.bellowsThermWarmC, Fk.bellowsThermHotC], decide (rd s Fk.bellowsThermHotC ≤ rd s Fk.bellowsThermWarmC)),
   ([Fk.bellowsThermHotC], decide (rd s Fk.bellowsThermTripC ≤ rd s Fk.bellowsThermHotC)), outside s Fk.bellowsThermHystC 1 10]

/-- FAULT.THRESH and ALARM (18 R486, R487). -/
def rulesFault (s : State) : List TRule :=
  [Fk.faultThreshStoreCe, Fk.faultThreshBenchCe, Fk.faultThreshCrucibleCe, Fk.faultThreshUeLimit, Fk.faultThreshDramCe].map
    (fun k => ([k], decide (rd s k = 0))) ++
  (List.range 16).map (fun k => outside s (Fk.alarmHoldoffUs k) 1 65535)

/-! Media (21 R534). -/

/-- FLOW[c]. -/
def rulesFlow (s0 s : State) (c : Nat) : List TRule :=
  let w := rd s (Fk.mediaFlowVWidth c)
  let h := rd s (Fk.mediaFlowVHeight c)
  let keys := (mediaFlowFields.filter (fun f => f.acc = .stg)).map (fun f => 64 * (f.off + 0x40 * c) + f.lo)
  (if rd s (Fk.mediaFlowVEn c) = 0 then [] else
    [([Fk.mediaFlowVPt c], decide (rd s (Fk.mediaFlowVPt c) < 96)),
     ([Fk.mediaFlowVWidth c], decide (w < 64 ∨ 8192 < w ∨ w % 2 = 1)),
     ([Fk.mediaFlowVHeight c], decide (h < 64 ∨ 4352 < h ∨ h % 2 = 1)),
     ([Fk.mediaFlowRateRateDen c], decide (rd s (Fk.mediaFlowRateRateDen c) = 0)),
     ([Fk.mediaFlowRateRateNum c, Fk.mediaFlowRateRateDen c],
       decide (rd s (Fk.mediaFlowRateRateNum c) > 120 * rd s (Fk.mediaFlowRateRateDen c)))]) ++
  (if rd s (Fk.mediaFlowAEn c) = 0 then [] else [([Fk.mediaFlowAPt c], decide (rd s (Fk.mediaFlowAPt c) < 96))]) ++
  (if loaded s ∧ rd s (Fk.ctxCfgMode c) = 2 then keys.map (fun k => ([k], decide (rd s0 k ≠ rd s k))) else [])

/-- The enabled flows: key of EN, of UDP_PORT, and of PORT. -/
def openFlows (s : State) : List (Nat × Nat) :=
  (touched s 0x11000 0x40 128).flatMap (fun c =>
    (if rd s (Fk.mediaFlowVEn c) = 1 then [(Fk.mediaFlowVUdpPort c, Fk.mediaFlowVPort c)] else []) ++
    (if rd s (Fk.mediaFlowAEn c) = 1 then [(Fk.mediaFlowAUdpPort c, Fk.mediaFlowAPort c)] else []))

/-- CHIP.MEDIA. -/
def rulesMedia (s0 s : State) : List TRule :=
  ((touched s 0x11000 0x40 128) ++ (touched s0 0x11000 0x40 128)).eraseDups.flatMap (rulesFlow s0 s) ++
  (openFlows s).flatMap (fun x => ((openFlows s).filter (fun y => decide (y.1 < x.1))).map (fun y =>
    ([y.1, y.2, x.1, x.2], decide (rd s x.1 = rd s y.1 ∧ rd s x.2 = rd s y.2)))) ++
  (touched s 0x14000 0x40 128).flatMap (fun c =>
    [([Fk.mediaEgrMacVlanId c], decide (rd s (Fk.mediaEgrMacVlanId c) = 0xFFF)),
     ([Fk.mediaEgrIpTtl c], decide (rd s (Fk.mediaEgrIpTtl c) = 0))])

/-! Work queues (19 R499). -/

/-- The rings of queue `q` that are set, or that the set `w` writes: host address, bytes and the keys of the page and of the size. -/
def setRings (s : State) (w : List Nat) (q : Nat) : List (Nat × Nat × Nat × Nat) :=
  let x := getWq s q
  let has := fun (b : Bool) (off : Nat) => b || w.any (fun k => decide (k / 64 = 0x20000 + 0x40 * q + off))
  let ring := fun page lg size => (rd s page * 4096, ringSize (rd s lg) * size, page, lg)
  (if has x.sqSet 0 then [ring (Fk.wqSqSqPage q) (Fk.wqSqSqLog2 q) 64] else []) ++
  (if has x.cqSet 8 then [ring (Fk.wqCqCqPage q) (Fk.wqCqCqLog2 q) 64] else []) ++
  (if has x.orSet 0x10 then [ring (Fk.wqOrOrPage q) (Fk.wqOrOrLog2 q) 1344] else [])

/-- Queue `q`. -/
def rulesWq (s : State) (w : List Nat) (q : Nat) : List TRule :=
  let en := Fk.wqSqEnable q
  let rb := rd s (Fk.wqResRbase q) * 4096
  let rn := rd s (Fk.wqResRcount q) * rd s (Fk.wqResRsize4k q) * 4096
  [outside s (Fk.wqSqSqLog2 q) 0 10, outside s (Fk.wqCqCqLog2 q) 0 10, outside s (Fk.wqOrOrLog2 q) 0 10,
   ([en], decide (rd s en = 1) && !booted s),
   ([en], decide (rd s en = 1) && decide ((setRings s w q).length ≠ 3)),
   outside s (Fk.wqResRsize4k q) 1 4095,
   ([Fk.wqResRbase q, Fk.wqResRsize4k q, Fk.wqResRcount q], decide (rn ≠ 0) && (!spanDram s rb rn || meetsJob s (rb, rn)))]

/-- CHIP.WQ. -/
def rulesWqs (s : State) (w : List Nat) : List TRule :=
  let qs := ((touched s 0x20000 0x40 64) ++ s.wqs.map (·.1)).eraseDups
  let rings := qs.flatMap (setRings s w)
  qs.flatMap (rulesWq s w) ++
  rings.flatMap (fun x => (rings.filter (fun y => decide (y.2.2.1 < x.2.2.1))).map (fun y =>
    ([y.2.2.1, y.2.2.2, x.2.2.1, x.2.2.2], spansMeet (x.1, x.2.1) (y.1, y.2.1))))

/-- CHIP.CTX (19 R505). -/
def rulesCtx (s0 s : State) : List TRule :=
  ((touched s 0x30000 0x20 128) ++ (touched s0 0x30000 0x20 128)).eraseDups.flatMap (fun c =>
    ([Fk.ctxCfgMode c], decide (rd s (Fk.ctxCfgMode c) = 3)) ::
    (if loaded s then [Fk.ctxCfgMode c, Fk.ctxCfgDir c, Fk.ctxCfgHome c, Fk.ctxCfgWq c].map (fun k => ([k], decide (rd s0 k ≠ rd s k)))
     else []))

/-- The check of set `t` over the state `s0` (R514): none where it holds, else the field that TEMPER.FIELD names. -/
def temperCheck (s0 : State) (t : TSet) : Option Nat :=
  let s := overlay s0 t
  let w := t.map (·.1)
  let rules := rulesEpoch s ++ rulesMem s ++ rulesSched s ++ rulesHoops s0 s ++ rulesLive s ++ rulesDrains s0 s ++ rulesTl s ++
    rulesAudit s0 s ++ rulesBellows s ++ rulesFault s ++ rulesMedia s0 s ++ rulesWqs s w ++ rulesCtx s0 s
  least (rules.filterMap (ruleField w))

end Sys2Proof.Machine
end

