-- ==== Sys2Proof/Machine/Temper.lean ====
section
/-! DEFINITION. Temper sets: staging, commands and application (19 R512 to R516, R556), and what each block does when a set that writes it
applies. -/

namespace Sys2Proof.Machine

/-! Registers read whole (00 R11, 01 R30). -/

/-- The 64-bit register at BAR0 offset `off` from its fields. -/
def regValue (s : State) (off : Nat) : Nat := (fieldsAt off).foldl (fun v f => v + rd s (64 * off + f.lo) * 2 ^ f.lo) 0

/-- The Assay profile record (16 R428). -/
def profileRecord (s : State) : List Byte := toLE 8 (regValue s 0xA000) ++ List.replicate 8 0

/-- Set DIGEST to the profile digest of the record in force (16 R428, R431). -/
def setDigest (s : State) : State := wr s Fk.auditDigest (crc32 (profileRecord s))

/-! What an applied set does beside its fields. `s0` is the state before it and `w` the keys it writes. -/

/-- The set writes a field of the register at BAR0 offset `off`. -/
def writesReg (w : List Nat) (off : Nat) : Bool := w.any (fun k => decide (k / 64 = off))

/-- Hoop `h` of the region at position `n` empty: HEAD, TAIL and what its slots hold are cleared. -/
def hoopRestart (s : State) (n h : Nat) : State :=
  let t := wr (wr s (Fk.hoopHead n h) 0) (Fk.hoopTail n h) 0
  match logicalOf s n with
  | none => t
  | some r => modRegion t r (fun x => { x with
      marks := x.marks.filter (fun y => decide (y.1 / 2 ^ 20 ≠ h)), fill := mput (fun _ => 0) x.fill h 0 })

/-- A set that writes HOOP.CFG sets HEAD and TAIL to 0 (09 R257). -/
def appliedHoop (s : State) (o : Nat) : State :=
  hoopRestart s (o / 0x400000 - 8) (o % 0x20000 / 0x40)

/-- Hoops. -/
def appliedHoops (s : State) (w : List Nat) : State :=
  (((w.map (· / 64)).filter (fun o => decide (0x2020000 ≤ o) && decide ((o % 0x400000) / 0x1000 = 0x20) && decide (o % 0x40 = 0))).eraseDups).foldl
    appliedHoop s

/-- A set that changes LIVE.SLOT[i] clears RAN and IDLE (09 R264). -/
def appliedLive (s0 s : State) (w : List Nat) : State :=
  (((w.map (· / 64)).filter (fun o => decide (0x6000 ≤ o) && decide (o < 0x6300))).eraseDups).foldl (fun s o =>
    let i := o % 0x1000 / 8
    if regValue s0 o = regValue s o then s else wr (wr s (Fk.liveStatRan i) 0) (Fk.liveStatIdle i) 0) s

/-- A set that writes DRAIN[c].CFG clears STAT (14 R398); ENABLE becoming 1 starts the drain with RTP_SEQ 0 (21 R532), and becoming 0 stops
it. -/
def appliedDrain (s0 s : State) (c : Nat) : State :=
  let s := wr (wr (wr (wr s (Fk.drainStatHolds c) 0) (Fk.drainStatConcealed c) 0) (Fk.drainStatFallback c) 0) (Fk.drainStatDiscarded c) 0
  let old := rd s0 (Fk.drainCfgEnable c)
  let new := rd s (Fk.drainCfgEnable c)
  if old = new then s
  else if new = 1 then
    wr (modCtx s c (fun x => { x with drain := { drainEmpty with recs := x.drain.recs } })) (Fk.mediaEgrStatRtpSeq c) 0
  else modCtx (recsLeave s c (fun _ => true)) c (fun x => { x with drain := drainEmpty })

/-- Drains. -/
def appliedDrains (s0 s : State) (w : List Nat) : State :=
  (((w.map (· / 64)).filter (fun o => decide (0x7000 ≤ o) && decide (o < 0x9000) && decide (o % 0x40 = 0))).eraseDups).foldl
    (fun s o => appliedDrain s0 s (o / 0x40 - 0x1C0)) s

/-- PCFG.ENABLE: 0 takes a port to DOWN, 1 takes a port in DOWN to TRAINING (15 R403). -/
def appliedPort (w : List Nat) (s : State) (p : Nat) : State :=
  if writesReg w (0x9100 + p * 0x40) then
    if rd s (Fk.tlPcfgEnable p) = 0 then portEnter s p psDown
    else if portState s p = psDown then portEnter s p psTraining else s
  else s

/-- A set that writes EPOCH.CFG: a part configured as MEMBER is TRACKING until calibration (02 R58), another takes its time from PTP or runs
free (02 R64); a part whose ROLE changes joins a domain anew (15 R412). -/
def appliedEpoch (s0 s : State) (w : List Nat) : State :=
  if ¬ writesReg w 0x3020 then s
  else
    let role := rd s Fk.epochCfgRole
    let ptp := rd s Fk.epochCfgPtpPort
    let moved := decide (role ≠ rd s0 Fk.epochCfgRole) || decide (rd s Fk.epochCfgTimeParent ≠ rd s0 Fk.epochCfgTimeParent)
    let s := if decide (role ≠ rd s0 Fk.epochCfgRole) then
        { s with root := { s.root with joined := false, prevT := 0, relPend := none, relSeen := none, relQueue := [], arrivals := [] } } else s
    if role = 2 then
      if moved then
        wr (wr { s with root := { s.root with calOn := false } } Fk.epochCalCalValid 0) Fk.epochTimeAuxTimeState tsTracking else s
    else if role = rd s0 Fk.epochCfgRole ∧ ptp = rd s0 Fk.epochCfgPtpPort ∧ rd s Fk.epochTimeAuxTimeState = tsHoldover then s
    else wr s Fk.epochTimeAuxTimeState (if ptp ≤ 1 ∧ rd s (Fk.mediaPortStatePtpLock ptp) = 1 then tsLocked else tsFree)

/-- A set that changes CLEAR_GEN clears the part-scope counters (18 R484). -/
def appliedTally (s0 s : State) : State :=
  if rd s0 Fk.tallyCtlClearGen = rd s Fk.tallyCtlClearGen then s
  else (List.range 8).foldl (fun s i => wr (wr s (Fk.tallyCount (14 + i)) 0) (Fk.tallySat (14 + i)) 0) s

/-- A set that writes a FLOW or PORT register clears that entry's counters (21 R534). A flow that is enabled starts anew; a port that is
disabled goes down. -/
def appliedFlow (s0 s : State) (c : Nat) : State :=
  let s := [Fk.mediaFlowVstatPictures c, Fk.mediaFlowVstatVLost c, Fk.mediaFlowAstatUnits c, Fk.mediaFlowAstatALost c,
    Fk.mediaFlowDropUnitDrop c, Fk.mediaFlowDropFormatDrop c].foldl (fun s k => wr s k 0) s
  let s := if rd s0 (Fk.mediaFlowVEn c) = rd s (Fk.mediaFlowVEn c) then s else modIn s c false (fun _ => ingressEmpty)
  if rd s0 (Fk.mediaFlowAEn c) = rd s (Fk.mediaFlowAEn c) then s else modIn s c true (fun _ => ingressEmpty)

/-- Media ports and flows. -/
def appliedMedia (s0 s : State) (w : List Nat) : State :=
  let os := (w.map (· / 64)).eraseDups
  let ports := ((os.filter (fun o => decide (0x10000 ≤ o) && decide (o < 0x10200))).map (fun o => o % 0x10000 / 0x100)).eraseDups
  let flows := ((os.filter (fun o => decide (0x11000 ≤ o) && decide (o < 0x13000))).map (fun o => o / 0x40 - 0x440)).eraseDups
  let s := ports.foldl (fun s p =>
    let s := [Fk.mediaPortCnt0RxFrames p, Fk.mediaPortCnt0RxDiscard p, Fk.mediaPortCnt1TxDatagrams p, Fk.mediaPortCnt1TxDiscard p].foldl
      (fun s k => wr s k 0) s
    if rd s (Fk.mediaPortCtlEnable p) = 0 then mediaDown s p else s) s
  flows.foldl (appliedFlow s0) s

/-- A set that writes a ring's register sets the matching HEADS and HOST fields to 0 and the ring counts as set (19 R499); a configured queue's
slots are FREE (R508), and its datagrams are counted anew (R501). -/
def appliedWq (w : List Nat) (s : State) (q : Nat) : State :=
  let b := 0x20000 + 0x40 * q
  let sq := writesReg w b
  let cq := writesReg w (b + 8)
  let or_ := writesReg w (b + 0x10)
  let s := if sq then wr (modWq s q (fun x => { x with sqSet := true, tail := 0 })) (Fk.wqHeadsSqHead q) 0 else s
  let s := if cq then wr (wr (modWq s q (fun x => { x with cqSet := true })) (Fk.wqHeadsCqTail q) 0) (Fk.wqHostCqHead q) 0 else s
  let s := if or_ then wr (wr (modWq s q (fun x => { x with orSet := true, dseq := 0 })) (Fk.wqHeadsOrTail q) 0) (Fk.wqHostOrHead q) 0 else s
  if sq ∨ cq ∨ or_ ∨ writesReg w (b + 0x20) then
    modWq s q (fun x => { x with slots := mall (fun _ => slotEmpty) (fun y => slotLeave y .free) x.slots })
  else s

/-- Work queues. -/
def appliedWqs (s : State) (w : List Nat) : State :=
  (((w.map (· / 64)).filter (fun o => decide (0x20000 ≤ o) && decide (o < 0x21000))).map (fun o => o % 0x20000 / 0x40)).eraseDups.foldl
    (appliedWq w) s

/-- The audit block: WDEV restarts with WCFG, and DIGEST follows the record (16 R431). -/
def appliedAudit (s : State) (w : List Nat) : State :=
  let s := if writesReg w 0xA020 then wr s Fk.auditWdev 0 else s
  if writesReg w 0xA000 then setDigest s else s

/-- The ring trace's stream to the observation port begins with the next entry written. -/
def appliedRing (s0 s : State) : State :=
  if rd s0 Fk.ringCfgPortEn = 0 ∧ rd s Fk.ringCfgPortEn = 1 then { s with trace := { s.trace with portPos := s.trace.written } } else s

/-- PAUSE set by an applied set: a running job pauses at this release (16 R444); a paused one whose image failed writes it again (R448); with no
job to pause the bit clears at once. -/
def appliedPause (s : State) (w : List Nat) : State :=
  if ¬ w.contains Fk.auditSaveCtlPause ∨ rd s Fk.auditSaveCtlPause = 0 then s
  else if running s then modJob s (fun j => { j with pausing := true })
  else if s.job.isSome ∧ rd s Fk.bootJobJstate = jPaused then modJob s (fun j => { j with saving := true })
  else wr s Fk.auditSaveCtlPause 0

/-- Everything that follows the application of a set's writes. -/
def applied (s0 s : State) (w : List Nat) : State :=
  let s := { s with part := { s.part with hot2x := [] } }
  let s := appliedHoops s w
  let s := appliedLive s0 s w
  let s := appliedDrains s0 s w
  let s := (List.range 16).foldl (appliedPort w) s
  let s := appliedEpoch s0 s w
  let s := appliedTally s0 s
  let s := appliedMedia s0 s w
  let s := appliedWqs s w
  let s := appliedPause (appliedAudit s w) w
  appliedRing s0 s

/-! Application (R515). -/

/-- The field with key `k` is a staged one, which alone a set writes (00 R11). -/
def isStaged (k : Nat) : Bool := (fieldOfKey k).any (fun f => decide (f.acc = .stg))

/-- Set `n`'s writes. -/
def setOf (s : State) (n : Nat) : TSet := mget (fun _ => []) s.sets n

/-- TEMPER trace event (18 R480). -/
def temperTrace (s : State) (event n field : Nat) : State := trace s 4 event srcChip (toLE 2 n ++ toLE 4 field)

/-- Apply set `n` after checking it again; the answer says whether it applied. A set that fails applies nothing and names a field in
FIELD. With AUTO_START, a write of T_D is ignored (14 R398). -/
def applySet (s : State) (n : Nat) : State × Bool :=
  let t := (setOf s n).filter (fun x => isStaged x.1)
  match temperCheck s t with
  | some f => (temperTrace (wr s Fk.temperField f) 1 n f, false)
  | none =>
    let o := overlay s t
    let t := t.filter (fun x => !(decide (0x7000 ≤ x.1 / 64) && decide (x.1 / 64 < 0x9000) && decide (x.1 / 64 % 0x40 = 0x10) &&
      decide (rd o (Fk.drainCfgAutoStart ((x.1 / 64 - 0x7000) / 0x40)) = 1)))
    let s1 := applied s (overlay s t) (t.map (·.1))
    let s1 := wr (bump s1 Fk.temperAppliedCount 32) Fk.temperAppliedEpoch (rd s1 Fk.epochCount % 2 ^ 32)
    (temperTrace s1 0 n 0, true)

/-- Apply sets in order. -/
def applySets (s : State) (l : List Nat) : State := l.foldl (fun s n => (applySet s n).1) s

/-- The order of R515: host-requested sets ascending, then those that TEMPER instructions named, by logical region and stream order. -/
def applyOrder (s : State) : List Nat :=
  (List.range 16).filter (fun n => s.hostSets.contains n) ++ (List.range 8).flatMap (fun r => (getRegion s r).marked)

/-- Every set that awaits application is applied, and none stays PENDING. -/
def applyPending (s : State) : State :=
  let l := applyOrder s
  let s := wr { s with hostSets := [] } Fk.temperSetsPending 0
  let s := { s with regions := mall (fun _ => regionEmpty) (fun x => { x with marked := [] }) s.regions }
  applySets s l

/-! Commands (R513, R556). -/

/-- A loaded program names set `n` in a TEMPER instruction (06 R181). -/
def programNames (s : State) (n : Nat) : Bool :=
  loaded s && match s.job with
  | some j => j.macros.any (fun w => decide (bits w 120 8 = 0x42) && decide (bits w 0 16 = n))
  | none => false

/-- STATUS after a command on set `n`. -/
def temperStatus (s : State) (n result : Nat) : State :=
  wr (wr (wr s Fk.temperStatusSet n) Fk.temperStatusResult result) Fk.temperStatusWrites (min (setOf s n).length 1024)

/-- STAGE `n`: captures the fields written, and begins the check. -/
def temperStage (s : State) (n : Nat) : State :=
  if rdBit s Fk.temperSetsPending n then temperStatus s n 3
  else
    let t : TSet := s.written.map (fun k => (k, stagedVal s k))
    let s := { s with sets := mput (fun _ => []) s.sets n t, written := [], checking := some n }
    temperStatus (clearBit s Fk.temperSetsStaged n) n 1

/-- APPLY `n`. -/
def temperApply (s : State) (n : Nat) : State :=
  if rdBit s Fk.temperSetsPending n then temperStatus s n 2
  else if rdBit s Fk.temperSetsStaged n then
    temperStatus (setBit { s with hostSets := s.hostSets ++ [n] } Fk.temperSetsPending n) n 2
  else temperStatus s n 3

/-- DISCARD: the staging copy returns to the values in force. -/
def temperDiscard (s : State) (n : Nat) : State := temperStatus { s with staging := [], written := [] } n 2

/-- FREE `n`. -/
def temperFree (s : State) (n : Nat) : State :=
  if rdBit s Fk.temperSetsPending n || programNames s n then temperStatus s n 3
  else temperStatus (clearBit { s with sets := mput (fun _ => []) s.sets n [] } Fk.temperSetsStaged n) n 2

/-- BAR0 writes other than BOOT.CTL act only in READY (R495), over a PCIe link that is up. -/
def hostWrites (s : State) : Bool := booted s && s.part.pcieUp

/-- A write of TEMPER.CMD with SET `n` and OP `op`: ignored while RESULT reads BUSY. -/
def temperCmd (s : State) (n op : Nat) (f : State → Nat → State) : State :=
  if rd s Fk.temperStatusResult = 1 then s
  else f (wr (wr s Fk.temperCmdSet (n % 16)) Fk.temperCmdOp op) (n % 16)

/-- STAGE. -/
def execTemperStage (n : Nat) (s : State) : Ans := .next (if hostWrites s then temperCmd s n 1 temperStage else s)

/-- APPLY. -/
def execTemperApply (n : Nat) (s : State) : Ans := .next (if hostWrites s then temperCmd s n 2 temperApply else s)

/-- DISCARD. -/
def execTemperDiscard (n : Nat) (s : State) : Ans := .next (if hostWrites s then temperCmd s n 3 temperDiscard else s)

/-- FREE. -/
def execTemperFree (n : Nat) (s : State) : Ans := .next (if hostWrites s then temperCmd s n 4 temperFree else s)

/-- STAGE_CHECK_DONE: the check of the set being staged ends (R513, R514). -/
def execStageCheckDone (s : State) : Ans :=
  .next (match s.checking with
  | none => s
  | some n =>
    let s := { s with checking := none }
    match (if (setOf s n).length > 1024 then some 0xFFFFFFFF else temperCheck s (setOf s n)) with
    | none => temperTrace (temperStatus (setBit s Fk.temperSetsStaged n) n 2) 0 n 0
    | some f =>
      let s := { s with sets := mput (fun _ => []) s.sets n [] }
      temperTrace (temperStatus (wr s Fk.temperField f) n 3) 1 n f)

/-- TEMPER_SET_APPLY: with no job running, PENDING sets apply on the next TCLK edge (R515). -/
def execTemperSetApply (s : State) : Ans :=
  .next (if running s ∨ (applyOrder s).isEmpty then s else applyPending (advanceTo s ((s.cc / 8 + 1) * 8)))

end Sys2Proof.Machine
end

