-- ==== Sys2Proof/Machine/Release.lean ====
section
/-! DEFINITION. Epoch releases and all that happens at one: Temper sets, the start of a job, witness inputs, live and file segments, pause
and save, replay (02 R52, R53; 09 R262, R263; 14 R390, R396; 16 R434 to R448; 17 R456; 19 R504, R507, R515). -/

namespace Sys2Proof.Machine

/-! Witness entries (16 R434 to R437, R441). -/

/-- An input of the job before it has its SEQ: KIND, FLAGS, SOURCE, VALUE and its bulk data. -/
structure WitIn where
  kind : Nat
  flags : Nat
  source : Nat
  value : Nat
  bulk : List Byte
deriving DecidableEq, Repr

/-- Kinds of R435. -/
def wkWork : Nat := 1
def wkIngress : Nat := 2
def wkRemote : Nat := 3
def wkConfirm : Nat := 4
def wkStart : Nat := 5
def wkDrain : Nat := 6
def wkGap : Nat := 7

/-- The 64 bytes of an entry (R434). -/
def witBytes (w : Witness) : List Byte :=
  toLE 1 w.kind ++ toLE 1 w.flags ++ toLE 2 w.source ++ toLE 4 w.seq ++ toLE 8 w.epoch ++ toLE 8 w.value ++ toLE 8 w.bytes ++
    (w.digest ++ List.replicate 32 0).take 32

/-- SOURCE of a kind is a context. -/
def witOfCtx (k : Nat) : Bool := k = wkIngress || k = wkConfirm || k = wkStart || k = wkDrain

/-- Some Hallmark is enabled (R441). -/
def hmAny (s : State) : Bool :=
  decide (rd s Fk.auditHmEn0HmEn ≠ 0) || decide (rd s Fk.auditHmEn1HmEn ≠ 0) || decide (rd s Fk.auditWcfgJobHm = 1)

/-- Key of a kind and source in the entry counts. -/
def witKey (k src : Nat) : Nat := k * 65536 + src

/-- WMODE values (R431). -/
def wmRecord : Nat := 1
def wmReplay : Nat := 2

/-- Enter an input in the log: its entry extends the chains, and in RECORD it waits to be written. -/
def witAdd (s : State) (i : WitIn) : State :=
  let n := mget (fun _ => 0) s.witSeq (witKey i.kind i.source)
  let w : Witness := ⟨i.kind, i.flags, i.source, n, relEpoch s, i.value, i.bulk.length, if i.bulk = [] then List.replicate 32 0 else sha256 i.bulk⟩
  let s := { s with witSeq := mput (fun _ => 0) s.witSeq (witKey i.kind i.source) (n + 1) }
  let s := if hmAny s then
      let s := modJob s (fun j => { j with chain := sha256 (j.chain ++ witBytes w) })
      if witOfCtx i.kind then modCtx s i.source (fun x => { x with chain := sha256 (x.chain ++ witBytes w) }) else s
    else s
  if rd s Fk.auditWcfgWmode = wmRecord then { s with witness := s.witness ++ [w] } else s

/-- The order of R436 before SEQ: by KIND, then by SOURCE. -/
def witBefore (a b : WitIn) : Bool := decide (a.kind < b.kind) || (decide (a.kind = b.kind) && decide (a.source < b.source))

/-- Insert an input behind those of its own or an earlier place. -/
def witInsert (x : WitIn) : List WitIn → List WitIn
  | [] => [x]
  | y :: l => if witBefore x y then x :: y :: l else y :: witInsert x l

/-- Inputs in the order of R436. -/
def witSort (l : List WitIn) : List WitIn := l.foldl (fun a x => witInsert x a) []

/-! The inputs of a release. -/

/-- A submission entry's 64 bytes (19 R502). -/
def entryBytes (e : Entry) : List Byte :=
  toLE 1 e.op ++ toLE 1 e.eflags ++ toLE 2 e.ctx ++ toLE 4 e.tag ++ toLE 8 e.addr0 ++ toLE 8 e.addr1 ++ toLE 4 e.len0 ++ toLE 4 e.len1 ++
    toLE 2 e.slot ++ toLE 2 e.set ++ List.replicate 28 0

/-- The WORK input of an item (R435). -/
def workIn (x : Item) : WitIn := ⟨wkWork, 0, x.entry.q, x.entry.idx, entryBytes x.entry ++ x.input ++ x.boxes⟩

/-- An item is eligible: its copies completed before this release, and it is not taken (19 R507). -/
def eligible (s : State) (x : Item) : Bool :=
  !x.taken && (match x.doneAt with
  | some e => decide (e ≠ rd s Fk.epochCount)
  | none => false)

/-- Enabled entries of the LIVE block. -/
def liveEntries (s : State) : List Nat := (List.range 96).filter (fun i => rd s (Fk.liveSlotEn i) = 1)

/-- Region and hoop of a LIVE entry. -/
def liveHoop (s : State) (i : Nat) : Nat × Nat := (rd s (Fk.ctxCfgHome (rd s (Fk.liveSlotCtx i))), rd s (Fk.liveSlotHoop i))

/-- The hoop of a LIVE entry holds a slot with MARK that landed before this release (09 R262). -/
def liveMarked (s : State) (i : Nat) : Bool :=
  let rh := liveHoop s i
  let n := posOf s rh.1
  (List.range (hoopCount s n rh.2)).any (fun k => match slotMark s rh.1 rh.2 (rd s (Fk.hoopHead n rh.2) + k) with
    | some e => decide (e ≠ rd s Fk.epochCount)
    | none => false)

/-- Byte `k` of the data that a hoop holds from HEAD on. -/
def hoopByte (s : State) (r h k : Nat) : Byte :=
  let n := posOf s r
  let b := max 1 (hoopBytes s n h)
  (devByte s [] (hoopSlotAddr s n h (rd s (Fk.hoopHead n h) + k / b) + k % b)).1

/-- Bytes from HEAD of a hoop. -/
def hoopData (s : State) (r h o n : Nat) : List Byte := (List.range n).map (fun k => hoopByte s r h (o + k))

/-- The INGRESS input of a LIVE entry: SLOT of the unit at HEAD, and its bytes (21 R531). -/
def ingressIn (s : State) (i : Nat) : WitIn :=
  let rh := liveHoop s i
  ⟨wkIngress, 0, rd s (Fk.liveSlotCtx i), ofLE (hoopData s rh.1 rh.2 4 4), hoopData s rh.1 rh.2 0 (64 + ofLE (hoopData s rh.1 rh.2 12 4))⟩

/-- File segments of the job, ascending, with their contexts (09 R263). -/
def fileSegs (s : State) : List (Nat × Nat) :=
  let l := (s.job.map (·.segCtx)).getD []
  ((List.range 256).filterMap (fun g => l.find? (fun x => x.1 = g))).filter (fun x =>
    !(liveEntries s).any (fun i => rd s (Fk.liveSlotSegment i) = x.1))

/-- The items that the file segments take: each the oldest eligible one left of its context. -/
def fileTakes (s : State) : List (Nat × Nat × Item) :=
  ((fileSegs s).foldl (fun (y : List (Nat × Nat × Item) × List Nat) x =>
    let k := (y.2.filter (fun c => decide (c = x.2))).length
    match ((getCtx s x.2).items.filter (eligible s))[k]? with
    | some i => (y.1 ++ [(x.1, x.2, i)], y.2 ++ [x.2])
    | none => (y.1, y.2 ++ [x.2])) ([], [])).1

/-- Region and hoop of receive stream `k` (15 R423). -/
def rxsHoop (s : State) (k : Nat) : Nat × Nat := (rd s (Fk.tlRxsRegion k), rd s (Fk.tlRxsHoop k))

/-- The bytes of slot `i` of a hoop. -/
def slotBytes (s : State) (r h i : Nat) : List Byte :=
  let n := posOf s r
  devBytes s [] (hoopSlotAddr s n h i) (hoopBytes s n h)

/-- The REMOTE inputs: slots of streams from outside the job that have arrived since the last release; VALUE counts the slot
among those of its hoop. -/
def remoteIns (s : State) : List WitIn :=
  ((s.job.map (·.outside)).getD []).flatMap (fun x =>
    let rh := rxsHoop s x.1
    let t := rd s (Fk.hoopTail (posOf s rh.1) rh.2)
    (List.range (wrapSub 32 t x.2)).map (fun k =>
      ⟨wkRemote, 0, x.1, (x.2 + k + 1) % 2 ^ 32, slotBytes s rh.1 rh.2 (x.2 + k)⟩))

/-- Reference `p` of live context `c` is confirmed at this release (14 R390): its ingot was complete in the drain hoop no later than
its slot's availability time, or has been sent. -/
def refSure (s : State) (c : Nat) (p : RefPic) : Bool :=
  let d := (getCtx s c).drain
  d.sent.contains (true, p.slot) ||
    d.recs.any (fun x => x.video && !x.pre && x.isPic && x.slots.isSome && decide (x.slot = p.slot) && decide (x.doneAt ≤ slotTime s c false p.slot))

/-- The CONFIRM inputs: references of live contexts that become confirmed. -/
def confirmIns (s : State) : List WitIn :=
  (List.range 128).flatMap (fun c =>
    if rd s (Fk.ctxCfgMode c) = 2 ∧ rd s (Fk.ctxCfgDir c) = 0 then
      ((getS s c false).refs.filter (fun p => !p.confirmed && refSure s c p)).map (fun p => ⟨wkConfirm, 0, c, p.num, []⟩)
    else [])

/-- The job has set T_D of drain `c` (R396). -/
def drainStarted (s : State) (c : Nat) : Bool := decide (mget (fun _ => 0) s.witSeq (witKey wkStart c) ≠ 0)

/-- The START inputs: drains with AUTO_START whose context has a ready segment for the first time. -/
def startIns (s : State) (ready : List Nat) : List WitIn :=
  ready.eraseDups.filterMap (fun c =>
    if rd s (Fk.drainCfgEnable c) = 1 ∧ rd s (Fk.drainCfgAutoStart c) = 1 ∧ drainStarted s c = false then
      some ⟨wkStart, 0, c, (rd s Fk.epochTimeNs + slotOffset s c (decide (rd s (Fk.drainCfgVideo c) = 0)) 1) % 2 ^ 64, []⟩
    else none)

/-- The DRAIN inputs: the choices of the drains since the last release. -/
def drainIns (s : State) : List WitIn := s.drainWit.map (fun x => ⟨wkDrain, b2n x.2.2, x.1, x.2.1, []⟩)

/-- The RUN of the job, where its shape table is an input: a descriptor of the job is bucketed (20 R519 c24). -/
def shapeRun (s : State) : Option (Entry × List Byte) :=
  s.job.bind (fun j => if j.descs.any (fun d => decide (d.bkt ≠ 0)) then j.run.map (fun e => (e, j.shapeTab)) else none)

/-- The input that the shape table of RUN is at relative epoch 0: a WORK input of SOURCE 0 (20 R519 c24). -/
def shapeIns (s : State) : List WitIn :=
  match shapeRun s with
  | some x => if relEpoch s = 0 then [⟨wkWork, 0, 0, x.1.idx, x.2⟩] else []
  | none => []

/-- The inputs of a release outside REPLAY. -/
def inputsNow (s : State) : List WitIn :=
  let live := (liveEntries s).filter (liveMarked s)
  let takes := fileTakes s
  shapeIns s ++ takes.map (fun x => workIn x.2.2) ++ live.map (ingressIn s) ++ remoteIns s ++ confirmIns s ++
    startIns s (live.map (fun i => rd s (Fk.liveSlotCtx i)) ++ takes.map (fun x => x.2.1)) ++ drainIns s

/-! Replay (16 R438, R439). -/

/-- Entry `k` past WDEV of the log area. -/
def logEntry (s : State) (k : Nat) : List Byte :=
  devBytes s [] (rd s Fk.auditWbase + (rd s Fk.auditWdev + 64 * k) % max 64 (4096 * rd s Fk.auditWsizeSize4k)) 64

/-- Entries supplied and not consumed. -/
def logCount (s : State) : Nat := (rd s Fk.auditWhost - rd s Fk.auditWdev) / 64

/-- EPOCH of a log entry. -/
def logEpoch (b : List Byte) : Nat := le b 8 8

/-- The supplied entries from WDEV on that name relative epoch `rel`; they stand first. -/
def logDue (s : State) (rel : Nat) : List (List Byte) :=
  ((List.range (logCount s)).map (logEntry s)).takeWhile (fun b => decide (logEpoch b = rel))

/-- The item that a WORK entry names. -/
def itemNamed (s : State) (q idx : Nat) : Option Item :=
  (List.range 128).findSome? (fun c => (getCtx s c).items.find? (fun x => decide (x.entry.q = q) && decide (x.entry.idx = idx) && x.doneAt.isSome))

/-- The bulk data of a log entry, once they are present. -/
def logBulk (s : State) (b : List Byte) : Option (List Byte) :=
  let src := le b 2 2
  match le b 0 1 with
  | 1 => ((itemNamed s src (le b 0x10 8)).map (fun x => (workIn x).bulk)).orElse (fun _ =>
      (shapeRun s).bind (fun x => if src = 0 ∧ le b 0x10 8 = x.1.idx then some x.2 else none))
  | 2 => match (liveEntries s).find? (fun i => rd s (Fk.liveSlotCtx i) = src) with
    | some i =>
      let rh := liveHoop s i
      let n := posOf s rh.1
      if (List.range (hoopCount s n rh.2)).any (fun k => (slotMark s rh.1 rh.2 (rd s (Fk.hoopHead n rh.2) + k)).isSome) then
        some (ingressIn s i).bulk else none
    | none => none
  | 3 =>
    let rh := rxsHoop s src
    let n := posOf s rh.1
    let v := le b 0x10 8
    let d := wrapSub 32 (rd s (Fk.hoopTail n rh.2)) v
    if d < 2 ^ 31 ∧ v ≠ 0 then some (slotBytes s rh.1 rh.2 (v - 1)) else none
  | _ => some []

/-- Relative epoch that the next release will have: it starts a waiting job, or is the running job's next. -/
def nextRel (s : State) : Nat :=
  match s.job with
  | none => 0
  | some j =>
    if j.waiting then (match s.resume with
      | some v => v.rel + 1
      | none => 0)
    else (relEpoch s + 1) % 2 ^ 64

/-- A release of a replayed job must wait: no entry of a later epoch is supplied, or bulk data of a due entry are not present (log entry 23). -/
def replayBlocked (s : State) : Bool :=
  rd s Fk.auditWcfgWmode = wmReplay && (match s.job with
  | none => false
  | some j => (j.waiting || running s) && decide (j.stops = []) &&
    (let due := logDue s (nextRel s)
     decide (due.length = logCount s) || due.any (fun b => (logBulk s b).isNone)))

/-- The first due entry that faults the job: a GAP, or bulk data of another digest. -/
def replayBad (s : State) (due : List (List Byte)) : Option (List Byte) :=
  due.find? (fun b => decide (le b 0 1 = wkGap) ||
    (decide (le b 0x18 8 ≠ 0) && decide (sha256 ((logBulk s b).getD []) ≠ (b.drop 32).take 32)))

/-- An input of a log entry. -/
def inputOf (s : State) (b : List Byte) : WitIn := ⟨le b 0 1, le b 1 1, le b 2 2, le b 0x10 8, (logBulk s b).getD []⟩

/-! Taking inputs. -/

/-- What an input does at once (19 R507, 14 R390, R396). -/
def inputDo (s : State) (i : WitIn) : State :=
  let s := witAdd s i
  match i.kind with
  | 1 => match itemNamed s i.source i.value with
    | none => s
    | some x =>
      let s := modCtx s x.entry.ctx (fun y => { y with items := y.items.map (fun z => if z.entry = x.entry then { z with taken := true } else z) })
      putSlot s x.entry.q x.entry.slot (slotLeave (getSlot s x.entry.q x.entry.slot) .pending)
  | 3 => modJob s (fun j => { j with outside := j.outside.map (fun x => if x.1 = i.source then (x.1, i.value) else x) })
  | 4 => modS s i.source false (fun x => { x with refs := x.refs.map (fun p => if p.num = i.value then { p with confirmed := true } else p) })
  | 5 => modCtx (wr s (Fk.drainStartTD i.source) i.value) i.source (fun x => { x with drain := { x.drain with
      vq := [], aq := [], vSlot := 0, aSlot := 0, cycle := 0, dgram := 0, sent := [], vEnd := none, aEnd := none } })
  | _ => s

/-- The ready segments for the inputs of a release: live ones by their INGRESS inputs, file ones by the WORK inputs of their context. -/
def readySegs (s : State) (l : List WitIn) : List Nat :=
  let live := ((liveEntries s).filter (fun i => l.any (fun w => decide (w.kind = wkIngress) && decide (w.source = rd s (Fk.liveSlotCtx i))))).map
    (fun i => rd s (Fk.liveSlotSegment i))
  let works := fun (c : Nat) => (l.filter (fun w => decide (w.kind = wkWork) &&
    (match itemNamed s w.source w.value with
     | some x => decide (x.entry.ctx = c)
     | none => false))).length
  let segs := fileSegs s
  let file := ((List.range segs.length).zip segs).filter (fun y =>
    decide (((segs.take y.1).filter (fun z => decide (z.2 = y.2.2))).length < works y.2.2))
  live ++ file.map (fun y => y.2.1)

/-- Begin coding what an input brings to a context that encodes. -/
def inputCode (s : State) (i : WitIn) : State :=
  match i.kind with
  | 1 => match itemNamed s i.source i.value with
    | none => s
    | some x =>
      let c := x.entry.ctx
      let prep := decide ((s.job.map (·.kind)).getD 0 = 1)
      let ch := if !prep && ((getS s c false).pkg.isSome || (getS s c true).pkg.isSome) then (getCtx s c).chain else (s.job.map (·.chain)).getD []
      let s := modCtx s c (fun y => { y with items := y.items.map (fun z => if z.entry = x.entry then { z with chain := ch } else z) })
      if prep || decide (rd s (Fk.ctxCfgDir c) = 1) then s
      else
        let a := (getS s c false).pkg.isNone
        let slot := match (getS s c a).lastSlot with
          | some n => n + 1
          | none => 0
        modS (encOpen s c a slot x.boxes x.bad) c a (fun y => { y with lastSlot := some slot })
  | 2 =>
    if rd s (Fk.ctxCfgDir i.source) = 1 then s
    else
      let a := decide (le i.bulk 0 1 = 1)
      modS (encOpen s i.source a i.value [] false) i.source a (fun y => { y with lastSlot := some i.value })
  | _ => s

/-- RAN or IDLE of every enabled LIVE entry (09 R264). -/
def liveStats (s : State) (ready : List Nat) : State :=
  (liveEntries s).foldl (fun s i =>
    bump s (if ready.contains (rd s (Fk.liveSlotSegment i)) then Fk.liveStatRan i else Fk.liveStatIdle i) 32) s

/-- Regions go on after a release: those at a BAR retire it (06 R181). -/
def resumeRegions (s : State) : State :=
  (List.range 8).foldl (fun s r => if (getRegion s r).run = .barrier then retire s r else s) s

/-- The job's work of a new epoch: its inputs, its ready segments, and its regions go on. A replay entry that is wrong faults the job and nothing is
taken. -/
def openEpoch (s : State) : State :=
  let replay := decide (rd s Fk.auditWcfgWmode = wmReplay)
  let due := if replay then logDue s (relEpoch s) else []
  match replayBad s due with
  | some b =>
    jobFault (raise s Fk.auditStatusWitnessMismatch) ⟨fcWitnessMismatch, 3, 4, srcChip, noInstr, toLE 1 (le b 0 1) ++ toLE 1 0 ++ toLE 2 (le b 2 2) ++ toLE 4 (le b 4 4)⟩
  | none =>
    let ins := if replay then due.map (inputOf s) else inputsNow s
    let s := if replay then wr s Fk.auditWdev (rd s Fk.auditWdev + 64 * due.length) else s
    let ready := readySegs s ins
    let s := (witSort ins).foldl inputDo { s with drainWit := [] }
    let s := liveStats ((witSort ins).foldl inputCode s) ready
    resumeRegions { s with regions := mall (fun _ => regionEmpty) (fun x => { x with ready := ready }) s.regions }

/-! Start, pause and end at a release. -/

/-- Job-scope counters and FAULT.JOB clear at a job's first release (18 R484, R487). -/
def clearJobScope (s : State) : State :=
  let s := (List.range 14).foldl (fun s k => wr (wr s (Fk.tallyCount k) 0) (Fk.tallySat k) 0) s
  wr (wr (wr s Fk.faultJobJobCode 0) Fk.faultJobHwSeq 0) Fk.faultJobJobTag (rd s Fk.tlCtlJobTag)

/-- Holds with REASON 0 that a pause began end when a job starts. -/
def endPauseHolds (s : State) : State :=
  let free := fun (x : Ctx) => if x.drain.holding = some 0 then { x with drain := { x.drain with holding := none } } else x
  { s with ctxs := mall (fun _ => ctxEmpty) free s.ctxs }

/-- The drain of context `c` when its job resumes from `v`: one that has run on under the same T_D keeps its place, and another continues from the saved
one (16 R445; 20 R519 c33); the units that it holds are the saved ones. -/
def resumeDrain (s : State) (v : Saved) (c : Nat) (d : Drain) : Drain :=
  if (v.starts.find? (fun y => y.1 = c)).all (fun y => y.2 = rd s (Fk.drainStartTD c)) then { (getCtx s c).drain with recs := d.recs }
  else { d with holding := none }

/-- Restore what a save image held (16 R445, R447); a droop in force and the operand stores are the part's own. -/
def restoreSaved (s : State) (v : Saved) : State :=
  let kept := fun (t : State) r => modRegion t r (fun x =>
    { x with droopExt := (getRegion s r).droopExt, droopClear := (getRegion s r).droopClear, chunks := (getRegion s r).chunks })
  let s := (logicals s).foldl kept { s with regions := v.regions, witSeq := v.witSeq }
  let s := (v.hoops.filter (fun x => decide (x.1 < 8 ∧ x.2.1 < 64))).foldl (fun s x => wr (wr s (Fk.hoopHead x.1 x.2.1) x.2.2.1) (Fk.hoopTail x.1 x.2.1) x.2.2.2) s
  let s := v.ctxs.foldl (fun s x => modCtx s x.1 (fun y => { y with chain := x.2.chain, vs := x.2.vs, as_ := x.2.as_, drain := resumeDrain s v x.1 x.2.drain })) s
  let s := (v.starts.filter (fun x => decide (x.1 < 128))).foldl (fun s x => wr s (Fk.drainStartTD x.1) x.2) s
  let s := wr s (Fk.tallyCount tNarrowSat) v.sat
  modJob s (fun j => { j with flags := v.flags, chain := v.chain, relBase := wrapSub 64 (rd s Fk.epochCount) (v.rel + 1) })

/-- The first release of a job (19 R504): its flags, counters and FAULT.JOB clear, its regions begin their streams, and a resumed job
continues from its image; the holds that the drains sent since its pause are its DRAIN inputs (16 R444, R447). -/
def startJob (s : State) (j : Job) : State :=
  let s := clearJobScope (endPauseHolds s)
  let s := { s with witSeq := [], drainWit := if s.resume.isSome then s.drainWit else [] }
  let s := modJob s (fun j => { j with
    waiting := false, first := false, flags := 0, relBase := rd s Fk.epochCount, chain := List.replicate 32 0, posts := [], pausing := false,
    saving := false, faulted := false,
    outside := j.outside.map (fun x => (x.1, rd s (Fk.hoopHead (posOf s (rxsHoop s x.1).1) (rxsHoop s x.1).2))) })
  let begin_ := fun (s : State) r => modRegion s r (fun x => { regionEmpty with
    pc := pcFrom j r 0, shapes := x.shapes, marks := x.marks, fill := x.fill, droopExt := x.droopExt, droopClear := x.droopClear, chunks := x.chunks
    run := if (jobRegions j).contains r then .running else .idle })
  let s := (logicals s).foldl begin_ s
  let s := match s.resume with
    | some v => restoreSaved { s with resume := none } v
    | none => s
  wr s Fk.bootJobJstate jRunning

/-- Drains of live contexts send holds with REASON 0 from their next slot (16 R444). -/
def pauseDrains (s : State) : State :=
  ((List.range 128).filter (fun c => rd s (Fk.drainCfgEnable c) = 1 ∧ rd s (Fk.ctxCfgMode c) = 2)).foldl
    (fun s c => modCtx s c (fun x => { x with drain := { x.drain with holding := some 0 } })) s

/-- Pause at this release: nothing is dispatched, and the save image is written (16 R444). -/
def pauseJob (s : State) : State :=
  let s := modJob s (fun j => { j with pausing := false, saving := true })
  pauseDrains (wr s Fk.bootJobJstate jPaused)

/-- Items not yet taken complete as CANCELLED (19 R502). -/
def cancelItems (s : State) : State :=
  (List.range 128).foldl (fun s c =>
    let gone := (getCtx s c).items.filter (fun x => !x.taken)
    let s := modCtx s c (fun x => { x with items := x.items.filter (·.taken) })
    gone.foldl (fun s x => completeEntry s x.entry { entryRec x.entry stCancelled 0 with slot := x.entry.slot }) s) s

/-- STOP at this release: the job ends, and items not yet taken are cancelled. -/
def stopJob (s : State) : State := stopRegions (endJob (cancelItems s))

/-! The release (02 R52). -/

/-- EPOCH.COUNT after a release: a part new to its domain takes the low half from the RELEASE it acts on (15 R412). -/
def nextCount (s : State) (num : Option Nat) : Nat :=
  let c := rd s Fk.epochCount
  match num with
  | some e => if s.root.joined then (c + 1) % 2 ^ 64 else (c / 2 ^ 32 * 2 ^ 32 + wrapSub 32 e 1 + 1) % 2 ^ 64
  | none => (c + 1) % 2 ^ 64

/-- The edge of the release: EPOCH.COUNT advances, EPOCH.CYCLE, SCYC and LAG are 0, ballast stops, open exchanges end, and the barrier is over; arrivals
for the next one stay. -/
def releaseEdge (s : State) (num : Option Nat) : State :=
  let s := (logicals s).foldl (fun s r => trace s 1 0 (srcRegion s r) (toLE 4 (rd s (Fk.rschedLag (posOf s r))))) s
  let s := wr (wr s Fk.epochCount (nextCount s num)) Fk.epochCycle 0
  let s := (logicals s).foldl (fun s r =>
    let n := posOf s r
    modRegion (ballastStop (wr (wr s (Fk.rschedScyc n) 0) (Fk.rschedLag n) 0) r) r (fun x => { x with openEx := 0, landing := [], handed := none, lastStretch := none })) s
  let next := (rd s Fk.epochCount + 1) % 2 ^ 32
  let kept := s.root.arrivals.filter (fun x => match x.2 with
    | some a => decide (a.epoch = next) && !a.isNew
    | none => false)
  let s := wr (wr (wr (wr s Fk.tlBarrierWaitEpoch (if kept = [] then 0 else next)) Fk.tlBarrierChildArrived ((kept.map (fun x => 2 ^ x.1)).foldl (· + ·) 0))
    Fk.tlBarrierSelfArrived 0) Fk.tlBarrierSentUp 0
  { s with root := { s.root with
    prevCc := some s.cc, joined := true, firstArr := (kept.filterMap (fun x => x.2.map (·.since))).min?, starved := false, relPend := none, arrivals := kept } }

/-- A release: sets apply, a waiting job starts, a running one stops, pauses or goes on; then every region is at a governor
point (17 R456), and a stretched region's delay counts (R52). -/
def doRelease (s : State) (num : Option Nat) : State :=
  let s := applyPending (releaseEdge s num)
  let was := running s
  let late := fun r => b2n (stretchedNow s r)
  let s := match s.job with
    | none => s
    | some j =>
      if j.waiting then (if j.stops ≠ [] then stopJob s else openEpoch (startJob s j))
      else if running s then
        (if j.stops ≠ [] then stopJob s else if j.pausing then pauseJob s else openEpoch s)
      else s
  let s := wr s Fk.bootJobRelEpoch (if was || running s then relEpoch s % 2 ^ 32 else rd s Fk.bootJobRelEpoch)
  (logicals s).foldl (fun s r => governorPoint (diverge s tDivStretchRelease (late r)) r true) s

/-- A release that is due waits while a replay input is missing (16 R439). -/
def tryRelease (s : State) (num : Option Nat) : State :=
  if replayBlocked s then
    statusAlarm { s with root := { s.root with starved := true } } Fk.auditStatusReplayStarved 12
  else doRelease s num

/-- A release of a SOLO part is due: a running job's regions have all arrived, or a RUN waits for its first release; with the nominal
edge on which it falls (02 R53, 19 R504). -/
def soloDue (s : State) : Option Nat :=
  match s.job with
  | none => none
  | some j =>
    let t := max (s.root.lastArr + 64) ((s.root.prevCc.map (· + 1024)).getD 0)
    if role s ≠ roleSolo ∨ ¬ s.part.clocks ∨ ¬ s.part.service then none
    else if j.waiting then some t
    else if running s ∧ allArrived s ∧ ¬ allHalted s then some t else none

/-- SOLO_RELEASE. -/
def execSoloRelease (s : State) : Ans :=
  .next (match soloDue s with
  | some t => tryRelease (advanceTo s t) none
  | none => s)

/-- CCLK periods until the part's calibrated time reaches `t` ns (02 R58, R60). -/
def ccUntil (s : State) (t : Nat) : Nat :=
  let cal : Int := if role s = roleMember then sext 48 (rd s Fk.epochCalCalOffset) else 0
  let gap : Int := ((t * 196608 : Nat) : Int) - ((timeThirds s : Nat) : Int) - 3 * cal
  (gap.toNat + 131071) / 131072

/-- EPOCH_RELEASE: the release that is due for the part takes place: at its release time in a domain (R52, R60), else as R53 gives. -/
def execEpochRelease (s : State) : Ans :=
  .next (if role s = roleSolo then (match soloDue s with
    | some t => tryRelease (advanceTo s t) none
    | none => s)
  else match s.root.relPend with
  | some (e, t) => if s.part.clocks then tryRelease (advance s (ccUntil s t)) (some e) else s
  | none => s)

/-- REPLAY_WAIT_END: a release that waited for its inputs takes place once they are present, and counts once. -/
def execReplayWaitEnd (s : State) : Ans :=
  .next (if s.root.starved ∧ ¬ replayBlocked s ∧ s.part.clocks then
    diverge (doRelease s (s.root.relPend.map (·.1))) tDivReplay 1
  else s)

/-! The log area (16 R437). -/

/-- Bytes of the log area. -/
def logSize (s : State) : Nat := 4096 * rd s Fk.auditWsizeSize4k

/-- The log area is full. -/
def logFull (s : State) : Bool := decide (wrapSub 64 (rd s Fk.auditWdev) (rd s Fk.auditWhost) ≥ logSize s)

/-- Write one entry at WDEV. -/
def logPut (s : State) (w : Witness) : State :=
  wr (devPut s (rd s Fk.auditWbase + rd s Fk.auditWdev % max 1 (logSize s)) (witBytes w)) Fk.auditWdev ((rd s Fk.auditWdev + 64) % 2 ^ 64)

/-- The GAP entry for the entries lost. -/
def gapWit (s : State) : Witness :=
  ⟨wkGap, 0, 0, mget (fun _ => 0) s.witSeq (witKey wkGap 0), relEpoch s, s.witLost, 0, List.replicate 32 0⟩

/-- An entry that finds the area full is lost. -/
def witLose (s : State) : State := statusAlarm { s with witLost := s.witLost + 1 } Fk.auditStatusWitnessFull 12

/-- WITNESS_WRITE: the oldest entry whose digest is complete is written, behind a GAP where entries were lost; or it is lost. -/
def execWitnessWrite (s : State) : Ans :=
  .next (match s.witness with
  | [] => s
  | w :: l =>
    if hotSpan s (rd s Fk.auditWbase) (logSize s) then s else
    let s := { s with witness := l }
    if logFull s then witLose s
    else if s.witLost = 0 then logPut s w
    else
      let g := gapWit s
      let s := { logPut s g with witLost := 0, witSeq := mput (fun _ => 0) s.witSeq (witKey wkGap 0) (g.seq + 1) }
      if logFull s then witLose s else logPut s w)

/-! Save images (16 R445 to R448). -/

/-- The spans that the job writes: its descriptors without RONLY (06 R155, R552). -/
def writeSpans (s : State) (j : Job) : List (Nat × Nat) :=
  (((List.range j.descs.length).zip j.descs).filter (fun x => !x.2.ronly)).flatMap (fun x => descSpans s j x.1 x.2)

/-- Contexts with a package, ascending, and the packages in the order of section 6: each once, by the lowest context that uses it. -/
def linkedMh (s : State) : List (List Byte) :=
  ((List.range 128).flatMap (fun c => ((getS s c false).pkg.toList ++ (getS s c true).pkg.toList).map (·.mh))).eraseDups

/-- The merged Hallmarks of a video context's CURRENT and PENDING sets; 32 zero bytes for one that is absent. -/
def graftHms (s : State) (c : Nat) : List Byte :=
  let x := getS s c false
  match x.pkg with
  | none => []
  | some p => [x.current, x.pendingG].flatMap (fun g => match g with
    | some g => setHallmark p (some g)
    | none => List.replicate 32 0)

/-- The data of section 6. -/
def section6 (s : State) : List Byte := (linkedMh s).flatMap id ++ (List.range 128).flatMap (graftHms s)

/-- A section: its record, and its data padded to 64 bytes (R446). -/
def sectionBytes (kind addr : Nat) (data : List Byte) : List Byte :=
  toLE 4 kind ++ toLE 4 0 ++ toLE 8 addr ++ toLE 8 data.length ++ toLE 8 0 ++ data ++
    List.replicate (roundUp data.length 64 - data.length) 0

/-- The image: header and sections; `others` holds those of kinds 2 to 5, as (kind, address, data). -/
def saveImage (s : State) (j : Job) (others : List (Nat × Nat × List Byte)) : List Byte :=
  let secs := (writeSpans s j).map (fun x => sectionBytes 1 x.1 (devBytes s [] x.1 x.2)) ++
    others.map (fun x => sectionBytes x.1 x.2.1 x.2.2) ++ [sectionBytes 6 0 (section6 s)]
  let body := secs.flatMap id
  toLE 4 0x45564153 ++ toLE 2 1 ++ toLE 2 0 ++ profileRecord s ++ toLE 8 (relEpoch s) ++ j.progDigest ++ toLE 4 secs.length ++ toLE 4 0 ++
    toLE 8 (128 + body.length) ++ List.replicate 48 0 ++ body

/-- The halves of that image that hold poison: those of a memory extent whose halves are poisoned (03 R84). -/
def savePoison (s : State) (j : Job) (others : List (Nat × Nat × List Byte)) : List Bool :=
  List.replicate 4 false ++ (writeSpans s j).flatMap (fun x => false :: (List.range (roundUp x.2 64 / 32)).map (fun i => devBad s [] (x.1 + 32 * i) (min 32 (x.2 - 32 * i)))) ++
    others.flatMap (fun x => List.replicate (1 + roundUp x.2.2.length 64 / 32) false) ++ List.replicate (1 + roundUp (section6 s).length 64 / 32) false

/-- The save image is written at SAVE_BASE. -/
def putSave (s t : State) (j : Job) (others : List (Nat × Nat × List Byte)) : State :=
  let a := rd s Fk.auditSaveBase
  devWrite t [] a (saveImage s j others) (fun h => (savePoison s j others).getD (h - a / 32) false)

/-- What the image just written holds beside memory. -/
def savedNow (s : State) (j : Job) : Saved :=
  { addr := rd s Fk.auditSaveBase, rel := relEpoch s
    regions := mall (fun _ => regionEmpty) (fun x => { x with ballastW := 0, openEx := 0, landing := [], handed := none, lastStretch := none }) s.regions
    hoops := (List.range 8).flatMap (fun n => (List.range 64).filterMap (fun h =>
      if rd s (Fk.hoopCfgEnable n h) = 1 then some (n, h, rd s (Fk.hoopHead n h), rd s (Fk.hoopTail n h)) else none))
    ctxs := s.ctxs, flags := j.flags, sat := rd s (Fk.tallyCount tNarrowSat), chain := j.chain, witSeq := s.witSeq
    starts := (List.range 128).filterMap (fun c => if rd s (Fk.drainCfgEnable c) = 1 then some (c, rd s (Fk.drainStartTD c)) else none) }

/-- The regions as a resumed job finds them: those at the BAR of the pause release go on behind it. -/
def passBarrier (s : State) : State := resumeRegions s

/-- SAVE_COMPLETE: the save image of a paused job is complete, or its writing fails (`ok` false). `others` holds the sections of kinds 2 to 5 as
written. -/
def execSaveComplete (ok : Bool) (others : List (Nat × Nat × List Byte)) (s : State) : Ans :=
  .next (match s.job with
  | none => s
  | some j =>
    if ¬ j.saving ∨ rd s Fk.bootJobJstate ≠ jPaused ∨ ¬ s.part.clocks ∨ hotSpan s (rd s Fk.auditSaveBase) (saveImage s j others).length then s
    else
      let s1 := wr (modJob s (fun j => { j with saving := false })) Fk.auditSaveCtlPause 0
      if ok then
        raise { putSave s s1 j others with saved := some (savedNow (passBarrier s) j) } Fk.auditStatusSaved
      else raise s1 Fk.auditStatusSaveFail)

end Sys2Proof.Machine
end

