-- ==== Sys2Proof/Machine/Load.lean ====
section
/-! DEFINITION. Program images, model packages and the admission of a LOAD (06 R153 to R161; 09 R240 to R245; 10 R270, R271; 11 R302; 16 R440, R446, R447; 19
R503; 02 R43 to R45; 03 R73, R77). -/

namespace Sys2Proof.Machine

/-! Images (06 R153 to R161). -/

/-- A descriptor from its 32 bytes (R155). -/
def parseDesc (b : List Byte) : Desc :=
  let w0 := le b 0 8
  let w1 := le b 8 8
  let w2 := le b 16 8
  let w3 := le b 24 8
  { base := bits w0 0 52, fmt := bits w0 52 4, kind := bits w0 56 4, pad := bits w0 60 3, swpad := bit w0 63
    n0 := bits w1 0 20, n1 := bits w1 20 20, n2 := bits w1 40 20, bkt := bits w1 60 4
    pitch1 := bits w2 0 28, pitch2 := bits w2 28 28, aux := bits w2 56 6, auxEn := bit w2 62, ronly := bit w2 63
    padc := bits w3 0 32, pstride := bits w3 32 28 }

/-- An edge-table entry from its 16 bytes (R154). -/
def parseEdge (b : List Byte) : Edge := ⟨le b 0 4, le b 4 1, le b 5 1, le b 6 1⟩

/-- A bucket set from its 128 bytes (R161): the sizes of a dimension are its first CNT entries. -/
def parseBkt (b : List Byte) : Bkt :=
  ⟨le b 0 1, le b 1 1, (List.range 3).map (fun d => (List.range (le b (2 + d) 1)).map (fun i => le b (0x10 + 32 * d + 4 * i) 4))⟩

/-- A placement record from its 64 bytes (09 R245). -/
def parsePlace (b : List Byte) : Place :=
  { instr := le b 0 4, region := le b 4 1, fm := le b 5 1, fn := le b 6 1, combo := le b 7 1, start := le b 8 4, span := le b 12 4
    forges := le b 0x10 8, beta := le b 0x18 4, gamma := le b 0x1C 4, eta := le b 0x20 4, stagger := le b 0x26 2
    dHearth := le b 0x30 2, dCellar := le b 0x32 2, share := le b 0x24 1, wmode := le b 0x25 1, shareLo := le b 0x28 4
    shareHi := le b 0x2C 4, unit := le b 0x34 1, lanes := le b 0x35 1, segment := le b 0x36 1 }

/-- `n` records of `w` bytes from offset `o`. -/
def records {α : Type} (f : List Byte → α) (l : List Byte) (o w n : Nat) : List α := (List.range n).map (fun i => f ((l.drop (o + w * i)).take w))

/-- The sections of an image, as (offset, bytes): descriptors, edges, instructions, Izuno-S image, schedule, constants, buckets. -/
def imageSections (l : List Byte) : List (Nat × Nat) :=
  [(le l 0x10 8, 32 * le l 9 1), (le l 0x18 8, 16 * le l 0xA 2), (le l 0x20 8, 16 * le l 0xC 4), (le l 0x28 8, le l 0x30 4),
    (le l 0x38 8, le l 0x40 8), (le l 0x48 8, le l 0x50 8), (le l 0x58 8, 128 * le l 0x60 1)]

/-- Program digest of the image `l` (16 R440). -/
def imageDigest (l : List Byte) : List Byte :=
  sha256 (l.take ((imageSections l).foldl (fun m s => if s.2 = 0 then m else max m (s.1 + s.2)) 128))

/-- No two of the spans share a byte. -/
def spansApart : List (Nat × Nat) → Bool
  | [] => true
  | x :: l => l.all (fun y => !spansMeet x y) && spansApart l

/-- The header keeps R153 and its MODE word the fixed values of 04 R96. -/
def headerKeeps (l : List Byte) : Bool :=
  let mode := le l 6 2
  let nb := le l 0x30 4
  let secs := imageSections l
  decide (128 ≤ l.length) && decide (le l 0 4 = 0x4F4E5A49) && decide (le l 4 2 = 1) && decide (bits mode 2 2 = 0) &&
    decide (bits mode 4 4 = 2) && decide (bits mode 8 4 = 1) && decide (bits mode 12 4 = 0) && decide (le l 8 1 ≤ 3) &&
    decide (1 ≤ le l 9 1) && decide (le l 9 1 ≤ 64) && decide (le l 0xA 2 ≤ 4096) && decide (1 ≤ le l 0xC 4) &&
    decide (le l 0xC 4 ≤ 1048576) && (decide (le l 0xA 2 ≠ 0) || decide (le l 0x18 8 = 0)) && decide (nb ≤ 65536) && decide (nb % 4 = 0) &&
    (decide (nb ≠ 0) || (decide (le l 0x28 8 = 0) && decide (le l 0x34 4 = 0))) &&
    (decide (nb = 0) || (decide (le l 0x34 4 < nb) && decide (le l 0x34 4 % 4 = 0))) && decide (le l 0x60 1 ≤ 15) &&
    (decide (le l 0x60 1 ≠ 0) || decide (le l 0x58 8 = 0)) && decide (le l 0x61 31 = 0) &&
    secs.all (fun x => decide (x.1 % 64 = 0) && (decide (x.2 = 0) || decide (x.1 + x.2 ≤ l.length))) &&
    spansApart ((0, 128) :: secs.filter (fun x => decide (x.2 ≠ 0)))

/-- The schedule section of an image. -/
def schedOf (l : List Byte) : List Byte := (l.drop (le l 0x38 8)).take (le l 0x40 8)

/-- `n` slot tables from offset `o` of a schedule section; none where one breaks R244. -/
def parseTables (l : List Byte) : Nat → Nat → Option (List SlotTable)
  | _, 0 => some []
  | o, n + 1 =>
    let res := le l o 4
    let k := le l (o + 4) 2
    let size := 64 * ceilDiv (16 + 2 * k) 64
    if o + size > l.length ∨ res ≥ 65536 ∨ le l (o + 6) 10 ≠ 0 ∨ le l (o + 16 + 2 * k) (size - 16 - 2 * k) ≠ 0 then none
    else (parseTables l (o + size) n).map (fun t => ⟨bits res 12 4, bits res 0 12, (List.range k).map (fun i => le l (o + 16 + 2 * i) 2)⟩ :: t)

/-- A table set from its directory entry at `o`. -/
def parseTset (l : List Byte) (o : Nat) : Option (List SlotTable) :=
  if o + 16 > l.length ∨ le l (o + 12) 4 ≠ 0 ∨ le l o 8 % 64 ≠ 0 then none
  else match parseTables l (le l o 8) (le l (o + 8) 4) with
  | none => none
  | some t => if ((t.map (fun x => (x.kind, x.inst))).eraseDups).length = t.length then some t else none

/-- The table sets of a schedule section. -/
def parseTsets (l : List Byte) : Option (List (List SlotTable)) :=
  (List.range (le l 7 1)).foldr (fun i a => match a, parseTset l (le l 8 8 + 16 * i) with
    | some a, some t => some (t :: a)
    | _, _ => none) (some [])

/-- The schedule section keeps R244; `refresh` is MEM.REFRESH in force. -/
def schedKeeps (l : List Byte) (refresh : Nat) : Bool :=
  decide (64 ≤ l.length) && decide (le l 0 4 = 0x53444353) && decide (le l 4 2 = 1) && decide (le l 6 1 = refresh) &&
    decide (1 ≤ le l 7 1) && decide (le l 7 1 ≤ 16) && decide (1 ≤ le l 0x18 4) && decide (le l 0x28 24 = 0) &&
    decide (le l 8 8 % 64 = 0) && decide (le l 0x10 8 % 64 = 0) && decide (le l 0x20 8 % 64 = 0) &&
    decide (le l 0x20 8 + 1024 ≤ l.length) && decide (le l 0x10 8 + 64 * le l 0x18 4 ≤ l.length) && (parseTsets l).isSome

/-- The job that an image describes, loaded from `addr` for the entry `e`. -/
def parseJob (l : List Byte) (addr : Nat) (e : Entry) (x : LoadIn) : Job :=
  let sc := schedOf l
  { kind := le l 8 1, flush := bit (le l 6 2) 0, strict := bit (le l 6 2) 1
    descs := records parseDesc l (le l 0x10 8) 32 (le l 9 1), edges := records parseEdge l (le l 0x18 8) 16 (le l 0xA 2)
    macros := records (fun b => le b 0 16) l (le l 0x20 8) 16 (le l 0xC 4), burinBytes := le l 0x30 4, burinEntry := le l 0x34 4
    bkts := records parseBkt l (le l 0x58 8) 128 (le l 0x60 1), places := records parsePlace sc (le sc 0x10 8) 64 (le sc 0x18 4)
    segCtx := x.segCtx, outside := x.outside.map (fun k => (k, 0)), banks := [], bankBad := []
    consts := (addr + le l 0x48 8, le l 0x50 8), tsets := (parseTsets sc).getD [], areas := x.areas
    epochMax := le sc 0x1C 4, imageAddr := addr, imageLen := e.len0, saveAddr := 0, saveLen := 0, run := none, shapeTab := [], waiting := false
    first := true, relBase := 0, flags := 0, stops := [], pausing := false, saving := false, resumed := false, faulted := false
    progDigest := imageDigest l
    constDigest := sha256 ((l.drop (le l 0x48 8)).take (le l 0x50 8)), chain := List.replicate 32 0, posts := [] }

/-! Ageing and retirement (02 R44, R45). -/

/-- Key of the cell entry `e` of position `n`: field at bit `b` (R47). -/
def cellKey (n e b : Nat) : Nat := 64 * (0x2100 + 0x100 * n + 8 * (e / 4)) + 16 * (e % 4) + b

/-- FUSE_N, AGE_N, EFF_N and RETIRED of a cell. -/
def cellFuse (s : State) (n e : Nat) : Nat := rd s (cellKey n e 0)
def cellAge (s : State) (n e : Nat) : Nat := rd s (cellKey n e 4)
def cellEff (s : State) (n e : Nat) : Nat := rd s (cellKey n e 8)
def cellRetired (s : State) (n e : Nat) : Bool := rd s (cellKey n e 11) = 1

/-- Forge of an Anvil or Burin cell; 31 for another cell (R47). -/
def cellForge (e : Nat) : Nat := if e < 64 then e / 4 else if e < 96 then (e - 64) / 2 else 31

/-- Retire cell `e` of position `n`: its entry reads as R45 says, the retirement is recorded, and its Forge or region is isolated. -/
def retireCell (s : State) (n e : Nat) : State :=
  let f := cellFuse s n e
  let s := wr (wr (wr s (cellKey n e 4) (7 - f)) (cellKey n e 8) 7) (cellKey n e 11) 1
  let s := alarmEvent (hwRecord s false (hwEntry s 0x0105 0 3 (source n (cellForge e) e) noInstr
    (toLE 1 n ++ toLE 1 e ++ toLE 1 f ++ toLE 1 (7 - f)))) 2
  if e < 96 then isolate s n (2 ^ cellForge e) else if e = 103 then isolate s n 0xFFFF else s

/-- One monitor sample: the margin only rises. The answer says whether it did. DESIGN CHOICE (log entry 104): a retirement counts as a rise also where the
AGE_N reading is 7 − FUSE_N already. -/
def sampleCell (s : State) (x : Nat × Nat × Nat) : State × Bool :=
  let n := x.1
  let e := x.2.1
  let a := x.2.2 % 8
  if n ≥ 8 ∨ e ≥ 104 ∨ cellRetired s n e ∨ a ≤ cellAge s n e then (s, false)
  else if cellFuse s n e + a > 7 then (retireCell s n e, true)
  else (wr (wr s (cellKey n e 4) a) (cellKey n e 8) (cellFuse s n e + a), true)

/-- Sample the monitors: AGE_GEN and AGE_EPOCH change when any margin rose (R46). -/
def sampleMonitors (s : State) (l : List (Nat × Nat × Nat)) : State :=
  let y := l.foldl (fun (y : State × Bool) x => let z := sampleCell y.1 x; (z.1, y.2 || z.2)) (s, false)
  if y.2 then wr (bump y.1 Fk.speedHdrAgeGen 32) Fk.speedAgeEpoch (rd y.1 Fk.epochCount) else y.1

/-! Packages (10 R270, R271, R294; 16 R440). -/

/-- Bytes of a package's header field of 8 bytes. -/
def pkgField (s : State) (a o n : Nat) : Nat := devLE s [] (a + o) n

/-- The entry of the image directory: offset and size. -/
def pkgImage (s : State) (a k : Nat) : Nat × Nat :=
  let o := a + pkgField s a 0x78 8 + 16 * k
  (devLE s [] o 8, devLE s [] (o + 8) 8)

/-- End of the furthest section or directory entry of a package. -/
def pkgEnd (s : State) (a : Nat) : Nat :=
  let f := pkgField s a
  let audio := decide (f 6 1 = 1)
  let spans := [(0, 128), (f 0x40 8, 16 * f 0x48 4), (f 0x58 8, (if audio then 2 else 1) * f 0x30 2), (f 0x68 8, pkgField s (a + f 0x68 8) 8 4),
      (f 0x78 8, 48), pkgImage s a 0, pkgImage s a 1, pkgImage s a 2] ++
    (if audio then [(f 0x70 8, 8 * f 0x10 1)] else [(f 0x50 8, 256), (f 0x60 8, f 0x12 2)])
  spans.foldl (fun m x => if x.2 = 0 then m else max m (x.1 + x.2)) 0

/-- The layers of SYNTH that a Graft may name: MMUL and CONV with INT8 weights, as (index from FIRST, K, N). -/
def pkgLayers (s : State) (a : Nat) : List (Nat × Nat × Nat) :=
  let nets := (List.range (pkgField s a 0x48 4)).map (fun i => a + pkgField s a 0x40 8 + 16 * i)
  match nets.find? (fun o => decide (devLE s [] o 1 = 1) && decide (devLE s [] (o + 1) 1 = 6)) with
  | none => []
  | some o =>
    let img := a + (pkgImage s a 1).1
    let first := devLE s [] (o + 4) 4
    (List.range (devLE s [] (o + 8) 4)).filterMap (fun i =>
      let w := devLE s [] (img + devLE s [] (img + 0x20) 8 + 16 * (first + i)) 16
      let d := parseDesc (devBytes s [] (img + devLE s [] (img + 0x10) 8 + 32 * wordD w 2) 32)
      let op := bits w 120 8
      if (op = 0x10 ∨ op = 0x11) ∧ d.fmt = 1 then
        (if (if op = 0x10 then bit w 49 else bit w 119) then some (i, d.n0, d.n1) else some (i, d.n1, d.n0))
      else none)

/-- An entry of the network directory from its 16 bytes. -/
def parseNet (b : List Byte) : Net := ⟨le b 0 1, le b 1 1, le b 2 1, le b 3 1, le b 4 4, le b 8 4⟩

/-- A package at device address `a`. -/
def parsePkg (s : State) (a : Nat) : Pkg :=
  let f := pkgField s a
  let bank := a + f 0x68 8
  { audio := decide (f 6 1 = 1), modelId := f 8 4, tableVer := pkgField s bank 4 1, stride := f 0xE 2, groups := f 0x10 1
    checker := bit (f 7 1) 0, graftOk := bit (f 7 1) 1, refs := f 0x11 1, hyperDown := f 0x14 1, hyperC := f 0x12 2
    groupC := (List.range 8).map (fun i => f (0x20 + 2 * i) 2), bank := bank, mh := sha256 (devBytes s [] a (pkgEnd s a))
    bankDigest := sha256 (devBytes s [] bank (pkgField s bank 8 4)), layers := pkgLayers s a
    latentC := f 0xC 2, qs := f 0x15 1, ds := f 0x16 1, yRange := (sext 16 (f 0x18 2), sext 16 (f 0x1A 2)), zRange := (sext 16 (f 0x1C 2), sext 16 (f 0x1E 2))
    refC := f 0x30 2, qtab := if f 6 1 = 1 then [] else (List.range 128).map (fun i => devLE s [] (a + f 0x50 8 + 2 * i) 2)
    neutral := devBytes s [] (a + f 0x58 8) ((1 + f 6 1) * f 0x30 2), zk := if f 6 1 = 1 then [] else devBytes s [] (a + f 0x60 8) (f 0x12 2)
    stages := if f 6 1 = 1 then (List.range (f 0x10 1)).map (fun i => (devLE s [] (a + f 0x70 8 + 8 * i) 2, devLE s [] (a + f 0x70 8 + 8 * i + 2) 1)) else []
    nets := (List.range (f 0x48 4)).map (fun i => parseNet (devBytes s [] (a + f 0x40 8 + 16 * i) 16))
    progs := (List.range 3).map (fun k => let m := pkgImage s a k; if m.2 = 0 then List.replicate 32 0 else imageDigest (devBytes s [] (a + m.1) m.2)) }

/-! Banks (11 R302, 12 R328). -/

/-- The banks of a job, as (logical region, device address): of the packages by the home of their context, of every DRAW by its
placement, and of coded tensors by the placements of the instructions that name them. -/
def jobBanks (s : State) (j : Job) (pkgs : List (Nat × Bool × Nat)) : List (Nat × Nat) :=
  let t := { s with job := some j }
  pkgs.map (fun x => (rd s (Fk.ctxCfgHome x.1), x.2.2 + pkgField s x.2.2 0x68 8)) ++
  ((List.range j.macros.length).zip j.macros).flatMap (fun y =>
    let w := y.2
    let draw := if bits w 120 8 = 0x31 ∧ bit w 63 then ((j.descs[wordD w 4]?).map (·.base)).toList else []
    let coded := (wordSlots w).flatMap (fun k => match j.descs[wordD w k]? with
      | some d => if d.kind = 1 then [(codedRec t d).bank] else []
      | none => [])
    (j.places.filter (fun p => p.instr = y.1)).flatMap (fun p => (draw ++ coded).map (fun b => (p.region, b))))

/-- Bytes of the bank at `a`; of one larger than a table store, as many as are too many. -/
def bankBytes (s : State) (a : Nat) : List Byte := devBytes s [] a (min (pkgField s a 8 4) 524352)

/-- The halves of the bank at `a`, by number from its start, that its copy leaves poisoned (03 R84). -/
def bankHoles (s : State) (ue : List Nat) (a : Nat) : List Nat :=
  (List.range (ceilDiv (bankBytes s a).length 32)).filter (fun h => devBad s ue (a + 32 * h) 32)

/-- The banks of a region, byte-identical ones once, exceed a table store. -/
def banksOver (s : State) (banks : List (Nat × Nat)) : Bool :=
  (List.range 8).any (fun r =>
    let l := ((banks.filter (fun x => x.1 = r)).map (fun x => bankBytes s x.2)).eraseDups
    decide (l.foldl (fun n b => n + b.length) 0 > 524288))

/-! Admission (19 R503). -/

/-- Refusal codes. -/
def rcBusy : Nat := 1
def rcImage : Nat := 2
def rcProfile : Nat := 3
def rcSpeed : Nat := 4
def rcForge : Nat := 5
def rcMemdown : Nat := 6
def rcCapacity : Nat := 7
def rcSave : Nat := 8
def rcTemper : Nat := 9
def rcSlotBusy : Nat := 0xA
def rcOpQueue : Nat := 0xB
def rcNoJob : Nat := 0xC
def rcCtx : Nat := 0xD
def rcEntry : Nat := 0xE

/-- MEM.REFRESH in force, as the schedule header writes it (09 R244). -/
def refreshNow (s : State) : Nat := rd s Fk.memRefreshHearth2x + 2 * rd s Fk.memRefreshCellar2x

/-- The image of a LOAD can be read and keeps R153 and R244. -/
def imageOk (s : State) (e : Entry) (ue : List Nat) : Bool :=
  let l := devBytes s ue e.addr0 e.len0
  decide (levelOf e.addr0 ≤ 1) && decide (e.len0 ≥ 128) && spanDram s e.addr0 e.len0 && !devBad s ue e.addr0 e.len0 &&
    headerKeeps l && schedKeeps (schedOf l) (refreshNow s)

/-- A bank of another table version, or a MODE word unlike AUDIT.PROFILE. -/
def profileDiffers (s : State) (j : Job) (banks : List (Nat × Nat)) : Bool :=
  decide (b2n j.flush ≠ rd s Fk.auditProfileFlush) || decide (b2n j.strict ≠ rd s Fk.auditProfileStrict) ||
    banks.any (fun x => decide (pkgField s x.2 4 1 ≠ rd s Fk.auditProfileTableVer))

/-- The EFF_N bytes differ from the SPEED block at some cell: its 128 entries at all 8 positions, of which an unassigned one reads 0 (02 R43, R47). -/
def speedDiffers (s : State) (l : List Byte) : Bool :=
  let sc := schedOf l
  ((List.range 1024).zip ((sc.drop (le sc 0x20 8)).take 1024)).any (fun x =>
    decide (x.2.toNat ≠ if x.1 % 128 < 104 then cellEff s (x.1 / 128) (x.1 % 128) else 0))

/-- Cells outside Forges that a placement needs: Stem engine, Drawplates, Pruner. -/
def placeCells (j : Job) (p : Place) : List Nat :=
  match bits (j.macros.getD p.instr 0) 120 8 with
  | 0x30 => [96 + p.unit % 2]
  | 0x31 => ((List.range 4).filter (fun d => bit p.unit d)).map (98 + ·)
  | 0x32 => [102]
  | _ => []

/-- The cell that a requester code of a slot table names outside the Forges, with its logical region: Stem engine, Drawplate or Pruner (09 R241). -/
def codeCell (c : Nat) : Option (Nat × Nat) :=
  let i := bits c 0 12
  match bits c 12 4 with
  | 4 => some (i / 2, 96 + i % 2)
  | 5 => some (i / 4, 98 + i % 4)
  | 6 => some (i, 102)
  | _ => none

/-- The retired unit of a slot table: one that a requester code names, or the Drawplate of a lane with granted slots (02 R45, 09 R240). -/
def tableRetired (s : State) (t : SlotTable) : Bool :=
  t.codes.any (fun c => match codeCell c with
    | some x => decide (x.1 < regionCount s) && cellRetired s (posOf s x.1) x.2
    | none => false) ||
  (decide (t.kind = 4) && t.codes.any (fun c => decide (c ≠ 0)) && decide (t.inst / 32 < regionCount s) &&
    cellRetired s (posOf s (t.inst / 32)) (98 + t.inst / 8 % 4))

/-- Logical region `r` has no usable Forge (18 R469). -/
def noForge (s : State) (r : Nat) : Bool := (List.range 16).all (fun f => !forgeEn s r f)

/-- A placement names a Forge, region or unit that is not usable, or a region whose record is frozen, or a slot table names a retired unit; a region
without a usable Forge is the home of a context, or lends its Stem engines, Drawplates or Pruner (02 R45, 18 R469). -/
def forgeMissing (s : State) (j : Job) (pkgs : List (Nat × Bool × Nat)) : Bool :=
  j.places.any (fun p => decide (p.region ≥ regionCount s) || (getHw s (posOf s p.region)).frozen ||
    (List.range (p.fm * p.fn)).any (fun i => !forgeEn s p.region (bits p.forges (4 * i) 4)) ||
    (placeCells j p).any (cellRetired s (posOf s p.region)) || cellRetired s (posOf s p.region) 103 ||
    (!(placeCells j p).isEmpty && noForge s p.region)) || pkgs.any (fun x => noForge s (rd s (Fk.ctxCfgHome x.1))) ||
    j.tsets.any (fun ts => ts.any (tableRetired s))

/-- The job has traffic on a device that is down. -/
def memDown (s : State) (j : Job) : Bool :=
  (List.range 48).any (fun d => (if d < 16 then rdBit s Fk.faultDownMemStacks d else rdBit s Fk.faultDownMemPackages (d - 16)) && jobTraffic s j d)

/-- Banks, live contexts, reference buffers or digest traffic exceed what the part has. -/
def capacityOver (s : State) (banks : List (Nat × Nat)) (x : LoadIn) : Bool :=
  banksOver s banks || decide (((List.range 128).filter (fun c => rd s (Fk.ctxCfgMode c) = 2)).length > rd s Fk.geomPortsLiveMax) ||
    decide (25 * (((x.pkgs.filter (fun y => !y.2.1)).map (·.1)).eraseDups).length > rd s Fk.geomPortsRefBuffers) || x.digestOver

/-- The address and length of the data of section `k` of the save image at `a`, with its kind and address fields; sections lie one after
another (16 R446). -/
def saveSections (s : State) (a : Nat) : Nat → Nat → List (Nat × Nat × Nat × Nat)
  | _, 0 => []
  | o, n + 1 =>
    let k := devLE s [] (a + o) 4
    let len := devLE s [] (a + o + 16) 8
    (k, devLE s [] (a + o + 8) 8, a + o + 32, len) :: saveSections s a (o + 32 + roundUp len 64) n

/-- The Hallmarks of section 6 that are compared: those of the packages, in order (16 R446, R447). -/
def pkgOrder (s : State) (x : LoadIn) : List (List Byte) :=
  ((List.range 128).flatMap (fun c => ((x.pkgs.filter (fun y => decide (y.1 = c) && !y.2.1)) ++ (x.pkgs.filter (fun y => decide (y.1 = c) && y.2.1))).map
    (fun y => (parsePkg s y.2.2).mh))).eraseDups

/-- A RECOVERY job that starts from the checkpoint of another job: the program digests differ, and it takes the stored memory alone (05 R149; log entry
106). -/
def fromCheckpoint (s : State) (j : Job) (a : Nat) : Bool := decide (j.kind = 3) && decide (devBytes s [] (a + 0x20) 32 ≠ j.progDigest)

/-- A memory section of a save image names an address out of range (03 R69). -/
def sectionBad (s : State) (y : Nat × Nat × Nat × Nat) : Bool := decide (y.1 = 1) && decide (y.2.2.2 ≠ 0) && (decide (y.2.1 ≥ 2 ^ 52) || (spanFault s y.2.1 y.2.2.2).isSome)

/-- A save image fails R447, or one of its sections names an address out of range. -/
def saveBad (s : State) (j : Job) (a : Nat) (x : LoadIn) : Bool :=
  let secs := saveSections s a 128 (devLE s [] (a + 0x40) 4)
  let mh := (pkgOrder s x).flatMap id
  decide (levelOf a > 1) || devBad s x.ue a 128 || decide (devLE s [] a 4 ≠ 0x45564153) || decide (devLE s [] (a + 4) 2 ≠ 1) ||
    decide (devBytes s [] (a + 8) 16 ≠ profileRecord s) || (decide (devBytes s [] (a + 0x20) 32 ≠ j.progDigest) && !fromCheckpoint s j a) ||
    secs.any (sectionBad s) || (match secs.filter (fun y => decide (y.1 = 6)) with
     | [y] => decide (y.2.2.2 < mh.length) || decide (devBytes s [] y.2.2.1 mh.length ≠ mh)
     | _ => true)

/-- The first check of R503 that fails, with the state after the monitors are sampled where the checks get that far. -/
def admission (s : State) (e : Entry) (x : LoadIn) : State × Option Nat :=
  if loaded s then (s, some rcBusy)
  else if !imageOk s e x.ue then (s, some rcImage)
  else
    let l := devBytes s [] e.addr0 e.len0
    let j := parseJob l e.addr0 e x
    let banks := jobBanks s j x.pkgs
    if profileDiffers s j banks then (s, some rcProfile)
    else
      let s := sampleMonitors s x.ages
      (s, if speedDiffers s l then some rcSpeed
        else if forgeMissing s j x.pkgs then some rcForge
        else if memDown s j then some rcMemdown
        else if capacityOver s banks x then some rcCapacity
        else if e.addr1 ≠ 0 ∧ saveBad s j e.addr1 x then some rcSave
        else none)

/-! Placing an admitted job. -/

/-- The Izuno-S image in a Burin's local memory (06 R182). -/
def loadBurins (s : State) (img : List Byte) : State :=
  (List.range (32 * regionCount s)).foldl (fun s b => putBurin s b { getBurin s b with mem := mPut (getBurin s b).mem 0 img, running := false }) s

/-- Restore the memory of a save image, and remember what its other sections say unless `memOnly`. A half that is read poisoned, or with an uncorrectable error of
`ue`, is stored as poisoned (03 R84). -/
def loadSave (s : State) (ue : List Nat) (a : Nat) (memOnly : Bool) : State :=
  let secs := saveSections s a 128 (devLE s [] (a + 0x40) 4)
  let s1 := (secs.filter (fun y => decide (y.1 = 1))).foldl (fun t y => devWrite t [] y.2.1 (devBytes s ue y.2.2.1 y.2.2.2) (fun h => devBad s ue (y.2.2.1 + (32 * h - y.2.1)) (min 32 (y.2.2.2 - (32 * h - y.2.1))))) s
  let rel := devLE s [] (a + 0x18) 8
  let v := match s.saved with
    | some v => if v.addr = a ∧ v.rel = rel then v else Config.sectionsOf (devBytes s [] a (devLE s [] (a + 0x48) 8))
    | none => Config.sectionsOf (devBytes s [] a (devLE s [] (a + 0x48) 8))
  if memOnly then s1 else { s1 with resume := some { v with rel := rel } }

/-- The streams of a job's contexts: none but those that the load gives packages and headers for. -/
def loadStreams (s : State) (x : LoadIn) : State :=
  let s := (List.range 128).foldl (fun s c => modCtx s c (fun y => { y with items := [], chain := List.replicate 32 0, vs := streamEmpty, as_ := streamEmpty })) s
  let s := x.pkgs.foldl (fun s y => modS s y.1 y.2.1 (fun _ => streamNew (some (parsePkg s y.2.2)))) s
  x.headers.foldl (fun s y => modS s y.1 y.2.1 (fun st => { st with header := some y.2.2 })) s

/-- Admit: the job is LOADED with its tables written (09 R243). -/
def placeJob (s : State) (e : Entry) (x : LoadIn) : State :=
  let l := devBytes s [] e.addr0 e.len0
  let j := parseJob l e.addr0 e x
  let banks := ((jobBanks s j x.pkgs).map (·.2)).eraseDups
  let j := { j with
    banks := banks.foldl (fun m a => mput (fun _ => []) m a (bankBytes s a)) []
    bankBad := banks.foldl (fun m a => mput (fun _ => []) m a (bankHoles s x.ue a)) []
    saveAddr := e.addr1, saveLen := if e.addr1 = 0 then 0 else devLE s [] (e.addr1 + 0x48) 8, resumed := decide (e.addr1 ≠ 0) && !fromCheckpoint s j e.addr1 }
  let s := loadBurins { s with job := some j, resume := none } ((l.drop (le l 0x28 8)).take (le l 0x30 4))
  let s := loadStreams s x
  let s := if e.addr1 = 0 then s else loadSave s x.ue e.addr1 (fromCheckpoint s j e.addr1)
  wr s Fk.bootJobJstate jLoaded

/-- The LOAD of entry `e` (R503): admitted or refused, it completes, and the errors that its reads met are recorded (18 R473). -/
def loadEntry (s : State) (e : Entry) (x : LoadIn) : State :=
  let y := admission s e x
  memErrors (match y.2 with
  | some c => completeRefused y.1 e c
  | none => completeDone (placeJob y.1 e x) e) x.ue x.ce

end Sys2Proof.Machine
end

