-- ==== Sys2Proof/Machine/ImageChecks.lean ====
section
/-! DEFINITION. What the host's loader checks of a program image as a whole: its descriptors, bucket sets, instruction words, Izuno-S code and tensors (00 R17; 03
R69; 04 R109, R110; 05 R138, R142; 06 R155, R159, R161 to R164, R181, R182, R185; 16 R427). -/

namespace Sys2Proof.Machine

/-- The rule that a device address which a program names breaks: no level (00 R17), or out of range (03 R69). -/
def addrRule (s : State) (a n : Nat) : Option String :=
  ((addrFault s a).orElse (fun _ => (spanFault s a n).map (·.1))).map (fun c => if c = fcAddrLevel then "R17" else "R69")

/-- The rule that descriptor `i` of job `j`, of which `b` are the bytes, breaks. -/
def rawDescRefuse (t : State) (j : Job) (i : Nat) (b : List Byte) : Option String :=
  let d := parseDesc b
  let w0 := le b 0 8
  if d.kind > 5 ∨ d.base % 64 ≠ 0 ∨ bits (le b 24 8) 60 4 ≠ 0 then some "R155"
  else if d.kind = 2 ∧ (w0 / 2 ^ 60 ≠ 0 ∨ (b.drop 8).any (· ≠ 0) ∨ 2 < levelOf d.base) then some "R159"
  else (descSpans t j i d).findSome? (fun x => addrRule t x.1 x.2)

/-- A bucket set, of which `b` are the bytes, breaks R161 on its own. -/
def rawBktBad (b : List Byte) : Bool :=
  decide (15 < le b 0 1 ∨ 7 < le b 1 1 ∨ le b 5 11 ≠ 0) || (List.range 3).any (fun d =>
    let n := le b (2 + d) 1
    let z := (List.range 8).map (fun i => le b (0x10 + 32 * d + 4 * i) 4)
    (if bit (le b 1 1) d then decide (n = 0 ∨ 8 < n) else decide (n ≠ 0)) || (z.drop n).any (· ≠ 0) || (z.take n).any (· = 0) ||
      ((z.take n).zip ((z.take n).drop 1)).any (fun x => decide (x.2 ≤ x.1)))

/-- The rule that instruction word `v` of job `j` breaks whatever its form: an OP that is not listed (R164), a SUB that its instruction does not define or the
must-be-0 bit (R163, R169 to R171), a control instruction with operands, class or rounding (R163, R181), a TEMPER of a set that is not staged, or a BURIN that starts
outside the Izuno-S image (R181, R182). -/
def wordRefuse (t : State) (j : Job) (v : Nat) : Option String :=
  let op := bits v 120 8
  let entry := if bits v 0 16 = 0xFFFF then j.burinEntry else bits v 0 16
  if (List.range 16).all (fun k => (decodeMacro 0 ⟨[], 0, 0, 0⟩ (op * 2 ^ 120 + k * 2 ^ 116)).isNone) then some "R164"
  else if (decodeMacro 0 ⟨[], 0, 0, 0⟩ v).isNone then some "R163"
  else if memberControl op ∧ (bits v 60 4 ≠ 0 ∨ bits v 82 30 ≠ 0 ∨ bit v 115 = true) then some "R181"
  else if memberControl op ∧ (bits v 112 2 ≠ 0 ∨ bit v 114 = true) then some "R163"
  else if op = 0x42 ∧ (15 < bits v 0 16 ∨ rdBit t Fk.temperSetsStaged (bits v 0 16) = false) then some "R181"
  else if op = 0x50 ∧ (bits v 32 16 ≠ 0 ∧ bits v 48 2 ≠ 0) ∧ j.burinBytes ≤ entry then some "R182"
  else none

/-! Static Izuno-S code (R182). -/

/-- Where Izuno-S word `x` at `pc` goes on to, as far as it says: the next word, or the target of a jump or branch. -/
def codeNext (pc x : Nat) : List Int :=
  let op := bits x 26 6
  let next : Int := pc + 4
  if op = 0x23 ∨ op = 0x1F then []
  else if op = 0x1E then [(pc : Int) + 4 * sext 26 x]
  else if 0x18 ≤ op ∧ op ≤ 0x1D then [next, (pc : Int) + 4 * sext 16 x]
  else [next]

/-- Izuno-S word `x` faults with BURIN_ILLEGAL whatever the Burin holds: no listed encoding, or a must-be-0 field that is not 0 (R183 to R185). -/
def codeIllegal (x : Nat) : Bool :=
  let op := bits x 26 6
  let csr := bits x 0 12
  let listed := decide (csr ≤ 2 ∨ csr = 0x10 ∨ csr = 0x20 ∨ csr = 0x21 ∨ (0x30 ≤ csr ∧ csr < 0x60))
  let v := decide (op = 0x30) && (decide (bits x 0 6 = 0xB ∧ bits x 6 3 ≠ 0) || decide ((bits x 0 6 = 0xC ∨ bits x 0 6 = 0xD) ∧ 7 < bits x 21 5))
  let f := decide (op = 0x31 ∧ (bits x 0 6 = 8 ∨ bits x 0 6 = 9) ∧ 7 < bits x 21 5)
  (decodeBurin 0 x).isNone || decide (op = 7 ∧ bits x 16 5 ≠ 0) || decide (8 ≤ op ∧ op ≤ 10 ∧ bits x 5 11 ≠ 0) ||
    (decide (op = 0x20) && (decide (bits x 12 4 ≠ 0) || !listed)) || (decide (op = 0x21) && (decide (bits x 12 4 ≠ 0 ∨ bits x 21 5 ≠ 0) || !listed)) || v || f

/-- The addresses of an image of `n` bytes that the code at those of a list reaches as far as the words say, beside those `seen`; `word` gives its words. -/
def codeReach (word : Nat → Nat) (n : Nat) : Nat → List Nat → List Nat → List Nat
  | 0, seen, _ => seen
  | _, seen, [] => seen
  | k + 1, seen, pc :: l =>
    if seen.contains pc then codeReach word n k seen l
    else codeReach word n k (pc :: seen) (((codeNext pc (word pc)).filter (fun (y : Int) => decide (0 ≤ y ∧ y < n))).map Int.toNat ++ l)

/-! Timing CSRs in Izuno-S code (16 R427). -/

/-- The registers that hold a value from CYCLE, CYCLEH or EPOCHL behind Izuno-S word `x`, of those that hold one before it: bit i for x_i, 32 + i for v_i and 64 + i
for m_i; none where such a value reaches a store, an address, a branch, a CSR write or, through a vector float instruction, FFLAGS. A value that only SYNC
or more arithmetic consumes goes on. -/
def timingStep (t x : Nat) : Option Nat :=
  let op := bits x 26 6
  let d := bits x 21 5
  let a := bits x 16 5
  let c := bits x 11 5
  let put := fun (i : Nat) (v : Bool) => if i = 0 ∨ bit t i = v then some t else if v then some (t + 2 ^ i) else some (t - 2 ^ i)
  let add := fun (i : Nat) (v : Bool) => if v then some (t ||| 2 ^ i) else some t
  let bars := fun (l : List Nat) (r : Option Nat) => if l.any (bit t) then none else r
  let lanes := bit t (32 + a) || bit t (32 + c) || bit t (64 + bits x 6 3)
  if op = 0x01 then put d (bit t a || bit t c)
  else if op = 0x07 then put d false
  else if op ≤ 0x0A then put d (bit t a)
  else if op ≤ 0x14 then bars [a] (put d false)
  else if op ≤ 0x1D then bars [a, d] (some t)
  else if op = 0x1E then put 31 false
  else if op = 0x1F then bars [a] (put d false)
  else if op = 0x20 then put d (decide (bits x 0 12 ≤ 2))
  else if op = 0x21 then bars [a] (some t)
  else if op = 0x30 then (if bits x 0 6 = 0xC ∨ bits x 0 6 = 0xD then add (64 + bits x 21 3) lanes
    else add (32 + d) (lanes || (decide (bits x 0 6 = 0xB) && bit t (64 + bits x 11 3))))
  else if op = 0x31 then bars [32 + a, 32 + c, 32 + d, 64 + bits x 6 3] (some t)
  else if op = 0x32 then bars [a] (put (32 + d) false)
  else if op = 0x33 then bars [a, 32 + d] (some t)
  else if op = 0x34 then bars [a, c, d] (some t)
  else if op = 0x35 then (if bits x 0 6 = 0 then add (32 + d) (bit t a || bit t (64 + bits x 6 3)) else put d (bit t (32 + a)))
  else if op = 0x36 then (if bits x 0 6 = 0 then add (32 + d) (bit t (32 + a) || bit t (64 + bits x 6 3)) else bars [32 + a, 64 + bits x 6 3] (some t))
  else some t

/-- A value of a timing CSR reaches what it must not, in code that goes on from the addresses of a list, each with the registers that hold one there; `m` keeps
those known at each address. A JALR goes on behind any of the calls `rets` (log entry 12). -/
def timingLeaks (word : Nat → Nat) (n : Nat) (rets : List Nat) : Nat → SMap (Option Nat) → List (Nat × Nat) → Bool
  | 0, _, _ => false
  | _, _, [] => false
  | k + 1, m, (pc, t) :: l =>
    let old := mget (fun _ => none) m pc
    let u := old.getD 0 ||| t
    if old = some u then timingLeaks word n rets k m l
    else match timingStep u (word pc) with
      | none => true
      | some v =>
        let next := if bits (word pc) 26 6 = 0x1F then rets
          else ((codeNext pc (word pc)).filter (fun (y : Int) => decide (0 ≤ y ∧ y < n))).map Int.toNat
        timingLeaks word n rets k (mput (fun _ => none) m pc (some u)) (next.map (fun y => (y, v)) ++ l)

/-- The rule that Izuno-S code reached from `entries` breaks: a vector float instruction under STRICT 0 (R185), a word that faults or a jump or branch to
outside the image (R182), or a timing CSR that reaches more than SYNC (16 R427). -/
def codeRefuse (word : Nat → Nat) (strict : Bool) (n : Nat) (entries : List Nat) : Option String :=
  let l := codeReach word n (2 * n + 2) [] entries
  if !strict && l.any (fun pc => decide (bits (word pc) 26 6 = 0x31)) then some "R185"
  else if l.any (fun pc => codeIllegal (word pc) || (codeNext pc (word pc)).any (fun (y : Int) => decide (y ≠ pc + 4 ∧ (y < 0 ∨ n ≤ y)))) then some "R182"
  else
    let rets := ((List.range (n / 4)).map (4 * ·)).filter (fun pc => decide (bits (word pc) 26 6 = 0x1E ∨ bits (word pc) 26 6 = 0x1F))
    if timingLeaks word n (rets.map (· + 4)) (80 * n * (rets.length + 2)) [] (entries.map (fun e => (e, 0))) then some "R427" else none

/-- Where the BURIN instructions of a job start. -/
def codeEntries (j : Job) : List Nat :=
  (j.macros.filter (fun v => decide (bits v 120 8 = 0x50))).map (fun v => if bits v 0 16 = 0xFFFF then j.burinEntry else bits v 0 16)

/-- The rule that the image `l` of job `j`, which `t` holds, breaks. -/
def imageRefuse (t : State) (j : Job) (l : List Byte) : Option String :=
  let code := (l.drop (le l 0x28 8)).take j.burinBytes
  ((List.range (le l 9 1)).findSome? (fun i => rawDescRefuse t j i ((l.drop (le l 0x10 8 + 32 * i)).take 32))).orElse (fun _ =>
    if (List.range (le l 0x60 1)).any (fun i => rawBktBad ((l.drop (le l 0x58 8 + 128 * i)).take 128)) then some "R161"
    else (j.macros.findSome? (wordRefuse t j)).orElse (fun _ =>
      (codeRefuse (fun pc => le code pc 4) j.strict j.burinBytes ((codeEntries j).filter (fun e => decide (e < j.burinBytes)))).orElse (fun _ => flowRefuse t j)))

end Sys2Proof.Machine
end

