-- ==== Sys2Proof/Machine/PackageChecks.lean ====
section
/-! DEFINITION. What the host's loader checks of a model package: its header, stages, networks, images and CDF bank (10 R270 to R274, R277, R280, R291; 11 R303,
R304). -/

namespace Sys2Proof.Machine

/-! CDF banks (11 R303, R304). -/

/-- `n` tables of `alpha` entries and stride `st` keep R304. -/
def tablesKeep (alpha st : Nat) : Nat → List Byte → Bool
  | 0, _ => true
  | n + 1, l =>
    let c := (List.range (alpha + 1)).map (fun j => ofLE ((l.drop (2 * j)).take 2))
    decide (c.headD 1 = 0) && decide (c.getLast? = some 32768) && (c.zip c.tail).all (fun x => decide (x.1 < x.2)) &&
      ((l.take st).drop (2 * (alpha + 1))).all (· == 0) && tablesKeep alpha st n (l.drop st)

/-- Span of the tables of the family entry `e`. -/
def familySpan (e : List Byte) : Nat × Nat := (le e 0 4, le e 9 1 * tableStride (le e 4 2))

/-- Family entry `e` of bank `b` keeps R304. -/
def familyKeeps (b e : List Byte) : Bool :=
  let alpha := le e 4 2
  decide (le e 0 4 % 64 = 0) && decide (2 ≤ alpha) && decide (alpha ≤ 4096) && decide (le e 8 1 ≤ 16) && decide (1 ≤ le e 9 1) && decide (le e 9 1 ≤ 64) &&
    ((e.drop 0xA).take 54).all (· == 0) && (e.drop 0x40).all (fun k => decide (k.toNat < le e 9 1)) &&
    decide ((familySpan e).1 + (familySpan e).2 ≤ b.length) && tablesKeep alpha (tableStride alpha) (le e 9 1) (b.drop (le e 0 4))

/-- The rule that bank `b` breaks. -/
def bankRefuse (b : List Byte) : Option String :=
  let nf := le b 5 1
  let es := (List.range nf).map (fun f => (b.drop (0x40 + 128 * f)).take 128)
  if ¬ (le b 0 4 = 0x4B4E4142 ∧ 1 ≤ nf ∧ nf ≤ 32 ∧ le b 6 2 = 0 ∧ le b 8 4 % 64 = 0 ∧ le b 8 4 ≤ 524288 ∧ ((b.drop 0xC).take 52).all (· == 0)) then some "R303"
  else if es.all (familyKeeps b) && spansApart ((0, 0x40 + 128 * nf) :: es.map familySpan) && decide (0x40 + 128 * nf ≤ b.length) then none
  else some "R304"

/-! Packages (10 R270 to R273, R291). -/

/-- The header of the package at device address `a` keeps R270. -/
def pkgHeaderKeeps (s : State) (a : Nat) : Bool :=
  let f := pkgField s a
  let p := parsePkg s a
  let zero := fun (l : List (Nat × Nat)) => l.all (fun x => decide (f x.1 x.2 = 0))
  decide (f 0 4 = 0x4E444E4C) && decide (f 4 2 = 1) && decide (f 6 1 ≤ 1) && decide (f 7 1 < 4) && zero [(0x17, 1), (0x32, 14), (0x4C, 4)] &&
    decide (1 ≤ f 0x48 4) && decide (f 0x48 4 ≤ 64) && [0x40, 0x50, 0x58, 0x60, 0x68, 0x70, 0x78].all (fun o => decide (f o 8 % 64 = 0)) &&
    [0, 1, 2].all (fun k => decide ((pkgImage s a k).1 % 64 = 0)) &&
    (if p.audio then
      !p.checker && decide (p.latentC % 16 = 0) && decide (16 ≤ p.latentC) && decide (p.latentC ≤ 512) && decide (p.stride ≠ 0) && decide (960 % p.stride = 0) && decide (1 ≤ p.groups) &&
        decide (p.groups ≤ 16) && decide (p.refs ≤ 1) && decide (p.refC = p.latentC) &&
        zero [(0x12, 2), (0x14, 1), (0x15, 1), (0x16, 1), (0x18, 8), (0x20, 16), (0x50, 8), (0x60, 8)]
    else
      decide (16 ≤ p.latentC) && decide (p.latentC ≤ 512) && [8, 16, 32].contains p.stride && decide (1 ≤ p.groups) && decide (p.groups ≤ 8) && decide (p.refs ≤ 2) &&
        decide (1 ≤ p.hyperC) && decide (p.hyperC ≤ 256) && [2, 4].contains p.hyperDown && decide (p.qs ≤ 30) && decide (p.ds ≤ 30) &&
        decide (p.yRange.1 < p.yRange.2) && decide (p.zRange.1 < p.zRange.2) && decide (p.groupC.foldl (· + ·) 0 = p.latentC) &&
        (p.groupC.drop p.groups).all (· == 0) && decide (1 ≤ p.refC) && decide (p.refC ≤ 512) && zero [(0x70, 8)] &&
        p.qtab.all (fun q => decide (1 ≤ q ∧ q ≤ 32767)) && p.zk.all (fun k => decide (k.toNat < 64)))

/-- The stage table of an audio package keeps R291. -/
def stagesKeep (s : State) (a : Nat) (p : Pkg) : Bool :=
  ((List.range p.stages.length).zip p.stages).all (fun x => decide (2 ≤ x.2.1 ∧ x.2.1 ≤ 1024 ∧ x.2.2 ≤ 8) &&
    decide (devLE s [] (a + pkgField s a 0x70 8 + 8 * x.1 + 3) 5 = 0))

/-- The largest |d_j| of each stage, for vectors of `n` elements whose residual before the first stage is at most `r`, whatever its INT8 codebook holds: with
|C| at most 128, d_j is at most 4^SH × n × 128² + 2^(SH + 1) × n × r × 128, and the residual grows by 128 × 2^SH (R291). -/
def stageSums (n : Nat) : Nat → List Nat → List Nat
  | _, [] => []
  | r, sh :: l => (4 ^ sh * n * 128 ^ 2 + 2 ^ (sh + 1) * n * r * 128) :: stageSums n (r + 128 * 2 ^ sh) l

/-- The roles of the images of a package of a medium: those that each of ENCODE and DECODE must hold (R271). -/
def rolesOf (audio : Bool) (image : Nat) : List Nat :=
  (if audio then [7, 8] else [3, 4, 5]) ++ [6] ++ (if image = 0 then [0, 2] ++ (if audio then [] else [1]) else [])

/-- A network of `role` may stand in `image`. -/
def roleOk (audio : Bool) (n : Net) : Bool :=
  decide (n.role = 10) || (decide (n.role = 9) && decide (n.image = 1)) || (decide (n.image < 2) && (rolesOf audio n.image).contains n.role)

/-- A network of the reference loop (R271, R273). -/
def inLoop (audio : Bool) (n : Net) : Bool := [2, 3, 4, 5, 7, 8].contains n.role || (decide (n.role = 6) && !audio)

/-! The images of a package (10 R271 to R280). -/

/-- Image `k` of the package at `a` as a job, with the state that holds it and its bytes. -/
def pkgJob (s : State) (a k : Nat) : State × Job × List Byte :=
  let m := pkgImage s a k
  let l := devBytes s [] (a + m.1) m.2
  let j := parseJob l (a + m.1) ⟨0, 0, 0, 0, 0, 0, a + m.1, 0, m.2, 0, 0, 0⟩ ⟨[], [], [], [], [], false, false, [], [], [], []⟩
  ({ s with job := some j }, j, l)

/-- The networks of `nets` that hold instruction `i`. -/
def netsAt (nets : List Net) (i : Nat) : List Net := nets.filter (fun n => decide (n.first ≤ i ∧ i < n.first + n.count))

/-- Instruction `i` is in the loop set of an image: in a network of the loop, a GMERGE or a DRAW (R273). -/
def inLoopSet (audio : Bool) (nets : List Net) (j : Job) (i : Nat) : Bool :=
  decide (opAt j i = 0x31 ∨ opAt j i = 0x33) || (netsAt nets i).any (inLoop audio)

/-- Instruction `i` lies in one network where it must (R271). -/
def memberPlaced (nets : List Net) (j : Job) (i : Nat) : Bool := (memberControl (opAt j i) && decide (opAt j i ≠ 0x50)) || decide ((netsAt nets i).length = 1)

/-- Instruction `i` says LOOP and CLASS as the loop set asks (R273). -/
def loopKeeps (audio : Bool) (nets : List Net) (j : Job) (i : Nat) : Bool :=
  let v := j.macros.getD i 0
  bit v 114 == inLoopSet audio nets j i && (!inLoopSet audio nets j i || !bit v 115)

/-- Instruction `i`, outside the loop set, writes a tensor that the loop set reads, and is neither ANALYSIS writing the INT16 input of QUANT nor HYPER_A writing an
INT16 hyper-latent input (R274). -/
def loopBroken (audio : Bool) (nets : List Net) (j : Job) (i : Nat) : Bool :=
  let d := (j.descs[outDesc j i]?).getD descZero
  let readers := (List.range j.macros.length).filter (fun k => inLoopSet audio nets j k && (fieldDescs j k (inFields j k)).any (fun y => decide (y.base = d.base)))
  let is := fun (r : Nat) (k : Nat) => (netsAt nets k).any (fun n => decide (n.role = r))
  writesD0 j i && !inLoopSet audio nets j i && decide (readers ≠ []) &&
    !(decide (descFmt d = .int16) && (is 1 i || (is 0 i && readers.all (is 2))))

/-- The spans of constants that a descriptor leads to, for an operand of padded dimensions `q` over `np` problems: its own, those of its aux or coded record but
for addresses, and the arrays that these name (R272). -/
def constReads (t : State) (d : Desc) (q : Nat × Nat × Nat) (np : Nat) : List (Nat × Nat) :=
  let a := ((descOf t d.aux).map (·.base)).getD 0
  let x := auxOf t [] d (descFmt d)
  let z := auxDims d x
  match d.kind with
  | 1 => let c := codedRec t d; [(a, 8), (a + 0x18, 16), (a + 0x38, 8), (c.bank, bankLE (devBytes t [] c.bank 64) 8 4)]
  | 3 => [(d.base, 16 * d.n0)]
  | 4 => []
  | _ => declSpan d q np :: (if !d.auxEn then [] else (a + 0x20, 32) :: scaleSpans x z.n z.k ++ (if x.zpa = 0 then [] else [(x.zpa, 4 * z.chs)]) ++
      (if x.smap = 0 then [] else [(x.smap, 8 * ceilDiv z.chs 128)]))

/-- Two operands read the same constants, byte for byte. -/
def constsEqual (t u : State) (d e : Desc) (q : Nat × Nat × Nat) (np : Nat) : Bool :=
  let l := constReads t d q np
  let m := constReads u e q np
  decide (l.length = m.length) && (l.zip m).all (fun x => inConsts t x.1.1 x.1.2 == inConsts u x.2.1 x.2.2 &&
    (!inConsts t x.1.1 x.1.2 || decide (devBytes t [] x.1.1 x.1.2 = devBytes u [] x.2.1 x.2.2)))

/-- The first instruction at which two networks that must be identical differ, in words but for TAG, in descriptors but for BASE, or in the constants read
(R272). -/
def netsDiffer (x y : State × Job × List Byte) (m n : Net) : Option Nat :=
  let word := fun (v : Nat) => if 0x10 ≤ bits v 120 8 ∧ bits v 120 8 ≤ 0x17 then v - bits v 32 16 * 2 ^ 32 else v
  let desc := fun (z : State × Job × List Byte) (i : Nat) => le z.2.2 (le z.2.2 0x10 8 + 32 * i) 32 / 2 ^ 52
  (List.range (max m.count n.count)).findSome? (fun i =>
    let v := x.2.1.macros.getD (m.first + i) 0
    let u := y.2.1.macros.getD (n.first + i) 0
    let same := decide (i < m.count ∧ i < n.count) && decide (word v = word u) && (wordSlots v).all (fun k =>
      let d := (x.2.1.descs[wordD v k]?).getD descZero
      let e := (y.2.1.descs[wordD u k]?).getD descZero
      decide (desc x (wordD v k) = desc y (wordD u k)) && (!d.auxEn || decide (desc x d.aux = desc y e.aux)) &&
        constsEqual x.1 y.1 d e (paddedDims v k d) (bits v 66 16 + 1))
    if same then none else some i)

/-- The networks of ENCODE and DECODE that are the same network: of equal ROLE, GROUP and PASS; GEN networks in their order (DESIGN CHOICE, log entry 120). -/
def netPairs (nets : List Net) : List (Net × Net) :=
  let e := nets.filter (fun n => decide (n.image = 0))
  let d := nets.filter (fun n => decide (n.image = 1))
  let gen := fun (l : List Net) => l.filter (fun n => decide (n.role = 10))
  e.flatMap (fun m => (d.filter (fun n => decide (m.role ≠ 10 ∧ m.role = n.role ∧ m.group = n.group ∧ m.pass = n.pass))).map (fun n => (m, n))) ++ (gen e).zip (gen d)

/-- The first difference of a pair that must be identical, as its refusal. -/
def pairsRefuse (x y : State × Job × List Byte) (l : List (Net × Net)) : Option String :=
  l.findSome? (fun z => (netsDiffer x y z.1 z.2).map (fun i => "R272: ENCODE instruction " ++ toString (z.1.first + i)))

/-- The walks that the steps of a video picture code, in order: ORDER, PASS and the channels (10 R277, 11 R307). -/
def pictureSteps (p : Pkg) : List (Nat × Nat × Nat) :=
  (1, 0, p.hyperC) :: (List.range p.groups).flatMap (fun g =>
    if p.checker then [(0, 1, p.groupC.getD g 0), (0, 2, p.groupC.getD g 0)] else [(0, 0, p.groupC.getD g 0)])

/-- The walks of the DRAW instructions of image `k` (0 ENCODE, 1 DECODE), in order; none where one codes the other way. -/
def imageSteps (j : Job) (k : Nat) : Option (List (Nat × Nat × Nat)) :=
  let l := (List.range j.macros.length).filter (fun i => decide (opAt j i = 0x31))
  if l.any (fun i => decide (subAt j i ≠ k)) then none
  else some (l.flatMap (fun i =>
    let v := j.macros.getD i 0
    let d := ((fieldDescs j i [1 - k]).head?).getD descZero
    List.replicate (bits v 66 16 + 1) (bits v 32 2, bits v 34 2, d.n2)))

/-- Instruction `i` is a requantisation of Assay class that writes means within the package's latents, INT16, or scale indices of 0 to 63, INT8 (R280). -/
def ctxOutput (t : State) (j : Job) (p : Pkg) (i : Nat) : Bool :=
  let d := markedOut j i
  let r := declRange t d
  decide (opAt j i = 0x10 ∨ opAt j i = 0x11 ∨ opAt j i = 0x13 ∨ opAt j i = 0x15 ∨ opAt j i = 0x12) && !bit (j.macros.getD i 0) 115 &&
    ((decide (descFmt d = .int16) && decide (p.yRange.1 ≤ r.1 ∧ r.2 ≤ p.yRange.2)) || (decide (descFmt d = .int8) && decide (0 ≤ r.1 ∧ r.2 ≤ 63)))

/-- The CTX networks of an image end in such an instruction, and what a latent DRAW takes as means and scale indices is written by such instructions of a CTX
network (R280). -/
def ctxKeeps (t : State) (j : Job) (p : Pkg) (nets : List Net) : Bool :=
  let ctx := fun (i : Nat) => (netsAt nets i).any (fun n => decide (n.role = 5))
  nets.all (fun n => decide (n.role ≠ 5) || (match ((List.range n.count).filter (fun k => writesD0 j (n.first + k))).getLast? with
    | some k => ctxOutput t j p (n.first + k)
    | none => false)) &&
  (List.range j.macros.length).all (fun i => decide (opAt j i ≠ 0x31 ∨ bits (j.macros.getD i 0) 32 2 ≠ 0) ||
    ([2, 3].filter (fun k => (inFields j i).contains k)).all (fun k => (fieldDescs j i [k]).all (fun d => match lastWriter j i d.base with
      | some y => ctx y && ctxOutput t j p y && decide (descFmt (markedOut j y) = if k = 2 then .int16 else .int8)
      | none => false)))

/-- The rule that image `k` of a package breaks beside the others: those of any image (R272), LOOP and CLASS (R273), the edges into the loop set (R274), and of
ENCODE and DECODE of video the order of the steps (R277) and the outputs of CTX (R280). -/
def pkgImageRefuse (s : State) (a k : Nat) (p : Pkg) : Option String :=
  let x := pkgJob s a k
  let j := x.2.1
  let nets := p.nets.filter (fun n => decide (n.image = k))
  let idx := List.range j.macros.length
  let named := fun (r : String) (bad : Nat → Bool) => (idx.find? bad).map (fun i => r ++ ": image " ++ toString k ++ " instruction " ++ toString i)
  if !headerKeeps x.2.2 then some "R272"
  else (imageRefuse x.1 j x.2.2).orElse (fun _ =>
    (named "R273" (fun i => !loopKeeps p.audio nets j i)).orElse (fun _ => (named "R274" (loopBroken p.audio nets j)).orElse (fun _ =>
      if p.audio ∨ k = 2 then none
      else if imageSteps j k ≠ some (pictureSteps p) then some "R277"
      else if !ctxKeeps x.1 j p nets then some "R280"
      else none)))

/-- The networks of a package and their images are not as R271 says. -/
def netsBad (s : State) (a : Nat) (p : Pkg) : Bool :=
  let has := fun k => decide ((pkgImage s a k).2 ≠ 0)
  let job := fun k => (pkgJob s a k).2.1
  let of_ := fun k => p.nets.filter (fun n => decide (n.image = k))
  !(has 0 && has 1) || has 2 != p.graftOk || [0, 1].any (fun k => decide ((job k).kind ≠ 0)) || (p.graftOk && decide ((job 2).kind ≠ 1)) ||
  (List.range p.nets.length).any (fun i => decide (devLE s [] (a + pkgField s a 0x40 8 + 16 * i + 12) 4 ≠ 0)) || p.nets.any (fun n =>
    decide (n.image > 2) || !has n.image || !roleOk p.audio n || decide (n.first + n.count > (job n.image).macros.length) ||
    (if n.role = 5 then decide (n.group ≥ p.groups) || decide (n.pass > b2n p.checker) else decide (n.group ≠ 0) || decide (n.pass ≠ 0))) ||
  [0, 1, 2].any (fun k => !spansApart (((of_ k).filter (fun n => decide (n.count ≠ 0))).map (fun n => (n.first, n.count)))) ||
  [0, 1].any (fun k => (List.range (job k).macros.length).any (fun i => !memberPlaced (of_ k) (job k) i) ||
    (rolesOf p.audio k).any (fun r => !(of_ k).any (fun n => decide (n.role = r)))) ||
  (!p.audio && [0, 1].any (fun k => (List.range p.groups).any (fun g => (List.range (1 + b2n p.checker)).any (fun q =>
    decide (((of_ k).filter (fun n => decide (n.role = 5 ∧ n.group = g ∧ n.pass = q))).length ≠ 1)))))

/-- The rule that the package at device address `a` breaks. -/
def pkgRefuse (s : State) (a : Nat) : Option String :=
  let p := parsePkg s a
  if !pkgHeaderKeeps s a then some "R270"
  else if !stagesKeep s a p || (stageSums p.latentC 32768 (p.stages.map (·.2))).any (fun d => decide (2 ^ 47 ≤ d)) then some "R291"
  else if netsBad s a p then some "R271"
  else (pairsRefuse (pkgJob s a 0) (pkgJob s a 1) (netPairs p.nets)).orElse (fun _ =>
    (([0, 1] ++ if p.graftOk then [2] else []).findSome? (fun k => pkgImageRefuse s a k p)).orElse (fun _ =>
      if (bankHoles s [] p.bank).isEmpty then bankRefuse (bankBytes s p.bank) else none))

end Sys2Proof.Machine
end

