-- ==== Sys2Proof/Machine/Costs.lean ====
section
/-! DEFINITION. The costs of macro-instructions and the time that a schedule gives them (02 R40, R41; 03 R71, R72, R76; 06 R167 to R181; 08 R227; 09 R245,
R261). -/

namespace Sys2Proof.Machine

/-! From steps to cycles (R40). -/

/-- Cycles below `k` that a cell of swallow ratio n/32 does not skip. -/
def unskipped (n k : Nat) : Nat := k - k * n / 32

/-- Cycles that such a cell takes for `steps` steps from cycle `c` on: the least count over which as many cycles are not skipped. -/
def cyclesFor (n c steps : Nat) : Nat :=
  if steps = 0 then 0
  else
    let f := unskipped n 32
    let want := unskipped n (c % 32) + steps - 1
    let x := 32 * (want / f) + (((List.range 33).find? (fun y => decide (want % f < unskipped n y))).getD 32)
    x - c % 32

/-! Layers (R245). -/

/-- Layers before instruction `i`: records of one layer count from one origin (R245). -/
def layerOf (j : Job) (i : Nat) : Nat := ((List.range i).filter (fun k => decide (opAt j k = 0x40 ∨ opAt j k = 0x41))).length

/-- SCYC of the origin of the layer of instruction `i` in region `r`: 0 at a release, and the cycle after a LAYER retires (DEDUCED, log entry 120: the first after
the SPAN cycles of its record). -/
def originOf (j : Job) (r i : Nat) : Nat :=
  (List.range i).foldl (fun o k =>
    if opAt j k = 0x40 then 0
    else if opAt j k = 0x41 then ((j.places.find? (fun p => decide (p.instr = k ∧ p.region = r))).map (fun p => o + p.start + p.span)).getD o
    else o) 0

/-- The first instruction of a layer. -/
def layerStart (j : Job) (l : Nat) : Nat := ((List.range (j.macros.length + 1)).find? (fun i => decide (layerOf j i = l))).getD 0

/-! Costs in steps (R167 to R181). -/

/-- The share and the tiles of a product under a record, at the sizes of its combination of buckets. -/
def loadGeom (t : State) (j : Job) (p : Place) : Geom :=
  let t := modRegion t p.region (fun x => { x with pc := p.instr })
  let w := macroFields (j.macros.getD p.instr 0)
  let z := comboSizes t (comboDescs t p.region (prodDescs t w)) p.combo
  let o := fun i twoD => tileOpd t p.region (dField w i) twoD
  let sized := fun (o : Opd) => { o with n0 := tileDim t z o 0, n1 := tileDim t z o 1, n2 := tileDim t z o 2 }
  if opAt j p.instr = 0x10 then
    (mmulGeom w p (prodStrict t w) (o 1 true) (o 2 true) (o 0 true) (tileDim t z (o 1 true) 1) (tileDim t z (o 0 true) 0) (tileDim t z (o 1 true) 0)).2
  else (convGeom w (subAt j p.instr % 8) p (prodStrict t w) (sized (o 1 false)) (o 2 false) (sized (o 0 false)) (sized (o 1 false)) (sized (o 0 false))).2

/-- The sizes of descriptor `d` of a record's instruction in its combination of buckets. -/
def recordDims (t : State) (j : Job) (p : Place) (d : Desc) : Nat × Nat × Nat :=
  let u := modRegion t p.region (fun x => { x with pc := p.instr })
  let z := comboSizes u (comboDescs u p.region (fieldDescs j p.instr ((if writesD0 j p.instr then [0] else []) ++ inFields j p.instr))) p.combo
  (sizeDim u z d 0, sizeDim u z d 1, sizeDim u z d 2)

/-- Elements of field `k` of a record's instruction, in one problem. -/
def recordElems (t : State) (j : Job) (p : Place) (k : Nat) : Nat :=
  (fieldDescs j p.instr [k]).foldl (fun n d => let x := recordDims t j p d; n + x.1 * x.2.1 * x.2.2) 0

/-- Bytes of that field, in `np` problems. -/
def recordBytesOf (t : State) (j : Job) (p : Place) (np k : Nat) : Nat :=
  (fieldDescs j p.instr [k]).foldl (fun n d => n + ceilDiv (np * recordElems t j p k * fmtBits (descFmt d)) 8) 0

/-- Fill and drain of a product: those of a fused command are its first fill and its last drain (R167, R261). -/
def fillDrain (j : Job) (i : Nat) : Nat := (if 0 < i ∧ fuseBit j (i - 1) then 0 else 136) + (if fuseBit j i then 0 else 128)

/-- Steps of a strike of a product; twice as many in the diagonal mapping with a stride (R167, 08 R227). -/
def recordStrike (t : State) (j : Job) (p : Place) (g : Geom) : Nat :=
  let w := macroFields (j.macros.getD p.instr 0)
  let dim := fun k => (fieldDescs j p.instr [k]).foldl (fun _ d => (recordDims t j p d).2.2) 0
  let diag := decide (opAt j p.instr = 0x11) && (convCut w (subAt j p.instr % 8) (dim 1) (dim 0)).diag && decide (1 < (winOf w).sx)
  strikeSteps g.k (costC2 (fmtField t w 1) (fmtField t w 2) w.cls (prodStrict t w)) * (if diag then 2 else 1)

/-- The cost of a record's instruction in steps of the cells that run it, or in cycles where those are the sequencer and the slots; none where it depends on data or on
the end of something else. A share by problems counts its own; that of another share is not stated but for a product (R168 to R181). -/
def costOf (t : State) (j : Job) (p : Place) : Option Nat :=
  let w := macroFields (j.macros.getD p.instr 0)
  let op := opAt j p.instr
  let a := 4 * p.fm * p.fn
  let np := if p.share = 1 then p.shareHi - p.shareLo else w.rep + 1
  let size := recordBytesOf t j p np
  let elems := fun k => np * recordElems t j p k
  let dims := fun k => (fieldDescs j p.instr [k]).foldl (fun _ d => recordDims t j p d) (0, 0, 0)
  let beats := fun n => ceilDiv n (64 * a)
  let win := (winOf w).kw * (winOf w).kh
  if op = 0x10 ∨ op = 0x11 then let g := loadGeom t j p; some (fillDrain j p.instr + g.waves.length * recordStrike t j p g)
  else if p.share > 1 then none
  else match op with
  | 0x01 => some 1
  | 0x12 => some (96 + ceilDiv (elems 0 * win) (4096 * a))
  | 0x13 => some (24 + beats (max (size 0) (max (size 1) (size 2))))
  | 0x14 => some (24 + beats (max (size 0) (size 1)))
  | 0x15 =>
    let x := dims 1
    let n := if bits w.p0 0 2 = 0 then x.1 else if bits w.p0 0 2 = 1 then x.2.1 else x.2.2
    some (24 + beats (max (size 0) (size 1)) + 8 * ((List.range 21).find? (fun k => decide (n ≤ 2 ^ k))).getD 20)
  | 0x16 => some (24 + 2 * ceilDiv (elems 1) (16 * (2 * p.fm * p.fn)))
  | 0x17 => some (24 + beats (max (size 0) (size 1)))
  | 0x20 => if subAt j p.instr < 3 then some (ceilDiv (size 0) 64) else none
  | 0x21 => some (16 * w.p0)
  | 0x22 => (fieldDescs j p.instr [subAt j p.instr % 2]).head?.map (fun d => d.n0 + 8)
  | 0x23 => some (ceilDiv (size 1) 64)
  | 0x24 => some (ceilDiv (size 1) 64)
  | 0x30 =>
    let wide := decide (fmtBits (fmtField t w 1) = 16 ∨ fmtBits (fmtField t w 2) = 16)
    some (64 + ceilDiv (elems 0 * (if subAt j p.instr % 8 = 2 then 1 else (dims 1).2.2) * win) (if wide then 1024 else 4096))
  | 0x31 =>
    let ones := fun (m n : Nat) => ((List.range n).filter (bit m)).length
    some (48 + ceilDiv (elems (if subAt j p.instr = 0 then 1 else 0)) (max 1 (ones p.unit 4 * ones p.lanes 8)))
  | 0x32 =>
    let c := elems 3
    some (32 + ceilDiv c 16 * (1 + min c (bits w.p1 0 12 + 1)))
  | 0x33 =>
    let x := dims 0
    let m := x.1 * x.2.1
    some (fillDrain j p.instr + ceilDiv (np * ceilDiv x.1 128 * ceilDiv x.2.1 128) a * strikeSteps (bits w.p0 0 8) 1 + beats (np * m))
  | 0x42 => some 1
  | 0x44 => some 1
  | _ => none

/-- The cells that run a record's instruction, by SPEED entry (R47, R164); none for the sequencer, whose costs are cycles. -/
def recordCells (j : Job) (p : Place) : List Nat :=
  let forges := (List.range (p.fm * p.fn)).map (fun i => bits p.forges (4 * i) 4)
  match opAt j p.instr with
  | 0x16 => forges.flatMap (fun f => [64 + 2 * f, 65 + 2 * f])
  | 0x30 => [96 + p.unit % 2]
  | 0x31 => ((List.range 4).filter (bit p.unit)).map (· + 98)
  | 0x32 => [102]
  | op => if (0x10 ≤ op ∧ op ≤ 0x17) ∨ op = 0x33 then forges.flatMap (fun f => (List.range 4).map (fun a => 4 * f + a)) else []

/-- SPAN is below the cost on some cell, from its swallow phase at the dispatch cycle on (R245). -/
def spanShort (t : State) (j : Job) (p : Place) : Bool :=
  match costOf t j p with
  | none => false
  | some n =>
    let c := originOf j p.region p.instr + p.start
    match recordCells j p with
    | [] => decide (p.span < n)
    | l => l.any (fun e => decide (p.span < cyclesFor (cellEff t (posOf t p.region) e) c n))

/-! Anvils in time (R261). -/

/-- An instruction runs on Anvils (R164). -/
def onAnvils (op : Nat) : Bool := [0x10, 0x11, 0x12, 0x13, 0x14, 0x15, 0x17, 0x33].contains op

/-- Two records of different commands of one layer overlap on a Forge's Anvils. Their combinations may meet where they are the same, or where one of them is
the first (log entry 12). -/
def anvilsShared (j : Job) : Bool :=
  j.places.any (fun p => onAnvils (opAt j p.instr) && j.places.any (fun q =>
    decide (p.instr < q.instr ∧ p.region = q.region ∧ layerOf j p.instr = layerOf j q.instr ∧ (p.combo = q.combo ∨ p.combo = 0 ∨ q.combo = 0)) &&
      onAnvils (opAt j q.instr) && !(fusedRun j p.instr).contains q.instr &&
      decide (p.start < q.start + q.span ∧ q.start < p.start + p.span) &&
      (List.range (p.fm * p.fn)).any (fun i => (List.range (q.fm * q.fn)).any (fun k => decide (bits p.forges (4 * i) 4 = bits q.forges (4 * k) 4)))))

/-! DRAM channels in time (03 R71, R72, R76). -/

/-- Share frames of a refresh period of Hearth or Cellar at the refresh rate in force (03 R71). -/
def framesOf (s : State) (hearth : Bool) : Nat := if rd s (if hearth then Fk.memRefreshHearth2x else Fk.memRefreshCellar2x) = 1 then 2 else 5

/-- The cycle of a beat's issue after its channel's idle gap; none within it. -/
def afterGap (s : State) (j : Job) (b : BeatIn) : Option Nat :=
  let t := originOf j b.region (layerStart j b.layer) + b.issue
  let o := (errUnit s b.addr).2 % 8 * 64
  if t < o then none else some (t - o)

/-- A beat is issued in the idle gap or in a refresh window of its channel (R72). -/
def inRefresh (s : State) (j : Job) (b : BeatIn) : Bool :=
  decide (levelOf b.addr ≤ 1) && (match afterGap s j b with
    | none => true
    | some t => decide (t % (512 + 960 * framesOf s (decide (levelOf b.addr = 1))) < 512))

/-- The slot in which a beat is issued: the epoch, by the barriers before it, the channel, and the number of the slot of 48 cycles (R71, R73). -/
def beatSlot (s : State) (j : Job) (b : BeatIn) : Nat × (Nat × Nat) × Nat × Nat :=
  let per := 512 + 960 * framesOf s (decide (levelOf b.addr = 1))
  let t := (afterGap s j b).getD 0
  (((List.range (layerStart j b.layer)).filter (fun k => decide (opAt j k = 0x40))).length, errUnit s b.addr, t / per, (t % per - 512) / 48)

/-- A slot holds more beats than its level moves in one (R76). -/
def slotFull (s : State) (j : Job) (l : List BeatIn) : Bool :=
  l.any (fun b => decide (levelOf b.addr ≤ 1) &&
    decide ((if levelOf b.addr = 1 then 36 else 7) < (l.filter (fun x => decide (beatSlot s j x = beatSlot s j b))).length))

end Sys2Proof.Machine
end

