-- ==== Sys2Proof/Machine/ScheduleChecks.lean ====
section
/-! DEFINITION. What the host's loader checks of a schedule: its slot tables, timed beats and placement records (02 R42, R48, R49; 03 R72, R75, R76, R88,
R92; 07 R198, R214; 09 R240 to R245, R259 to R261; 11 R318; 14 R376, R387; log entry 12). -/

namespace Sys2Proof.Machine

/-! Slot tables (09 R240 to R242). -/

/-- A requester code is assigned, and its instance is in range (09 R241). -/
def codeOk (c : Nat) : Bool :=
  decide (c = 0) || decide (bits c 0 12 < [0, 512, 256, 128, 16, 32, 8, 8, 16, 2, 1, 128, 64].getD (bits c 12 4) 0 ∧ c / 4096 ≠ 0)

/-- Kinds of requester that a row of R240 admits; of a channel's, by the class of the share slot (0 READ, 1 WRITE, 2 REMOTE). -/
def admitted (kind inst cls : Nat) : List Nat :=
  match kind with
  | 1 => [1, 2, 3]
  | 2 => if inst % 2 = 0 then [7] else [1]
  | 3 => [3, 4, 5, 6, 7]
  | 4 => [11, 12]
  | 5 => [7, 8, 9, 10]
  | 6 => if cls < 2 then [4, 5, 6, 7] else [8, 10]
  | 7 => if cls < 2 then [4, 5, 6, 7] else [8, 10]
  | 8 => [7]
  | _ => [11]

/-- An Anvil that asks for a Forge's port out of the Forge is of that Forge (R240). -/
def ownAnvil (t : SlotTable) (c : Nat) : Bool := !(decide (t.kind = 2 ∧ t.inst % 2 = 1)) || decide (bits c 0 12 / 4 = t.inst / 2)

/-- A slot table names a resource of R240, holds as many entries as its row admits, and grants each slot to a requester that the row admits and that
is of the slot's class (09 R240 to R242). -/
def tableOk (s : State) (t : SlotTable) : Bool :=
  let n := t.codes.length
  let cls := shareClasses s (decide (t.kind = 6))
  decide (1 ≤ t.kind ∧ t.kind ≤ 9) && decide (t.inst < [0, 512, 256, 64, 256, 28, 256, 128, 16, 2].getD t.kind 0) &&
    (match t.kind with
     | 4 => decide (1 ≤ n ∧ n ≤ 1024)
     | 6 => decide (n = 20 * framesOf s true)
     | 7 => decide (n = 20 * framesOf s false)
     | 8 => decide (1 ≤ n ∧ n ≤ 1024)
     | 9 => decide (1 ≤ n ∧ n ≤ 1024)
     | _ => decide (1 ≤ n ∧ n ≤ 4096)) &&
    ((List.range n).zip t.codes).all (fun x => decide (x.2 = 0) ||
      (codeOk x.2 && (admitted t.kind t.inst (cls.getD (x.1 % 20) 2)).contains (x.2 / 4096) && ownAnvil t x.2))

/-- In a media-transmit table, two consecutive slots of a context are more than 2 µs apart: 3,000 CCLK periods, of 128 a slot (14 R376, 09 R240). -/
def mediaGaps (t : SlotTable) : Bool :=
  let n := t.codes.length
  decide (t.kind = 9) && (List.range n).any (fun i => let c := t.codes.getD i 0
    decide (c ≠ 0) && (List.range (min 24 n)).all (fun k => decide (128 * (k + 1) ≤ 3000 → t.codes.getD ((i + k + 1) % n) 0 ≠ c)))

/-! Swallowed cycles (02 R40, R42). -/

/-- A cell of swallow ratio n/32 skips cycle `k` of a swallow frame (02 R40). -/
def skips (n k : Nat) : Bool := decide ((k % 32 + 1) * n / 32 > k % 32 * n / 32)

/-- The SPEED entry of the cell that a requester code names, with its logical region: an Anvil, Burin, Stem engine, Drawplate, Pruner or region sequencer
(09 R241, 02 R47). -/
def cellOfCode (c : Nat) : Option (Nat × Nat) :=
  let i := bits c 0 12
  match bits c 12 4 with
  | 1 => some (i / 64, i % 64)
  | 2 => some (i / 32, 64 + i % 32)
  | 7 => some (i, 103)
  | _ => codeCell c

/-- A slot of one cycle that the table grants to a cell falls on a cycle that the cell skips: the cycles of slot `i` are those that leave `i` over the number of
entries, on a counter that agrees with EPOCH.CYCLE over 32 (02 R42, 09 R242, R248). DESIGN CHOICE (log entry 120): a longer slot falls on no one cycle. -/
def slotSkipped (s : State) (t : SlotTable) : Bool :=
  let n := t.codes.length
  let g := Nat.gcd n 32
  decide (t.kind ≤ 3 ∨ t.kind = 5) && ((List.range n).zip t.codes).any (fun x => match cellOfCode x.2 with
    | some y => decide (y.1 < regionCount s) && (let e := cellEff s (posOf s y.1) y.2
        decide (e ≠ 0) && (List.range 32).any (fun k => decide (k % g = x.1 % g) && skips e k))
    | none => false)

/-! Timed beats (02 R48, R49). -/

/-- L of R49 for a read of region `r` from a DRAM address: h counts the Canopy links between the region and the owner of the Hearth stack, or the I/O die of
the Cellar side (01 R19, R23). -/
def latencyOf (s : State) (r a : Nat) : Nat :=
  let n := posOf s r
  let apart := fun (x y : Nat) => (x - y) + (y - x)
  if levelOf a = 1 then
    let o := bits a 36 4 / 2
    320 + 24 * (apart (o / 4) (n / 4) + apart (o % 4) (n % 4))
  else 760 + 24 * (if bit a 40 then 4 - n % 4 else n % 4 + 1)

/-- The rule that the timed beats of a schedule break: a release on a cycle that its cell skips (R42), more than 1,024 beats outstanding in a region (R48), a
release before the read's latency is over (R49), a read in its channel's idle gap or refresh window (R72), or more beats in a slot than it moves (R76). -/
def beatsRefuse (s : State) (j : Job) (l : List BeatIn) : Option String :=
  if l.any (fun b => decide (b.cell < 104) && skips (cellEff s (posOf s b.region) b.cell) b.release) then some "R42"
  else if l.any (fun b => decide (1024 < (l.filter (fun x => decide (x.region = b.region ∧ x.layer = b.layer ∧ x.issue ≤ b.issue ∧ b.issue < x.release))).length)) then some "R48"
  else if l.any (fun b => decide (b.release < b.issue + latencyOf s b.region b.addr + b.index)) then some "R49"
  else if l.any (inRefresh s j) then some "R72"
  else if slotFull s j l then some "R76"
  else none

/-! Sources and shares (02 R49, 03 R75). -/

/-- A record's landing delays are no less than L of every DRAM source. -/
def delaysKeep (s : State) (j : Job) (p : Place) : Bool :=
  (sourceSpans { s with job := some j } j p.instr).all (fun x => decide (1 < levelOf x.1) ||
    decide (latencyOf s p.region x.1 ≤ if levelOf x.1 = 1 then p.dHearth else p.dCellar))

/-- Instruction `i` reads or writes Hearth (`lev` 1) or Cellar (0) in a class whose share of the level is 0 (03 R75). -/
def shareMissing (s : State) (j : Job) (i : Nat) : Bool :=
  let t := { s with job := some j }
  let at_ := fun (l : List (Nat × Nat)) (lev : Nat) => l.any (fun x => decide (0 < x.2 ∧ levelOf x.1 = lev))
  (decide (rd s Fk.memHearthShareReadPct = 0) && at_ (sourceSpans t j i) 1) || (decide (rd s Fk.memCellarShareReadPct = 0) && at_ (sourceSpans t j i) 0) ||
    (decide (rd s Fk.memHearthShareWritePct = 0) && at_ (targetSpans t j i) 1) || (decide (rd s Fk.memCellarShareWritePct = 0) && at_ (targetSpans t j i) 0)

/-! Lanes (11 R318). -/

/-- A record keeps lane `l` of its region busy: a DRAW on it, or an instruction with a coded operand that the table grants the lane. -/
def onLane (j : Job) (ts : List SlotTable) (p : Place) (l : Nat) : Bool :=
  if opAt j p.instr = 0x31 then bit p.unit (l / 8) && bit p.lanes (l % 8)
  else (wordSlots (j.macros.getD p.instr 0)).any (fun k =>
    ts.any (fun t => decide (t.kind = 4 ∧ t.inst = 32 * p.region + l) && t.codes.contains (0xC000 + wordD (j.macros.getD p.instr 0) k)))

/-- More than 16 DRAWs and coded transfers are in progress on one lane at a cycle (11 R318). -/
def lanesFull (j : Job) (ts : List SlotTable) : Bool :=
  j.places.any (fun p => (List.range 32).any (fun l => onLane j ts p l && decide (16 < (j.places.filter (fun q =>
    decide (q.region = p.region ∧ q.combo = p.combo ∧ layerOf j q.instr = layerOf j p.instr ∧ q.start ≤ p.start ∧ p.start < q.start + q.span) && onLane j ts q l)).length)))

/-! Placement records (09 R245, R259, R260; 07 R198; 11 R314). -/

/-- A placement record keeps what R245 asks of it alone. -/
def recordKeeps (j : Job) (p : Place) : Bool :=
  let op := bits (j.macros.getD p.instr 0) 120 8
  let n := p.fm * p.fn
  decide (p.instr < j.macros.length) && decide (1 ≤ n) && decide (n ≤ 16) &&
    decide ((((List.range n).map (fun i => bits p.forges (4 * i) 4)).eraseDups).length = n) && decide (p.forges / 16 ^ n = 0) &&
    decide (p.combo < 64) && decide (p.share ≤ 4) && decide (p.wmode ≤ 2) && (decide (op = 0x31) || (decide (p.lanes = 0) && decide (p.unit ≤ b2n (decide (op = 0x30)))))

/-- The grants of a record exceed what the levels hold: 8 MiB of a Bench, 128 MiB of a Crucible, 576 GiB of Hearth (07 R198, 03 R68). -/
def grantsOver (p : Place) : Bool := decide (8192 < p.beta ∨ 131072 < p.gamma ∨ 16 * 36 * 2 ^ 20 < p.eta)

/-- The rule that a record's WMODE breaks: resident weights whose block and the block received do not fit β (R259), or multicast ones whose source is not in Hearth
(R260). The weights of a product are its D2; those that stand in Bench are a Forge's block. -/
def wmodeRefuse (t : State) (j : Job) (p : Place) : Option String :=
  if !([0x10, 0x11].contains (opAt j p.instr)) then none
  else (fieldDescs j p.instr [2]).findSome? (fun d =>
    let x := descExtents t d (paddedDims (j.macros.getD p.instr 0) 2 d) 1
    if p.wmode = 1 ∧ 1024 * p.beta < 2 * (x.foldl (fun n y => n + y.2) 0) then some "R259"
    else if p.wmode = 2 ∧ levelOf d.base ≠ 1 then some "R260"
    else none)

/-! Fused commands (07 R214). -/

/-- The strikes of a product under a record, each with the Forge that computes it (07 R203), and the share that it is. -/
def strikesOf (t : State) (j : Job) (p : Place) : List (Nat × Nat × Nat × Nat) × (Nat × Nat) :=
  let g := loadGeom t j p
  (((List.range g.strikes.length).zip g.strikes).map (fun x => (bits p.forges (4 * (x.1 % (4 * p.fm * p.fn) / 4)) 4, x.2)), (g.h, g.w))

/-- The products `i` and `i + 1` of a fused command pass a row through Bench that another Forge wrote than reads it: as A by the rows of a strike, and as B, whose
rows are all reduction indices, the whole of a problem. -/
def benchForeign (t : State) (j : Job) (i : Nat) : Bool :=
  let out := (fieldDescs j i [0]).filter (fun d => decide (levelOf d.base = 3))
  let reads := fun k => (fieldDescs j (i + 1) [k]).any (fun d => out.any (fun o => decide (o.base = d.base)))
  out ≠ [] && [0x10, 0x11].contains (opAt j i) && [0x10, 0x11].contains (opAt j (i + 1)) && j.places.any (fun p => decide (p.instr = i) &&
    j.places.any (fun q => decide (q.instr = i + 1 ∧ q.region = p.region ∧ q.combo = p.combo) &&
      (let a := strikesOf t j p
       let b := strikesOf t j q
       b.1.any (fun y => a.1.any (fun x => decide (x.1 ≠ y.1 ∧ x.2.1 = y.2.1) &&
         (reads 2 || (reads 1 && decide (x.2.2.1 * a.2.1 < (y.2.2.1 + 1) * b.2.1 ∧ y.2.2.1 * b.2.1 < (x.2.2.1 + 1) * a.2.1))))))))

/-- The intermediates of the fused command of instruction `i` exceed what Bench or Crucible holds beside the grants of a member. -/
def fusedOver (t : State) (j : Job) (i : Nat) : Bool :=
  let l := fusedRun j i
  let size := fun (lev : Nat) => (l.dropLast.flatMap (fun k => ((fieldDescs j k [0]).filter (fun d => decide (levelOf d.base = lev))).flatMap (fun d =>
    descExtents t d (paddedDims (j.macros.getD k 0) 0 d) (bits (j.macros.getD k 0) 66 16 + 1)))).foldl (fun n x => n + x.2) 0
  decide (1 < l.length) && j.places.any (fun p => decide (p.instr = i) && decide (2 ^ 23 < 1024 * p.beta + size 3 ∨ 2 ^ 27 < 1024 * p.gamma + size 2))

/-- A fused command breaks R214. -/
def fusedBad (t : State) (j : Job) : Bool :=
  (List.range j.macros.length).any (fun i => (fuseBit j i && benchForeign t j i) || fusedOver t j i)

/-! The reference pool (03 R92, 14 R387). -/

/-- The rule that the frame buffers of the pool break: one that does not lie within a single Hearth stack (R92), or a video context with other than 25 of them
(R387). -/
def poolAreaRefuse (x : LoadIn) : Option String :=
  let pool := x.areas.filter (fun y => !y.audio && decide (y.role = 2))
  if pool.any (fun y => decide (levelOf y.addr ≠ 1 ∨ bits y.addr 36 4 ≠ bits (y.addr + y.bytes - 1) 36 4)) then some "R92"
  else if (((x.pkgs.filter (fun y => !y.2.1)).map (·.1)).eraseDups).any (fun c => decide ((((pool.filter (fun y => y.ctx = c)).map (·.index)).eraseDups).length ≠ 25)) then some "R387"
  else none

/-! The checks together. -/

/-- Combinations of buckets of instruction `i`, or of the fused command that it belongs to, of the job that `t` holds (20 R519 c22). -/
def combosOf (t : State) (j : Job) (i : Nat) : Nat :=
  comboCount t (match fusedDescs t i with
    | [] => fieldDescs j i ((if writesD0 j i then [0] else []) ++ inFields j i)
    | f => f)

/-- The rule that the placement records of job `j` break: R245, or R181 where a region's stream does not end in HALT; R198, R259, R260 or R261. -/
def recordsRefuse (s : State) (j : Job) : Option String :=
  let t := { s with job := some j }
  let keys := (j.places.map (fun p => (p.instr, p.region))).eraseDups
  let ends := fun r => ((j.places.filter (fun p => p.region = r)).map (·.instr)).foldl max 0
  if !j.places.all (recordKeeps j) || !j.places.all (delaysKeep s j) || j.places.any (spanShort t j) || (List.range j.macros.length).any (fun i => !keys.any (fun k => decide (k.1 = i))) ||
      keys.any (fun k => (List.range (min 64 (combosOf t j k.1))).any (fun c => !j.places.any (fun p => p.instr = k.1 && p.region = k.2 && p.combo = c))) then some "R245"
  else if ((j.places.map (·.region)).eraseDups).any (fun r => decide (bits (j.macros.getD (ends r) 0) 120 8 ≠ 0x44)) then some "R181"
  else if j.places.any grantsOver then some "R198"
  else if anvilsShared j then some "R261"
  else j.places.findSome? (wmodeRefuse t j)

/-- The rule that the schedule of job `j` breaks under what the load hands over. -/
def scheduleRefuse (s : State) (j : Job) (x : LoadIn) : Option String :=
  let t := { s with job := some j }
  if ¬ j.tsets.all (fun ts => ts.all (tableOk s)) then some "R242"
  else if j.tsets.any (fun ts => ts.any mediaGaps) then some "R376"
  else (recordsRefuse s j).orElse (fun _ =>
    if j.tsets.any (fun ts => ts.any (slotSkipped s)) then some "R42"
    else (beatsRefuse s j x.beats).orElse (fun _ =>
      if (j.places.map (·.instr)).any (shareMissing s j) then some "R75"
      else if j.tsets.any (slotMissing s j) then some "R27"
      else if j.tsets.any (hostMissing s) then some "R88"
      else if j.tsets.any (lanesFull j) then some "R318"
      else if fusedBad t j then some "R214"
      else poolAreaRefuse x))

end Sys2Proof.Machine
end

