-- ==== Sys2Proof/Machine/HostLoader.lean ====
section
/-! DEFINITION. What a host loader refuses before an image or a package reaches the part, beside what the checks of images and schedules say (00 R18; 03 R94; 05
R136, R146, R151; 06 R154; 10 R270 to R280, R291; 11 R303, R304; 13 R365; 14 R387; 15 R409; log entry 12). -/

namespace Sys2Proof.Machine

/-! The edge table (06 R154; 05 R136, R146, R151). -/

/-- The rule that entry `e` of the edge table breaks, in the job `j` that `t` holds. -/
def edgeRefuse (t : State) (j : Job) (e : Edge) : Option String :=
  let v := j.macros.getD e.producer 0
  let d := (j.descs[e.desc]?).getD descZero
  let f := descFmt d
  let scaled := narrowFmt f
  let x := markedOut j e.producer
  let fmts := (descFmt d) :: (fieldDescs j e.producer ((inFields j e.producer).filter (fun k => decide (k ≤ 2)))).map descFmt
  let others := (List.range j.macros.length).filter (fun i => decide (i ≠ e.producer) && writesD0 j i && decide (((j.descs[outDesc j i]?).map (·.base)) = some d.base))
  if ¬ (e.producer < j.macros.length ∧ writesD0 j e.producer ∧ outDesc j e.producer = e.desc) ∨ e.target ≠ d.fmt ∨ ¬ (scaled ∨ f = .bf16 ∨ f = .fp16) ∨
      (e.aux ≠ 0xFF) ≠ scaled ∨ (scaled ∧ ((j.descs[e.aux]?).map (·.kind)) ≠ some 2) ∨
      (scaled ∧ inConsts t (((j.descs[e.aux]?).map (·.base)).getD 0) 64 ∧ (constAux t x).scale = 0) ∨ 1 < (j.edges.filter (fun y => y.desc = e.desc)).length then some "R154"
  else if isStrict t (bit v 115) fmts then some "R519"
  else if scaled ∧ (auxRefuse t (constAux t x) f none true true (auxDims d (constAux t x))).isSome then some "R136"
  else if bit v 115 = false ∨ bit v 114 ∨ j.places.any (fun p => p.instr = e.producer && p.share = 4) ∨
      others.any (fun i => !j.edges.any (fun y => y.producer = i && y.desc = outDesc j i)) then some "R146"
  else none

/-- The rule that the edges of job `j` break; `l` is its image, whose edge entries end in 9 zero bytes. -/
def edgesRefuse (s : State) (j : Job) (l : List Byte) : Option String :=
  let t := { s with job := some j }
  if (List.range (le l 0xA 2)).any (fun i => ((l.drop (le l 0x18 8 + 16 * i + 7)).take 9).any (· ≠ 0)) then some "R154"
  else j.edges.findSome? (edgeRefuse t j)

/-! Live work (03 R94, 14 R376, 15 R409). -/

/-- A buffer that a live context or a drain reads in every frame period lies in Cellar: an area that the load gives a live context, or the hoop of an ingress
or a drain (03 R94). -/
def liveInCellar (s : State) (x : LoadIn) : Bool :=
  x.areas.any (fun y => decide (1 ≤ y.role ∧ y.role ≤ 8) && decide (rd s (Fk.ctxCfgMode y.ctx) = 2) && decide (levelOf y.addr = 0)) ||
    (List.range 8).any (fun n => (List.range 64).any (fun h => decide (rd s (Fk.hoopCfgEnable n h) = 1) &&
      decide (rd s (Fk.hoopCfgPutEnd n h) = 2 ∨ rd s (Fk.hoopCfgTakeEnd n h) = 4) && decide (levelOf (rd s (Fk.hoopBase n h)) = 0)))

/-! The streams of file contexts (10 R276, 13 R365, 14 R387). -/

/-- The rule that the stream header `h` of a file context breaks, under its package `p` and the buffers `pool` of its references: MAJOR 1 and MINOR 0, with no byte
beyond the fields (13 R365), a picture size that the package takes (10 R276), and buffers of 64 × ceil(REF_C × Hl × Wl / 64) bytes (14 R387). -/
def headerRefuse (p : Option Pkg) (audio : Bool) (h : List Byte) (pool : List AreaIn) : Option String :=
  if ¬ (be h 0 1 = 1 ∧ be h 1 1 = 0 ∧ h.length = if audio then 10 else 24) then some "R365"
  else if !headerOk p audio h then some (if audio then "R349" else "R276")
  else match p with
    | none => none
    | some p => if !audio && pool.any (fun y => decide (y.bytes ≠ 64 * ceilDiv (p.refC * latH p h * latW p h) 64)) then some "R387" else none

/-- The rule that the stream headers of a load break. -/
def headersRefuse (s : State) (x : LoadIn) : Option String :=
  x.headers.findSome? (fun y => headerRefuse ((x.pkgs.find? (fun z => decide (z.1 = y.1 ∧ z.2.1 = y.2.1))).map (fun z => parsePkg s z.2.2)) y.2.1 y.2.2
    (x.areas.filter (fun a => decide (a.role = 2 ∧ a.ctx = y.1) && !a.audio)))

/-! The refusal of a LOAD. -/

/-- The rule that the banks and packages of a load break; a bank that poison has reached is not what the loader saw. -/
def packagesRefuse (s : State) (j : Job) (x : LoadIn) : Option String :=
  ((((jobBanks s j x.pkgs).map (·.2)).eraseDups.filter (fun a => (bankHoles s [] a).isEmpty)).findSome? (fun a => bankRefuse (bankBytes s a))).orElse
    (fun _ => (x.pkgs.map (·.2.2)).eraseDups.findSome? (pkgRefuse s))

/-- The rule by which the host loader refuses a LOAD that the part would admit: a requester without a slot (R27), a tree that does not match (R409), a schedule's
reserved bytes (R245), its image, schedule, edges, live buffers, packages and headers. -/
def hostRefuses (s : State) (e : Entry) (x : LoadIn) : Option String :=
  let l := devBytes s [] e.addr0 e.len0
  let j := parseJob l e.addr0 e x
  let sc := schedOf l
  if x.noSlot then some "R27"
  else if rd s Fk.tlStatusTreeMismatch = 1 then some "R409"
  else if (List.range (le sc 0x18 4)).any (fun i => ((sc.drop (le sc 0x10 8 + 64 * i + 0x37)).take 9).any (· ≠ 0)) then some "R245"
  else ((imageRefuse { s with job := some j } j l).orElse (fun _ => scheduleRefuse s j x)).orElse (fun _ => (edgesRefuse s j l).orElse (fun _ =>
    if liveInCellar s x then some "R94" else (packagesRefuse s j x).orElse (fun _ => headersRefuse s x)))

/-- The host loader refuses the LOAD at the head of queue `q`, which the part would admit. -/
def loadRefused (s : State) (e : Entry) (x : LoadIn) : Option String :=
  match (admission s e x).2 with
  | some _ => none
  | none => hostRefuses s e x

end Sys2Proof.Machine
end

