-- ==== Sys2Proof/Machine/HostQueue.lean ====
section
/-! DEFINITION. Work queues: doorbells, submission entries and what each does, items, results and records that wait (19 R499 to R511, R555; 13
R363; 16 R442). -/

namespace Sys2Proof.Machine

/-- The queues act: the part is READY and in service (19 R496, 18 R472). -/
def queueUp (s : State) : Bool := booted s && s.part.service

/-! Doorbells and the fetch of entries (R500, R502). -/

/-- A doorbell with tail `v` is accepted: no bit above the index, at most a ring of entries outstanding, and the queue enabled. -/
def doorbellOk (s : State) (q v : Nat) : Bool :=
  decide (v < 2 ^ 20) && decide (rd s (Fk.wqSqEnable q) = 1) &&
    decide (idxDiff v (rd s (Fk.wqHeadsSqHead q)) ≤ ringSize (rd s (Fk.wqSqSqLog2 q)))

/-- A 32-bit write of `v` at the doorbell of queue `q`. -/
def doorbell (s : State) (q v : Nat) : State :=
  if hostWrites s ∧ q < 64 then
    if doorbellOk s q v then modWq s q (fun w => { w with doorbell := v, tail := v }) else raise s (Fk.wqStatusDberr q)
  else s

/-- DOORBELL. -/
def execDoorbell (q v : Nat) (s : State) : Ans := .next (doorbell s q v)

/-- The entry that 64 bytes hold (R502). -/
def parseEntry (q idx : Nat) (b : List Byte) : Entry :=
  { q := q, idx := idx, op := le b 0 1, eflags := le b 1 1, ctx := le b 2 2, tag := le b 4 4, addr0 := le b 8 8, addr1 := le b 0x10 8
    len0 := le b 0x18 4, len1 := le b 0x1C 4, slot := le b 0x20 2, set := le b 0x22 2 }

/-- The entry breaks a rule that makes it an ENTRY refusal: an OP that is not assigned, a must-be-0 field, or a slot at or above RCOUNT
(R502, R503, 20 R524). -/
def entryBad (s : State) (e : Entry) (b : List Byte) : Bool :=
  decide (e.op = 0) || decide (e.op > 7) || decide (bits e.eflags 1 7 ≠ 0) || decide (le b 0x24 28 ≠ 0) ||
    (decide (e.op = 4 ∨ e.op = 6) && decide (e.slot ≥ rd s (Fk.wqResRcount e.q)))

/-- Bytes of host memory as a device read delivers them, with their poison (R500, 21 R527). -/
def hostRead (s : State) (bad : Bool) (a n : Nat) : List Byte × Bool :=
  if bad || !s.part.pcieUp || mBadIn s.host a n then (List.replicate n 0, true) else (mBytes s.host a n, false)

/-- The next entry of queue `q` arrives; `bad` says that it arrives poisoned. -/
def fetchEntry (s : State) (q : Nat) (bad : Bool) : State :=
  let head := rd s (Fk.wqHeadsSqHead q)
  if ¬ queueUp s ∨ rd s (Fk.wqSqEnable q) = 0 ∨ head = (getWq s q).tail then s
  else
    let l := hostRead s bad (rd s (Fk.wqSqSqPage q) * 4096 + head % ringSize (rd s (Fk.wqSqSqLog2 q)) * 64) 64
    let s := wr s (Fk.wqHeadsSqHead q) ((head + 1) % 2 ^ 20)
    let e := parseEntry q head l.1
    if l.2 then completeRefused (raise s (Fk.wqStatusFetchPoison q)) e rcEntry
    else if entryBad s e l.1 then completeRefused s e rcEntry
    else modWq s q (fun w => { w with entries := w.entries ++ [e], todo := w.todo ++ [e] })

/-- ENTRY_FETCH. -/
def execEntryFetch (q : Nat) (bad : Bool) (s : State) : Ans := .next (fetchEntry s q bad)

/-- The oldest entry of queue `q` with `op` that is still to be acted on. -/
def nextTodo (s : State) (q op : Nat) : Option Entry := (getWq s q).todo.find? (fun e => decide (e.op = op))

/-- An entry is acted on; it stays among those not completed. -/
def actOn (s : State) (e : Entry) : State := modWq s e.q (fun w => { w with todo := w.todo.filter (fun x => x.idx ≠ e.idx) })

/-- Act on the oldest entry of queue `q` with `op`. -/
def actNext (s : State) (q op : Nat) (f : State → Entry → State) : State :=
  if queueUp s then
    match nextTodo s q op with
    | some e => f (actOn s e) e
    | none => s
  else s

/-- The same as a command. -/
def entryDo (s : State) (q op : Nat) (f : State → Entry → State) : Ans := .next (actNext s q op f)

/-! LOAD, RUN and STOP. -/

/-- The rule by which the host loader refuses the next LOAD of queue 0, if the part acts on it and would admit it (log entry 12). -/
def nextRefused (q : Nat) (x : LoadIn) (s : State) : Option String :=
  if queueUp s ∧ q = 0 then (nextTodo s q 1).bind (fun e => loadRefused (actOn s e) e x) else none

/-- The next LOAD waits: its image or save image lies on a device that DRAM_TEMP holds (03 R77). -/
def loadHeld (q : Nat) (s : State) : Bool :=
  queueUp s && decide (q = 0) && (match nextTodo s q 1 with
    | some e => hotSpan s e.addr0 e.len0 || (decide (e.addr1 ≠ 0) && hotSpan s e.addr1 e.len1)
    | none => false)

/-- LOAD; one whose image lies on a held device waits. -/
def execLoadEntry (q : Nat) (x : LoadIn) (s : State) : Ans :=
  if loadHeld q s then .next s else match nextRefused q x s with
  | some r => .refused (.loaderRefuses r)
  | none => entryDo s q 1 (fun s e => if q ≠ 0 then completeRefused s e rcOpQueue else loadEntry s e x)

/-- Write the shape table into every region (06 R161): slot `k`, dimension `d` at 12 k + 4 d, as `f` cuts it. -/
def putShapes (s : State) (t : List Byte) (f : Nat → Nat) : State :=
  (List.range 8).foldl (fun s r => modRegion s r (fun x => { x with
    shapes := mputs (fun _ => 0) x.shapes 0 ((List.range 48).map (fun i => f (le t (4 * i) 4))) })) s

/-- The shape table as the slots hold it, 20 bits each. -/
def setShapes (s : State) (t : List Byte) : State := putShapes s t (fun n => n % 2 ^ 20)

/-- SHAPE_OVER before the job starts (18 R471, R504): logged in the chip's record, in FAULT.JOB and the alarm; RUN completes as FAULT. -/
def shapeRefused (s : State) (e : Entry) (x : Nat × Nat × Nat × Nat) : State :=
  let s := hwRecord s true (hwEntry s fcShapeOver 3 0 srcChip noInstr (shapeDetail x))
  let s := wr (wr (wr s Fk.faultJobJobCode fcShapeOver) Fk.faultJobJobTag (rd s Fk.tlCtlJobTag)) Fk.faultJobHwSeq 0
  completeEntry (alarmEvent s 1) e (entryRec e stFault fcShapeOver)

/-- The set that RUN names is STAGED and applies; none named is as good (R503). -/
def runSet (s : State) (e : Entry) : State × Bool :=
  if e.set = 0xFFFF then (s, true)
  else if e.set ≥ 16 ∨ rdBit s Fk.temperSetsStaged e.set = false then (s, false)
  else applySet s e.set

/-- The job waits for its first release (R504) with the shape table `t`; ballast precedes it, from static power up (17 R460, R461). -/
def runWait (s : State) (j : Job) (e : Entry) (t : List Byte) : State :=
  let s := modJob s (fun j => { j with run := some e, shapeTab := t, waiting := true, stops := [] })
  let s := { s with root := { s.root with lastArr := s.cc, firstArr := none } }
  (jobRegions j).foldl (fun s r => ballastStart s r (min (staticW s) (rd s Fk.bellowsBallastStartW))) s

/-- The fields of word `w` that a window reads: D0, D1, P1 and P0 (06 R163). -/
def windowWord (w : Nat) : MacroW :=
  { cls := bit w 115, sub3 := bit w 119, loop := bit w 114, rnd := bits w 112 2, d0 := bits w 106 6, d1 := bits w 100 6, d2 := bits w 94 6,
    d3 := bits w 88 6, d4 := bits w 82 6, rep := bits w 66 16, fuse := bit w 65, p1 := bits w 32 32, p0 := bits w 0 32 }

/-- The first bucketed window of the job whose excess the entry's shapes breach (08 R218, under R162 case 1). A window with a dimension of 0 waits
for its dispatch (log entry 18). -/
def windowOver (s : State) (j : Job) : Option (Nat × Nat × Nat × Nat) :=
  (j.macros.filter (fun w => [0x11, 0x12, 0x30].contains (bits w 120 8))).findSome? (fun w =>
    let m := windowWord w
    if shapeZero s 0 ([m.d0, m.d1].filterMap (fun k => j.descs[k]?)) then none else excessFault s 0 m)

/-- SHAPE_OVER by the sizes `t` that the entry gives, before the slots cut them (06 R162 case 1, R504). -/
def runShapeOver (s : State) (t : List Byte) (j : Job) : Option (Nat × Nat × Nat × Nat) :=
  (shapeOver (putShapes s t id) 0 j.descs).orElse (fun _ => windowOver s j)

/-- RUN with a loaded job `j`; `bad` says that the shape table arrives poisoned. -/
def runDo (s : State) (e : Entry) (j : Job) (bad : Bool) : State :=
  let t := if e.addr0 = 0 then (List.replicate 192 0, false) else hostRead s bad e.addr0 192
  let s := setShapes (if t.2 then raise s (Fk.wqStatusFetchPoison e.q) else s) t.1
  match runShapeOver s t.1 j with
  | some x => shapeRefused s e x
  | none =>
    let y := runSet s e
    if y.2 && hoopsReady y.1 then runWait y.1 j e t.1 else completeRefused y.1 e rcTemper

/-- The RUN of entry `e` (R503, R504). -/
def runEntry (bad : Bool) (s : State) (e : Entry) : State :=
  if e.q ≠ 0 then completeRefused s e rcOpQueue
  else match s.job with
  | none => completeRefused s e rcNoJob
  | some j => if rd s Fk.bootJobJstate = jLoaded ∧ j.waiting = false then runDo s e j bad else completeRefused s e rcNoJob

/-- RUN. -/
def execRunEntry (q : Nat) (bad : Bool) (s : State) : Ans := entryDo s q 2 (runEntry bad)

/-- A job is under way: running, paused, or waiting for its first release. -/
def jobActive (s : State) : Bool :=
  match s.job with
  | none => false
  | some j => running s || j.waiting || decide (rd s Fk.bootJobJstate = jPaused)

/-- STOP: the job ends at its next release; a paused one, which has none, ends at once (16 R448). -/
def execStopEntry (q : Nat) (s : State) : Ans :=
  entryDo s q 3 (fun s e =>
    if q ≠ 0 then completeRefused s e rcOpQueue
    else if jobActive s then
      let s := modJob s (fun j => { j with stops := j.stops ++ [e] })
      if rd s Fk.bootJobJstate = jPaused then
        stopJob (wr (modJob s (fun j => { j with saving := false })) Fk.auditSaveCtlPause 0) else s
    else completeRefused s e rcNoJob)

/-! Items and contexts (R505, R507). -/

/-- The running job codes the context, which is bound to queue `q` (R503). -/
def ctxOk (s : State) (q c : Nat) : Bool :=
  jobActive s && decide (c < 128) && decide (rd s (Fk.ctxCfgMode c) ≠ 0) && decide (rd s (Fk.ctxCfgWq c) = q)

/-- ITEM: its copies into the staging area begin. -/
def execItemEntry (q : Nat) (s : State) : Ans :=
  entryDo s q 4 (fun s e =>
    if !ctxOk s q e.ctx then completeRefused s e rcCtx
    else if (getSlot s q e.slot).st ≠ .free then completeRefused s e rcSlotBusy
    else modCtx s e.ctx (fun x => { x with items := x.items ++ [⟨e, [], [], false, none, false, []⟩] }))

/-- Copy a buffer from host memory to a staging address. -/
def stageBytes (s : State) (a : Nat) (l : List Byte × Bool) : State := devWrite s [] a l.1 (fun _ => l.2)

/-- The copies of the item of entry `idx` of queue `q` complete, at the staging addresses `sa` and `sb`; `bad` says that an input arrives
poisoned. -/
def itemStaged (s : State) (q idx sa sb : Nat) (bad : Bool) : State :=
  match (List.range 128).findSome? (fun c =>
    (getCtx s c).items.find? (fun x => decide (x.entry.q = q) && decide (x.entry.idx = idx) && x.doneAt.isNone)) with
  | none => s
  | some x =>
    let e := x.entry
    let a := hostRead s bad e.addr0 e.len0
    let b := if e.addr1 = 0 then ([], false) else hostRead s bad e.addr1 e.len1
    let s := stageBytes (stageBytes s sa a) sb b
    let s := if a.2 || b.2 then raise s (Fk.wqStatusFetchPoison q) else s
    let done : Item := { x with input := a.1, boxes := b.1, bad := a.2 || b.2, doneAt := some (rd s Fk.epochCount) }
    modCtx s e.ctx (fun y => { y with items := y.items.map (fun z => if z.entry = e then done else z) })

/-- ITEM_ELIGIBLE. -/
def execItemEligible (q idx sa sb : Nat) (bad : Bool) (s : State) : Ans := .next (itemStaged s q idx sa sb bad)

/-- HOST_READ_ERROR: a read that the part has made of host memory fails, so that its bytes arrive poisoned with zero data (21 R527): the fetch of an
entry (`what` 0), the copies of an item (1), the shape table of a RUN (2); any other read delivers the poison to the instruction that made it. -/
def execHostReadError (what q idx sa sb : Nat) (s : State) : Ans :=
  .next (match what with
  | 0 => fetchEntry s q true
  | 1 => itemStaged s q idx sa sb true
  | 2 => actNext s q 2 (runEntry true)
  | _ => s)

/-- The slot on whose access unit END rides (13 R346, R363): the last slot coded, or the drain's next where that has gone. -/
def endSlot (last : Option Nat) (next : Nat) : Nat :=
  match last with
  | some n => max n next
  | none => next

/-- A stream of a context ends: END follows its last access unit, and a new stream will start (R348). -/
def closeStream (s : State) (c : Nat) (a : Bool) : State :=
  let st := getS s c a
  if st.pkg.isNone then s
  else
    let setEnd := fun (x : Ctx) =>
      let d := x.drain
      { x with drain := if a then { d with aEnd := some (endSlot st.lastSlot d.aSlot) } else { d with vEnd := some (endSlot st.lastSlot d.vSlot) } }
    modS (modCtx s c setEnd) c a (fun _ => { streamNew st.pkg with header := st.header })

/-- CLOSE: waits while a slot of the context is being coded; then END is written. -/
def execCloseEntry (q : Nat) (s : State) : Ans :=
  match nextTodo s q 5 with
  | none => .next s
  | some e =>
    if ctxOk s q e.ctx && ((getS s e.ctx false).enc.isSome || (getS s e.ctx true).enc.isSome) then .next s
    else entryDo s q 5 (fun s e =>
      if !ctxOk s q e.ctx then completeRefused s e rcCtx
      else if rd s (Fk.ctxCfgDir e.ctx) = 1 then completeDone s e
      else completeDone (closeStream (closeStream s e.ctx false) e.ctx true) e)

/-! RELEASE and NOP. -/

/-- RELEASE: a READY slot becomes FREE (R508). -/
def execReleaseEntry (q : Nat) (s : State) : Ans :=
  entryDo s q 6 (fun s e =>
    let x := getSlot s q e.slot
    if x.st = .pending then completeRefused s e rcSlotBusy
    else completeDone (if x.st = .ready then putSlot s q e.slot (slotLeave x .free) else s) e)

/-- NOP. -/
def execNopEntry (q : Nat) (s : State) : Ans := entryDo s q 7 completeDone

/-! Results (R508 to R510, 16 R442). -/

/-- The bytes of a result: its spans within the slot data, in order. -/
def resultData (s : State) (q slot : Nat) (spans : List (Nat × Nat)) : List Byte :=
  spans.flatMap (fun x => devBytes s [] (slotAddr s q slot + 64 + x.1) x.2)

/-- A result beat is poisoned. -/
def resultBad (s : State) (q slot : Nat) (spans : List (Nat × Nat)) : Bool :=
  spans.any (fun x => devBad s [] (slotAddr s q slot + 64 + x.1) x.2)

/-- Result bytes from slot byte 64. -/
def resultLen (spans : List (Nat × Nat)) : Nat := spans.foldl (fun m x => max m (x.1 + x.2)) 0

/-- The model Hallmark of the set that a decoded result used. -/
def usedMh (s : State) (c : Nat) : List Byte :=
  match (getS s c false).pkg with
  | some p => setHallmark p (getS s c false).used
  | none => ((getS s c true).pkg.map (·.mh)).getD (List.replicate 32 0)

/-- The Hallmark of a result with data `d`, where one is formed (R442, R443, R509); a decoder that forms none returns that of the ingot (13 R364; DEDUCED, log
entry 120). -/
def resultHallmark (s : State) (x : Item) (d : List Byte) : Option (List Byte) :=
  let c := x.entry.ctx
  let p := jobDigest s
  let prep := decide ((s.job.map (·.kind)).getD 0 = 1)
  if !prep && ((getS s c false).pkg.isSome || (getS s c true).pkg.isSome) then
    let a := (getS s c false).pkg.isNone
    if rd s (Fk.ctxCfgDir c) = 1 then
      if hmOn s c then some (hallmark 2 (imgDigest (getS s c a).pkg 1) (usedMh s c) x.chain (sha256 d)) else (getS s c a).mark
    else if hmOn s c then some (d.drop (d.length - 32)) else none
  else if rd s Fk.auditWcfgJobHm = 0 then none
  else if prep then
    some (hallmark 4 p ((((getS s c false).pkg.map (·.mh)).toList ++ linkedMh s).headD (List.replicate 32 0)) x.chain (sha256 d))
  else some (hallmark 3 p ((s.job.map (·.constDigest)).getD (List.replicate 32 0)) x.chain (sha256 d))

/-- The item of entry `idx` of queue `q`, taken. -/
def takenItem (s : State) (q idx : Nat) : Option Item :=
  (List.range 128).findSome? (fun c => (getCtx s c).items.find? (fun x => decide (x.entry.q = q) && decide (x.entry.idx = idx) && x.taken))

/-- RESULT_READY: every result write of the item of entry `idx` of queue `q` is complete, at `spans` of its slot's data; its slot is READY
and its record is written. -/
def resultReady (q idx : Nat) (spans : List (Nat × Nat)) (s : State) : State :=
  match takenItem s q idx with
  | none => s
  | some x =>
    let e := x.entry
    let bad := resultBad s q e.slot spans
    let r : RecFields := { entryRec e stDone 0 with
      poison := bad, ctx := e.ctx, slot := e.slot, flags := rd s (Fk.ctxFlags e.ctx), bytes := resultLen spans
      hallmark := resultHallmark s x (resultData s q e.slot spans) }
    let b := recordBytes s q r
    let s := if bad then tallyAdd s tPoisonOut 1 else s
    let s := putSlot (devPut s (slotAddr s q e.slot) b) q e.slot ⟨.ready, b⟩
    let s := wr s (Fk.ctxStatItems e.ctx) ((rd s (Fk.ctxStatItems e.ctx) + 1) % 2 ^ 32)
    let s := modCtx s e.ctx (fun y => { y with items := y.items.filter (fun z => z.entry ≠ e) })
    completeEntry s e r

/-- RESULT_READY; an item whose results do not fit its slot is one that the loader refuses (R508). -/
def execResultReady (q idx : Nat) (spans : List (Nat × Nat)) (s : State) : Ans :=
  if rd s (Fk.wqResRsize4k q) * 4096 - 64 < resultLen spans then .refused (.loaderRefuses "R508") else .next (resultReady q idx spans s)

/-- CQ_RECORD_FLUSH: the oldest waiting record of queue `q` is written once its ring has room. -/
def execCqRecordFlush (q : Nat) (s : State) : Ans :=
  .next (match s.waitRecs.find? (fun w => decide (w.q = q)) with
  | none => s
  | some w => if cqRoom s q then cqWrite { s with waitRecs := s.waitRecs.erase w } q w.bytes w.irq else s)

end Sys2Proof.Machine
end

