-- ==== Sys2Proof/Machine/Boot.lean ====
section
/-! DEFINITION. Resets, boot and self-test, and the physical events that fault a job or the part (00 R12; 01 R28, R33; 02 R39; 16 R431; 18 R467 to
R472; 19 R491 to R498; 21 R527, R542, R545). -/

namespace Sys2Proof.Machine

/-! Resets (19 R491, R492). -/

/-- Stages of boot (R493). -/
def bsReset : Nat := 0
def bsPll : Nat := 1
def bsFuse : Nat := 2
def bsFlash : Nat := 3
def bsMemtrain : Nat := 4
def bsBist : Nat := 5
def bsSelftest : Nat := 6
def bsReady : Nat := 7
def bsFailed : Nat := 8

/-- BOOT.STATE.STAGE. -/
def stage (s : State) : Nat := rd s Fk.bootStateStage

/-- A cold reset keeps nothing of the part. Host memory, and what is the model's own (the commands that wait, what has left the part, the count of free
values), are not the part's. -/
def coldReset (s : State) : State :=
  { State.reset with host := s.host, pending := s.pending, out := s.out, free := s.free }

/-- The registers after a warm reset: kept fields hold, others return to their Reset values (00 R12). -/
def warmRegs (m : SMap Nat) : SMap Nat := m.filter (fun x => regKept x.1)

/-- A warm reset: every job ends without a record or a hold, drains stop, queues are disabled, sets are freed, slots return to FREE, and boot runs from
FLASH. DESIGN CHOICE (log entry 104): before the fuses are loaded it still goes to FLASH with the fused fields as they stand, and in stage RESET it does
nothing. Heartwood records, EPOCH.COUNT, the alarm state and what R12 and R491 keep stay. The region clocks run again unless a THERMAL_TRIP stopped
them (17 R463). -/
def warmReset (s : State) : State :=
  if stage s = bsReset then s
  else
    let link := decide (stage s ≥ bsFlash)
    let s := (List.range 8).foldl isolatePending (wr (wr { s with job := none } Fk.bootStateWarm 1) Fk.bootStateStage bsFlash)
    let trip := s.part.thermtrip
    let free := fun (w : Wq) => { wqEmpty with slots := mall (fun _ => slotEmpty) (fun y => slotLeave y .free) w.slots }
    let s := { s with
      trem := 0, regs := warmRegs s.regs, staging := [], written := [], raised := [], sets := [], checking := none, hostSets := [], msixTable := memEmpty
      regions := [], burins := [], wqs := mall (fun _ => wqEmpty) free s.wqs, waitRecs := [], ports := [], root := rootEmpty
      witness := [], witSeq := [], witLost := 0, drainWit := [], resume := none, ctxs := [], bellows := bellowsEmpty
      hwChip := { s.hwChip with queue := s.hwChip.queue.map (fun x => { x with first := false }) }
      trace := { s.trace with
        written := 0, gaps := 0, next := 0, portPos := 0
        srcs := mall (fun _ => srcEmpty) (fun x => { srcEmpty with gapNum := x.gapNum }) s.trace.srcs }
      part := { s.part with
        clocks := !trip, service := !trip, pcieUp := link, bar4Gib := 1, ceCounts := [], ueCounts := [], scrub := []
        hot2x := [] } }
    let s := bump s Fk.bootResultWarmCount 32
    wr (wr s Fk.bootStateWarm 1) Fk.bootStateStage bsFlash

/-- COLD_RESET. -/
def execColdReset (s : State) : Ans := .next (coldReset s)

/-- WARM_RESET: PERST#, a PCIe hot reset or a Function Level Reset. -/
def execWarmReset (s : State) : Ans := .next (warmReset s)

/-- BOOT_CTL_WARM_RESET: a write of 1 to BOOT.CTL.WARM_RESET, which acts in every stage in which the host reaches BAR0 (R495). -/
def execBootCtlWarmReset (s : State) : Ans := .next (if s.part.pcieUp then warmReset s else s)

/-- WARM_RESET_CMD: the management command, answered (21 R538). -/
def execWarmResetCmd (s : State) : Ans := .next (warmReset (emit s (.mgmt 0 [])))

/-! Rails (21 R543, R545). -/

/-- A part-scope fault raised for the whole chip. -/
def chipFault (s : State) (code : Nat) (detail : List Byte) : State := partFault s ⟨code, 3, 5, srcChip, noInstr, detail⟩

/-- RAIL_OUT_OF_BAND: rail number `n` leaves its band for more than 10 µs. VDD_MGMT causes a cold reset; a rail of groups 2 to 4 returns the part to RESET
before READY, and raises CHIP_CTRL from READY unless a part-scope fault stands. -/
def execRailOutOfBand (n : Nat) (s : State) : Ans :=
  .next (if n = 0 then coldReset s
  else if n = 1 ∨ n > 17 ∨ stage s = bsReset then s
  else if stage s ≠ bsReady then coldReset s
  else if s.part.service then chipFault s fcChipCtrl (toLE 1 5 ++ toLE 2 n) else s)

/-- RAILS_WITHIN_BAND: the comparators release BOOT.STAGE from RESET; the TAP goes to Test-Logic-Reset (21 R540). -/
def execRailsWithinBand (s : State) : Ans :=
  .next (if stage s = bsReset then
    wr { s with part := { s.part with tap := 0, pinsDriven := false } } Fk.bootStateStage bsPll
  else s)

/-! Boot (19 R494). -/

/-- Boot ends in FAILED at `st` with `code`. -/
def bootFail (s : State) (st code : Nat) : State :=
  wr (wr (wr s Fk.bootStateStage bsFailed) Fk.bootStateFailStage st) Fk.bootStateFailCode code

/-- A stage that boot is at. -/
def bootDo (s : State) (st : Nat) (f : State → State) : Ans := .next (if stage s = st then f s else s)

/-- BOOT_PLL: the root PLL locks, or does not; error windows count from the lock (18 R468). -/
def execBootPll (ok : Bool) (s : State) : Ans :=
  bootDo s bsPll (fun s =>
    if ok then wr { s with part := { s.part with pllAt := s.cc } } Fk.bootStateStage bsFuse else bootFail s bsPll 1)

/-- The SPEED entries of a fused position: each assigned cell is retired (02 R47). -/
def fusedCells (s : State) (n : Nat) : State :=
  (List.range 104).foldl (fun s e => wr (wr (wr s (cellKey n e 4) 7) (cellKey n e 8) 7) (cellKey n e 11) 1) s

/-- The fields that fuses give (01 R31, 02 R47, 16 R431). -/
def loadFuses (s : State) (x : FuseIn) : State :=
  let mask := if x.fused < 8 then 255 - 2 ^ x.fused else 255
  let s := wr (wr (wr s Fk.geomRegionsRegionMask mask) Fk.geomRegionsRegionCount (if x.fused < 8 then 7 else 8)) Fk.geomRegionsFusedPos
    (if x.fused < 8 then x.fused else 15)
  let s := wr (wr s Fk.geomIdGrade (if x.fused < 8 then 0x0B else 0x0A)) Fk.auditProfileStepClass (x.stepClass % 256)
  let s := (List.range 8).foldl (fun s n => wr s (Fk.geomForgeMaskForgeEn n) (if n = x.fused then 0 else x.forges.getD n 0 % 65536)) s
  let s := x.speed.foldl (fun s y =>
    if y.1 < 8 ∧ y.2.1 < 104 then wr (wr s (cellKey y.1 y.2.1 0) (y.2.2 % 8)) (cellKey y.1 y.2.1 8) (y.2.2 % 8) else s) s
  if x.fused < 8 then fusedCells ((List.range 104).foldl (fun s e => wr s (cellKey x.fused e 0) 0) s) x.fused else s

/-- BOOT_FUSE: the fuses load, or a row cannot be read from either copy. The PCIe link trains at its end (R495). -/
def execBootFuse (x : Option FuseIn) (s : State) : Ans :=
  bootDo s bsFuse (fun s =>
    match x with
    | none => bootFail s bsFuse 2
    | some x =>
      let s := loadFuses s x
      wr { s with part := { s.part with pcieUp := true } } Fk.bootStateStage bsFlash)

/-- BOOT_FLASH: copy A is accepted, or copy B, or neither. -/
def execBootFlash (a b : Option FlashIn) (s : State) : Ans :=
  bootDo s bsFlash (fun s =>
    let take := fun (s : State) (x : FlashIn) (copy : Nat) =>
      let s := wr (wr s Fk.bootStateCopy copy) Fk.auditProfileFwLevel (x.fwLevel % 256)
      wr (setDigest { s with part := { s.part with vendorId := x.vendorId % 65536, subsysId := x.subsysId % 2 ^ 32 } }) Fk.bootStateStage bsMemtrain
    match a, b with
    | some x, _ => take s x 0
    | none, some x => take s x 1
    | none, none => bootFail s bsFlash 3)

/-- A DRAM device is down (18 R470): its bit sets, a job with traffic on it faults, and without one the event is logged. -/
def memPhy (s : State) (dev : Nat) : State :=
  let s := if dev < 16 then setBit s Fk.faultDownMemStacks dev else setBit s Fk.faultDownMemPackages (dev - 16)
  let d := toLE 1 dev ++ toLE 3 0 ++ toLE 4 0
  if trafficOn s dev then heldFault s ⟨fcMemPhy, 3, 4, srcChip, noInstr, d⟩
  else hwRecord s false (hwEntry s fcMemPhy 3 0 srcChip noInstr d)

/-- BOOT_MEMTRAIN: every device trains; those of `fails` stay down. -/
def execBootMemtrain (fails : List Nat) (s : State) : Ans :=
  bootDo s bsMemtrain (fun s => wr ((fails.filter (· < 48)).foldl memPhy s) Fk.bootStateStage bsBist)

/-- A region that boot isolates (R469, R497). -/
def bootIsolate (s : State) (n : Nat) : State := setBit (isolate s n 0xFFFF) Fk.bootResultStIsolated n

/-- BOOT_BIST: the monitors are sampled, and failing memories isolate their Forge or region. -/
def execBootBist (x : BistIn) (s : State) : Ans :=
  bootDo s bsBist (fun s =>
    let s := sampleMonitors s x.ages
    let s := x.forges.foldl (fun s y => isolate s y.1 (2 ^ (y.2 % 16))) s
    wr ((x.crucibles.filter (rdBit s Fk.geomRegionsRegionMask)).foldl bootIsolate s) Fk.bootStateStage bsSelftest)

/-! Self-test (19 R497, R498). -/

/-- The Hallmark of R498, for the profile it names. -/
def selfTestHallmark : List Byte :=
  toBE 16 0x6b0e93d12c47f85a0e19d7c34a62b9f0 ++ toBE 16 0x17ad58e4c30b7f26e91d04b8a5732d6c

/-- The profile that R498 names is in force. -/
def selfTestProfile (s : State) : Bool :=
  decide (rd s Fk.auditProfileAssayVer = 2) && decide (rd s Fk.auditProfileTreeVer = 1) && decide (rd s Fk.auditProfileTableVer = 1) &&
    decide (rd s Fk.auditProfileFwLevel = 1) && decide (rd s Fk.auditProfileFlush = 0) && decide (rd s Fk.auditProfileStrict = 0)

/-- An enabled region with a usable Forge is tested: its run passes with the expected Hallmark, or the region is isolated. Releases count. -/
def selfRun (expected : List Byte) (s : State) (x : SelfRun) : State :=
  if ¬ rdBit s Fk.geomRegionsRegionMask x.pos ∨ rd s (Fk.geomForgeMaskForgeEn x.pos) = 0 then s
  else
    let s := wr (clearJobScope s) Fk.epochCount ((rd s Fk.epochCount + x.releases) % 2 ^ 64)
    if x.ok ∧ x.hallmark = expected then setBit s Fk.bootResultStPass x.pos else bootIsolate s x.pos

/-- BOOT_SELFTEST: the runs of the regions in ascending position; `other` is the expected Hallmark of the boot image under a profile that R498 does not
name, and `static` and `uMin` are what boot measured for BELLOWS.STATIC (17 R466). -/
def execBootSelftest (runs : List SelfRun) (other : List Byte) (static uMin : Nat) (s : State) : Ans :=
  bootDo s bsSelftest (fun s =>
    let exp := if selfTestProfile s then selfTestHallmark else other
    let s := (List.range 8).foldl (fun s n => match runs.find? (fun x => x.pos = n) with
      | some x => selfRun exp s x
      | none => s) s
    let s := wr (wr s Fk.bellowsStaticSRegionW (static % 65536)) Fk.bellowsStaticUMinW (uMin % 65536)
    if rd s Fk.bootResultStPass = 0 then bootFail s bsSelftest 4
    else wr (wr s Fk.bootStateStage bsReady) Fk.geomIdGeomVersion 1)

/-- SELFTEST_TIMEOUT: the run on position `n` has not ended 35 ms after its release; its region fails. -/
def execSelftestTimeout (n : Nat) (s : State) : Ans :=
  bootDo s bsSelftest (fun s => if rdBit s Fk.geomRegionsRegionMask n then bootIsolate s n else s)

/-! Faults of units and interfaces (18 R469, R470; 21 R527). -/

/-- PLL_LOCK: the root PLL loses lock; the clocks stop (02 R39, 18 R472). -/
def execPllLock (s : State) : Ans :=
  .next (stopDrains (chipFault { s with part := { s.part with clocks := false } } fcPllLock []))

/-- MEM_PHY: device `dev` (stack, or 16 plus package) loses lock or fails retraining. -/
def execMemPhy (dev : Nat) (s : State) : Ans := .next (if dev < 48 then memPhy s dev else s)

/-- HOST_LINK: the link leaves L0; writes posted after it are discarded, the queues are disabled, and the part's job ends. `ltssm` is the last state. -/
def execHostLink (ltssm : Nat) (s : State) : Ans :=
  .next (if ¬ s.part.pcieUp then s
  else
    let s := { s with part := { s.part with pcieUp := false } }
    let s := (List.range 64).foldl (fun s q => wr s (Fk.wqSqEnable q) 0) s
    heldFault s ⟨fcHostLink, 3, 4, srcChip, noInstr, toLE 1 ltssm⟩)

/-- PCIE_LINK_RETURN: the link is in L0 again, from the end of FUSE on; no queue is enabled by it. -/
def execPcieLinkReturn (s : State) : Ans :=
  .next (if stage s ≤ bsFuse ∨ (stage s = bsFailed ∧ rd s Fk.bootStateFailStage ≤ bsFuse) then s
  else { s with part := { s.part with pcieUp := true } })

/-- FORGE_FAULT: Forge `f` of position `n` is isolated at once, and its job faults; `unit` and `cell` are R471's (3 names a cell). -/
def execForgeFault (n f unit cell : Nat) (s : State) : Ans :=
  .next (match logicalOf s n with
  | none => s
  | some r =>
    if f ≥ 16 then s
    else
      let used := (loaded s || jobThisCycle s) && jobNamesForge s r f
      let s := isolate (clearBit s (Fk.faultPendForges n) f) n (2 ^ f)
      if used then heldFault s ⟨fcForgeFault, 1, 4, source n f (if unit = 3 then cell % 128 else 127), noInstr, toLE 1 unit ++ toLE 1 cell⟩ else s)

/-- REGION_FAULT: all Forges of position `n` are isolated at once, and its job faults (4 names a cell). -/
def execRegionFault (n unit cell : Nat) (s : State) : Ans :=
  .next (match logicalOf s n with
  | none => s
  | some r =>
    let used := (loaded s || jobThisCycle s) && jobNamesRegion s r
    let s := isolate (wr (wr s (Fk.faultPendForges n) 0) (Fk.faultPendRegion n) 0) n 0xFFFF
    if used then heldFault s ⟨fcRegionFault, 2, 4, source n 31 (if unit = 4 then cell % 128 else 127), noInstr, toLE 1 unit ++ toLE 1 cell⟩ else s)

/-- CHIP_CTRL: unit `unit`, instance `inst`, of the chip has a control error. -/
def execChipCtrl (unit inst : Nat) (s : State) : Ans := .next (chipFault s fcChipCtrl (toLE 1 unit ++ toLE 2 inst))

/-- PENDING_ISOLATION: the pending Forges and region of position `n` that no job uses are isolated (R469). -/
def execPendingIsolation (n : Nat) (s : State) : Ans :=
  .next (match logicalOf s n with
  | none => s
  | some r =>
    if rd s (Fk.faultPendRegion n) = 1 ∧ jobUsesRegion s r = false then isolatePending s n
    else
      let mask := ((List.range 16).filter (fun f => rdBit s (Fk.faultPendForges n) f && !jobUsesForge s r f)).foldl (fun m f => m + 2 ^ f) 0
      if mask = 0 then s else wr (isolate s n mask) (Fk.faultPendForges n) (rd s (Fk.faultPendForges n) - mask))

end Sys2Proof.Machine
end

