-- ==== Sys2Proof/Machine/HostRegs.lean ====
section
/-! DEFINITION. Host accesses: register writes through BAR0, memory through BAR4, and configuration requests (00 R11, R14, R15; 03 R75, R86 to R88;
18 R470, R478; 19 R495, R500, R508, R512; 21 R525, R526). -/

namespace Sys2Proof.Machine

/-! Register writes (00 R11, R14). -/

/-- The bits of a field that a write covers: from bit `lo` of the register, `w` bits, of an access to the bytes from bit `b` on, `n` bits wide. -/
def coverMask (lo w b n : Nat) : Nat := ((List.range w).filter (fun i => decide (b ≤ lo + i) && decide (lo + i < b + n))).foldl (fun m i => m + 2 ^ i) 0

/-- Replace the bits `m` of `old` by those of `new`. -/
def mergeBits (old new m : Nat) : Nat := (old - (old &&& m)) ||| (new &&& m)

/-- A write to one field by its access code: `v` is the register's value with the written bits in place, `m` the covered bits of the field. A clearing write
leaves the bits that hardware sets in the same cycle. -/
def writeField (s : State) (off : Nat) (f : FieldDef) (v m : Nat) : State :=
  let k := 64 * off + f.lo
  let x := bits v f.lo f.width
  if m = 0 then s
  else match f.acc with
  | .ro => s
  | .rw => wr s k (mergeBits (rd s k) x m)
  | .w1c => let c := rd s k &&& x &&& m; wr s k (rd s k - (c - (c &&& raisedNow s k)))
  | .stg => { s with
      staging := mput (fun _ => none) s.staging k (some (mergeBits (stagedVal s k) x m))
      written := if s.written.contains k then s.written else s.written ++ [k] }

/-- Writing 1 to HW.STATE.FROZEN thaws the record of position `n`, or the chip's (18 R478), but for one that froze in this very cycle (00 R11). -/
def thaw (s : State) (n : Nat) : State :=
  modHw s n (fun r => if r.frozen ∧ raisedNow s (frozenKey n) = 0 then { r with frozen := false, freezeAt := none } else r)

/-- The record whose HW.STATE lies at BAR0 offset `off` (18 R479). -/
def hwStateAt (off : Nat) : Option Nat :=
  if off = 0xC100 then some 8
  else if 0x2000000 ≤ off ∧ off < 0x4000000 ∧ off % 0x400000 = 0x30000 then some (off / 0x400000 - 8) else none

/-- `off` lies in the window of a fused-off position (00 R13, R14). -/
def fusedWindow (s : State) (off : Nat) : Bool :=
  decide (0x2000000 ≤ off) && !rdBit s Fk.geomRegionsRegionMask (off / 0x400000 - 8)

/-- A write of the 64-bit register at `off`, of the `n` bits from bit `b` on; `v` has the written bits in place. -/
def writeReg (s : State) (off b n v : Nat) : State :=
  match hwStateAt off with
  | some k => if b = 0 ∧ bit v 16 then thaw s k else s
  | none =>
    if off = 0xF000 then
      if b ≠ 0 ∨ rd s Fk.temperStatusResult = 1 then s
      else
        let op := bits v 4 3
        let act := fun s n => match op with
          | 1 => temperStage s n
          | 2 => temperApply s n
          | 3 => temperDiscard s n
          | 4 => temperFree s n
          | _ => s
        temperCmd s (bits v 0 4) op act
    else if off = 0x10 then (if b = 0 ∧ bit v 0 then warmReset s else s)
    else (fieldsAt off).foldl (fun s f => writeField s off f v (coverMask f.lo f.width b n)) s

/-- REGISTER_WRITE: a write of `size` bytes of value `v` at BAR0 offset `off`. Before READY only BOOT.CTL is written (19 R495); the MSI-X table takes every
access (21 R526); a doorbell takes 32 bits; another register takes a naturally aligned 64 or 32 bits, and every other write is ignored. -/
def execRegisterWrite (off size v : Nat) (s : State) : Ans :=
  .next (if ¬ s.part.pcieUp then s
  else if ¬ booted s ∧ off / 8 * 8 ≠ 0x10 then s
  else if 0x180000 ≤ off ∧ off < 0x182000 then { s with msixTable := mPut s.msixTable (off % 0x2000) (toLE size v) }
  else if 0x40000 ≤ off ∧ off < 0x80000 then (if size = 4 ∧ off % 0x1000 = 0 then doorbell s (off / 0x1000 - 0x40) (v % 2 ^ 32) else s)
  else if fusedWindow s off ∨ ¬ (size = 8 ∨ size = 4) ∨ off % size ≠ 0 ∨ off ≥ 0x4000000 then s
  else
    let b := 8 * (off % 8)
    writeReg s (off / 8 * 8) b (8 * size) (v % 2 ^ (8 * size) * 2 ^ b))

/-- THAW_RECORD: 1 written to FROZEN of the record of position `n`, or of the chip's (8). -/
def execThawRecord (n : Nat) (s : State) : Ans :=
  .next (if ¬ hostWrites s ∨ n > 8 ∨ (n < 8 ∧ ¬ rdBit s Fk.geomRegionsRegionMask n) then s else thaw s n)

/-! BAR4 (03 R86 to R88). -/

/-- The device address that an enabled window gives BAR4 offset `o`, with its WRITABLE. -/
def winAddr (s : State) (o : Nat) : Option (Nat × Bool) :=
  if o ≥ s.part.bar4Gib * 2 ^ 30 then none
  else match (List.range 16).find? (fun n => decide (rd s (Fk.memWinDevEnable n) = 1) &&
      decide (rd s (Fk.memWinBarBarPage n) * 4096 ≤ o) && decide (o < rd s (Fk.memWinBarBarPage n) * 4096 + 2 ^ rd s (Fk.memWinDevSizeLog2 n))) with
  | some n => some (rd s (Fk.memWinDevBasePage n) * 4096 + (o - rd s (Fk.memWinBarBarPage n) * 4096), rd s (Fk.memWinDevWritable n) = 1)
  | none => none

/-- REMOTE accesses to the address are not served: the level's REMOTE share is 0 (03 R75), or its device is down (18 R470). -/
def remoteShut (s : State) (a : Nat) : Bool :=
  let d := deviceOf a
  decide (rd s (if levelOf a = 1 then Fk.memHearthShareRemotePct else Fk.memCellarShareRemotePct) = 0) ||
    (if d < 16 then rdBit s Fk.faultDownMemStacks d else rdBit s Fk.faultDownMemPackages (d - 16))

/-- The queue, slot and offset in the slot of an address within a result area (19 R508). -/
def slotOf (s : State) (a : Nat) : Option (Nat × Nat × Nat) :=
  match (List.range 64).find? (fun q => decide (slotAddr s q 0 ≤ a) && decide (a < slotAddr s q (rd s (Fk.wqResRcount q)))) with
  | some q =>
    let z := rd s (Fk.wqResRsize4k q) * 4096
    some (q, (a - slotAddr s q 0) / z, (a - slotAddr s q 0) % z)
  | none => none

/-- One byte of a BAR4 read, and whether it completes with EP. -/
def bar4Byte (s : State) (ue : List Nat) (o : Nat) : Byte × Bool :=
  match winAddr s o with
  | none => (0, false)
  | some (a, _) =>
    if remoteShut s a then (0, true)
    else match slotOf s a with
    | some (q, i, k) =>
      let x := getSlot s q i
      if x.st = .ready then devByte s ue a else if k < 64 then (x.record.getD k 0, false) else (0, true)
    | none => devByte s ue a

/-- BAR4_READ: a read of `n` bytes at BAR4 offset `o`; `ue` and `ce` are the halves whose read meets an error. -/
def execBar4Read (o n : Nat) (ue ce : List Nat) (s : State) : Ans :=
  .next (if ¬ s.part.pcieUp then s
  else
    let l := (List.range n).map (fun k => bar4Byte s ue (o + k))
    memErrors (emit s (.bar4 (l.map (·.1)) (l.any (·.2)))) ue ce)

/-- BAR4_WRITE: a write of the bytes `l` at BAR4 offset `o`, poisoned where `bad`; outside every active window it is ignored, and where it is not accepted
it is discarded and counted. `e` are the errors that the read of a partly written half meets (R84, R85). -/
def execBar4Write (o : Nat) (l : List Byte) (bad : Bool) (e : MemErrs) (s : State) : Ans :=
  .next (if ¬ s.part.pcieUp then s
  else match winAddr s o with
  | none => s
  | some (a, w) =>
    if ¬ w ∨ remoteShut s a ∨ (List.range l.length).any (fun k => (slotOf s (a + k)).isSome) then tallyAdd s tBar4Discard 1
    else memErrors (devWrite s e.ue a l (fun _ => bad)) e.ueAt e.ce)

/-! Configuration requests (19 R495, 21 R525). -/

/-- A read of the configuration dword at `off`: the IDs and the class code that R525 gives; what PCIe alone defines is free (log entry 1). -/
def cfgRead (s : State) (off : Nat) : Nat × State :=
  let f := takeFree s 32
  match off with
  | 0 => (0xF008 * 65536 + s.part.vendorId, s)
  | 8 => (0x120000 * 256 + f.1 % 256, f.2)
  | 0x2C => (s.part.subsysId, s)
  | _ => f

/-- CONFIG_REQUEST: a read of the dword at `off`, or with `rebar` a write of the Resizable BAR control that selects 2^k GiB for BAR4. It is retried until FLASH
completes. -/
def execConfigRequest (off : Nat) (rebar : Option Nat) (s : State) : Ans :=
  .next (if ¬ s.part.pcieUp then s
  else if stage s ≤ bsFlash ∨ (stage s = bsFailed ∧ rd s Fk.bootStateFailStage ≤ bsFlash) then emit s (.cfg true 0)
  else match rebar with
  | some k => emit (if k ≤ 6 then { s with part := { s.part with bar4Gib := 2 ^ k } } else s) (.cfg false 0)
  | none =>
    let y := cfgRead s off
    emit y.2 (.cfg false y.1))

end Sys2Proof.Machine
end

