-- ==== Sys2Proof/Machine/Observe.lean ====
section
/-! DEFINITION. Heartwood writes, the ring trace and its port, alarms, the observation space, management, the TAP, and the DRAM's housekeeping (03 R71,
R72, R77, R85; 18 R468, R475 to R489; 21 R537 to R541). -/

namespace Sys2Proof.Machine

/-! Heartwood records (18 R475, R477, R478). -/

/-- The 64 bytes of an entry (R475). -/
def hwBytes (e : HwEntry) : List Byte :=
  toLE 4 e.seq ++ toLE 2 e.code ++ toLE 1 e.level ++ toLE 1 e.action ++ toLE 8 e.epoch ++ toLE 4 e.cycle ++ toLE 4 e.scyc ++ toLE 4 e.lag ++
    toLE 2 e.source ++ toLE 2 e.jobTag ++ toLE 8 e.time ++ toLE 4 e.instr ++ detail20 e.detail

/-- No queued entry is of the cycle `c` or an earlier one. -/
def doneCycle (r : HwRec) (c : Nat) : Bool := r.queue.all (fun x => decide (x.stamp > c))

/-- The record freezes: what its queue still holds is dropped. -/
def freezeNow (r : HwRec) : HwRec := { hwDrop r r.queue.length with queue := [], frozen := true, freezeAt := none }

/-- The alarm events of a freeze: the freeze, and a drop where there is one (R485). -/
def freezeAlarm (s : State) (r : HwRec) : State := let s := alarmEvent s 15; if r.queue = [] then s else alarmEvent s 15

/-- Freeze record `n` if it is due and the entries of its cycle are written. -/
def freezeDue (s : State) (n : Nat) : State :=
  let r := getHw s n
  match r.freezeAt with
  | some c => if doneCycle r c then freezeAlarm (markRaised (modHw s n freezeNow) (frozenKey n) 1) r else s
  | none => s

/-- The record of position `n` with its next entry written; entries wrap at `size`. -/
def hwWriteRec (size : Nat) (r : HwRec) (e : HwEntry) (q : List HwQ) : HwRec :=
  { r with ring := mput (fun _ => none) r.ring (r.written % size) (some { e with seq := r.written }), queue := q
           wrapped := r.wrapped || decide (r.written ≥ size), written := (r.written + 1) % 2 ^ 32 }

/-- HEARTWOOD_WRITE: the record of position `n` below 8, or the chip's (8), writes its oldest queued entry. -/
def execHeartwoodWrite (n : Nat) (s : State) : Ans :=
  .next (
    let s := freezeDue s n
    let r := getHw s n
    match r.queue with
    | [] => s
    | e :: q =>
      if r.frozen then s
      else
        let s := modHw s n (fun _ => hwWriteRec (hwSize n) r e.entry q)
        freezeDue (if e.first ∧ n ≥ 8 then wr s Fk.faultJobHwSeq r.written else s) n)

/-! The ring (18 R480, R481). -/

/-- Entries of the ring. -/
def ringEntries : Nat := 131072

/-- The 32 bytes of a trace entry. -/
def traceBytes (e : TraceEntry) : List Byte :=
  toLE 4 e.seq ++ toLE 1 e.cls ++ toLE 1 e.event ++ toLE 2 e.source ++ toLE 4 e.epoch ++ toLE 4 e.cycle ++ data16 e.data

/-- The collector writes one entry; a gap record is counted and raises its alarm. -/
def ringPut (s : State) (e : TraceEntry) : State :=
  let n := s.trace.written
  let gap := decide (e.cls = 15)
  let s := { s with trace := { s.trace with
    ring := mput (fun _ => none) s.trace.ring (n % ringEntries) (some { e with seq := n }), written := (n + 1) % 2 ^ 32
    gaps := if gap then (s.trace.gaps + 1) % 2 ^ 32 else s.trace.gaps } }
  if gap then alarmEvent s 13 else s

/-- Take up to `k` entries, at most one from each source, from `src` on in rotating order; `m` sources are left to ask. -/
def collect : Nat → Nat → Nat → State → State
  | 0, _, _, s => s
  | _, 0, _, s => s
  | m + 1, k + 1, src, s =>
    let x := mget (fun _ => srcEmpty) s.trace.srcs src
    match x.fifo with
    | [] => collect m (k + 1) ((src + 1) % 10) s
    | e :: l =>
      let s := ringPut { s with trace := { s.trace with
        srcs := mput (fun _ => srcEmpty) s.trace.srcs src { x with fifo := l }, next := (src + 1) % 10 } } e
      collect m k ((src + 1) % 10) s

/-- RING_WRITE: one TCLK of the collector. -/
def execRingWrite (s : State) : Ans := .next (collect 10 4 s.trace.next s)

/-- A frame of the observation port: the characters after the comma and their CRC (21 R541). -/
def obsFrame (l : List Byte) : Out := .obs (l ++ toBE 2 (crc16 l))

/-- The port's gap record for `n` entries it skips, of which the first has cycle `c` (18 R489). -/
def portGapEntry (s : State) (n c : Nat) : TraceEntry :=
  { seq := s.trace.written, cls := 15, event := 0xFF, source := 0xFFFF, epoch := rd s Fk.epochCount % 2 ^ 32, cycle := rd s Fk.epochCycle % 2 ^ 32
    data := data16 (toLE 4 s.trace.portGap ++ toLE 4 n ++ toLE 4 c) }

/-- Entry of the ring written as number `n`. -/
def ringAt (s : State) (n : Nat) : Option TraceEntry := mget (fun _ => none) s.trace.ring (n % ringEntries)

/-- OBS_TRACE_SEND: the port sends the next entry of the ring, or skips to the newest behind a gap record. -/
def execObsTraceSend (s : State) : Ans :=
  .next (
    let p := s.trace.portPos
    let w := s.trace.written
    let behind := wrapSub 32 w p
    if rd s Fk.ringCfgPortEn = 0 ∨ behind = 0 then s
    else if behind > 1024 then
      let g := portGapEntry s (behind - 1) ((((ringAt s p).map (·.cycle)).getD 0))
      emit { s with trace := { s.trace with portPos := wrapSub 32 w 1, portGap := (s.trace.portGap + 1) % 2 ^ 32 } }
        (obsFrame (toLE 1 0x82 ++ traceBytes g))
    else match ringAt s p with
    | some e => emit { s with trace := { s.trace with portPos := (p + 1) % 2 ^ 32 } } (obsFrame (toLE 1 0x82 ++ traceBytes e))
    | none => { s with trace := { s.trace with portPos := (p + 1) % 2 ^ 32 } })

/-- ALARM_RAISE: class `k` has events waiting, and both conditions of R486 hold. -/
def execAlarmRaise (k : Nat) (s : State) : Ans :=
  .next (if k < 16 ∧ rd s (Fk.alarmHeld k) = 1 ∧ alarmReady s k then
    let p := tallyRaw (alarmFire s k) tAlarms 1
    if p.2 then alarmRaw p.1 14 else p.1
  else s)

/-! The observation space (18 R488, R489). -/

/-- HW.STATE and HW.COUNT of a record (R479). -/
def hwStateReg (n : Nat) (r : HwRec) : Nat := r.written % hwSize n + b2n r.frozen * 2 ^ 16 + b2n r.wrapped * 2 ^ 17
def hwCountReg (r : HwRec) : Nat := r.written + r.dropped * 2 ^ 32

/-- The record of position `n` as it reads: nothing at a fused position. -/
def hwSeen (s : State) (n : Nat) : HwRec := if n < 8 ∧ ¬ rdBit s Fk.geomRegionsRegionMask n then hwEmpty else getHw s n

/-- The 64-bit register at BAR0 offset `o`, from its fields or from its record. -/
def barReg (s : State) (o : Nat) : Nat :=
  if o = 0xC100 then hwStateReg 8 s.hwChip else if o = 0xC108 then hwCountReg s.hwChip
  else if o = 0xE008 then s.trace.written % ringEntries + s.trace.gaps * 2 ^ 32 else regValue s o

/-- Eight bytes at offset `o` of an entry record. -/
def entryWord (b : List Byte) (o : Nat) : Nat := ofLE ((b.drop o).take 8)

/-- The 64-bit word of a record's entries at offset `o`. -/
def recordWord (r : HwRec) (o : Nat) : Nat :=
  match mget (fun _ => none) r.ring (o / 64) with
  | some e => entryWord (hwBytes e) (o % 64)
  | none => 0

/-- The 64-bit word at BAR0 offset `a`, a multiple of 8, with the records' registers and entries (18 R479). -/
def bar0Word (s : State) (a : Nat) : Nat :=
  let n := (a - 0x2000000) / 0x400000
  let o := a % 0x400000
  if a < 0x2000000 then (if 0x100000 ≤ a ∧ a < 0x140000 then recordWord s.hwChip (a - 0x100000) else barReg s a)
  else if o = 0x30000 then hwStateReg n (hwSeen s n) else if o = 0x30008 then hwCountReg (hwSeen s n)
  else if 0x40000 ≤ o ∧ o < 0x50000 then recordWord (hwSeen s n) (o - 0x40000)
  else barReg s a

/-- BAR0 offsets that read their values before READY and in FAILED: CHIP.BOOT, CHIP.FAULT and the Heartwood registers (19 R495, R496). -/
def earlyRead (off : Nat) : Bool :=
  decide (off < 0x100) || (decide (0xC000 ≤ off) && decide (off < 0xC110)) || (decide (0x2000000 ≤ off) && decide (0x30000 ≤ off % 0x400000) && decide (off % 0x400000 < 0x30010))

/-- What a read of `size` bytes at BAR0 offset `off` answers (00 R14): 0 from the window of a fused-off position and where the register does not admit the
access, and before READY wherever R495 does not say otherwise; a doorbell gives the tail last accepted (19 R500). It changes no state. -/
def bar0Read (s : State) (off size : Nat) : Nat :=
  if ¬ booted s ∧ ¬ earlyRead off then 0
  else if 0x180000 ≤ off ∧ off < 0x182000 then ofLE (mBytes s.msixTable (off % 0x2000) size)
  else if 0x40000 ≤ off ∧ off < 0x80000 then (if size = 4 ∧ off % 0x1000 = 0 then (getWq s (off / 0x1000 - 0x40)).doorbell else 0)
  else if fusedWindow s off ∨ ¬ (size = 8 ∨ size = 4) ∨ off % size ≠ 0 ∨ off ≥ 0x4000000 then 0
  else bits (bar0Word s (off / 8 * 8)) (8 * (off % 8)) (8 * size)

/-- The 64-bit word at BAR2 offset `a`, a multiple of 8. -/
def bar2Word (s : State) (a : Nat) : Nat :=
  if a < 0x40000 then recordWord s.hwChip a
  else if a < 0xC0000 then recordWord (hwSeen s (a / 0x10000 - 4)) (a % 0x10000)
  else if a < 0xC3000 then barReg s (0xC000 + a % 0x10000)
  else if a < 0x100000 then 0
  else if a < 0x10C000 then barReg s (a % 0x100000)
  else if 0x200000 ≤ a ∧ a < 0x200800 then
    let n := a % 0x200000 / 0x100
    if a % 0x100 = 0 then hwStateReg n (hwSeen s n) else if a % 0x100 = 8 then hwCountReg (hwSeen s n) else 0
  else if 0x800000 ≤ a ∧ a < 0xC00000 then
    (match mget (fun _ => none) s.trace.ring (a % 0x800000 / 32) with
     | some e => entryWord (traceBytes e) (a % 32)
     | none => 0)
  else 0

/-- `n` bytes from BAR2 offset `a`, both multiples of 8. -/
def bar2Bytes (s : State) (a n : Nat) : List Byte := (List.range (n / 8)).flatMap (fun i => toLE 8 (bar2Word s (a + 8 * i)))

/-- OBS_READ: a READ frame of the observation port with its TAG, ADDR and LEN; `crcOk` says that its CRC holds. Any request that the port does not define is
discarded (18 R489, 21 R541). -/
def execObsRead (tag a n : Nat) (crcOk : Bool) (s : State) : Ans :=
  .next (if crcOk ∧ a % 8 = 0 ∧ n % 8 = 0 ∧ 8 ≤ n ∧ n ≤ 256 ∧ a + n ≤ 0x1000000 then
    emit s (obsFrame (toLE 1 0x81 ++ toLE 2 tag ++ toLE 2 n ++ bar2Bytes s a n))
  else s)

/-! Management (21 R537, R538). -/

/-- The MCTP control completion code ERROR_UNSUPPORTED_CMD. -/
def mctpUnsupported : Nat := 5

/-- MCTP_READ: the vendor READ of `n` bytes at BAR2 offset `a`; a form that R538 does not give is an unsupported command. -/
def execMctpRead (a n : Nat) (s : State) : Ans :=
  .next (if a % 8 = 0 ∧ n % 8 = 0 ∧ 8 ≤ n ∧ n ≤ 48 ∧ a < 2 ^ 32 then emit s (.mgmt 0 (bar2Bytes s a n)) else emit s (.mgmt mctpUnsupported []))

/-- MCTP_UNSUPPORTED. -/
def execMctpUnsupported (s : State) : Ans := .next (emit s (.mgmt mctpUnsupported []))

/-- I3C_DAA: a controller assigns the dynamic address `a`. -/
def execI3cDaa (a : Nat) (s : State) : Ans := .next { s with part := { s.part with i3c := true, dynAddr := a % 128 } }

/-- RSTDAA: the bus returns to SMBus. -/
def execRstdaa (s : State) : Ans := .next { s with part := { s.part with i3c := false, dynAddr := 0 } }

/-- The address at which the management bus answers: the dynamic address, or in SMBus mode 0x3C + 2 × ADDR1 + ADDR0 (R537). -/
def busAddress (s : State) : Nat :=
  if s.part.i3c then s.part.dynAddr else 0x3C + 2 * Config.addr1.toNat + Config.addr0.toNat

/-- ALERT_N is driven low: in SMBus mode, while an alarm with MGMT set is PENDING (R537). -/
def alertLow (s : State) : Bool :=
  !s.part.i3c && (List.range 16).any (fun k => decide (rd s (Fk.alarmPending k) = 1) && decide (rd s (Fk.alarmMgmt k) = 1))

/-- PCIe lanes in use: lanes 8 to 15 are powered down where PCIE_X8 is tied to VSS and so reads 0 (R525, R526, R547). -/
def pcieLanes : Nat := if Config.pcieX8 then 16 else 8

/-- The lane OBS_TX0 to OBS_TX3 that takes the next observation frame: frames go to the lanes in rotation (R541). -/
def obsLane (s : State) : Nat :=
  (Config.obsFirstLane + s.out.countP (fun o => match o with
    | .obs _ => true
    | _ => false)) % 4

/-! The TAP (21 R540): it acts only in RESET. -/

/-- TAP instructions. -/
def tapBypass : Nat := 1
def tapIdcode : Nat := 2
def tapSample : Nat := 3
def tapExtest : Nat := 4
def tapClamp : Nat := 5
def tapHighz : Nat := 6

/-- Load TAP instruction `i`; `f` is what it does beside. -/
def tapDo (s : State) (i : Nat) (f : State → State) : Ans :=
  .next (if stage s = bsReset then f { s with part := { s.part with tap := i } } else s)

/-- IDCODE: 0x0F00_8xxx, bits [11:1] the JEP106 code, bit 0 set. -/
def idcode : Nat := 0x0F008000 + 2 * Config.jep106.toNat + 1

/-- BYPASS: the one-bit register captures 0. -/
def execBypass (s : State) : Ans := tapDo s tapBypass (fun s => emit { s with part := { s.part with pinsDriven := false } } (.tap 0))

/-- IDCODE. -/
def execIdcode (s : State) : Ans := tapDo s tapIdcode (fun s => emit { s with part := { s.part with pinsDriven := false } } (.tap idcode))

/-- SAMPLE/PRELOAD: the chain captures the lands as they stand, and takes the preloaded value. -/
def execSamplePreload (lands preload : Nat) (s : State) : Ans :=
  tapDo s tapSample (fun s => emit { s with part := { s.part with boundary := preload, pinsDriven := false } } (.tap lands))

/-- EXTEST: the chain drives the control-group lands, and captures them. -/
def execExtest (lands : Nat) (s : State) : Ans :=
  tapDo s tapExtest (fun s => emit { s with part := { s.part with pinsDriven := true } } (.tap lands))

/-- CLAMP: the chain's value holds the lands while BYPASS is scanned. -/
def execClamp (s : State) : Ans := tapDo s tapClamp (fun s => emit { s with part := { s.part with pinsDriven := true } } (.tap 0))

/-- HIGHZ: the lands are not driven while BYPASS is scanned. -/
def execHighz (s : State) : Ans := tapDo s tapHighz (fun s => emit { s with part := { s.part with pinsDriven := false } } (.tap 0))

/-! DRAM and error windows (03 R71, R72, R77, R85; 17 R464; 18 R468). -/

/-- DRAM_TEMP (R77): fatal to a job with traffic on the device, else logged; the device refreshes at 2x until the next Temper set applies. -/
def dramTempFault (s : State) (dev t : Nat) : State :=
  let s := if dev < 16 then raiseBit s Fk.memStatusHearthTemp dev else raiseBit s Fk.memStatusCellarTemp (dev - 16)
  let s := { s with part := { s.part with hot2x := if s.part.hot2x.contains dev then s.part.hot2x else s.part.hot2x ++ [dev] } }
  let d := toLE 1 dev ++ toLE 3 0 ++ toLE 4 t
  if trafficOn s dev then heldFault s ⟨fcDramTemp, 3, 4, srcChip, noInstr, d⟩
  else hwRecord s false (hwEntry s fcDramTemp 3 0 srcChip noInstr d)

/-- The device refreshes at 2x. -/
def refresh2x (s : State) (dev : Nat) : Bool :=
  decide (rd s (if dev < 16 then Fk.memRefreshHearth2x else Fk.memRefreshCellar2x) = 1) || s.part.hot2x.contains dev

/-- DRAM_TEMP_REPORT: device `dev` (stack, or 16 plus package) reads `t` degrees. DESIGN CHOICE (log entry 104): the limit goes by MEM.REFRESH alone, also
while DRAM_TEMP holds the device at 2×. -/
def execDramTempReport (dev t : Nat) (s : State) : Ans :=
  .next (if dev ≥ 48 then s
  else
    let s := { s with bellows := { s.bellows with dram := mput (fun _ => 0) s.bellows.dram dev t } }
    let s := if t > dramFigure s dev then statusAlarm s Fk.bellowsStatusDramWarm 8 else s
    if t > (if rd s (if dev < 16 then Fk.memRefreshHearth2x else Fk.memRefreshCellar2x) = 1 then 95 else 85) then dramTempFault s dev t else s)

/-- Cycle of the epoch at which the next refresh window of a channel begins, from cycle `t` on (R71): `g` is its global number in its level. -/
def nextRefresh (fast : Bool) (g t : Nat) : Nat :=
  let o := g % 8 * 64
  let per := if fast then 2432 else 5312
  o + ceilDiv (t - o) per * per

/-- REFRESH_WINDOW: time reaches the next refresh window of channel `g` of Hearth or Cellar, in which the channel is refreshed (R72). -/
def execRefreshWindow (hearth : Bool) (g : Nat) (s : State) : Ans :=
  .next (
    let t := rd s Fk.epochCycle
    let dev := if hearth then g / 16 else 16 + g / 4
    if ¬ s.part.clocks ∨ g ≥ (if hearth then 256 else 128) then s else advance s (nextRefresh (refresh2x s dev) g t - t))

/-- DRAM_TEMP holds the accesses to the DRAM channel of unit `u` (R77). -/
def hotUnit (s : State) (u : Nat × Nat) : Bool := decide (u.1 = 4) && s.part.hot2x.contains (if u.2 < 256 then u.2 / 16 else 16 + (u.2 - 256) / 4)

/-- SCRUB: the recorded addresses of channels and banks on which no job has traffic are rewritten, with one entry that counts them (R85). -/
def execScrub (s : State) : Ans :=
  .next (
    let unit := fun (a : Nat) => if 2 ^ 52 ≤ a ∧ a < 2 ^ 53 then (1, 0) else errUnit s a
    let idle := fun (a : Nat) => !unitTraffic s (unit a) && !hotUnit s (unit a)
    let done := s.part.scrub.filter idle
    if done = [] then s
    else
      let left := s.part.scrub.filter (fun a => !idle a)
      let s := wr { s with part := { s.part with scrub := left } } Fk.memStatusScrubPending (b2n (decide (left ≠ [])))
      hwRecord s false (hwEntry s 0x0107 3 0 srcChip noInstr (toLE 4 done.length)))

/-- CCLK periods of an error window: 187,500,000 TCLK. -/
def windowCc : Nat := 1500000000

/-- ERROR_WINDOW_END: time reaches the end of the running error window; every count restarts at 0. -/
def execErrorWindowEnd (s : State) : Ans :=
  .next (
    let n := (s.cc - s.part.pllAt) / windowCc + 1
    let s := advanceTo s (s.part.pllAt + n * windowCc)
    { s with part := { s.part with ceCounts := [], ueCounts := [] } })

end Sys2Proof.Machine
end

