-- ==== Sys2Proof/Machine/Rootline.lean ====
section
/-! DEFINITION. Rootline frames (02 R55 to R57), calibration (R58), domain barriers (02 R61 to R63, 15 R411 to R413) and the side messages
(15 R410, R414). -/

namespace Sys2Proof.Machine

/-! Frames (02 R55). A frame is kept without its comma: characters 1 to 13 and the CRC. -/

/-- Frame types. -/
def frSync : Nat := 1
def frRelease : Nat := 2
def frIdle : Nat := 3

/-- Characters 1 to 13 of a SYNC. -/
def syncChars (t frac seq : Nat) : List Byte := toLE 1 frSync ++ toLE 8 t ++ toLE 2 frac ++ toLE 2 seq

/-- Characters 1 to 13 of a RELEASE of epoch `e` at `t` ns. -/
def releaseChars (e t : Nat) : List Byte := toLE 1 frRelease ++ toLE 4 e ++ toLE 8 t

/-- Characters 1 to 13 of an IDLE. -/
def idleChars : List Byte := toLE 1 frIdle ++ List.replicate 12 0

/-- A frame with its CRC, most significant byte first. -/
def frameOf (c : List Byte) : List Byte := c ++ toBE 2 (crc16 c)

/-- Pass an intact frame to every child port (15 R411). -/
def relayFrame (s : State) (c : List Byte) : State :=
  (childPorts s).foldl (fun s p => sideSend s p (sideMsg 1 c)) s

/-- The calibrated time in thirds of 2^-16 ns: the SYNC-tracked time, and at a MEMBER its CAL_OFFSET (R58). -/
def calThirds (s : State) : Int :=
  (timeThirds s : Int) + 3 * (if role s = roleMember then sext 48 (rd s Fk.epochCalCalOffset) else 0)

/-- Act on a RELEASE (R56, R61, R63): the first copy sets the release time; one that is past is late. -/
def takeRelease (s : State) (e t : Nat) : State :=
  if s.root.relSeen = some e then s
  else
    let late := decide (calThirds s > ((t * 196608 : Nat) : Int))
    let s := trace { s with root := { s.root with relSeen := some e, relPend := some (e, t) } } 10 1 srcChip (toLE 4 e)
    if late then diverge (raise s Fk.epochStatusLateRelease) tDivLateRelease 1 else s

/-- Steer TIME_NS to a SYNC (R55, R57). DESIGN CHOICE (log entry 104): at a MEMBER, TIME_NS is the SYNC-tracked time, and CAL_OFFSET enters only where the
calibrated time is asked for. On the pair, while frames are taken from it; on the side path 16 good ones in a row lead back. -/
def takeSync (s : State) (t frac : Nat) : State :=
  if onSidePath s then
    if s.root.goodRun + 1 ≥ 16 then { s with root := { s.root with missed := 0, goodRun := 0 } }
    else { s with root := { s.root with goodRun := s.root.goodRun + 1 } }
  else
    let s := setTimeThirds s ((t * 65536 + frac % 65536) * 3)
    if rd s Fk.epochTimeAuxTimeState = tsHoldover then s
    else wr s Fk.epochTimeAuxTimeState (if rd s Fk.epochCalCalValid = 1 then tsLocked else tsTracking)

/-- A frame arrives on the pair with the CRC `crc`: it is re-sent (R57); a bad one is discarded (R56); a good one is relayed, and at a MEMBER `f` acts
on it. A root takes no frames. -/
def pairFrame (s : State) (c : List Byte) (crc : Nat) (f : State → State) : Ans :=
  .next (if role s = roleRoot ∨ ¬ s.part.clocks then s
  else
    let s := emit s (.rootline (c ++ toBE 2 crc))
    if crc % 65536 ≠ crc16 c then { raise s Fk.epochStatusCrcDrop with root := { s.root with goodRun := 0 } }
    else
      let s := relayFrame s c
      pumpAll (if role s = roleMember then f s else s))

/-- SYNC_FRAME. -/
def execSyncFrame (t frac seq crc : Nat) (s : State) : Ans := pairFrame s (syncChars t frac seq) crc (fun s => takeSync s t frac)

/-- RELEASE_FRAME. -/
def execReleaseFrame (e t crc : Nat) (s : State) : Ans :=
  pairFrame s (releaseChars e t) crc (fun s => if onSidePath s then s else takeRelease s (e % 2 ^ 32) (t % 2 ^ 64))

/-- IDLE_FRAME. -/
def execIdleFrame (crc : Nat) (s : State) : Ans := pairFrame s idleChars crc (fun s => s)

/-- ROOT_FRAME_SEND: every twelfth frame is a SYNC, a waiting RELEASE copy takes the next other one, else IDLE (R56). -/
def execRootFrameSend (s : State) : Ans :=
  .next (if role s ≠ roleRoot ∨ ¬ s.part.clocks then s
  else
    let sync := decide (s.root.frameNo % 12 = 0)
    let c := if sync then syncChars (rd s Fk.epochTimeNs) (rd s Fk.epochTimeAuxTimeFrac) s.root.syncSeq
      else s.root.relQueue.headD idleChars
    let r := s.root
    let s := { s with root := { r with
      frameNo := (r.frameNo + 1) % 12
      syncSeq := if sync then (r.syncSeq + 1) % 65536 else r.syncSeq
      relQueue := if sync then r.relQueue else r.relQueue.tail } }
    pumpAll (relayFrame (emit s (.rootline (frameOf c))) c))

/-- ROOTLINE_LOSS: 4 SYNC periods passed without a good frame on the pair (R57); without a side path either, HOLDOVER (R66). -/
def execRootlineLoss (s : State) : Ans :=
  .next (if role s ≠ roleMember ∨ onSidePath s then s
  else
    let s := raise { s with root := { s.root with missed := 4, goodRun := 0 } } Fk.epochStatusSidePath
    if portState s (rd s Fk.epochCfgTimeParent) = psUp then s else holdover s)

/-! Calibration (02 R58, 15 R410, R411). -/

/-- A time in units of 2^-16 ns, as CAL carries it. -/
def stamp (t : Int) : Nat := code 64 (t / 3)

/-- Bytes 1 to 13 of a CAL. -/
def calBody (reply : Bool) (n t : Nat) : List Byte := toLE 1 (b2n reply) ++ toLE 2 n ++ toLE 8 t

/-- Send the request of exchange `n`; its time is t3. -/
def calRequest (s : State) (p n : Nat) : State :=
  let t := stamp (timeThirds s : Int)
  sideSend { s with root := { s.root with calT3 := t } } p (sideMsg 4 (calBody false n t))

/-- Start the 256 exchanges with the time parent. -/
def calStart (s : State) : State :=
  match parentPort s with
  | none => s
  | some p =>
    if portState s p ≠ psUp then s
    else pumpAll (calRequest { s with root := { s.root with calOn := true, calN := 0, calOff := 0, calDelay := 0 } } p 0)

/-- CALIBRATION. -/
def execCalibration (s : State) : Ans := .next (if rd s Fk.epochCalCalValid = 0 then calStart s else s)

/-- CAL_RETRY: the parent has not answered for 1 ms. -/
def execCalRetry (s : State) : Ans := .next (if s.root.calOn then calStart s else s)

/-- SIDE_PATH_CALIBRATION: the exchange of every 64 µs (15 R411). -/
def execSidePathCalibration (s : State) : Ans := .next (if onSidePath s then calStart s else s)

/-- The mean of 256 halved sums, rounded by a free bit where it is not whole. -/
def mean512 (s : State) (x : Int) : Int × State :=
  if x % 512 = 0 then (x / 512, s)
  else let q := takeFree s 1
    (x / 512 + (q.1 : Int), q.2)

/-- The 256 exchanges are complete: CAL_OFFSET, DELAY and LOCKED (R58); or on the side path TIME_NS is steered so that the calibrated time is
the parent's (15 R411). -/
def calDone (s : State) (p : Nat) : State :=
  let r := s.root
  let m := mean512 { s with root := { r with calOn := false } } r.calOff
  let d := mean512 m.2 r.calDelay
  let s := wr (wr (wr d.2 (Fk.tlPdelayDelay p) (code 40 d.1)) (Fk.tlPdelayDelayValid p) 1) Fk.epochTimeAuxTimeState tsLocked
  if onSidePath s && rd s Fk.epochCalCalValid = 1 then
    setTimeThirds s ((timeThirds s : Int) - 3 * (m.1 + sext 48 (rd s Fk.epochCalCalOffset))).toNat
  else wr (wr s Fk.epochCalCalOffset (code 48 (-m.1))) Fk.epochCalCalValid 1

/-- A CAL reply of exchange `n` with t1; t4 is the parent's time at the receipt of the request. -/
def calReply (s : State) (p n t1 t4 : Nat) : State :=
  if ¬ s.root.calOn ∨ n ≠ s.root.calN then s
  else
    let r := s.root
    let t2 := stamp (timeThirds s : Int)
    let a := sext 64 (code 64 ((t2 : Int) - (t1 : Int)))
    let b := sext 64 (code 64 ((t4 : Int) - (r.calT3 : Int)))
    let s := { s with root := { r with calN := n + 1, calOff := r.calOff + (a - b), calDelay := r.calDelay + (a + b) } }
    if n + 1 = 256 then calDone s p else calRequest s p (n + 1)

/-- CAL on port `p`, with bytes 1 to 13 `b`: a request is answered by ROOT or a calibrated part; a reply comes from the time parent (R58). -/
def calMessage (s : State) (p : Nat) (b : List Byte) (t4 : Nat) : State :=
  if le b 0 1 = 0 then
    if isChildPort s p ∧ (role s = roleRoot ∨ rd s Fk.epochCalCalValid = 1) then
      sideSend s p (sideMsg 4 (calBody true (le b 1 2) (stamp (calThirds s))))
    else s
  else if isParentPort s p then calReply s p (le b 1 2) (le b 3 8) t4 else s

/-! Barriers of a domain (15 R412, R413). -/

/-- The ARRIVEs held, by child port, ascending. -/
def held (s : State) : List Arrival := (childPorts s).filterMap (fun p => mget (fun _ => none) s.root.arrivals p)

/-- Every child has delivered an ARRIVE. -/
def childrenArrived (s : State) : Bool := decide ((held s).length = (childPorts s).length)

/-- Epoch number that the next release will carry. -/
def nextEpoch (s : State) : Nat := (rd s Fk.epochCount + 1) % 2 ^ 32

/-- Parts counted, MIXED and SKEW of the part's own arrival (R412). -/
def partsCounted (s : State) : Nat := 1 + ((held s).map (·.count)).foldl (· + ·) 0
def isMixed (s : State) : Bool := (held s).any (fun a => decide (a.digest ≠ rd s Fk.auditDigest) || a.mixed)
def skewed (s : State) (a : Arrival) : Bool := !a.isNew && decide (a.epoch ≠ nextEpoch s)
def isSkew (s : State) : Bool := (held s).any (fun a => skewed s a || a.skew)

/-- Bytes 1 to 13 of the part's ARRIVE. -/
def arriveBody (s : State) : List Byte :=
  toLE 1 (b2n (isMixed s) + 2 * b2n (isSkew s) + 4 * b2n (!s.root.joined)) ++ toLE 4 (nextEpoch s) ++ toLE 4 (rd s Fk.auditDigest) ++
    toLE 4 (partsCounted s)

/-- A MEMBER may arrive: R412's conditions hold, CAL_VALID is 1 (02 R58), and it has not arrived. -/
def mayArrive (s : State) : Bool :=
  decide (role s = roleMember) && s.part.clocks && s.part.service && ownArrived s && childrenArrived s && decide (rd s Fk.epochCalCalValid = 1) &&
    decide (rd s Fk.tlBarrierSentUp = 0)

/-- The part's own arrival shows in TL.BARRIER. -/
def showArrived (s : State) : State :=
  wr (wr (wr s Fk.tlBarrierSelfArrived 1) Fk.tlBarrierSentUp 1) Fk.tlBarrierWaitEpoch (nextEpoch s)

/-- ARRIVE_SEND. -/
def execArriveSend (s : State) : Ans :=
  .next (match parentPort s with
  | none => s
  | some p =>
    if mayArrive s then
      let m := sideMsg 2 (arriveBody s)
      let s := trace (showArrived s) 10 0 srcChip (toLE 4 (nextEpoch s))
      pumpAll (sideSend { s with root := { s.root with lastArr := s.cc } } p m)
    else s)

/-- ARRIVE from child port `p`. -/
def arriveMessage (s : State) (p : Nat) (b : List Byte) : State :=
  if isChildPort s p then
    let f := le b 0 1
    let a : Arrival := ⟨le b 9 4, le b 5 4, le b 1 4, bit f 0, bit f 1, bit f 2, s.cc⟩
    let s := wr (setBit s Fk.tlBarrierChildArrived p) Fk.tlBarrierWaitEpoch (nextEpoch s)
    { s with root := { s.root with
      arrivals := mput (fun _ => none) s.root.arrivals p (some a)
      firstArr := some (s.root.firstArr.getD s.cc) } }
  else s

/-- The barrier in progress is given up: the arrivals held are dropped. -/
def dropArrivals (s : State) : State :=
  let s := wr (wr (wr (wr s Fk.tlBarrierChildArrived 0) Fk.tlBarrierSelfArrived 0) Fk.tlBarrierSentUp 0) Fk.tlBarrierWaitEpoch 0
  { s with root := { s.root with arrivals := [], firstArr := none } }

/-- A fault of a barrier: it ends a running job, which sends ABORT; without one its entry is written and ABORT sent. -/
def barrierFault (s : State) (code : Nat) (detail : List Byte) : State :=
  let run := running s
  let s := jobFault s ⟨code, 3, 4, srcChip, noInstr, detail⟩
  dropArrivals (if run then s else sendAbort s code)

/-- The root holds every arrival, and its own. -/
def rootReady (s : State) : Bool :=
  decide (role s = roleRoot) && s.part.clocks && s.part.service && ownArrived s && childrenArrived s && decide (rd s Fk.tlBarrierSentUp = 0)

/-- The root's release time in TCLK: max(t + LEAD, T_prev + 128), with t the first TCLK edge at or after its time (R61). -/
def releaseTclk (s : State) : Nat :=
  max (ceilDiv (timeThirds s) 1048576 + rd s Fk.epochCfgLead) (s.root.prevT + 128)

/-- A TCLK count as ns, to the next whole one: 16/3 ns each. -/
def tclkNs (t : Nat) : Nat := ceilDiv (16 * t) 3

/-- Send the three RELEASE copies. -/
def sendRelease (s : State) : State :=
  let t := releaseTclk s
  let e := nextEpoch s
  let s := showArrived s
  { s with root := { s.root with prevT := t, relPend := some (e, tclkNs t), relQueue := List.replicate 3 (releaseChars e (tclkNs t)) } }

/-- The first child epoch that differs: of an arrival that is skewed, else of one that reports SKEW. -/
def skewEpoch (s : State) : Nat :=
  (((held s).find? (skewed s)).orElse (fun _ => (held s).find? (·.skew))).elim 0 (·.epoch)

/-- Set the TL.STATUS bit of each condition of R413 that holds. -/
def rootStatus (s : State) : State :=
  let s := if isMixed s then raise s Fk.tlStatusProfileMixed else s
  let s := if isSkew s then raise s Fk.tlStatusEpochSkew else s
  if partsCounted s ≠ rd s Fk.tlDomainDomainParts then raise s Fk.tlStatusDomainCount else s

/-- ROOT_RELEASE (02 R61, 15 R413). -/
def execRootRelease (s : State) : Ans :=
  .next (if ¬ rootReady s then s
  else
    let n := partsCounted s
    let s1 := rootStatus s
    if isMixed s then pumpAll (barrierFault s1 fcProfileMixed (toLE 4 (rd s Fk.auditDigest)))
    else if isSkew s then pumpAll (barrierFault s1 fcEpochSkew (toLE 4 (nextEpoch s) ++ toLE 4 (skewEpoch s)))
    else if n ≠ rd s Fk.tlDomainDomainParts then pumpAll (barrierFault s1 fcDomainCount (toLE 4 n ++ toLE 4 (rd s Fk.tlDomainDomainParts)))
    else sendRelease s)

/-- DETAIL of EPOCH_TIMEOUT. -/
def timeoutDetail (s : State) : List Byte := toLE 4 (rd s Fk.tlBarrierWaitEpoch) ++ toLE 2 (rd s Fk.tlBarrierChildArrived)

/-- The edge from which TIMEOUT_US runs: the first arrival of a barrier of which some arrival is missing at the root (02 R62), the own arrival at a MEMBER (15 R413). -/
def timeoutFrom (s : State) : Option Nat :=
  if role s = roleRoot then (if s.root.relPend.isNone ∧ ¬ (ownArrived s ∧ childrenArrived s) then s.root.firstArr else none)
  else if role s = roleMember ∧ rd s Fk.tlBarrierSentUp = 1 ∧ s.root.relPend.isNone then some s.root.lastArr else none

/-- EPOCH_TIMEOUT. -/
def execEpochTimeout (s : State) : Ans :=
  .next (match timeoutFrom s with
  | none => s
  | some t =>
    if ¬ s.part.clocks ∨ ¬ s.part.service then s
    else
      let s := advanceTo s (t + rd s Fk.epochCfgTimeoutUs * usCc)
      pumpAll (barrierFault s fcEpochTimeout (timeoutDetail s)))

/-! The other side messages (15 R409, R410, R414). -/

/-- ABORT on port `p`: a new one goes on along the time tree, and faults a running job of its JOB_TAG; every part records it (R413, R414). -/
def abortMessage (s : State) (p : Nat) (b : List Byte) : State :=
  let origin := le b 3 4
  let e := le b 7 4
  if s.root.aborts.contains (origin, e) then s
  else
    let s := { s with root := { s.root with aborts := (origin, e) :: s.root.aborts } }
    let s := ((treePorts s).filter (fun q => decide (q ≠ p))).foldl (fun s q => sideSend s q (sideMsg 3 b)) s
    let detail := toLE 4 origin ++ toLE 1 (le b 0 1) ++ toLE 3 0 ++ toLE 4 e
    if running s ∧ rd s Fk.tlCtlJobTag = le b 1 2 then
      dropArrivals (jobFault (raise s Fk.tlStatusAbortRx) ⟨fcJobAbort, 3, 4, srcChip, noInstr, detail⟩)
    else hwRecord s false (hwEntry s fcJobAbort 3 0 srcChip noInstr detail)

/-- Credits at a return to UP (R402): 512 less the data flits still held, unacknowledged here or in the far receiver, which are those whose credits have not
come back; behind training none is. -/
def creditsAtUp (s : State) (p : Nat) : Nat := if portState s p = psRetrain then rd s (Fk.tlPcredTxCredit p) else 512

/-- The peer fields of a HELLO, and TREE_MISMATCH where CHILDREN disagrees with its flag. -/
def notePeer (s : State) (p : Nat) (b : List Byte) : State :=
  let s := wr (wr (wr s (Fk.tlPstatePeerPort p) (le b 5 1 % 16)) (Fk.tlPstatePeerId p) (le b 1 4)) (Fk.tlPstatePeerValid p) 1
  if isChildPort s p = bit (le b 0 1) 0 then s else raise s Fk.tlStatusTreeMismatch

/-- HELLO names the peer that PSTATE holds. -/
def samePeer (s : State) (p : Nat) (b : List Byte) : Bool :=
  decide (rd s (Fk.tlPstatePeerId p) = le b 1 4) && decide (rd s (Fk.tlPstatePeerPort p) = le b 5 1)

/-- HELLO on port `p` (R403). -/
def helloMessage (s : State) (p : Nat) (b : List Byte) : State :=
  let x := getPort s p
  let st := portState s p
  let up := fun (s : State) => portEnter (wr s (Fk.tlPcredTxCredit p) (creditsAtUp s p)) p psUp
  if st = psAligned ∧ x.helloSent then up (notePeer s p b)
  else if st = psRetrain ∧ x.synced then
    (if samePeer s p b then up (notePeer s p b) else portEnter (notePeer s p b) p psFailed)
  else notePeer s p b

/-- A ROOTLINE message: a frame from the time parent, relayed, and acted on while the side path is in use. -/
def rootlineMessage (s : State) (p : Nat) (b : List Byte) : State :=
  if isParentPort s p then
    let s := relayFrame s b
    if onSidePath s ∧ le b 0 1 = frRelease then takeRelease s (le b 1 4) (le b 5 8) else s
  else s

/-- An intact side message on port `p`: the link is in a state that carries it, and `b` has its bytes 1 to 13. -/
def sideCommand (s : State) (p : Nat) (b : List Byte) (f : State → Nat → List Byte → State) : Ans :=
  .next (if p < 16 ∧ s.part.clocks ∧ (portState s p = psUp ∨ portState s p = psAligned ∨ (portState s p = psRetrain ∧ (getPort s p).synced)) then
    pumpAll (f s p ((b ++ List.replicate 13 0).take 13))
  else s)

/-- ROOTLINE. -/
def execRootlineMsg (p : Nat) (b : List Byte) (s : State) : Ans := sideCommand s p b rootlineMessage

/-- ARRIVE. -/
def execArriveMsg (p : Nat) (b : List Byte) (s : State) : Ans := sideCommand s p b arriveMessage

/-- ABORT. -/
def execAbortMsg (p : Nat) (b : List Byte) (s : State) : Ans := sideCommand s p b abortMessage

/-- CAL. -/
def execCalMsg (p : Nat) (b : List Byte) (t4 : Nat) (s : State) : Ans := sideCommand s p b (fun s p b => calMessage s p b t4)

/-- HELLO. -/
def execHelloMsg (p : Nat) (b : List Byte) (s : State) : Ans := sideCommand s p b helloMessage

end Sys2Proof.Machine
end

