-- ==== Sys2Proof/Machine/Tinlink.lean ====
section
/-! DEFINITION. What a Tinlink port does with received flits and at the events of its link (15 R400 to R403, R406, R410). -/

namespace Sys2Proof.Machine

/-- Flits cross the link in this state. -/
def linkOn (s : State) (p : Nat) : Bool :=
  decide (p < 16) && s.part.clocks &&
    (decide (portState s p = psUp) || decide (portState s p = psAligned) || (decide (portState s p = psRetrain) && (getPort s p).synced))

/-! Replay (R401). -/

/-- Resend every unacknowledged flit in order; REPLAYS counts them. -/
def resendAll (s : State) (p : Nat) : State :=
  let l := (getPort s p).unacked
  let s := wr s (Fk.tlPerrReplays p) (min 0xFFFF (rd s (Fk.tlPerrReplays p) + l.length))
  let s := modPort s p (fun x => { x with resends := (List.range l.length).map (fun i => x.resends.getD i 0 + 1) })
  l.foldl (fun s f => sendFlit s p f) s

/-- An IDLE flit: it carries ACK, NAK and CREDIT, and the next number to be used. -/
def sendIdle (s : State) (p : Nat) : State := sendFlit s p { flitEmpty with seq := (getPort s p).txSeq }

/-- Send what the port can, or an IDLE flit. -/
def answer (s : State) (p : Nat) : State :=
  let t := pump s p
  if t.out.length = s.out.length then sendIdle t p else t

/-- A flit is discarded: the first sequenced one is answered with NAK. -/
def discardFlit (s : State) (p : Nat) : State :=
  if (getPort s p).nakOut then s else sendIdle (modPort s p (fun x => { x with nak := true, nakOut := true })) p

/-- Flits that ACK `a` acknowledges: those up to it. -/
def ackCount (l : List Flit) (a : Nat) : Nat :=
  match l with
  | [] => 0
  | f :: _ => if (a % 4096 + 4097 - f.seq) % 4096 ≤ l.length then (a % 4096 + 4097 - f.seq) % 4096 else 0

/-- The link fields of an intact header: ACK, CREDIT and NAK (R401, R402); FEC_CORR counts the codewords corrected on the way (R423). -/
def linkFields (s : State) (p : Nat) (f : FlitIn) : State :=
  let s := wr s (Fk.tlPerrFecCorr p) ((rd s (Fk.tlPerrFecCorr p) + f.fec) % 2 ^ 32)
  let n := ackCount (getPort s p).unacked f.ack
  let s := modPort s p (fun x => { x with unacked := x.unacked.drop n, resends := x.resends.drop n })
  let d := (f.credit + 64 - (getPort s p).seenCredit) % 64
  let s := modPort (wr s (Fk.tlPcredTxCredit p) (min 512 (rd s (Fk.tlPcredTxCredit p) + d))) p (fun x => { x with seenCredit := f.credit % 64 })
  let s := if f.nak then resendAll s p else s
  noteOwn s

/-! Payloads (R406). -/

/-- Region and hoop of receive stream `k`, if its entry is enabled and names port `p`. -/
def rxTarget (s : State) (p k : Nat) : Option (Nat × Nat) :=
  if rd s (Fk.tlRxsEn k) = 1 ∧ rd s (Fk.tlRxsPort k) = p then some (rxsHoop s k) else none

/-- 32-byte beats already in the TAIL slot, and beats of a slot. -/
def hoopFill (s : State) (r h : Nat) : Nat := mget (fun _ => 0) (getRegion s r).fill h
def slotHalves (s : State) (r h : Nat) : Nat := 2 * rd s (Fk.hoopCfgSlotBeats (posOf s r) h)

/-- Address of beat `i` of the TAIL slot. -/
def tailAddr (s : State) (r h i : Nat) : Nat :=
  let n := posOf s r
  hoopSlotAddr s n h (rd s (Fk.hoopTail n h)) + 32 * i

/-- The hoop takes a beat: its TAIL slot is begun or it is not full, and its level serves REMOTE accesses (R402). -/
def rxRoom (s : State) (r h : Nat) : Bool :=
  let a := tailAddr s r h 0
  (decide (hoopFill s r h > 0) || !hoopFull s (posOf s r) h) && !(decide (levelOf a ≤ 1) && remoteShut s a)

/-- Write one beat; a slot that it fills closes, with MARK at the end of a DATA_LAST. -/
def rxBeat (s : State) (r h : Nat) (l : List Byte) (bad last : Bool) : State :=
  let i := hoopFill s r h
  let s := spanPut s [] (tailAddr s r h i) (((l ++ List.replicate 32 0).take 32).map (fun b => (if bad then 0 else b, bad)))
  if i + 1 ≥ slotHalves s r h then hoopClose s r h last
  else modRegion s r (fun x => { x with fill := mput (fun _ => 0) x.fill h (i + 1) })

/-- A DATA_LAST ends short of its slot: the rest is zero, poisoned beats, and the slot closes with MARK (R406). -/
def rxPad (s : State) (r h : Nat) : State :=
  let i := hoopFill s r h
  let s := spanPut s [] (tailAddr s r h i) (List.replicate (32 * (slotHalves s r h - i)) (0, true))
  raise (hoopClose s r h true) Fk.tlStatusRxFormat

/-- Write beats of a flit, `n` of which are left; the flit with what the hoop has no room for. -/
def rxFlit (r h : Nat) : Nat → State → Flit → State × Option Flit
  | 0, s, f => (if f.ty = ftLast ∧ hoopFill s r h ≠ 0 then rxPad s r h else s, none)
  | n + 1, s, f =>
    if rxRoom s r h then
      rxFlit r h n (rxBeat s r h (f.payload.take 32) (bit f.poison 0) (decide (f.ty = ftLast) && decide (n = 0)))
        { f with payload := f.payload.drop 32, poison := f.poison / 2, beatsM1 := f.beatsM1 - 1 }
    else (s, some f)

/-- Free one flit of the receive buffer; an IDLE flit carries CREDIT at least once in 32. -/
def freeFlit (s : State) (p : Nat) : State :=
  let s := modPort s p (fun x => { x with freed := (x.freed + 1) % 64 })
  if (getPort s p).freed % 32 = 0 then sendIdle s p else s

/-- A data flit for a stream with no matching entry (R406). -/
def rxStray (s : State) (p k : Nat) : State :=
  let s := raise (freeFlit s p) Fk.tlStatusRxFormat
  if running s then jobFault s ⟨fcTinlinkStream, 3, 4, srcIo (p / 8), noInstr, toLE 1 p ++ toLE 1 k⟩ else s

/-- Flits of the receive buffer go to their hoops in order, those of a stream whose hoop has no room staying behind; the flits kept so far
and the streams that wait. -/
def rxWalk (p : Nat) : List Flit → List Flit → List Nat → State → State × List Flit
  | [], kept, _, s => (s, kept)
  | f :: l, kept, blocked, s =>
    if blocked.contains f.stream then rxWalk p l (kept ++ [f]) blocked s
    else match rxTarget s p f.stream with
    | none => rxWalk p l kept blocked (rxStray s p f.stream)
    | some (r, h) => match rxFlit r h (f.beatsM1 + 1) s f with
      | (s, none) => rxWalk p l kept blocked (freeFlit s p)
      | (s, some f) => rxWalk p l (kept ++ [f]) (f.stream :: blocked) s

/-- Move what can be moved from the receive buffer of port `p`. -/
def rxDrain (s : State) (p : Nat) : State :=
  let y := rxWalk p (getPort s p).held [] [] s
  wr (modPort y.1 p (fun x => { x with held := y.2 })) (Fk.tlPcredRxUsed p) y.2.length

/-- Every port moves and sends what it can. -/
def linksSettle (s : State) : State := (List.range 16).foldl (fun s p => if (getPort s p).held = [] then s else rxDrain s p) (pumpAll s)

/-! Side bytes (R410). -/

/-- A whole message: dispatched, or dropped for its type or CRC. -/
def sideDispatch (s : State) (p : Nat) (m : List Byte) (t4 : Nat) : State :=
  let b := (m.drop 1).take 13
  if crc16 b ≠ le m 15 1 + 256 * le m 14 1 then raise s Fk.tlStatusSideDrop
  else match le m 0 1 with
  | 1 => rootlineMessage s p b
  | 2 => arriveMessage s p b
  | 3 => abortMessage s p b
  | 4 => calMessage s p b t4
  | 5 => helloMessage s p b
  | _ => raise s Fk.tlStatusSideDrop

/-- The message being received is broken off. -/
def sideBroken (s : State) (p : Nat) : State :=
  if (getPort s p).sideRx = [] then s
  else raise (modPort s p (fun x => { x with sideRx := [] })) Fk.tlStatusSideDrop

/-- The side bytes of a flit in sequence: four consecutive ones make a message. -/
def sideBytes (s : State) (p : Nat) (f : FlitIn) : State :=
  if ¬ f.sideV then sideBroken s p
  else
    let s := if f.sidePos % 4 = 0 then sideBroken s p else s
    let got := (getPort s p).sideRx
    if got.length ≠ 4 * (f.sidePos % 4) then raise (modPort s p (fun x => { x with sideRx := [] })) Fk.tlStatusSideDrop
    else
      let m := got ++ toLE 4 f.side
      if m.length < 16 then modPort s p (fun x => { x with sideRx := m })
      else sideDispatch (modPort s p (fun x => { x with sideRx := [] })) p m f.t4

/-! Arrivals. -/

/-- The flit as the receive buffer holds it. -/
def rxHeld (ty : Nat) (f : FlitIn) : Flit :=
  { flitEmpty with ty := ty, stream := f.stream % 64, beatsM1 := if ty = ftLast then f.beatsM1 % 16 else 15, poison := f.poison
                   payload := payload512 f.payload }

/-- A sequenced flit arrives (R401): in order it is taken by `f` and answered, out of order discarded. -/
def sequenced (s : State) (p : Nat) (x : FlitIn) (f : State → State) : Ans :=
  .next (if ¬ linkOn s p then s
  else
    let s := linkFields s p x
    if x.seq % 4096 ≠ (getPort s p).rxSeq then discardFlit s p
    else
      let s := modPort s p (fun y => { y with rxSeq := (y.rxSeq + 1) % 4096, nakOut := false })
      answer (f (sideBytes s p x)) p)

/-- A data flit in sequence enters the receive buffer. -/
def rxData (p ty : Nat) (x : FlitIn) (s : State) : State :=
  rxDrain (modPort s p (fun y => { y with held := y.held ++ [rxHeld ty x] })) p

/-- DATA. -/
def execDataFlit (p : Nat) (x : FlitIn) (s : State) : Ans := sequenced s p x (rxData p ftData x)

/-- DATA_LAST. -/
def execDataLastFlit (p : Nat) (x : FlitIn) (s : State) : Ans := sequenced s p x (rxData p ftLast x)

/-- SIDE. -/
def execSideFlit (p : Nat) (x : FlitIn) (s : State) : Ans := sequenced s p x (fun s => s)

/-- IDLE. -/
def execIdleFlit (p : Nat) (x : FlitIn) (s : State) : Ans := .next (if linkOn s p then pump (linkFields s p x) p else s)

/-- FLIT_CRC_FAILURE. -/
def execFlitCrcFailure (p : Nat) (s : State) : Ans := .next (if linkOn s p then discardFlit s p else s)

/-! Link events (R403). -/

/-- Bytes 1 to 13 of the port's HELLO (R410). -/
def helloBody (s : State) (p : Nat) : List Byte :=
  toLE 1 (b2n (isParentPort s p)) ++ toLE 4 (rd s Fk.tlCtlPartId) ++ toLE 1 p ++ toLE 4 (rd s Fk.auditDigest)

/-- Queue HELLO and send. -/
def sayHello (s : State) (p : Nat) : State :=
  pump (modPort (sideSend s p (sideMsg 5 (helloBody s p))) p (fun x => { x with helloSent := true })) p

/-- An event of port `p` in state `st`. -/
def linkEvent (s : State) (p st : Nat) (f : State → State) : Ans :=
  .next (if p < 16 ∧ s.part.clocks ∧ portState s p = st then f s else s)

/-- LINK_ALIGNED: TRAINING ends in ALIGNED; in RETRAIN the link carries flits again, and the unacknowledged ones are resent. -/
def execLinkAligned (p : Nat) (s : State) : Ans :=
  if portState s p = psRetrain then
    linkEvent s p psRetrain (fun s => if (getPort s p).synced then s else sayHello (resendAll (modPort s p (fun x => { x with synced := true })) p) p)
  else linkEvent s p psTraining (fun s => sayHello (portEnter s p psAligned) p)

/-- TRAINING_TIMEOUT. -/
def execTrainingTimeout (p : Nat) (s : State) : Ans := linkEvent s p psTraining (fun s => portEnter s p psFailed)

/-- HELLO_TIMEOUT. -/
def execHelloTimeout (p : Nat) (s : State) : Ans := linkEvent s p psAligned (fun s => portEnter s p psTraining)

/-- FEC_LOCK_LOST. -/
def execFecLockLost (p : Nat) (s : State) : Ans := linkEvent s p psUp (fun s => portEnter s p psRetrain)

/-- REPLAY_LIMIT: an unacknowledged flit has been resent 8 times. -/
def execReplayLimit (p : Nat) (s : State) : Ans :=
  linkEvent s p psUp (fun s => if (getPort s p).resends.any (fun n => decide (8 ≤ n)) then portEnter s p psRetrain else s)

/-- RETRAIN_TIMEOUT. -/
def execRetrainTimeout (p : Nat) (s : State) : Ans := linkEvent s p psRetrain (fun s => portEnter s p psFailed)

end Sys2Proof.Machine
end

