-- ==== Sys2Proof/Machine/Drain.lean ====
section
/-! DEFINITION. Drains: the transport stream (13 R370 to R373), the action at each slot (14 R378, 16 R438, 20 R523, R524) and the datagrams (14
R374 to R376, 19 R501, 21 R532). -/

namespace Sys2Proof.Machine

/-! PES and TS packets (13 R371 to R373). -/

/-- The 188 bytes of a TS packet: PID, payload_unit_start_indicator, and the body after the header with its adaptation control; the continuity
counter is put in when the packet leaves. -/
def tsPacket (pid : Nat) (start : Bool) (afc : Nat) (body : List Byte) : List Byte :=
  toLE 1 0x47 ++ toBE 2 (b2n start * 2 ^ 14 + pid) ++ toLE 1 (afc * 16) ++ body

/-- A packet with the counter `cc`. -/
def withCc (l : List Byte) (cc : Nat) : List Byte := l.set 3 (l.getD 3 0 ||| BitVec.ofNat 8 (cc % 16))

/-- An adaptation field of `n` bytes that holds stuffing only. -/
def stuffField (n : Nat) : List Byte :=
  if n = 1 then toLE 1 0 else toLE 1 (n - 1) ++ toLE 1 0 ++ List.replicate (n - 2) 0xFF

/-- Cut a PES packet into TS packets; the last is filled by stuffing. -/
def cutPes (pid : Nat) (l : List Byte) : List (List Byte) :=
  (List.range (ceilDiv l.length 184)).map (fun i =>
    let part := (l.drop (184 * i)).take 184
    if part.length = 184 then tsPacket pid (decide (i = 0)) 1 part
    else tsPacket pid (decide (i = 0)) 3 (stuffField (184 - part.length) ++ part))

/-- The five bytes of a PTS. -/
def ptsBytes (t : Nat) : List Byte :=
  toLE 1 (0x21 + 2 * bits t 30 3) ++ toBE 2 (2 * bits t 15 15 + 1) ++ toBE 2 (2 * bits t 0 15 + 1)

/-- The first PES packet of an access unit, and a following one. -/
def pesFirst (pts : Nat) (l : List Byte) : List Byte :=
  toBE 4 0x1BD ++ toBE 2 (8 + l.length) ++ toLE 1 0x84 ++ toLE 1 0x80 ++ toLE 1 5 ++ ptsBytes pts ++ l
def pesNext (l : List Byte) : List Byte := toBE 4 0x1BD ++ toBE 2 (3 + l.length) ++ toLE 1 0x80 ++ toLE 1 0 ++ toLE 1 0 ++ l

/-- The TS packets of an access unit. -/
def cutUnit (pid pts : Nat) (l : List Byte) : List (List Byte) :=
  let rest := l.drop 65527
  cutPes pid (pesFirst pts (l.take 65527)) ++
    (List.range (ceilDiv rest.length 65532)).flatMap (fun i => cutPes pid (pesNext ((rest.drop (65532 * i)).take 65532)))

/-- A section in its packet: pointer field, section with its CRC, stuffing (ISO/IEC 13818-1). -/
def sectionPacket (pid : Nat) (table : Nat) (body : List Byte) : List Byte :=
  let b := toLE 1 table ++ toBE 2 (0xB000 + body.length + 4) ++ body
  let sec := toLE 1 0 ++ b ++ toBE 4 (crc32Mpeg b)
  tsPacket pid true 1 (sec ++ List.replicate (184 - sec.length) 0xFF)

/-- PID of a stream, and PCR_PID (R370). -/
def streamPid (s : State) (c : Nat) (a : Bool) : Nat := rd s (if a then Fk.drainCfgAudioPid c else Fk.drainCfgVideoPid c)
def pcrPid (s : State) (c : Nat) : Nat := streamPid s c (!carries s c false)

/-- The PAT: transport_stream_id c + 1, program 1, version 0 (14 R375). -/
def patPacket (s : State) (c : Nat) : List Byte :=
  sectionPacket 0 0 (toBE 2 (c + 1) ++ toLE 1 0xC1 ++ toLE 2 0 ++ toBE 2 1 ++ toBE 2 (0xE000 + rd s (Fk.drainCfgPmtPid c)))

/-- The PMT's entry of one elementary stream (R370). -/
def pmtStream (s : State) (c : Nat) (a : Bool) : List Byte :=
  if carries s c a then
    toLE 1 6 ++ toBE 2 (0xE000 + streamPid s c a) ++ toBE 2 0xF007 ++ toLE 1 5 ++ toLE 1 5 ++ toBE 4 0x46564947 ++ toLE 1 (b2n a)
  else []

/-- The PMT. -/
def pmtPacket (s : State) (c : Nat) : List Byte :=
  sectionPacket (rd s (Fk.drainCfgPmtPid c)) 2 (toBE 2 1 ++ toLE 1 0xC1 ++ toLE 2 0 ++ toBE 2 (0xE000 + pcrPid s c) ++ toBE 2 0xF000 ++
    pmtStream s c false ++ pmtStream s c true)

/-- A PCR packet at `t` ns: an adaptation field with the PCR and no payload (14 R375, 13 R372). -/
def pcrPacket (s : State) (c t : Nat) : List Byte :=
  let v := t * 27 / 1000
  let p := v / 300 % 2 ^ 33 * 2 ^ 15 + 0x3F * 2 ^ 9 + v % 300
  tsPacket (pcrPid s c) false 2 (toLE 1 183 ++ toLE 1 0x10 ++ toBE 6 p ++ List.replicate 176 0xFF)

/-! The action at a slot (14 R378). -/

/-- The drain runs: it is enabled, T_D is set, and the clocks run. -/
def drainRuns (s : State) (c : Nat) : Bool :=
  decide (c < 128) && decide (rd s (Fk.drainCfgEnable c) = 1) && s.part.clocks && (decide (rd s (Fk.drainCfgAutoStart c) = 0) || drainStarted s c)

/-- Next slot of a stream. -/
def nextSlot (d : Drain) (a : Bool) : Nat := if a then d.aSlot else d.vSlot

/-- The stream has slots to come: it is carried and has not ended (20 R524). -/
def slotDue (s : State) (c : Nat) (a : Bool) : Bool :=
  let d := (getCtx s c).drain
  drainRuns s c && carries s c a && (match endOf d a with
  | some n => decide (nextSlot d a ≤ n)
  | none => true)

/-- Time passes until TIME_NS is `t`, if it is not past. -/
def untilNs (s : State) (t : Nat) : State := advance s ((t * 196608 - timeThirds s + 131071) / 131072)

/-- A drain entry of the supplied log (16 R438): the choice for slot `n` of context `c`; where both streams have chosen for it the stream that acts second takes
the second entry. -/
def logChoice (s : State) (c n : Nat) (a : Bool) : Option Bool :=
  let size := max 64 (4096 * rd s Fk.auditWsizeSize4k)
  let total := min (rd s Fk.auditWhost) size / 64
  let first := rd s Fk.auditWhost - 64 * total
  let es := (List.range total).map (fun k => devBytes s [] (rd s Fk.auditWbase + (first + 64 * k) % size) 64)
  let mine := es.filter (fun b => decide (le b 0 1 = wkDrain) && decide (le b 2 2 = c) && decide (le b 0x10 8 = n))
  let second := carries s c (!a) && decide (nextSlot (getCtx s c).drain (!a) > n)
  (mine[b2n second]?).map (fun b => bit (le b 1 1) 0)

/-- The encoder of slot `n` has met poisoned input (20 R523). -/
def encPoisoned (s : State) (c n : Nat) (a : Bool) : Bool :=
  match (getS s c a).enc with
  | some e => decide (e.slot = n) && e.bad
  | none => false

/-- REASON of a hold that the drain makes (R523): `h` is the reason for which it sends holds, if it does. -/
def holdReason (s : State) (c n : Nat) (a : Bool) (h : Option Nat) : Nat :=
  if h = some 2 then 2 else if encPoisoned s c n a then 1 else h.getD 0

/-- What the drain sends for its next slot: an ingot or hold record as the encoder wrote it, a hold of its own with its REASON, or in REPLAY nothing
yet. -/
inductive Choice where
  | ingot (r : DrainRec)
  | written (r : DrainRec)
  | hold (reason : Nat)
  | wait
deriving DecidableEq, Repr

/-- A record of slot `n` is complete when the drain acts: it stands in the hoop, since the slot's availability time or before; in REPLAY the log has made
that choice. -/
def inTime (s : State) (c n : Nat) (a : Bool) (r : DrainRec) : Bool :=
  r.slots.isSome && (decide (rd s Fk.auditWcfgWmode = wmReplay) || decide (r.doneAt ≤ slotTime s c a n))

/-- The record of slot `n` of a stream that the drain may queue: PRE or the ingot's. -/
def recOf (s : State) (c n : Nat) (a pre : Bool) : Option DrainRec :=
  (getCtx s c).drain.recs.find? (fun r => decide (r.video = !a) && decide (r.pre = pre) && decide (r.slot = n) && inTime s c n a r)

/-- The choice outside REPLAY. -/
def choiceNow (s : State) (c n : Nat) (a : Bool) : Choice :=
  match (getCtx s c).drain.holding, recOf s c n a false with
  | none, some r => if r.isPic then .ingot r else .written r
  | h, _ => .hold (holdReason s c n a h)

/-- The choice: in REPLAY the log makes it, while the job has not faulted. -/
def choose (s : State) (c n : Nat) (a : Bool) : Choice :=
  if rd s Fk.auditWcfgWmode = wmReplay ∧ (getCtx s c).drain.holding ≠ some 2 then
    match logChoice s c n a, choiceNow s c n a with
    | none, _ => .wait
    | some false, .ingot r => .ingot r
    | some false, _ => .wait
    | some true, .ingot _ => .hold (holdReason s c n a none)
    | some true, x => x
  else choiceNow s c n a

/-- PTS of slot `n` (13 R372). -/
def slotPts (s : State) (c n : Nat) (a : Bool) : Nat :=
  let t0 := rd s (Fk.drainStartTD c) + delayNs s c a
  (t0 * 9 / 100000 + (if a then 1800 * n else n * 90000 * (rateOf s c).2 / max 1 (rateOf s c).1)) % 2 ^ 33

/-- A hold was chosen: HOLDS, the trace, and alarm class DRAIN for REASON 0 and 1 (18 R480, R485). -/
def countHold (s : State) (c n reason : Nat) : State :=
  let s := trace (bump s (Fk.drainStatHolds c) 16) 7 0 srcChip (toLE 1 c ++ toLE 1 reason ++ toLE 4 n)
  if reason ≤ 1 then alarmEvent s 11 else s

/-- Late records are discarded; each ingot among them counts. -/
def discardLate (s : State) (c n : Nat) (a : Bool) : State :=
  let out := fun (r : DrainRec) => decide (r.video = !a) && decide (r.slot < n) && r.slots.isSome
  let late := (getCtx s c).drain.recs.filter out
  let s := recsLeave s c out
  (late.filter (fun r => !r.pre)).foldl
    (fun s r => trace (bump s (Fk.drainStatDiscarded c) 16) 7 1 srcChip (toLE 1 c ++ toLE 1 0 ++ toLE 4 r.slot)) s

/-- Queue the access unit of slot `n`: its PRE, the ingot or hold `u`, and END where the stream ends. -/
def queueUnit (s : State) (c n : Nat) (a : Bool) (u : List Byte) : State :=
  let d := (getCtx s c).drain
  let pre := ((recOf s c n a true).map (·.bytes)).getD []
  let fin := if endOf d a = some n then unitBytes utEnd (toBE 4 (n + 1)) else []
  let t := slotTime s c a n
  let ps := (cutUnit (streamPid s c a) (slotPts s c n a) (pre ++ u ++ fin)).map (fun p => (t, p))
  modCtx s c (fun x => { x with drain := if a then { x.drain with aq := x.drain.aq ++ ps } else { x.drain with vq := x.drain.vq ++ ps } })

/-- Records of slot `n` that have been queued leave the hoop: PRE, and the ingot record `r` if it went. -/
def takeRecs (s : State) (c n : Nat) (a : Bool) (whole : Bool) : State :=
  recsLeave s c (fun r => decide (r.video = !a) && decide (r.slot = n) && (r.pre || whole) && inTime s c n a r)

/-- The choice is entered for the witness log and the stream goes on to the next slot. -/
def slotDone (s : State) (c n : Nat) (a hold : Bool) : State :=
  modCtx { s with drainWit := s.drainWit ++ [(c, n, hold)] } c (fun x =>
    let d := x.drain
    let d := if hold then d else { d with sent := d.sent ++ [(!a, n)] }
    { x with drain := if a then { d with aSlot := n + 1 } else { d with vSlot := n + 1 } })

/-- Act on slot `n`. -/
def drainAct (s : State) (c n : Nat) (a : Bool) : State :=
  let s := discardLate s c n a
  match choose s c n a with
  | .wait => s
  | .ingot r => slotDone (takeRecs (queueUnit s c n a r.bytes) c n a true) c n a false
  | .written r => countHold (slotDone (takeRecs (queueUnit s c n a r.bytes) c n a true) c n a true) c n (r.bytes.getLastD 0).toNat
  | .hold q => countHold (slotDone (takeRecs (queueUnit s c n a (holdUnit n q)) c n a false) c n a true) c n q

/-- DRAIN_ACTION: the next slot's action of the video or audio stream of drain `c`, at its availability time. -/
def execDrainAction (c : Nat) (audio : Bool) (s : State) : Ans :=
  .next (if slotDue s c audio then
    let n := nextSlot (getCtx s c).drain audio
    drainAct (untilNs s (slotTime s c audio n)) c n audio
  else s)

/-! Datagrams (14 R375, R376). -/

/-- Next continuity counter of PID class `k`: 0 PAT, 1 PMT, 2 video, 3 audio. -/
def nextCc (s : State) (c k : Nat) : Nat := mget (fun _ => 0) (getCtx s c).drain.ccs k

/-- Send a packet with payload: its class's counter goes on. -/
def counted (s : State) (c k : Nat) (l : List Byte) : List Byte × State :=
  (withCc l (nextCc s c k), modCtx s c (fun x => { x with drain := { x.drain with
    ccs := mput (fun _ => 0) x.drain.ccs k ((mget (fun _ => 0) x.drain.ccs k + 1) % 16) } }))

/-- A null packet: the spec gives neither its counter nor its payload (log entry 1). -/
def nullPacket (s : State) : List Byte × State :=
  let f := takeFree s 1476
  (withCc (tsPacket 0x1FFF false 1 (toLE 184 (f.1 / 16))) (f.1 % 16), f.2)

/-- Queue of a stream. -/
def queueOf (d : Drain) (a : Bool) : List (Nat × List Byte) := if a then d.aq else d.vq

/-- The packet of opportunity `i` of cycle `q`. -/
def oppPacket (s : State) (c q i : Nat) : List Byte × State :=
  match i with
  | 0 => counted s c 0 (patPacket s c)
  | 1 => counted s c 1 (pmtPacket s c)
  | 2 => (withCc (pcrPacket s c (oppTime s c q 2)) (nextCc s c (if carries s c false then 2 else 3) + 15), s)
  | i =>
    let k := (oppClasses s c).getD (i - 3) 2
    match (queueOf (getCtx s c).drain (decide (k = 1))).head? with
    | none => nullPacket s
    | some p =>
      if k = 2 ∨ p.1 > oppTime s c q i then nullPacket s
      else counted (modCtx s c (fun x => { x with drain :=
        if k = 1 then { x.drain with aq := x.drain.aq.tail } else { x.drain with vq := x.drain.vq.tail } })) c (2 + k) p.2

/-- Packets of opportunities `i` to `i + n - 1`. -/
def oppPackets (c q : Nat) : Nat → Nat → State → List Byte × State
  | 0, _, s => ([], s)
  | n + 1, i, s =>
    let x := oppPacket s c q i
    let y := oppPackets c q n (i + 1) x.2
    (x.1 ++ y.1, y.2)

/-! Frames (21 R532). -/

/-- Ones-complement sum of the 16-bit big-endian words of `l`, complemented. -/
def inetSum (l : List Byte) : Nat :=
  let t := (List.range ((l.length + 1) / 2)).foldl (fun a i => a + (l.getD (2 * i) 0).toNat * 256 + (l.getD (2 * i + 1) 0).toNat) 0
  let fold := fun x => x % 65536 + x / 65536
  0xFFFF - fold (fold (fold t))

/-- The RTP packet. -/
def rtpPacket (s : State) (c t : Nat) (ts : List Byte) : List Byte :=
  toLE 1 0x80 ++ toLE 1 33 ++ toBE 2 (rd s (Fk.mediaEgrStatRtpSeq c)) ++ toBE 4 (t * 9 / 100000 % 2 ^ 32) ++
    toBE 4 (rd s (Fk.mediaEgrDst4Ssrc c)) ++ ts

/-- Source and destination IP addresses. -/
def ipPair (s : State) (c p : Nat) : List Byte :=
  if rd s (Fk.mediaEgrIpIpv6 c) = 1 then
    toBE 8 (rd s (Fk.mediaPortIp6hIpv6Hi p)) ++ toBE 8 (rd s (Fk.mediaPortIp6lIpv6Lo p)) ++
      toBE 8 (rd s (Fk.mediaEgrDst6hDstIpv6Hi c)) ++ toBE 8 (rd s (Fk.mediaEgrDst6lDstIpv6Lo c))
  else toBE 4 (rd s (Fk.mediaPortIp4Ipv4 p)) ++ toBE 4 (rd s (Fk.mediaEgrDst4DstIpv4 c))

/-- The UDP datagram; a checksum of 0 is sent as all ones. -/
def udpPacket (s : State) (c p : Nat) (l : List Byte) : List Byte :=
  let n := 8 + l.length
  let ports := toBE 2 (rd s (Fk.mediaEgrIpSrcUdp c)) ++ toBE 2 (rd s (Fk.mediaEgrIpDstUdp c))
  let sum := inetSum (ipPair s c p ++ toBE 2 17 ++ toBE 2 n ++ ports ++ toBE 2 n ++ l)
  ports ++ toBE 2 n ++ toBE 2 (if sum = 0 then 0xFFFF else sum) ++ l

/-- The IP packet. -/
def ipPacket (s : State) (c p : Nat) (u : List Byte) : List Byte :=
  let dscp := rd s (Fk.mediaEgrIpDscp c)
  let ttl := rd s (Fk.mediaEgrIpTtl c)
  if rd s (Fk.mediaEgrIpIpv6 c) = 1 then
    toBE 4 (6 * 2 ^ 28 + dscp * 2 ^ 22) ++ toBE 2 u.length ++ toLE 1 17 ++ toLE 1 ttl ++ ipPair s c p ++ u
  else
    let a := toLE 1 0x45 ++ toLE 1 (dscp * 4) ++ toBE 2 (20 + u.length) ++ toBE 2 0 ++ toBE 2 0x4000 ++ toLE 1 ttl ++ toLE 1 17
    a ++ toBE 2 (inetSum (a ++ ipPair s c p)) ++ ipPair s c p ++ u

/-- The Ethernet frame with its check sequence. -/
def egressFrame (s : State) (c p t : Nat) (ts : List Byte) : List Byte :=
  let tag := if rd s (Fk.mediaEgrMacVlanEn c) = 1 then
      toBE 2 0x8100 ++ toBE 2 (rd s (Fk.mediaEgrMacPcp c) * 2 ^ 13 + rd s (Fk.mediaEgrMacVlanId c))
    else []
  let f := toBE 6 (rd s (Fk.mediaEgrMacDmac c)) ++ toBE 6 (rd s (Fk.mediaPortMac p)) ++ tag ++
    toBE 2 (if rd s (Fk.mediaEgrIpIpv6 c) = 1 then 0x86DD else 0x0800) ++ ipPacket s c p (udpPacket s c p (rtpPacket s c t ts))
  f ++ toLE 4 (crc32 f)

/-- Send a datagram on media port `p`, or discard it while the link is down. -/
def sendMedia (s : State) (c p t : Nat) (ts : List Byte) : State :=
  let up := decide (rd s (Fk.mediaPortStateLinkUp p) = 1)
  let s := if up then bump (emit s (.media p (egressFrame s c p t ts))) (Fk.mediaPortCnt1TxDatagrams p) 32
    else bump s (Fk.mediaPortCnt1TxDiscard p) 32
  bump s (Fk.mediaEgrStatRtpSeq c) 16

/-- Room in the output ring of queue `q`. -/
def ringRoom (s : State) (q : Nat) : Bool :=
  (getWq s q).orSet && decide (idxDiff (rd s (Fk.wqHeadsOrTail q)) (rd s (Fk.wqHostOrHead q)) < ringSize (rd s (Fk.wqOrOrLog2 q)))

/-- Write a datagram to the host ring of the context's queue (19 R501), or discard it; it is discarded while the PCIe link is down (21 R542). -/
def sendHost (s : State) (c t : Nat) (ts : List Byte) : State :=
  let q := rd s (Fk.ctxCfgWq c)
  if ¬ s.part.pcieUp ∨ ¬ ringRoom s q then bump s (Fk.drainStatDiscarded c) 16
  else
    let tail := rd s (Fk.wqHeadsOrTail q)
    let a := rd s (Fk.wqOrOrPage q) * 4096 + tail % ringSize (rd s (Fk.wqOrOrLog2 q)) * 1344
    let b := toLE 4 (getWq s q).dseq ++ toLE 2 c ++ toLE 2 0 ++ toLE 8 t ++ ts ++ List.replicate 12 0
    let s := if s.part.pcieUp then { s with host := mWrite [] s.host a b } else s
    wr (modWq s q (fun w => { w with dseq := (w.dseq + 1) % 2 ^ 32 })) (Fk.wqHeadsOrTail q) ((tail + 1) % 2 ^ 20)

/-- The drain goes on to its next datagram. -/
def nextDatagram (s : State) (c : Nat) : State :=
  modCtx s c (fun x =>
    let d := x.drain
    { x with drain := if 7 * (d.dgram + 1) ≥ rd s (Fk.drainCycleC c) then { d with dgram := 0, cycle := d.cycle + 1 } else { d with dgram := d.dgram + 1 } })

/-- DRAIN_DATAGRAM: the next datagram of drain `c` leaves at the time of its last opportunity. In REPLAY the host ring waits (16 R438). -/
def execDrainDatagram (c : Nat) (s : State) : Ans :=
  .next (if ¬ drainRuns s c then s
  else
    let dest := rd s (Fk.drainCfgDest c)
    if dest = 2 ∧ rd s Fk.auditWcfgWmode = wmReplay ∧ ¬ ringRoom s (rd s (Fk.ctxCfgWq c)) then s
    else
      let d := (getCtx s c).drain
      let t := oppTime s c d.cycle (7 * d.dgram + 6)
      let x := oppPackets c d.cycle 7 (7 * d.dgram) (untilNs s t)
      nextDatagram (if dest = 2 then sendHost x.2 c t x.1 else sendMedia x.2 c dest t x.1) c)

end Sys2Proof.Machine
end

