-- ==== Sys2Proof/Machine/Beats.lean ====
section
/-! DEFINITION. Timed beats and the end of a hold (02 R48 to R50; 09 R246 to R248, R266). -/

namespace Sys2Proof.Machine

/-- The region was stretched on a cycle from `issue` on SCYC to now, by pace or by droop (17 R454, R459). -/
def regionStretched (s : State) (r issue : Nat) : Bool := stretchedNow s r || (getRegion s r).lastStretch.elim false (fun c => decide (issue ≤ c))

/-- The beat of address `addr` as it lands: its bytes, with the poison of each half (00 R9). -/
def beatAt (s : State) (addr due : Nat) : Beat :=
  let a := addr / 64 * 64
  ⟨addr, due, devBytes s [] a 64, (devBad s [] a 32, devBad s [] (a + 32) 32)⟩

/-- The beats `l` land in the buffer of region `r`, which holds each once (R48). -/
def land (s : State) (r : Nat) (l : List (Nat × Nat)) : State :=
  l.foldl (fun s y => if (getRegion s r).landing.any (fun b => decide (b.addr = y.1 ∧ b.due = y.2)) then s
    else modRegion s r (fun x => { x with landing := x.landing ++ [beatAt s y.1 y.2] })) s

/-- A beat of which the halves `ue` are delivered poisoned, with zero data (03 R84). -/
def hitBeat (ue : List Nat) (b : Beat) : Beat :=
  let h := b.addr / 64 * 2
  { b with data := (if h ∈ ue then List.replicate 32 0 else b.data.take 32) ++ (if h + 1 ∈ ue then List.replicate 32 0 else b.data.drop 32)
           bad := (b.bad.1 || decide (h ∈ ue), b.bad.2 || decide (h + 1 ∈ ue)) }

/-- The beat of `addr` due on `due`, with the errors that it meets: as the buffer holds it, or as it lands now. -/
def landedBeat (s : State) (r addr due : Nat) (hits : List Hit) : Beat :=
  hitBeat (struck hits) (((getRegion s r).landing.find? (fun b => decide (b.addr = addr ∧ b.due = due))).getD (beatAt s addr due))

/-- Time passes until SCYC of a region that does not hold is `due`, if it is not past. -/
def untilScyc (s : State) (r due : Nat) : State := advance s (due - rd s (Fk.rschedScyc (posOf s r)))

/-- BEAT_RELEASE: the beat of `addr`, issued and due on the cycles `w` of the SCYC of region `r`, reaches its release cycle; the others that `w` names have landed
before. One that has arrived leaves the landing buffer for its consumer on that cycle, with the errors that `w` names. One that is absent holds the region, where its path or the region was
stretched; else SCHED_MISS is raised. -/
def execBeatRelease (r addr : Nat) (w : BeatTime) (arrived mark : Bool) (s : State) : Ans :=
  .next (if ¬ seqOk s r then s
  else
    let s := untilScyc (land s r w.landed) r w.due
    if arrived then
      let e : MemErrs := ⟨w.hits, 0, 0, 0⟩
      modRegion (memErrors s e.ueAt e.ce) r (fun x => { x with
        handed := some (landedBeat s r addr w.due w.hits), landing := x.landing.filter (fun b => decide (b.addr ≠ addr ∨ b.due ≠ w.due)) })
    else if mark || regionStretched s r w.issue then
      holdAs (modRegion s r (fun x => { x with landing := ⟨addr, w.due, [], (false, false)⟩ :: x.landing })) r tDivLateBeat .beat (getRegion s r).prog
    else schedMiss s r 0 addr (w.due % 2 ^ 32))

/-- What a held region awaits is present; a late beat is when the command says so. -/
def waitOver (s : State) (r : Nat) (w : Wait) : Bool :=
  match w with
  | .beat => true
  | .filled h => !hoopEmpty s (posOf s r) h
  | .room h => !hoopFull s (posOf s r) h
  | .port p => decide ((getPort s p).txq = [])
  | .records => decide (s.waitRecs.length < 256)

/-- The trace of a hold's end, and of a hoop wait's (18 R480). -/
def traceHoldEnd (s : State) (r : Nat) (w : Wait) : State :=
  let s := trace s 2 1 (srcRegion s r) (toLE 8 (waitItem (getRegion s r) w))
  let hoop := fun h => trace s 5 1 (srcRegion s r) (toLE 1 h ++ toLE 4 (rd s (Fk.hoopHead (posOf s r) h)) ++ toLE 4 (rd s (Fk.hoopTail (posOf s r) h)))
  match w with
  | .filled h => hoop h
  | .room h => hoop h
  | _ => s

/-- HOLD_RESUME: the region resumes at the first multiple of 32 of EPOCH.CYCLE at or after the awaited item is present (R248); a late
beat goes to its consumer then, and the instruction goes on when it is commanded again. -/
def execHoldResume (r : Nat) (s : State) : Ans :=
  .next (match (getRegion s r).awaits with
  | none => s
  | some w =>
    if (getRegion s r).run = .holding ∧ running s ∧ waitOver s r w then
      let s := advance s (roundUp (rd s Fk.epochCycle) 32 - rd s Fk.epochCycle)
      modRegion (traceHoldEnd s r w) r (fun x => { x with
        run := .running, awaits := none
        landing := if w = .beat then x.landing.tail else x.landing
        handed := if w = .beat then x.landing.head?.map (fun b => beatAt s b.addr b.due) else x.handed })
    else s)

/-- What the block does while no command waits: one TCLK period passes, and the links send and move what they can. -/
def idle (s : State) : State := if s.part.clocks then linksSettle (tclk s) else tclk s

end Sys2Proof.Machine
end

