-- ==== Sys2Proof/Machine/BurinOps.lean ====
section
/-! DEFINITION. Operand forms, register access, faults and memory access of a Burin (06 R182 to R186, 09 R268). -/

namespace Sys2Proof.Machine

/-! Encodings (06 R183), needed for the word that a fault record holds. -/

/-- Form A. -/
def encA (op d a b fn : Nat) : Nat := op * 2 ^ 26 + d * 2 ^ 21 + a * 2 ^ 16 + b * 2 ^ 11 + fn

/-- Form I. -/
def encI (op d a imm : Nat) : Nat := op * 2 ^ 26 + d * 2 ^ 21 + a * 2 ^ 16 + imm

/-- Form J. -/
def encJ (op off : Nat) : Nat := op * 2 ^ 26 + off

/-- Form V. -/
def encV (op vd va vb ew m vfn : Nat) : Nat :=
  op * 2 ^ 26 + vd * 2 ^ 21 + va * 2 ^ 16 + vb * 2 ^ 11 + ew * 2 ^ 9 + m * 2 ^ 6 + vfn

/-! Registers: x0 reads 0 and m0 reads all ones; writes to them are discarded (R182). -/

/-- x[i]. -/
def getX (u : Burin) (i : Nat) : Word := if i = 0 then 0 else mget (fun _ => 0) u.x i

/-- Poison of x[i]. -/
def badX (u : Burin) (i : Nat) : Bool := if i = 0 then false else mget (fun _ => false) u.xbad i

/-- Write x[i] with its poison. -/
def setX (u : Burin) (i : Nat) (v : Word) (bad : Bool) : Burin :=
  if i = 0 then u else { u with x := mput (fun _ => 0) u.x i v, xbad := mput (fun _ => false) u.xbad i bad }

/-- v[i]. -/
def getV (u : Burin) (i : Nat) : BitVec 512 := mget (fun _ => 0) u.v i

/-- Poison of v[i]. -/
def badV (u : Burin) (i : Nat) : Bool := mget (fun _ => false) u.vbad i

/-- Write v[i] with its poison. -/
def setV (u : Burin) (i : Nat) (v : BitVec 512) (bad : Bool) : Burin :=
  { u with v := mput (fun _ => 0) u.v i v, vbad := mput (fun _ => false) u.vbad i bad }

/-- m[i]. -/
def getM (u : Burin) (i : Nat) : BitVec 64 := if i = 0 then BitVec.allOnes 64 else mget (fun _ => 0) u.m i

/-- Poison of m[i]. -/
def badM (u : Burin) (i : Nat) : Bool := if i = 0 then false else mget (fun _ => false) u.mbad i

/-- Write m[i] with its poison. -/
def setM (u : Burin) (i : Nat) (v : BitVec 64) (bad : Bool) : Burin :=
  if i = 0 then u else { u with m := mput (fun _ => 0) u.m i v, mbad := mput (fun _ => false) u.mbad i bad }

/-- Logical region, Forge and index of Burin `b`. -/
def burinRegion (b : Nat) : Nat := b / 32
def burinForge (b : Nat) : Nat := b % 32 / 2
def burinIdx (b : Nat) : Nat := b % 2

/-- Burin `b` executes Izuno-S: the job runs and a BURIN instruction started it (R181). -/
def burinOk (s : State) (b : Nat) : Bool := running s && (getBurin s b).running

/-- The program counter moved past one word. -/
def stepPc (u : Burin) : Burin := { u with pc := u.pc + 4 }

/-- Carry out an instruction that only changes the Burin, and move past it; a Burin that does not run does nothing. -/
def burinDo (s : State) (b : Nat) (f : Burin → Burin) : State :=
  if burinOk s b then putBurin s b (stepPc (f (getBurin s b))) else s

/-- SOURCE of a fault of Burin `b` (18 R475, 02 R47). -/
def burinSource (s : State) (b : Nat) : Nat :=
  source (posOf s (burinRegion b)) (burinForge b) (64 + 2 * burinForge b + burinIdx b)

/-- A fault BURIN_ILLEGAL, BURIN_ADDR or BURIN_ALIGN of the word `w`, with the address concerned (R182, 18 R471). -/
def burinFault (s : State) (b code w addr : Nat) : State :=
  jobFault s ⟨code, 0, 4, burinSource s b, instrOf s (burinRegion b),
    toLE 2 (getBurin s b).pc.toNat ++ toLE 2 0 ++ toLE 4 w ++ toLE 4 addr⟩

/-- BURIN_ILLEGAL (R182). -/
def burinIllegal (s : State) (b w : Nat) : State := burinFault s b fcBurinIllegal w 0

/-- POISON_CTRL of use `use` (09 R268): the flag of SCHED.STATUS sets and the job is faulted. -/
def burinPoison (s : State) (b use : Nat) : State :=
  jobFault (raise s Fk.schedStatusPoisonCtrl) ⟨fcPoisonCtrl, 0, 4, burinSource s b, instrOf s (burinRegion b),
    toLE 2 (getBurin s b).pc.toNat ++ toLE 1 use⟩

/-- An IMM16 sign-extended to 32 bits (R183). -/
def simm (imm : Nat) : Word := BitVec.ofInt 32 (sext 16 imm)

/-- An IMM16 zero-extended. -/
def zimm (imm : Nat) : Word := BitVec.ofNat 32 (imm % 2 ^ 16)

/-- A register-register operation (form A). -/
def aluRR (s : State) (b d a c : Nat) (f : Word → Word → Word) : State :=
  burinDo s b (fun u => setX u d (f (getX u a) (getX u c)) (badX u a || badX u c))

/-- A register-immediate operation (form I). -/
def aluRI (s : State) (b d a : Nat) (f : Word → Word) : State :=
  burinDo s b (fun u => setX u d (f (getX u a)) (badX u a))

/-- A shift by IMM16[4:0]; nonzero IMM16[15:5] is BURIN_ILLEGAL (R184). -/
def shiftI (s : State) (b op d a imm : Nat) (f : Word → Nat → Word) : State :=
  if bits imm 5 11 ≠ 0 ∧ burinOk s b then burinIllegal s b (encI op d a imm)
  else aluRI s b d a (fun x => f x (imm % 32))

/-! Local memory (R182). -/

/-- The address a form I load or store forms. -/
def localAddr (u : Burin) (a imm : Nat) : Nat := (getX u a + simm imm).toNat

/-- BURIN_BYTES of the job. -/
def burinBytesOf (s : State) : Nat := (s.job.map (·.burinBytes)).getD 0

/-- Why an access of `n` bytes at `addr` faults, if it does: BURIN_ADDR past 0xFFFF, or for a store below BURIN_BYTES, then
BURIN_ALIGN (R182). -/
def localFault (s : State) (addr n : Nat) (store : Bool) : Option Nat :=
  if addr + n > 0x10000 then some fcBurinAddr
  else if store ∧ addr < burinBytesOf s then some fcBurinAddr
  else if addr % n ≠ 0 then some fcBurinAlign
  else none

/-- Errors that a local-memory access met, charged to the Burin's memory (18 R468). -/
def localErrors (s : State) (b : Nat) (ue ce : Bool) (addr : Nat) : State :=
  let unit := (1, 32 * posOf s (burinRegion b) + b % 32)
  let s := if ue then ueAt s unit (2 ^ 52 + addr) else s
  if ce then ceAt s unit (2 ^ 52 + addr) else s

/-- A scalar load of `n` bytes (R184, R268): `f` extends the loaded number. -/
def loadX (s : State) (b op d a imm n : Nat) (ue ce : Bool) (f : Nat → Word) : State :=
  if burinOk s b then
    let u := getBurin s b
    let addr := localAddr u a imm
    if badX u a then burinPoison s b 0
    else match localFault s addr n false with
    | some c => burinFault s b c (encI op d a imm) addr
    | none =>
      let bad := ue || mBad u.mem addr
      let v := if bad then f 0 else f (mLE u.mem addr n)
      putBurin (localErrors s b ue ce addr) b (stepPc (setX u d v bad))
  else s

/-- A scalar store of `n` bytes of x[d] (R184, 03 R84, 09 R267). -/
def storeX (s : State) (b op d a imm n : Nat) (ue ce : Bool) : State :=
  if burinOk s b then
    let u := getBurin s b
    let addr := localAddr u a imm
    if badX u a then burinPoison s b 0
    else match localFault s addr n true with
    | some c => burinFault s b c (encI op d a imm) addr
    | none =>
      let m := if badX u d then mWriteBad u.mem addr n
               else mWrite (if ue then [addr / 32] else []) u.mem addr (toLE n (getX u d).toNat)
      putBurin (localErrors s b ue ce addr) b (stepPc { u with mem := m })
  else s

/-! Transfers of control (R182, R184). -/

/-- Go to the address `t`: BURIN_ADDR at or above BURIN_BYTES; `f` is the rest of the effect. -/
def goTo (s : State) (b w : Nat) (t : Int) (f : Burin → Burin) : State :=
  if t < 0 ∨ t ≥ burinBytesOf s then burinFault s b fcBurinAddr w (code 32 t)
  else putBurin s b { f (getBurin s b) with pc := BitVec.ofInt 16 t }

/-- A conditional branch (R184): the condition compares x[d] with x[a]. -/
def branch (s : State) (b op d a imm : Nat) (f : Word → Word → Bool) : State :=
  if burinOk s b then
    let u := getBurin s b
    if badX u d || badX u a then burinPoison s b 2
    else if f (getX u d) (getX u a) then
      goTo s b (encI op d a imm) ((u.pc.toNat : Int) + 4 * sext 16 imm) id
    else putBurin s b (stepPc u)
  else s

/-! Vectors (R185). -/

/-- Bytes of a lane of element width code `ew`. -/
def laneBytes (ew : Nat) : Nat := 2 ^ ew

/-- Lanes of element width code `ew`. -/
def laneCount (ew : Nat) : Nat := 64 / laneBytes ew

/-- Lane `i` of `v`. -/
def lane (ew : Nat) (v : BitVec 512) (i : Nat) : Nat := bits v.toNat (8 * laneBytes ew * i) (8 * laneBytes ew)

/-- The mask bit of lane `i`: the bit of its lowest byte. -/
def laneOn (ew : Nat) (m : BitVec 64) (i : Nat) : Bool := bit m.toNat (laneBytes ew * i)

/-- The vector whose lanes are `l`, lane 0 first. -/
def ofLanes (ew : Nat) (l : List Nat) : BitVec 512 :=
  BitVec.ofNat 512 (l.foldr (fun x a => x % 2 ^ (8 * laneBytes ew) + a * 2 ^ (8 * laneBytes ew)) 0)

/-- Replace the lanes of `old` that the mask selects by those of `l`. -/
def mergeLanes (ew : Nat) (m : BitVec 64) (old : BitVec 512) (l : List Nat) : BitVec 512 :=
  ofLanes ew ((List.range (laneCount ew)).map (fun i => if laneOn ew m i then l.getD i 0 else lane ew old i))

/-- Every lane is selected. -/
def allOn (ew : Nat) (m : BitVec 64) : Bool := (List.range (laneCount ew)).all (laneOn ew m)

/-- The checks of a form V word: EW 3 is BURIN_ILLEGAL (R183), a poisoned mask register that chooses lanes is POISON_CTRL
(R268); `ok` says whether the rest of the encoding is listed. -/
def vecDo (s : State) (b w ew m : Nat) (ok : Bool) (f : Burin → State) : State :=
  if burinOk s b then
    if ew ≥ 3 ∨ !ok then burinIllegal s b w
    else if badM (getBurin s b) m then burinPoison s b 7
    else f (getBurin s b)
  else s

/-- Write the lanes `l` of v[vd] under mask `m`; `bad` is the poison of the operands. -/
def vecWrite (s : State) (b ew m vd : Nat) (l : List Nat) (bad : Bool) : State :=
  let u := getBurin s b
  let mk := getM u m
  putBurin s b (stepPc (setV u vd (mergeLanes ew mk (getV u vd) l) (bad || (badV u vd && !allOn ew mk))))

/-- An integer operation lane by lane. -/
def vecInt (s : State) (b vfn vd va vb ew m : Nat) (f : Nat → Nat → Nat → Nat) : State :=
  vecDo s b (encV 0x30 vd va vb ew m vfn) ew m true (fun u =>
    vecWrite s b ew m vd
      ((List.range (laneCount ew)).map (fun i => f (8 * laneBytes ew) (lane ew (getV u va) i) (lane ew (getV u vb) i)))
      (badV u va || badV u vb))

/-- Set the lane bits of m[vd[2:0]]; the bits of lanes outside the mask are kept. -/
def maskWrite (s : State) (b ew m vd : Nat) (p : Nat → Bool) (bad : Bool) : State :=
  let u := getBurin s b
  let mk := getM u m
  let old := getM u vd
  let v := (List.range (laneCount ew)).foldl (fun (a : Nat) i =>
    let on := if laneOn ew mk i then p i else laneOn ew old i
    let field := (2 ^ laneBytes ew - 1) * 2 ^ (laneBytes ew * i)
    if laneOn ew mk i then a + (if on then field else 0) else a + (old.toNat &&& field)) 0
  putBurin s b (stepPc (setM u vd (BitVec.ofNat 64 v) (bad || (badM u vd && !allOn ew mk))))

/-- The format of float lanes: EW 1 binary16, EW 2 binary32. -/
def laneFmt (ew : Nat) : Fmt := if ew = 1 then .fp16 else .f32

/-- FFLAGS from the flags of R506: INVALID, DIVZERO, OVERFLOW, UNDERFLOW, INEXACT in bits 4 to 0 (log entry 5). -/
def toFflags (m : Nat) : Nat :=
  16 * b2n (bit m 2) + 8 * b2n (bit m 3) + 4 * b2n (bit m 4) + 2 * b2n (bit m 5) + b2n (bit m 6)

/-- The flags of R506 from FFLAGS. -/
def ofFflags (m : Nat) : Nat :=
  4 * b2n (bit m 4) + 8 * b2n (bit m 3) + 16 * b2n (bit m 2) + 32 * b2n (bit m 1) + 64 * b2n (bit m 0)

/-- Run strict arithmetic and gather its flags. -/
def runStrict {α : Type} (a : Arith α) : α × Nat := let p := a ⟨false, 0, 0⟩; (p.1, p.2.flags)

/-- Compute the lanes that the mask selects, gathering flags. -/
def strictLanes (ew : Nat) (mk : BitVec 64) (n : Nat) (f : Nat → Arith Nat) : List Nat × Nat :=
  runStrict ((List.range n).mapM (fun i => if laneOn ew mk i then f i else pure 0))

/-- OR flags into FFLAGS. -/
def addFflags (u : Burin) (m : Nat) : Burin := { u with fflags := u.fflags ||| BitVec.ofNat 5 (toFflags m) }

/-- The job runs strict operations; the loader refuses OP 0x31 otherwise (R185). -/
def jobStrict (s : State) : Bool := (s.job.map (·.strict)).getD false

/-- A float operation lane by lane under FRM (R185). DESIGN CHOICE (log entry 104):
of 8-bit lanes (EW 0) there is no float format, and the instruction takes BURIN_ILLEGAL. -/
def vecFloat (s : State) (b vfn vd va vb ew m : Nat) (f : Fmt → Nat → Nat → Nat → Nat → Arith Nat) (reads : Burin → Bool) :
    Host.Outcome State Fault Refusal :=
  if burinOk s b && !jobStrict s then .refused (.loaderRefuses "R185")
  else .next (vecDo s b (encV 0x31 vd va vb ew m vfn) ew m (ew ≠ 0) (fun u =>
    let p := strictLanes ew (getM u m) (laneCount ew) (fun i =>
      f (laneFmt ew) u.frm.toNat (lane ew (getV u va) i) (lane ew (getV u vb) i) (lane ew (getV u vd) i))
    vecWrite (putBurin s b (addFflags u p.2)) b ew m vd p.1 (reads u)))

end Sys2Proof.Machine
end

