-- ==== Sys2Proof/Machine/Scalar.lean ====
section
/-! DEFINITION. The scalar instructions of Izuno-S (06 R184). -/

namespace Sys2Proof.Machine

/-- ADD: x[a] + x[b], wrapping. -/
def execAdd (b d a c : Nat) (s : State) : Ans := .next (aluRR s b d a c (fun x y => x + y))

/-- SUB: x[a] − x[b], wrapping. -/
def execSub (b d a c : Nat) (s : State) : Ans := .next (aluRR s b d a c (fun x y => x - y))

/-- AND: bitwise and. -/
def execAnd (b d a c : Nat) (s : State) : Ans := .next (aluRR s b d a c (fun x y => x &&& y))

/-- OR: bitwise or. -/
def execOr (b d a c : Nat) (s : State) : Ans := .next (aluRR s b d a c (fun x y => x ||| y))

/-- XOR: bitwise exclusive or. -/
def execXor (b d a c : Nat) (s : State) : Ans := .next (aluRR s b d a c (fun x y => x ^^^ y))

/-- SLL: x[a] shifted left by x[b] & 31. -/
def execSll (b d a c : Nat) (s : State) : Ans := .next (aluRR s b d a c (fun x y => x <<< (y.toNat % 32)))

/-- SRL: x[a] shifted right by x[b] & 31, zeros in. -/
def execSrl (b d a c : Nat) (s : State) : Ans := .next (aluRR s b d a c (fun x y => x >>> (y.toNat % 32)))

/-- SRA: x[a] shifted right by x[b] & 31, sign in. -/
def execSra (b d a c : Nat) (s : State) : Ans := .next (aluRR s b d a c (fun x y => x.sshiftRight (y.toNat % 32)))

/-- SLT: 1 if x[a] < x[b] signed, else 0. -/
def execSlt (b d a c : Nat) (s : State) : Ans := .next (aluRR s b d a c (fun x y => if x.slt y then 1 else 0))

/-- SLTU: 1 if x[a] < x[b] unsigned, else 0. -/
def execSltu (b d a c : Nat) (s : State) : Ans := .next (aluRR s b d a c (fun x y => if x.ult y then 1 else 0))

/-- MUL: low 32 bits of the signed product. -/
def execMul (b d a c : Nat) (s : State) : Ans := .next (aluRR s b d a c (fun x y => x * y))

/-- MULH: high 32 bits of the signed 64-bit product. -/
def execMulh (b d a c : Nat) (s : State) : Ans := .next (aluRR s b d a c (fun x y => BitVec.ofInt 32 (x.toInt * y.toInt / 2 ^ 32)))

/-- DIV: x[a] div x[b], truncating; divisor 0 gives 0, −2^31 div −1 gives −2^31. -/
def execDiv (b d a c : Nat) (s : State) : Ans := .next (aluRR s b d a c (fun x y => x.sdiv y))

/-- REM: x[a] mod x[b], sign of the dividend; divisor 0 gives x[a], −2^31 mod −1 gives 0. -/
def execRem (b d a c : Nat) (s : State) : Ans := .next (aluRR s b d a c (fun x y => x.srem y))

/-- MIN: signed minimum. -/
def execMin (b d a c : Nat) (s : State) : Ans := .next (aluRR s b d a c (fun x y => if x.slt y then x else y))

/-- MAX: signed maximum. -/
def execMax (b d a c : Nat) (s : State) : Ans := .next (aluRR s b d a c (fun x y => if x.slt y then y else x))

/-- ADDI: x[a] + sext(IMM16), wrapping. -/
def execAddi (b d a imm : Nat) (s : State) : Ans := .next (aluRI s b d a (fun x => x + simm imm))

/-- ANDI: bitwise and with zero-extended IMM16. -/
def execAndi (b d a imm : Nat) (s : State) : Ans := .next (aluRI s b d a (fun x => x &&& zimm imm))

/-- ORI: bitwise or with zero-extended IMM16. -/
def execOri (b d a imm : Nat) (s : State) : Ans := .next (aluRI s b d a (fun x => x ||| zimm imm))

/-- XORI: bitwise exclusive or with zero-extended IMM16. -/
def execXori (b d a imm : Nat) (s : State) : Ans := .next (aluRI s b d a (fun x => x ^^^ zimm imm))

/-- SLTI: 1 if x[a] < sext(IMM16) signed, else 0. -/
def execSlti (b d a imm : Nat) (s : State) : Ans := .next (aluRI s b d a (fun x => if x.slt (simm imm) then 1 else 0))

/-- LUI: IMM16 << 16; a nonzero a is BURIN_ILLEGAL. -/
def execLui (b d a imm : Nat) (s : State) : Ans :=
  .next (if a ≠ 0 ∧ burinOk s b then burinIllegal s b (encI 0x07 d a imm)
         else burinDo s b (fun u => setX u d (zimm imm <<< 16) false))

/-- SLLI: shift by IMM16[4:0]. -/
def execSlli (b d a imm : Nat) (s : State) : Ans := .next (shiftI s b 0x08 d a imm (fun x k => x <<< k))

/-- SRLI: shift by IMM16[4:0]. -/
def execSrli (b d a imm : Nat) (s : State) : Ans := .next (shiftI s b 0x09 d a imm (fun x k => x >>> k))

/-- SRAI: shift by IMM16[4:0]. -/
def execSrai (b d a imm : Nat) (s : State) : Ans := .next (shiftI s b 0x0A d a imm (fun x k => x.sshiftRight k))

/-- LW: load a word. -/
def execLw (b d a imm : Nat) (ue ce : Bool) (s : State) : Ans :=
  .next (loadX s b 0x10 d a imm 4 ue ce (fun v => BitVec.ofNat 32 v))

/-- LH: load a half word, sign-extended. -/
def execLh (b d a imm : Nat) (ue ce : Bool) (s : State) : Ans :=
  .next (loadX s b 0x11 d a imm 2 ue ce (fun v => BitVec.ofInt 32 (sext 16 v)))

/-- LB: load a byte, sign-extended. -/
def execLb (b d a imm : Nat) (ue ce : Bool) (s : State) : Ans :=
  .next (loadX s b 0x12 d a imm 1 ue ce (fun v => BitVec.ofInt 32 (sext 8 v)))

/-- LHU: load a half word, zero-extended. -/
def execLhu (b d a imm : Nat) (ue ce : Bool) (s : State) : Ans :=
  .next (loadX s b 0x13 d a imm 2 ue ce (fun v => BitVec.ofNat 32 v))

/-- LBU: load a byte, zero-extended. -/
def execLbu (b d a imm : Nat) (ue ce : Bool) (s : State) : Ans :=
  .next (loadX s b 0x14 d a imm 1 ue ce (fun v => BitVec.ofNat 32 v))

/-- SW: store the low 4 bytes of x[d]. -/
def execSw (b d a imm : Nat) (ue ce : Bool) (s : State) : Ans := .next (storeX s b 0x15 d a imm 4 ue ce)

/-- SH: store the low 2 bytes of x[d]. -/
def execSh (b d a imm : Nat) (ue ce : Bool) (s : State) : Ans := .next (storeX s b 0x16 d a imm 2 ue ce)

/-- SB: store the low 1 bytes of x[d]. -/
def execSb (b d a imm : Nat) (ue ce : Bool) (s : State) : Ans := .next (storeX s b 0x17 d a imm 1 ue ce)

/-- BEQ. -/
def execBeq (b d a imm : Nat) (s : State) : Ans := .next (branch s b 0x18 d a imm (fun x y => x == y))

/-- BNE. -/
def execBne (b d a imm : Nat) (s : State) : Ans := .next (branch s b 0x19 d a imm (fun x y => x != y))

/-- BLT. -/
def execBlt (b d a imm : Nat) (s : State) : Ans := .next (branch s b 0x1A d a imm (fun x y => x.slt y))

/-- BGE. -/
def execBge (b d a imm : Nat) (s : State) : Ans := .next (branch s b 0x1B d a imm (fun x y => !x.slt y))

/-- BLTU. -/
def execBltu (b d a imm : Nat) (s : State) : Ans := .next (branch s b 0x1C d a imm (fun x y => x.ult y))

/-- BGEU. -/
def execBgeu (b d a imm : Nat) (s : State) : Ans := .next (branch s b 0x1D d a imm (fun x y => !x.ult y))

/-- JAL: x31 = PC + 4; PC = PC + 4 × sext(OFF26). -/
def execJal (b off : Nat) (s : State) : Ans :=
  .next (if burinOk s b then
      let u := getBurin s b
      goTo s b (encJ 0x1E off) ((u.pc.toNat : Int) + 4 * sext 26 off)
        (fun u => setX u 31 (BitVec.ofNat 32 (u.pc.toNat + 4)) false)
    else s)

/-- JALR: t = (x[a] + sext(IMM16)) & ~3; x[d] = PC + 4; PC = t. -/
def execJalr (b d a imm : Nat) (s : State) : Ans :=
  .next (if burinOk s b then
      let u := getBurin s b
      if badX u a then burinPoison s b 3
      else goTo s b (encI 0x1F d a imm) (((getX u a + simm imm).toNat / 4 * 4 : Nat) : Int)
        (fun u => setX u d (BitVec.ofNat 32 (u.pc.toNat + 4)) false)
    else s)

/-- The value of a CSR; none where the number is not listed (R184). -/
def csrRead (s : State) (b n : Nat) : Option Word :=
  let u := getBurin s b
  if n = 0x000 then some (BitVec.ofNat 32 (rd s Fk.epochCycle))
  else if n = 0x001 then some (BitVec.ofNat 32 (rd s Fk.epochCycle / 2 ^ 32))
  else if n = 0x002 then some (BitVec.ofNat 32 (rd s Fk.epochCount))
  else if n = 0x010 then some (BitVec.ofNat 32 (burinRegion b + 16 * burinForge b + 256 * burinIdx b))
  else if n = 0x020 then some (u.frm.setWidth 32)
  else if n = 0x021 then some (u.fflags.setWidth 32)
  else if 0x030 ≤ n ∧ n < 0x060 then
    some (BitVec.ofNat 32 (mget (fun _ => 0) (getRegion s (burinRegion b)).shapes (n - 0x030)))
  else none

/-- CSRR: x[d] = CSR[IMM16[11:0]]; nonzero IMM16[15:12] or an unlisted number is BURIN_ILLEGAL. -/
def execCsrr (b d a imm : Nat) (s : State) : Ans :=
  .next (if burinOk s b then
      match (if bits imm 12 4 = 0 then csrRead s b (bits imm 0 12) else none) with
      | some v => burinDo s b (fun u => setX u d v false)
      | none => burinIllegal s b (encI 0x20 d a imm)
    else s)

/-- The effect of writing `v` to CSR `n`: none where it faults. A read-only CSR ignores the write (log entry 6). -/
def csrWrite (s : State) (b n : Nat) (v : Word) : Option State :=
  let u := getBurin s b
  if n = 0x000 ∨ n = 0x001 ∨ n = 0x002 ∨ n = 0x010 then some s
  else if n = 0x020 then some (putBurin s b { u with frm := v.setWidth 2 })
  else if n = 0x021 then some (putBurin s b { u with fflags := v.setWidth 5 })
  else if 0x030 ≤ n ∧ n < 0x060 ∧ v.toNat < 2 ^ 20 then
    some (modRegion s (burinRegion b) (fun r => { r with shapes := mput (fun _ => 0) r.shapes (n - 0x030) v.toNat }))
  else none

/-- CSRW: CSR[IMM16[11:0]] = x[a]; a nonzero d, an unlisted number or a shape above 20 bits is BURIN_ILLEGAL; a poisoned value is
POISON_CTRL (09 R268). -/
def execCsrw (b d a imm : Nat) (s : State) : Ans :=
  .next (if burinOk s b then
      let u := getBurin s b
      if d ≠ 0 ∨ bits imm 12 4 ≠ 0 then burinIllegal s b (encI 0x21 d a imm)
      else if badX u a then burinPoison s b 4
      else match csrWrite s b (bits imm 0 12) (getX u a) with
      | some s' => burinDo s' b id
      | none => burinIllegal s b (encI 0x21 d a imm)
    else s)

/-- The counter SYNC waits on: EPOCH.CYCLE[31:0], or SCYC[31:0] while LAG is nonzero (09 R249). -/
def syncCounter (s : State) (b : Nat) : Nat :=
  let n := posOf s (burinRegion b)
  if rd s (Fk.rschedLag n) = 0 then rd s Fk.epochCycle % 2 ^ 32 else rd s (Fk.rschedScyc n) % 2 ^ 32

/-- SYNC: stall until the counter reaches x[a] + sext(IMM16), unsigned; until then the Burin stays at this word. -/
def execSyncCycle (b _d a imm : Nat) (s : State) : Ans :=
  .next (if burinOk s b ∧ (getX (getBurin s b) a + simm imm).toNat ≤ syncCounter s b then burinDo s b id else s)

/-- The Burins that the BURIN instruction of region `r` started are all halted. -/
def burinsDone (s : State) (r : Nat) : Bool := (List.range 32).all (fun i => !(getBurin s (32 * r + i)).running)

/-- HALT: the Burin stops, FFLAGS is ORed into the job and context flags (04 R131), and the BURIN instruction retires when every
named Burin has halted (06 R181). -/
def execBurinHalt (b : Nat) (s : State) : Ans :=
  .next (if burinOk s b then
      let u := getBurin s b
      let r := burinRegion b
      let s1 := putBurin s b { stepPc u with running := false }
      let s2 := setStickies s1 (ctxOfInstr s1 r (getRegion s1 r).pc) (ofFflags u.fflags.toNat)
      if burinsDone s2 r ∧ (getRegion s2 r).run = .burins then retire s2 r else s2
    else s)

/-- UNLISTED_ENCODING: a word that Izuno-S does not list, or a form V word with EW 3, is BURIN_ILLEGAL (R182, R183). -/
def execUnlistedEncoding (b word : Nat) (s : State) : Ans :=
  .next (if burinOk s b then burinIllegal s b word else s)

end Sys2Proof.Machine
end

