-- ==== Sys2Proof/Machine/Vector.lean ====
section
/-! DEFINITION. The vector instructions of Izuno-S (06 R185). -/

namespace Sys2Proof.Machine

/-- A comparison lane by lane into m[vd]; vd above 7 is BURIN_ILLEGAL. -/
def vecCmp (s : State) (b vfn vd va vb ew m : Nat) (f : Nat → Nat → Nat → Bool) : State :=
  vecDo s b (encV 0x30 vd va vb ew m vfn) ew m (decide (vd < 8)) (fun u =>
    maskWrite s b ew m vd (fun i => f (8 * laneBytes ew) (lane ew (getV u va) i) (lane ew (getV u vb) i))
      (badV u va || badV u vb))

/-- A strict comparison lane by lane into m[vd]: a signalling NaN raises INVALID. -/
def vecFloatCmp (s : State) (b vfn vd va vb ew m : Nat) (f : Fmt → Nat → Nat → Bool) : Ans :=
  if burinOk s b && !jobStrict s then .refused (.loaderRefuses "R185")
  else .next (vecDo s b (encV 0x31 vd va vb ew m vfn) ew m (decide (vd < 8 ∧ ew ≠ 0)) (fun u =>
    let x := lane ew (getV u va)
    let y := lane ew (getV u vb)
    let p := strictLanes ew (getM u m) (laneCount ew) (fun i => do
      sigCheck (laneFmt ew) [x i, y i]
      return b2n (f (laneFmt ew) (x i) (y i)))
    maskWrite (putBurin s b (addFflags u p.2)) b ew m vd (fun i => p.1.getD i 0 = 1) (badV u va || badV u vb)))

/-- A strict conversion lane by lane of v[va] whose lanes have width code `src`; the target lanes have width code `ew`. Lane `i`
of the source goes to lane `i` of the target, and target lanes without a source lane keep their value. -/
def vecConvert (s : State) (b vfn vd va vb ew m src : Nat) (ok : Bool) (f : Nat → Nat → Arith Nat) : Ans :=
  if burinOk s b && !jobStrict s then .refused (.loaderRefuses "R185")
  else .next (vecDo s b (encV 0x31 vd va vb ew m vfn) ew m ok (fun u =>
    let n := min (laneCount ew) (laneCount src)
    let p := strictLanes ew (getM u m) n (fun i => f u.frm.toNat (lane src (getV u va) i))
    let l := (List.range (laneCount ew)).map (fun i => if i < n then p.1.getD i 0 else lane ew (getV u vd) i)
    vecWrite (putBurin s b (addFflags u p.2)) b ew m vd l (badV u va || (badV u vd && decide (n < laneCount ew)))))

/-- VADD: lane sum, wrapping. -/
def execVadd (b vd va vb ew m : Nat) (s : State) : Ans :=
  .next (vecInt s b 0x00 vd va vb ew m (fun _ x y => x + y))

/-- VSUB: lane difference, wrapping. -/
def execVsub (b vd va vb ew m : Nat) (s : State) : Ans :=
  .next (vecInt s b 0x01 vd va vb ew m (fun w x y => code w ((x : Int) - y)))

/-- VMUL: low half of the lane product. -/
def execVmul (b vd va vb ew m : Nat) (s : State) : Ans :=
  .next (vecInt s b 0x02 vd va vb ew m (fun _ x y => x * y))

/-- VMIN: signed minimum. -/
def execVmin (b vd va vb ew m : Nat) (s : State) : Ans :=
  .next (vecInt s b 0x03 vd va vb ew m (fun w x y => if sext w x < sext w y then x else y))

/-- VMAX: signed maximum. -/
def execVmax (b vd va vb ew m : Nat) (s : State) : Ans :=
  .next (vecInt s b 0x04 vd va vb ew m (fun w x y => if sext w x < sext w y then y else x))

/-- VAND: bitwise and. -/
def execVand (b vd va vb ew m : Nat) (s : State) : Ans :=
  .next (vecInt s b 0x05 vd va vb ew m (fun _ x y => x &&& y))

/-- VOR: bitwise or. -/
def execVor (b vd va vb ew m : Nat) (s : State) : Ans :=
  .next (vecInt s b 0x06 vd va vb ew m (fun _ x y => x ||| y))

/-- VXOR: bitwise exclusive or. -/
def execVxor (b vd va vb ew m : Nat) (s : State) : Ans :=
  .next (vecInt s b 0x07 vd va vb ew m (fun _ x y => x ^^^ y))

/-- VSLL: shift left by the vb lane mod width. -/
def execVsll (b vd va vb ew m : Nat) (s : State) : Ans :=
  .next (vecInt s b 0x08 vd va vb ew m (fun w x y => x * 2 ^ (y % w)))

/-- VSRL: shift right by the vb lane mod width, zeros in. -/
def execVsrl (b vd va vb ew m : Nat) (s : State) : Ans :=
  .next (vecInt s b 0x09 vd va vb ew m (fun w x y => x / 2 ^ (y % w)))

/-- VSRA: shift right by the vb lane mod width, sign in. -/
def execVsra (b vd va vb ew m : Nat) (s : State) : Ans :=
  .next (vecInt s b 0x0A vd va vb ew m (fun w x y => code w (sext w x / 2 ^ (y % w))))

/-- VSEL: va where m[vb[2:0]] is set, else vb; a nonzero mask field is BURIN_ILLEGAL. -/
def execVsel (b vd va vb ew m : Nat) (s : State) : Ans :=
  .next (vecDo s b (encV 0x30 vd va vb ew m 0x0B) ew 0 (decide (m = 0)) (fun u =>
    let k := getM u (vb % 8)
    vecWrite s b ew 0 vd
      ((List.range (laneCount ew)).map (fun i => if laneOn ew k i then lane ew (getV u va) i else lane ew (getV u vb) i))
      (badV u va || badV u vb || badM u (vb % 8))))

/-- VCMPEQ: lanes equal. -/
def execVcmpeq (b vd va vb ew m : Nat) (s : State) : Ans :=
  .next (vecCmp s b 0x0C vd va vb ew m (fun _ x y => x == y))

/-- VCMPLT: lanes less, signed. -/
def execVcmplt (b vd va vb ew m : Nat) (s : State) : Ans :=
  .next (vecCmp s b 0x0D vd va vb ew m (fun w x y => decide (sext w x < sext w y)))

/-- VFADD: IEEE addition. -/
def execVfadd (b vd va vb ew m : Nat) (s : State) : Ans :=
  vecFloat s b 0x00 vd va vb ew m (fun g r x y _ => ieeeAdd g r x y) (fun u => badV u va || badV u vb)

/-- VFSUB: IEEE subtraction. -/
def execVfsub (b vd va vb ew m : Nat) (s : State) : Ans :=
  vecFloat s b 0x01 vd va vb ew m (fun g r x y _ => ieeeSub g r x y) (fun u => badV u va || badV u vb)

/-- VFMUL: IEEE multiplication. -/
def execVfmul (b vd va vb ew m : Nat) (s : State) : Ans :=
  vecFloat s b 0x02 vd va vb ew m (fun g r x y _ => ieeeMul g r x y) (fun u => badV u va || badV u vb)

/-- VFDIV: IEEE division. -/
def execVfdiv (b vd va vb ew m : Nat) (s : State) : Ans :=
  vecFloat s b 0x03 vd va vb ew m (fun g r x y _ => ieeeDiv g r x y) (fun u => badV u va || badV u vb)

/-- VFSQRT: IEEE square root of va; vb is unused. -/
def execVfsqrt (b vd va vb ew m : Nat) (s : State) : Ans :=
  vecFloat s b 0x04 vd va vb ew m (fun g r x _ _ => ieeeSqrt g r x) (fun u => badV u va)

/-- VFMA: va × vb + vd, one rounding. -/
def execVfma (b vd va vb ew m : Nat) (s : State) : Ans :=
  vecFloat s b 0x05 vd va vb ew m (fun g r x y z => ieeeFma g r x y z) (fun u => badV u va || badV u vb || badV u vd)

/-- VFMIN: IEEE minimum. -/
def execVfmin (b vd va vb ew m : Nat) (s : State) : Ans :=
  vecFloat s b 0x06 vd va vb ew m (fun g _ x y _ => ieeeMinMax g false x y) (fun u => badV u va || badV u vb)

/-- VFMAX: IEEE maximum. -/
def execVfmax (b vd va vb ew m : Nat) (s : State) : Ans :=
  vecFloat s b 0x07 vd va vb ew m (fun g _ x y _ => ieeeMinMax g true x y) (fun u => badV u va || badV u vb)

/-- VFCMPLT: mask result, less. -/
def execVfcmplt (b vd va vb ew m : Nat) (s : State) : Ans :=
  vecFloatCmp s b 0x08 vd va vb ew m ieeeLt

/-- VFCMPEQ: mask result, equal. -/
def execVfcmpeq (b vd va vb ew m : Nat) (s : State) : Ans :=
  vecFloatCmp s b 0x09 vd va vb ew m ieeeEq

/-- VFCVT: binary16 to binary32 or back; EW names the target. -/
def execVfcvt (b vd va vb ew m : Nat) (s : State) : Ans :=
  vecConvert s b 0x0A vd va vb ew m (3 - ew) (decide (ew ≠ 0))
    (fun r x => ieeeCvt (laneFmt (3 - ew)) (laneFmt ew) r x)

/-- VFTOI: binary32 to INT32 under FRM. -/
def execVftoi (b vd va vb ew m : Nat) (s : State) : Ans :=
  vecConvert s b 0x0B vd va vb ew m 2 (decide (ew = 2)) ieeeToInt

/-- VITOF: INT32 to binary32 under FRM. -/
def execVitof (b vd va vb ew m : Nat) (s : State) : Ans :=
  vecConvert s b 0x0C vd va vb ew m 2 (decide (ew = 2)) ieeeOfInt

/-! Vector loads, stores and transfers. -/

/-- The errors of 32-byte halves `ue` and `ce` of a Burin's local memory. -/
def localErrorList (s : State) (b : Nat) (ue ce : List Nat) : State :=
  let s := ue.foldl (fun s h => localErrors s b true false (32 * h)) s
  ce.foldl (fun s h => localErrors s b false true (32 * h)) s

/-- A byte of local memory and its poison, as a read that meets the uncorrectable halves `ue` delivers them. -/
def localByte (m : Mem) (ue : List Nat) (a : Nat) : Byte × Bool :=
  if ue.contains (a / 32) || mBad m a then (0, true) else (mByte m a, false)

/-- VLD: 64 bytes from local memory at x[a] + sext(IMM16) to v[vd]. -/
def execVld (b vd a imm : Nat) (ue ce : List Nat) (s : State) : Ans :=
  .next (if burinOk s b then
      let u := getBurin s b
      let addr := localAddr u a imm
      if badX u a then burinPoison s b 0
      else match localFault s addr 64 false with
      | some c => burinFault s b c (encI 0x32 vd a imm) addr
      | none =>
        let l := (List.range 64).map (fun i => localByte u.mem ue (addr + i))
        putBurin (localErrorList s b ue ce) b
          (stepPc (setV u vd (BitVec.ofNat 512 (ofLE (l.map (·.1)))) (l.any (·.2))))
    else s)

/-- VST: v[vd] to 64 bytes of local memory at x[a] + sext(IMM16). -/
def execVst (b vd a imm : Nat) (s : State) : Ans :=
  .next (if burinOk s b then
      let u := getBurin s b
      let addr := localAddr u a imm
      if badX u a then burinPoison s b 0
      else match localFault s addr 64 true with
      | some c => burinFault s b c (encI 0x33 vd a imm) addr
      | none =>
        putBurin s b (stepPc { u with
          mem := mWriteMix [] u.mem addr (toLE 64 (getV u vd).toNat) (fun _ => badV u vd) })
    else s)

/-- Bytes of a Forge's Bench (01 R29, 03 R69). -/
def benchBytes : Nat := 2 ^ 23

/-- Device address of the Bench of Burin `b`'s Forge. -/
def benchBase (b : Nat) : Nat := 3 * 2 ^ 48 + burinRegion b * 2 ^ 27 + burinForge b * 2 ^ 23

/-- The checks of a VXFER between `n` bytes at Bench offset `off` and local address `loc`, then its effect `f` (R185, R182). -/
def vxfer (s : State) (b d a c fn : Nat) (store : Bool) (f : Burin → Nat → Nat → Nat → State) : State :=
  if burinOk s b then
    let u := getBurin s b
    let loc := (getX u d).toNat
    let off := (getX u a).toNat
    let n := (getX u c).toNat
    let w := encA 0x34 d a c fn
    if badX u d || badX u a then burinPoison s b 0
    else if badX u c then burinPoison s b 1
    else if loc + n > 0x10000 ∨ (store ∧ 0 < n ∧ loc < burinBytesOf s) then burinFault s b fcBurinAddr w loc
    else if loc % 64 ≠ 0 ∨ off % 64 ≠ 0 ∨ n % 64 ≠ 0 then burinFault s b fcBurinAlign w loc
    else if off + n > benchBytes then
      jobFault s ⟨fcAddrRange, 3, 4, burinSource s b, instrOf s (burinRegion b),
        toLE 8 (benchBase b + max off benchBytes) ++ toLE 1 255⟩
    else f u loc off n
  else s

/-- VXFER, FN 0: x[b] bytes from Bench offset x[a] to local address x[d]. -/
def execVxferIn (b d a c : Nat) (e : MemErrs) (s : State) : Ans :=
  .next (vxfer s b d a c 0 true (fun u loc off n =>
    let src := benchBase b + off
    let l := devBytes s e.ue src n
    let m := mWriteMix [] u.mem loc l (fun h => (devByte s e.ue (src + (32 * h - loc))).2)
    memErrors (putBurin s b (stepPc { u with mem := m })) e.ueAt e.ce))

/-- VXFER, FN 1: x[b] bytes from local address x[d] to Bench offset x[a]. -/
def execVxferOut (b d a c : Nat) (ue ce : List Nat) (s : State) : Ans :=
  .next (vxfer s b d a c 1 false (fun u loc off n =>
    let l := (List.range n).map (fun i => (localByte u.mem ue (loc + i)).1)
    let dst := benchBase b + off
    let s1 := devWrite s [] dst l (fun h => (localByte u.mem ue (loc + (32 * h - dst))).2)
    putBurin (localErrorList s1 b ue ce) b (stepPc u)))

/-! Moves and reductions. -/

/-- VBCAST: the low bits of x[va] into the lanes of vd. -/
def execVbcast (b vd va vb ew m : Nat) (s : State) : Ans :=
  .next (vecDo s b (encV 0x35 vd va vb ew m 0x00) ew m true (fun u =>
    vecWrite s b ew m vd (List.replicate (laneCount ew) (getX u va).toNat) (badX u va)))

/-- VEXT: lane vb of v[va], zero-extended, to x[vd]; a lane that does not exist gives a free value (log entry 8). -/
def execVext (b vd va vb ew m : Nat) (s : State) : Ans :=
  .next (vecDo s b (encV 0x35 vd va vb ew m 0x01) ew 0 true (fun u =>
    if vb < laneCount ew then putBurin s b (stepPc (setX u vd (BitVec.ofNat 32 (lane ew (getV u va) vb)) (badV u va)))
    else
      let p := takeFree s 32
      putBurin p.2 b (stepPc (setX u vd (BitVec.ofNat 32 p.1) (badV u va)))))

/-- VREDI: the wrapping sum of the lanes of va in lane 0 of vd, other lanes 0. DESIGN CHOICE (log entry 104): the mask selects the lanes written, and every
lane of va is summed. -/
def execVredi (b vd va vb ew m : Nat) (s : State) : Ans :=
  .next (vecDo s b (encV 0x36 vd va vb ew m 0x00) ew m true (fun u =>
    let sum := ((List.range (laneCount ew)).map (lane ew (getV u va))).foldl (· + ·) 0
    vecWrite s b ew m vd (sum :: List.replicate (laneCount ew - 1) 0) (badV u va)))

/-- VREDF: a strict Bough tree over the lanes of va in index order in lane 0 of vd, other lanes 0; the mask as VREDI takes it. -/
def execVredf (b vd va vb ew m : Nat) (s : State) : Ans :=
  .next (vecDo s b (encV 0x36 vd va vb ew m 0x01) ew m (decide (ew ≠ 0)) (fun u =>
    let p := runStrict (ieeeBough (laneFmt ew) u.frm.toNat ((List.range (laneCount ew)).map (lane ew (getV u va))))
    vecWrite (putBurin s b (addFflags u p.2)) b ew m vd (p.1 :: List.replicate (laneCount ew - 1) 0) (badV u va)))

end Sys2Proof.Machine
end

