-- ==== Sys2Proof/Machine/Dispatch.lean ====
section
/-! DEFINITION. The effect of each command on everything but the queue: one arm per constructor. -/

namespace Sys2Proof.Machine

def exec (i : Instr) (s : State) : Host.Outcome State Fault Refusal :=
  match i with
  | .coldReset => Sys2Proof.Machine.execColdReset s
  | .warmReset => Sys2Proof.Machine.execWarmReset s
  | .bootCtlWarmReset => Sys2Proof.Machine.execBootCtlWarmReset s
  | .warmResetCmd => Sys2Proof.Machine.execWarmResetCmd s
  | .railOutOfBand n => Sys2Proof.Machine.execRailOutOfBand n s
  | .bootPll ok => Sys2Proof.Machine.execBootPll ok s
  | .bootFuse x => Sys2Proof.Machine.execBootFuse x s
  | .bootFlash a b => Sys2Proof.Machine.execBootFlash a b s
  | .bootMemtrain fails => Sys2Proof.Machine.execBootMemtrain fails s
  | .bootBist x => Sys2Proof.Machine.execBootBist x s
  | .bootSelftest runs other static uMin => Sys2Proof.Machine.execBootSelftest runs other static uMin s
  | .selftestTimeout n => Sys2Proof.Machine.execSelftestTimeout n s
  | .pllLock => Sys2Proof.Machine.execPllLock s
  | .memPhy dev => Sys2Proof.Machine.execMemPhy dev s
  | .hostLink ltssm => Sys2Proof.Machine.execHostLink ltssm s
  | .hostReadError what q idx sa sb => Sys2Proof.Machine.execHostReadError what q idx sa sb s
  | .forgeFault n f unit cell => Sys2Proof.Machine.execForgeFault n f unit cell s
  | .regionFault n unit cell => Sys2Proof.Machine.execRegionFault n unit cell s
  | .chipCtrl unit inst => Sys2Proof.Machine.execChipCtrl unit inst s
  | .registerWrite off size v => Sys2Proof.Machine.execRegisterWrite off size v s
  | .bar4Read o n ue ce => Sys2Proof.Machine.execBar4Read o n ue ce s
  | .bar4Write o l bad e => Sys2Proof.Machine.execBar4Write o l bad e s
  | .doorbell q v => Sys2Proof.Machine.execDoorbell q v s
  | .entryFetch q bad => Sys2Proof.Machine.execEntryFetch q bad s
  | .loadEntry q x => Sys2Proof.Machine.execLoadEntry q x s
  | .runEntry q bad => Sys2Proof.Machine.execRunEntry q bad s
  | .stopEntry q => Sys2Proof.Machine.execStopEntry q s
  | .itemEntry q => Sys2Proof.Machine.execItemEntry q s
  | .closeEntry q => Sys2Proof.Machine.execCloseEntry q s
  | .releaseEntry q => Sys2Proof.Machine.execReleaseEntry q s
  | .nopEntry q => Sys2Proof.Machine.execNopEntry q s
  | .itemEligible q idx sa sb bad => Sys2Proof.Machine.execItemEligible q idx sa sb bad s
  | .resultReady q idx spans => Sys2Proof.Machine.execResultReady q idx spans s
  | .cqRecordFlush q => Sys2Proof.Machine.execCqRecordFlush q s
  | .temperStage n => Sys2Proof.Machine.execTemperStage n s
  | .stageCheckDone => Sys2Proof.Machine.execStageCheckDone s
  | .temperApply n => Sys2Proof.Machine.execTemperApply n s
  | .temperDiscard n => Sys2Proof.Machine.execTemperDiscard n s
  | .temperFree n => Sys2Proof.Machine.execTemperFree n s
  | .temperSetApply => Sys2Proof.Machine.execTemperSetApply s
  | .thawRecord n => Sys2Proof.Machine.execThawRecord n s
  | .epochRelease => Sys2Proof.Machine.execEpochRelease s
  | .saveComplete ok others => Sys2Proof.Machine.execSaveComplete ok others s
  | .soloRelease => Sys2Proof.Machine.execSoloRelease s
  | .replayWaitEnd => Sys2Proof.Machine.execReplayWaitEnd s
  | .witnessWrite => Sys2Proof.Machine.execWitnessWrite s
  | .syncFrame t frac seq crc => Sys2Proof.Machine.execSyncFrame t frac seq crc s
  | .releaseFrame e t crc => Sys2Proof.Machine.execReleaseFrame e t crc s
  | .idleFrame crc => Sys2Proof.Machine.execIdleFrame crc s
  | .rootFrameSend => Sys2Proof.Machine.execRootFrameSend s
  | .rootlineLoss => Sys2Proof.Machine.execRootlineLoss s
  | .rootRelease => Sys2Proof.Machine.execRootRelease s
  | .epochTimeout => Sys2Proof.Machine.execEpochTimeout s
  | .calibration => Sys2Proof.Machine.execCalibration s
  | .calRetry => Sys2Proof.Machine.execCalRetry s
  | .calMsg p b t4 => Sys2Proof.Machine.execCalMsg p b t4 s
  | .dataFlit p x => Sys2Proof.Machine.execDataFlit p x s
  | .dataLastFlit p x => Sys2Proof.Machine.execDataLastFlit p x s
  | .idleFlit p x => Sys2Proof.Machine.execIdleFlit p x s
  | .sideFlit p x => Sys2Proof.Machine.execSideFlit p x s
  | .rootlineMsg p b => Sys2Proof.Machine.execRootlineMsg p b s
  | .arriveMsg p b => Sys2Proof.Machine.execArriveMsg p b s
  | .arriveSend => Sys2Proof.Machine.execArriveSend s
  | .abortMsg p b => Sys2Proof.Machine.execAbortMsg p b s
  | .helloMsg p b => Sys2Proof.Machine.execHelloMsg p b s
  | .linkAligned p => Sys2Proof.Machine.execLinkAligned p s
  | .trainingTimeout p => Sys2Proof.Machine.execTrainingTimeout p s
  | .helloTimeout p => Sys2Proof.Machine.execHelloTimeout p s
  | .fecLockLost p => Sys2Proof.Machine.execFecLockLost p s
  | .replayLimit p => Sys2Proof.Machine.execReplayLimit p s
  | .retrainTimeout p => Sys2Proof.Machine.execRetrainTimeout p s
  | .mediaVideoPacket c v => Sys2Proof.Machine.execMediaVideoPacket c v s
  | .mediaAudioPacket c x => Sys2Proof.Machine.execMediaAudioPacket c x s
  | .mediaFrameDiscard p => Sys2Proof.Machine.execMediaFrameDiscard p s
  | .ptpSync p offset => Sys2Proof.Machine.execPtpSync p offset s
  | .ptpAnnounceTimeout p => Sys2Proof.Machine.execPtpAnnounceTimeout p s
  | .mediaLinkDown p => Sys2Proof.Machine.execMediaLinkDown p s
  | .mediaLinkUp p => Sys2Proof.Machine.execMediaLinkUp p s
  | .drainAction c audio => Sys2Proof.Machine.execDrainAction c audio s
  | .drainDatagram c => Sys2Proof.Machine.execDrainDatagram c s
  | .beatRelease r addr w arrived mark => Sys2Proof.Machine.execBeatRelease r addr w arrived mark s
  | .holdResume r => Sys2Proof.Machine.execHoldResume r s
  | .refreshWindow hearth g => Sys2Proof.Machine.execRefreshWindow hearth g s
  | .dramTempReport dev t => Sys2Proof.Machine.execDramTempReport dev t s
  | .scrub => Sys2Proof.Machine.execScrub s
  | .errorWindowEnd => Sys2Proof.Machine.execErrorWindowEnd s
  | .pendingIsolation n => Sys2Proof.Machine.execPendingIsolation n s
  | .bellowsSample d u tj io => Sys2Proof.Machine.execBellowsSample d u tj io s
  | .governorWindow => Sys2Proof.Machine.execGovernorWindow s
  | .droopTrip n => Sys2Proof.Machine.execDroopTrip n s
  | .droopClear n => Sys2Proof.Machine.execDroopClear n s
  | .ballastRampDown r => Sys2Proof.Machine.execBallastRampDown r s
  | .heartwoodWrite n => Sys2Proof.Machine.execHeartwoodWrite n s
  | .ringWrite => Sys2Proof.Machine.execRingWrite s
  | .obsTraceSend => Sys2Proof.Machine.execObsTraceSend s
  | .alarmRaise k => Sys2Proof.Machine.execAlarmRaise k s
  | .obsRead tag a n crcOk => Sys2Proof.Machine.execObsRead tag a n crcOk s
  | .mctpRead a n => Sys2Proof.Machine.execMctpRead a n s
  | .mctpUnsupported => Sys2Proof.Machine.execMctpUnsupported s
  | .i3cDaa a => Sys2Proof.Machine.execI3cDaa a s
  | .rstdaa => Sys2Proof.Machine.execRstdaa s
  | .bypass => Sys2Proof.Machine.execBypass s
  | .idcode => Sys2Proof.Machine.execIdcode s
  | .samplePreload lands preload => Sys2Proof.Machine.execSamplePreload lands preload s
  | .extest lands => Sys2Proof.Machine.execExtest lands s
  | .clamp => Sys2Proof.Machine.execClamp s
  | .highz => Sys2Proof.Machine.execHighz s
  | .graftMerge c => Sys2Proof.Machine.execGraftMerge c s
  | .lanePark r lane gout gin state => Sys2Proof.Machine.execLanePark r lane gout gin state s
  | .streamHeader c a body => Sys2Proof.Machine.execStreamHeader c a body s
  | .modelUnit c a body => Sys2Proof.Machine.execModelUnit c a body s
  | .graftUnit c body bad => Sys2Proof.Machine.execGraftUnit c body bad s
  | .refreshUnit c a body => Sys2Proof.Machine.execRefreshUnit c a body s
  | .videoIngot c h body poison => Sys2Proof.Machine.execVideoIngot c h body poison s
  | .audioIngot c h body poison => Sys2Proof.Machine.execAudioIngot c h body poison s
  | .holdIngot c a body => Sys2Proof.Machine.execHoldIngot c a body s
  | .endUnit c a body => Sys2Proof.Machine.execEndUnit c a body s
  | .extensionUnit c a => Sys2Proof.Machine.execExtensionUnit c a s
  | .nopMacro r w => Sys2Proof.Machine.execNopMacro r w s
  | .mmul r w e => Sys2Proof.Machine.execMmul r w e s
  | .conv r sub w e => Sys2Proof.Machine.execConv r sub w e s
  | .poolMax r w e => Sys2Proof.Machine.execPoolMax r w e s
  | .poolAverage r w e => Sys2Proof.Machine.execPoolAverage r w e s
  | .poolSum r w e => Sys2Proof.Machine.execPoolSum r w e s
  | .eltAdd r w e => Sys2Proof.Machine.execEltAdd r w e s
  | .eltMultiply r w e => Sys2Proof.Machine.execEltMultiply r w e s
  | .eltSubtract r w e => Sys2Proof.Machine.execEltSubtract r w e s
  | .eltMax r w e => Sys2Proof.Machine.execEltMax r w e s
  | .eltMin r w e => Sys2Proof.Machine.execEltMin r w e s
  | .lut r w e => Sys2Proof.Machine.execLut r w e s
  | .redSum r w e => Sys2Proof.Machine.execRedSum r w e s
  | .redMax r w e => Sys2Proof.Machine.execRedMax r w e s
  | .redMin r w e => Sys2Proof.Machine.execRedMin r w e s
  | .redSumOfSquares r w e => Sys2Proof.Machine.execRedSumOfSquares r w e s
  | .func r w e => Sys2Proof.Machine.execFunc r w e s
  | .cvt r w e => Sys2Proof.Machine.execCvt r w e s
  | .copy r w e => Sys2Proof.Machine.execCopy r w e s
  | .transpose r w e => Sys2Proof.Machine.execTranspose r w e s
  | .fill r w e => Sys2Proof.Machine.execFill r w e s
  | .send r w e => Sys2Proof.Machine.execSend r w e s
  | .chainRead r w e => Sys2Proof.Machine.execChainRead r w e s
  | .chainWrite r w e => Sys2Proof.Machine.execChainWrite r w e s
  | .put r w e => Sys2Proof.Machine.execPut r w e s
  | .take r w e => Sys2Proof.Machine.execTake r w e s
  | .mcast r w e => Sys2Proof.Machine.execMcast r w e s
  | .rotate r w e => Sys2Proof.Machine.execRotate r w e s
  | .stem r sub w e => Sys2Proof.Machine.execStem r sub w e s
  | .drawEnc r w e => Sys2Proof.Machine.execDrawEnc r w e s
  | .drawDec r w e => Sys2Proof.Machine.execDrawDec r w e s
  | .prune r w e => Sys2Proof.Machine.execPrune r w e s
  | .gmerge r w e => Sys2Proof.Machine.execGmerge r w e s
  | .bar r w => Sys2Proof.Machine.execBar r w s
  | .layer r w => Sys2Proof.Machine.execLayer r w s
  | .layerRetire r => Sys2Proof.Machine.execLayerRetire r s
  | .temperMark r w => Sys2Proof.Machine.execTemperMark r w s
  | .post r w => Sys2Proof.Machine.execPost r w s
  | .postWrite => Sys2Proof.Machine.execPostWrite s
  | .halt r w => Sys2Proof.Machine.execHalt r w s
  | .burin r w => Sys2Proof.Machine.execBurin r w s
  | .add b d a c => Sys2Proof.Machine.execAdd b d a c s
  | .sub b d a c => Sys2Proof.Machine.execSub b d a c s
  | .and b d a c => Sys2Proof.Machine.execAnd b d a c s
  | .or b d a c => Sys2Proof.Machine.execOr b d a c s
  | .xor b d a c => Sys2Proof.Machine.execXor b d a c s
  | .sll b d a c => Sys2Proof.Machine.execSll b d a c s
  | .srl b d a c => Sys2Proof.Machine.execSrl b d a c s
  | .sra b d a c => Sys2Proof.Machine.execSra b d a c s
  | .slt b d a c => Sys2Proof.Machine.execSlt b d a c s
  | .sltu b d a c => Sys2Proof.Machine.execSltu b d a c s
  | .mul b d a c => Sys2Proof.Machine.execMul b d a c s
  | .mulh b d a c => Sys2Proof.Machine.execMulh b d a c s
  | .div b d a c => Sys2Proof.Machine.execDiv b d a c s
  | .rem b d a c => Sys2Proof.Machine.execRem b d a c s
  | .min b d a c => Sys2Proof.Machine.execMin b d a c s
  | .max b d a c => Sys2Proof.Machine.execMax b d a c s
  | .addi b d a imm => Sys2Proof.Machine.execAddi b d a imm s
  | .andi b d a imm => Sys2Proof.Machine.execAndi b d a imm s
  | .ori b d a imm => Sys2Proof.Machine.execOri b d a imm s
  | .xori b d a imm => Sys2Proof.Machine.execXori b d a imm s
  | .slti b d a imm => Sys2Proof.Machine.execSlti b d a imm s
  | .lui b d a imm => Sys2Proof.Machine.execLui b d a imm s
  | .slli b d a imm => Sys2Proof.Machine.execSlli b d a imm s
  | .srli b d a imm => Sys2Proof.Machine.execSrli b d a imm s
  | .srai b d a imm => Sys2Proof.Machine.execSrai b d a imm s
  | .lw b d a imm ue ce => Sys2Proof.Machine.execLw b d a imm ue ce s
  | .lh b d a imm ue ce => Sys2Proof.Machine.execLh b d a imm ue ce s
  | .lb b d a imm ue ce => Sys2Proof.Machine.execLb b d a imm ue ce s
  | .lhu b d a imm ue ce => Sys2Proof.Machine.execLhu b d a imm ue ce s
  | .lbu b d a imm ue ce => Sys2Proof.Machine.execLbu b d a imm ue ce s
  | .sw b d a imm ue ce => Sys2Proof.Machine.execSw b d a imm ue ce s
  | .sh b d a imm ue ce => Sys2Proof.Machine.execSh b d a imm ue ce s
  | .sb b d a imm ue ce => Sys2Proof.Machine.execSb b d a imm ue ce s
  | .beq b d a imm => Sys2Proof.Machine.execBeq b d a imm s
  | .bne b d a imm => Sys2Proof.Machine.execBne b d a imm s
  | .blt b d a imm => Sys2Proof.Machine.execBlt b d a imm s
  | .bge b d a imm => Sys2Proof.Machine.execBge b d a imm s
  | .bltu b d a imm => Sys2Proof.Machine.execBltu b d a imm s
  | .bgeu b d a imm => Sys2Proof.Machine.execBgeu b d a imm s
  | .jal b off => Sys2Proof.Machine.execJal b off s
  | .jalr b d a imm => Sys2Proof.Machine.execJalr b d a imm s
  | .csrr b d a imm => Sys2Proof.Machine.execCsrr b d a imm s
  | .csrw b d a imm => Sys2Proof.Machine.execCsrw b d a imm s
  | .syncCycle b d a imm => Sys2Proof.Machine.execSyncCycle b d a imm s
  | .burinHalt b => Sys2Proof.Machine.execBurinHalt b s
  | .vadd b vd va vb ew m => Sys2Proof.Machine.execVadd b vd va vb ew m s
  | .vsub b vd va vb ew m => Sys2Proof.Machine.execVsub b vd va vb ew m s
  | .vmul b vd va vb ew m => Sys2Proof.Machine.execVmul b vd va vb ew m s
  | .vmin b vd va vb ew m => Sys2Proof.Machine.execVmin b vd va vb ew m s
  | .vmax b vd va vb ew m => Sys2Proof.Machine.execVmax b vd va vb ew m s
  | .vand b vd va vb ew m => Sys2Proof.Machine.execVand b vd va vb ew m s
  | .vor b vd va vb ew m => Sys2Proof.Machine.execVor b vd va vb ew m s
  | .vxor b vd va vb ew m => Sys2Proof.Machine.execVxor b vd va vb ew m s
  | .vsll b vd va vb ew m => Sys2Proof.Machine.execVsll b vd va vb ew m s
  | .vsrl b vd va vb ew m => Sys2Proof.Machine.execVsrl b vd va vb ew m s
  | .vsra b vd va vb ew m => Sys2Proof.Machine.execVsra b vd va vb ew m s
  | .vsel b vd va vb ew m => Sys2Proof.Machine.execVsel b vd va vb ew m s
  | .vcmpeq b vd va vb ew m => Sys2Proof.Machine.execVcmpeq b vd va vb ew m s
  | .vcmplt b vd va vb ew m => Sys2Proof.Machine.execVcmplt b vd va vb ew m s
  | .vfadd b vd va vb ew m => Sys2Proof.Machine.execVfadd b vd va vb ew m s
  | .vfsub b vd va vb ew m => Sys2Proof.Machine.execVfsub b vd va vb ew m s
  | .vfmul b vd va vb ew m => Sys2Proof.Machine.execVfmul b vd va vb ew m s
  | .vfdiv b vd va vb ew m => Sys2Proof.Machine.execVfdiv b vd va vb ew m s
  | .vfsqrt b vd va vb ew m => Sys2Proof.Machine.execVfsqrt b vd va vb ew m s
  | .vfma b vd va vb ew m => Sys2Proof.Machine.execVfma b vd va vb ew m s
  | .vfmin b vd va vb ew m => Sys2Proof.Machine.execVfmin b vd va vb ew m s
  | .vfmax b vd va vb ew m => Sys2Proof.Machine.execVfmax b vd va vb ew m s
  | .vfcmplt b vd va vb ew m => Sys2Proof.Machine.execVfcmplt b vd va vb ew m s
  | .vfcmpeq b vd va vb ew m => Sys2Proof.Machine.execVfcmpeq b vd va vb ew m s
  | .vfcvt b vd va vb ew m => Sys2Proof.Machine.execVfcvt b vd va vb ew m s
  | .vftoi b vd va vb ew m => Sys2Proof.Machine.execVftoi b vd va vb ew m s
  | .vitof b vd va vb ew m => Sys2Proof.Machine.execVitof b vd va vb ew m s
  | .vld b vd a imm ue ce => Sys2Proof.Machine.execVld b vd a imm ue ce s
  | .vst b vd a imm => Sys2Proof.Machine.execVst b vd a imm s
  | .vxferIn b d a c e => Sys2Proof.Machine.execVxferIn b d a c e s
  | .vxferOut b d a c ue ce => Sys2Proof.Machine.execVxferOut b d a c ue ce s
  | .vbcast b vd va vb ew m => Sys2Proof.Machine.execVbcast b vd va vb ew m s
  | .vext b vd va vb ew m => Sys2Proof.Machine.execVext b vd va vb ew m s
  | .vredi b vd va vb ew m => Sys2Proof.Machine.execVredi b vd va vb ew m s
  | .vredf b vd va vb ew m => Sys2Proof.Machine.execVredf b vd va vb ew m s
  | .configRequest off rebar => Sys2Proof.Machine.execConfigRequest off rebar s
  | .pcieLinkReturn => Sys2Proof.Machine.execPcieLinkReturn s
  | .flitCrcFailure p => Sys2Proof.Machine.execFlitCrcFailure p s
  | .sidePathCalibration => Sys2Proof.Machine.execSidePathCalibration s
  | .railsWithinBand => Sys2Proof.Machine.execRailsWithinBand s
  | .unassignedUnit c a => Sys2Proof.Machine.execUnassignedUnit c a s
  | .unitSyncLoss c a ts => Sys2Proof.Machine.execUnitSyncLoss c a ts s
  | .unlistedEncoding b word => Sys2Proof.Machine.execUnlistedEncoding b word s

end Sys2Proof.Machine
end

