-- ==== Sys2Proof/Safety.lean ====
section
/-! DEFINITION. What statements say of states: what a command leaves alone, which forms an instruction covers with the rule of each, and
what a sound state is. -/

namespace Sys2Proof.Machine

/-! What a Burin's instruction leaves alone. -/

/-- `t` is `s` but for Burin `b`. -/
def OnlyBurin (s t : State) (b : Nat) : Prop := t = { s with burins := t.burins } ∧ ∀ j, j ≠ b → getBurin t j = getBurin s j

/-- `v` is `u` but for x[d] and the program counter. -/
def OnlyX (u v : Burin) (d : Nat) : Prop :=
  (∀ i, i ≠ d → getX v i = getX u i ∧ badX v i = badX u i) ∧ (∀ i, getV v i = getV u i ∧ badV v i = badV u i) ∧
  (∀ i, getM v i = getM u i ∧ badM v i = badM u i) ∧
  v.frm = u.frm ∧ v.fflags = u.fflags ∧ v.mem = u.mem ∧ v.running = u.running

/-- `v` is `u` but for v[d], FFLAGS and the program counter. -/
def OnlyV (u v : Burin) (d : Nat) : Prop :=
  (∀ i, getX v i = getX u i ∧ badX v i = badX u i) ∧ (∀ i, i ≠ d → getV v i = getV u i ∧ badV v i = badV u i) ∧
  (∀ i, getM v i = getM u i ∧ badM v i = badM u i) ∧ v.frm = u.frm ∧ v.mem = u.mem ∧ v.running = u.running

/-- `v` is `u` but for m[d], FFLAGS and the program counter. -/
def OnlyM (u v : Burin) (d : Nat) : Prop :=
  (∀ i, getX v i = getX u i ∧ badX v i = badX u i) ∧ (∀ i, getV v i = getV u i ∧ badV v i = badV u i) ∧
  (∀ i, i ≠ d → getM v i = getM u i ∧ badM v i = badM u i) ∧ v.frm = u.frm ∧ v.mem = u.mem ∧ v.running = u.running

/-! The operations of 06 R184, as the table of that rule gives them. -/

/-- A truth value in a register. -/
def flagWord (b : Bool) : Word := if b then 1 else 0

/-- The register-register instructions with their results from x[a] and x[b]. -/
def rrRules : List ((Nat → Nat → Nat → Nat → Instr) × (Word → Word → Word)) :=
  [(.add, fun x y => BitVec.ofInt 32 (x.toInt + y.toInt)), (.sub, fun x y => BitVec.ofInt 32 (x.toInt - y.toInt)),
   (.and, fun x y => x &&& y), (.or, fun x y => x ||| y), (.xor, fun x y => x ^^^ y),
   (.sll, fun x y => BitVec.ofNat 32 (x.toNat * 2 ^ (y.toNat % 32))), (.srl, fun x y => BitVec.ofNat 32 (x.toNat / 2 ^ (y.toNat % 32))),
   (.sra, fun x y => BitVec.ofInt 32 (x.toInt / 2 ^ (y.toNat % 32))),
   (.slt, fun x y => flagWord (decide (x.toInt < y.toInt))), (.sltu, fun x y => flagWord (decide (x.toNat < y.toNat))),
   (.mul, fun x y => BitVec.ofInt 32 (x.toInt * y.toInt)), (.mulh, fun x y => BitVec.ofInt 32 (x.toInt * y.toInt / 2 ^ 32)),
   (.div, fun x y => BitVec.ofInt 32 (x.toInt.tdiv y.toInt)), (.rem, fun x y => BitVec.ofInt 32 (x.toInt.tmod y.toInt)),
   (.min, fun x y => BitVec.ofInt 32 (min x.toInt y.toInt)), (.max, fun x y => BitVec.ofInt 32 (max x.toInt y.toInt))]

/-- The register-immediate instructions: the values that the fields a and IMM16 may have, and the result from x[a] and IMM16. -/
def riRules : List ((Nat → Nat → Nat → Nat → Instr) × (Nat → Nat → Bool) × (Word → Nat → Word)) :=
  [(.addi, fun _ _ => true, fun x i => BitVec.ofInt 32 (x.toInt + sext 16 i)),
   (.andi, fun _ _ => true, fun x i => x &&& BitVec.ofNat 32 i), (.ori, fun _ _ => true, fun x i => x ||| BitVec.ofNat 32 i),
   (.xori, fun _ _ => true, fun x i => x ^^^ BitVec.ofNat 32 i), (.slti, fun _ _ => true, fun x i => flagWord (decide (x.toInt < sext 16 i))),
   (.lui, fun a _ => a = 0, fun _ i => BitVec.ofNat 32 (i * 2 ^ 16)),
   (.slli, fun _ i => i < 32, fun x i => BitVec.ofNat 32 (x.toNat * 2 ^ i)), (.srli, fun _ i => i < 32, fun x i => BitVec.ofNat 32 (x.toNat / 2 ^ i)),
   (.srai, fun _ i => i < 32, fun x i => BitVec.ofInt 32 (x.toInt / 2 ^ i))]

/-- The loads: bytes, and the value of the loaded number. -/
def loadRules : List ((Nat → Nat → Nat → Nat → Bool → Bool → Instr) × Nat × (Nat → Int)) :=
  [(.lw, 4, fun v => v), (.lh, 2, sext 16), (.lb, 1, sext 8), (.lhu, 2, fun v => v), (.lbu, 1, fun v => v)]

/-- The stores: bytes. -/
def storeRules : List ((Nat → Nat → Nat → Nat → Bool → Bool → Instr) × Nat) := [(.sw, 4), (.sh, 2), (.sb, 1)]

/-- The branches: whether x[d] and x[a] take it. -/
def branchRules : List ((Nat → Nat → Nat → Nat → Instr) × (Word → Word → Bool)) :=
  [(.beq, fun x y => decide (x = y)), (.bne, fun x y => decide (x ≠ y)), (.blt, fun x y => decide (x.toInt < y.toInt)),
   (.bge, fun x y => decide (y.toInt ≤ x.toInt)), (.bltu, fun x y => decide (x.toNat < y.toNat)), (.bgeu, fun x y => decide (y.toNat ≤ x.toNat))]

/-! The operations of 06 R185. A lane rule takes the lane width in bits and the lanes of v[va] and v[vb]. -/

/-- The integer instructions that work lane by lane. -/
def laneRules : List ((Nat → Nat → Nat → Nat → Nat → Nat → Instr) × (Nat → Nat → Nat → Int)) :=
  [(.vadd, fun _ x y => x + y), (.vsub, fun _ x y => x - y), (.vmul, fun _ x y => x * y),
   (.vmin, fun w x y => min (sext w x) (sext w y)), (.vmax, fun w x y => max (sext w x) (sext w y)),
   (.vand, fun _ x y => (x &&& y : Nat)), (.vor, fun _ x y => (x ||| y : Nat)), (.vxor, fun _ x y => (x ^^^ y : Nat)),
   (.vsll, fun w x y => x * 2 ^ (y % w)), (.vsrl, fun w x y => (x : Int) / 2 ^ (y % w)), (.vsra, fun w x y => sext w x / 2 ^ (y % w))]

/-- The integer comparisons. -/
def laneCompares : List ((Nat → Nat → Nat → Nat → Nat → Nat → Instr) × (Nat → Nat → Nat → Bool)) :=
  [(.vcmpeq, fun _ x y => decide (x = y)), (.vcmplt, fun w x y => decide (sext w x < sext w y))]

/-- The strict operations of 04 R128 to R131 lane by lane, from the format, FRM and the lanes of v[va], v[vb] and v[vd], with the poison that
the result takes from its operands. -/
def laneFloats : List ((Nat → Nat → Nat → Nat → Nat → Nat → Instr) × (Fmt → Nat → Nat → Nat → Nat → Arith Nat) × (Bool → Bool → Bool → Bool)) :=
  [(.vfadd, fun g r x y _ => ieeeAdd g r x y, fun a c _ => a || c), (.vfsub, fun g r x y _ => ieeeSub g r x y, fun a c _ => a || c),
   (.vfmul, fun g r x y _ => ieeeMul g r x y, fun a c _ => a || c), (.vfdiv, fun g r x y _ => ieeeDiv g r x y, fun a c _ => a || c),
   (.vfsqrt, fun g r x _ _ => ieeeSqrt g r x, fun a _ _ => a), (.vfma, fun g r x y z => ieeeFma g r x y z, fun a c d => a || c || d),
   (.vfmin, fun g _ x y _ => ieeeMinMax g false x y, fun a c _ => a || c), (.vfmax, fun g _ x y _ => ieeeMinMax g true x y, fun a c _ => a || c)]

/-- The strict comparisons. -/
def laneFloatCompares : List ((Nat → Nat → Nat → Nat → Nat → Nat → Instr) × (Fmt → Nat → Nat → Bool)) :=
  [(.vfcmplt, ieeeLt), (.vfcmpeq, ieeeEq)]

/-- The strict conversions: the target width codes that the encoding allows, the source width code, and the conversion under FRM. -/
def laneConversions : List ((Nat → Nat → Nat → Nat → Nat → Nat → Instr) × (Nat → Bool) × (Nat → Nat) × (Nat → Nat → Nat → Arith Nat)) :=
  [(.vfcvt, fun ew => ew = 1 || ew = 2, fun ew => 3 - ew, fun ew r x => ieeeCvt (laneFmt (3 - ew)) (laneFmt ew) r x),
   (.vftoi, fun ew => ew = 2, fun _ => 2, fun _ r x => ieeeToInt r x), (.vitof, fun ew => ew = 2, fun _ => 2, fun _ r x => ieeeOfInt r x)]

/-- The lanes of v[vd] after a write under mask m[m]: `l` where the mask selects, and otherwise as before. -/
def LanesAre (ew : Nat) (mk : BitVec 64) (old new : BitVec 512) (l : Nat → Nat) : Prop :=
  ∀ i, i < laneCount ew → lane ew new i = if laneOn ew mk i then l i % 2 ^ (8 * laneBytes ew) else lane ew old i

/-- The bits of m[vd] after a comparison under mask m[m]: every bit of a selected lane is the comparison's. -/
def MaskIs (ew : Nat) (mk old new : BitVec 64) (p : Nat → Bool) : Prop :=
  ∀ k, k < 64 → new.getLsbD k = if laneOn ew mk (k / laneBytes ew) then p (k / laneBytes ew) else old.getLsbD k

/-! Macro-instructions. -/

/-- What a macro-instruction of region `r` passes before it acts (06 R188): the region can issue, DRAM_TEMP holds none of the job's accesses (03 R77), the
loader accepts the form, the segment is ready, no shape is above its largest bucket or 0, and `pl` is the placement record in force. -/
def Issues (s : State) (r : Nat) (refuse : Option String) (descs : List Desc) (early : Option (Nat × Nat × Nat × Nat)) (pl : Place) : Prop :=
  seqOk s r = true ∧ hotHeld s = false ∧ macroRefuse s r refuse descs = none ∧ segmentReady s r = true ∧
  shapeOver s r (descs ++ fusedDescs s (getRegion s r).pc) = none ∧ early = none ∧
  shapeZero s r (descs ++ fusedDescs s (getRegion s r).pc) = false ∧ placeFor s r descs = some pl

/-- The registers in which work is counted and errors are reported: tally counters, alarms, sticky flags of contexts, pending isolations, and the
scrub mark. -/
def reportKeys : List Nat :=
  (List.range 22).flatMap (fun c => [Fk.tallyCount c, Fk.tallySat c]) ++
  (List.range 16).flatMap (fun k => [Fk.alarmPending k, Fk.alarmCount k, Fk.alarmHeld k]) ++ (List.range 128).map Fk.ctxFlags ++
  (List.range 9).flatMap (fun n => [Fk.faultPendForges n, Fk.faultPendRegion n]) ++ [Fk.memStatusScrubPending]

/-- From `s` to `t` only memories, regions, the flags of the job, reporting registers, the registers `ks`, the bits raised in this cycle, records, traces and error counts may
differ. -/
def OnlyWork (s t : State) (ks : List Nat) : Prop :=
  t = { s with regs := t.regs, dev := t.dev, host := t.host, job := t.job, regions := t.regions, hwChip := t.hwChip,
               raised := t.raised, hwRegions := t.hwRegions, trace := t.trace, alarms := t.alarms, part := t.part, out := t.out, free := t.free } ∧
  (∀ k, k ∉ reportKeys → k ∉ ks → rd t k = rd s k) ∧ t.job.map (fun j => { j with flags := 0 }) = s.job.map (fun j => { j with flags := 0 }) ∧
  t.part = { s.part with ceCounts := t.part.ceCounts, ueCounts := t.part.ueCounts, scrub := t.part.scrub }

/-- Region `r` stands at its next macro-instruction and is otherwise as before, like every other region. -/
def AtNext (s t : State) (r : Nat) : Prop :=
  (∀ j, s.job = some j → getRegion t r = { getRegion s r with pc := pcFrom j r ((getRegion s r).pc + 1), run := .running, prog := [], draw := none }) ∧
  ∀ k, k ≠ r → getRegion t k = getRegion s k

/-- The same, but for what its operand stores hold, `f` of what they held. -/
def AtNextChunks (s t : State) (r : Nat) (f : List (Nat × List Nat) → List (Nat × List Nat)) : Prop :=
  (∀ j, s.job = some j → getRegion t r =
    { getRegion s r with pc := pcFrom j r ((getRegion s r).pc + 1), run := .running, prog := [], draw := none, chunks := f (getRegion s r).chunks }) ∧
  ∀ k, k ≠ r → getRegion t k = getRegion s k

/-- The same, but for the MARKs and the fill of its hoops, its open exchange and its operand stores. -/
def AtNextHoops (s t : State) (r : Nat) : Prop :=
  (∀ j, s.job = some j → ∃ mk fl ex ch, getRegion t r =
    { getRegion s r with pc := pcFrom j r ((getRegion s r).pc + 1), run := .running, prog := [], draw := none, marks := mk, fill := fl, openEx := ex, chunks := ch }) ∧
  ∀ k, k ≠ r → getRegion t k = getRegion s k

/-- The same, where drain hoops of other regions may move as well: but for the MARKs and the fill of hoops. -/
def AtNextFlow (s t : State) (r : Nat) : Prop :=
  (∀ j, s.job = some j → ∃ mk fl, getRegion t r =
    { getRegion s r with pc := pcFrom j r ((getRegion s r).pc + 1), run := .running, prog := [], draw := none, marks := mk, fill := fl }) ∧
  ∀ k, k ≠ r → ∃ mk fl, getRegion t k = { getRegion s k with marks := mk, fill := fl }

/-- HEAD and TAIL of the hoops of position `n`. -/
def hoopKeys (n : Nat) : List Nat := (List.range 64).flatMap (fun h => [Fk.hoopHead n h, Fk.hoopTail n h])

/-- The records that a DRAW moves, `f` giving what the one of each problem makes of the state: the state after `k` problems from `p` on, if each finds its
hoop ready. -/
def drawRecords (f : Nat → State → State ⊕ State) : Nat → Nat → State → Option State
  | 0, _, s => some s
  | k + 1, p, s => match f p s with
    | .inl _ => none
    | .inr s => drawRecords f k (p + 1) s

/-- Bytes with their poison at the addresses that `f` gives. -/
def bytesAt (f : Nat → Nat) (l : List (Byte × Bool)) : List (Nat × Byte × Bool) :=
  ((List.range l.length).zip l).map (fun x => (f x.1, x.2.1, x.2.2))

/-- The last byte that `l` gives for address `a`. -/
def lastByte (l : List (Nat × Byte × Bool)) (a : Nat) : Option Byte := ((l.filter (fun x => x.1 = a)).getLast?).map (·.2.1)

/-- Memory of `t` as device addresses read it is that of `s` with the bytes `l` stored by 03 R84 (none of them in the host window while PCIe is
down), `ue` naming the halves whose merge read is uncorrectable: a half without a byte of `l` is as before; a clean half that takes only
unpoisoned bytes holds them and keeps its other bytes; a half that takes only poisoned bytes is poisoned. -/
def Stores (s t : State) (ue : List Nat) (l : List (Nat × Byte × Bool)) : Prop :=
  (∀ x ∈ l, x.1 < 2 ^ 52 ∧ (levelOf x.1 = 5 → s.part.pcieUp = true)) → ∀ a, a < 2 ^ 52 →
    ((∀ x ∈ l, x.1 / 32 ≠ a / 32) → devByte t [] a = devByte s [] a) ∧
    ((∀ x ∈ l, x.1 / 32 = a / 32 → x.2.2 = false) → (devByte s [] a).2 = false → a / 32 ∉ ue →
      devByte t [] a = ((lastByte l a).getD (devByte s [] a).1, false)) ∧
    ((∃ x ∈ l, x.1 / 32 = a / 32) → (∀ x ∈ l, x.1 / 32 = a / 32 → x.2.2 = true) → devByte t [] a = (0, true))

/-- What an instruction that writes a tensor works on: the operands whose addresses are checked, over problems `p0` to `p1 - 1`, whether an Assay sum leaves
INT48, at an element of D0 or at one that is padding (07 R215), the state once the coded blocks it reads have come in and the scales of its own groups
are formed (05 R148), whether there are such scales, D0, its cells by position with none for such a sum, the input flush, and what the operand stores hold
after it (07 R191). -/
structure TensorWork where
  opds : List Opd
  p0 : Nat
  p1 : Nat
  spills : Bool
  base : State
  scaled : Bool
  out : Opd
  cells : List ((Nat × Nat × Nat × Nat) × Option (Arith Cell))
  flush : Bool
  chunks : List (Nat × List Nat) → List (Nat × List Nat) := id

/-- The cells computed in order, and the flags and saturations of their arithmetic. -/
def tensorRun (k : TensorWork) : List Cell × ArithSt :=
  (k.cells.mapM (fun (x : (Nat × Nat × Nat × Nat) × Option (Arith Cell)) => (x.2).getD (pure .keep))) ⟨k.flush, 0, 0⟩

/-- An instruction that writes a tensor: the loader's checks, the descriptors whose shapes count, the early breach of 08 R218, and its
work from the states before and after dispatch. -/
structure TensorRule where
  make : Nat → MacroW → MemErrs → Instr
  refuse : State → Nat → MacroW → MemErrs → Option String
  descs : State → MacroW → MemErrs → List Desc
  early : State → Nat → MacroW → Option (Nat × Nat × Nat × Nat)
  work : State → State → Nat → MacroW → MemErrs → Place → TensorWork

/-- An instruction on elements (06 R172 to R174, R180). -/
def pointRule (op : Nat) (make : Nat → MacroW → MemErrs → Instr) (c : State → MacroW → MemErrs → PointCmd) : TensorRule :=
  { make := make, refuse := fun s r w e => pointRefuse s r op w (c s w e), descs := fun s w e => descsOf s w (0 :: (c s w e).ins)
    early := fun _ _ _ => none
    work := fun s u r w e pl =>
      let q := c s w e
      let o := pointOut u r w e q
      let sh := problemShare pl (w.rep + 1)
      let outs := pointOuts q sh o
      let ins := pointIns u r w e q (pointOrder q (pointIns u r w e q) o outs)
      { opds := ins ++ [o] ++ pointTables u w q ins o sh.1 sh.2, p0 := sh.1, p1 := sh.2, spills := outs.any (fun x => (pointCellAt u e q ins o x).isNone)
        base := pointScales u (pointBlocks u r e q ins o outs) e q ins o outs, scaled := q.flt && ownScales u o, out := o
        cells := outs.map (fun x => (x, pointCellAt (pointScales u u e q ins o outs) e q ins o x)), flush := jobFlush u } }

/-- A POOL (06 R170). -/
def poolRule (make : Nat → MacroW → MemErrs → Instr) (mx : Bool) (refuse : MacroW → Option String) (f : PoolFn) : TensorRule :=
  { make := make, refuse := fun s r w _ => poolRefuse s r w mx (refuse w), descs := fun s w _ => descsOf s w [0, 1], early := excessFault
    work := fun _ u r w e pl =>
      let o := poolOut u r w e
      let sh := poolShare pl w o
      let outs := poolOuts sh o
      let a := poolIn u r w e (poolOrder w (poolIn u r w e) o outs)
      let v := poolBlocks u r w e a o outs
      let cells := outs.map (fun x => let t := runOf a (x.2.1 / o.n0); (poolPos o x, f v e.ue w t.1 o x.1 (x.2.1 % o.n0) t.2 x.2.2))
      { opds := [a, o], p0 := sh.p0, p1 := sh.p1, spills := cells.any (fun x => x.2.isNone), base := v, scaled := false, out := o, cells := cells
        flush := jobFlush v } }

/-- A product: MMUL or CONV, on Anvils, or STEM (06 R168, R169, R171). -/
def prodRule (anvil : Bool) (make : Nat → MacroW → MemErrs → Instr) (refuse : State → Nat → MacroW → Option String)
    (early : State → Nat → MacroW → Option (Nat × Nat × Nat × Nat)) (plan : State → Nat → MacroW → MemErrs → Place → ProdPlan) : TensorRule :=
  { make := make, refuse := fun s r w _ => refuse s r w, descs := fun s w _ => prodDescs s w, early := early
    work := fun _ u r w e pl =>
      let q := plan u r w e pl
      let outs := shareOuts q.c q.sh
      let v := prodScales (if anvil then prodBlocks u r e.ue q pl else u) e.ue q.c q.sh outs
      { opds := prodOpds q, p0 := q.sh.p0, p1 := q.sh.p1
        spills := (checkOuts q.c q.sh).any (fun x => (prodOver q.c q.sh x.1 x.2.1 x.2.2).isSome)
        base := v, scaled := q.c.flt && ownScales u q.c.o, out := q.c.o
        cells := outs.map (fun x => ((x.1, q.c.pos x.2.1 x.2.2),
          if (prodOver q.c q.sh x.1 x.2.1 x.2.2).isSome then none else some (prodCell v e.ue q.c q.sh x.1 x.2.1 x.2.2)))
        flush := jobFlush v && !q.c.strict
        chunks := fun m => if anvil then (q.g.chunks pl.forges).foldl (fun m y => mput (fun _ => []) m y.1 (instrOf u r :: y.2)) m else m } }

/-- The instructions that compute a tensor cell by cell. -/
def tensorRules : List TensorRule :=
  [prodRule true .mmul (fun s r w => mmulRefuse s r w) (fun _ _ _ => none) (fun s r w e pl => prodPlan (mmulPlan s r w e pl) pl),
   prodRule true (fun r w e => .conv r 0 w e) (fun s r w => convRefuse s r 0 w false) excessFault
     (fun s r w e pl => prodPlan (convPlan s r 0 w e pl) pl),
   prodRule true (fun r w e => .conv r 1 w e) (fun s r w => convRefuse s r 1 w false) excessFault
     (fun s r w e pl => prodPlan (convPlan s r 1 w e pl) pl),
   prodRule true (fun r w e => .conv r 2 w e) (fun s r w => convRefuse s r 2 w false) excessFault
     (fun s r w e pl => prodPlan (convPlan s r 2 w e pl) pl),
   prodRule false (fun r w e => .stem r 0 w e) (fun s r w => convRefuse s r 0 w true) excessFault (fun s r w e pl => convPlan s r 0 w e pl [] []),
   prodRule false (fun r w e => .stem r 2 w e) (fun s r w => convRefuse s r 2 w true) excessFault (fun s r w e pl => convPlan s r 2 w e pl [] []),
   poolRule .poolMax true poolMaxRefuse poolMaxCell, poolRule .poolAverage false poolAverageRefuse poolAverageCell,
   poolRule .poolSum false poolSumRefuse poolSumCell,
   pointRule 0x13 .eltAdd eltAddCmd, pointRule 0x13 .eltMultiply eltMultiplyCmd, pointRule 0x13 .eltSubtract eltSubtractCmd, pointRule 0x13 .eltMax eltMaxCmd,
   pointRule 0x13 .eltMin eltMinCmd, pointRule 0x14 .lut (fun s w _ => lutCmd s w), pointRule 0x15 .redSum (fun s w _ => redSumCmd s w),
   pointRule 0x15 .redMax (fun s w _ => redMaxCmd s w), pointRule 0x15 .redMin (fun s w _ => redMinCmd s w),
   pointRule 0x15 .redSumOfSquares (fun s w _ => redSumOfSquaresCmd s w), pointRule 0x16 .func (fun s w _ => funcCmd s w),
   pointRule 0x17 .cvt (fun s w _ => cvtCmd s w), pointRule 0x20 .copy (fun s w _ => copyCmd s w), pointRule 0x20 .transpose (fun s w _ => transposeCmd s w),
   pointRule 0x20 .fill (fun _ w _ => fillCmd w), pointRule 0x33 .gmerge (fun s w _ => gmergeCmd s w)]

/-! Host accesses and queues. -/

/-- Entry `e` has completed between `s` and `t` with STATUS and CODE (19 R502, R509): its record goes to the completion ring of its queue, or waits, and
it is no longer outstanding. -/
def Completes (s t : State) (e : Entry) (status code : Nat) : Prop :=
  ∃ (b : List Byte) (irq : Option Nat), b.length = 64 ∧ b.take 4 = toLE 4 e.tag ∧ b.getD 4 0 = BitVec.ofNat 8 status ∧ (b.drop 6).take 2 = toLE 2 code ∧
    (let p := cqPost s e.q b irq
     t.host = p.host ∧ t.waitRecs = p.waitRecs ∧ rd t (Fk.wqHeadsCqTail e.q) = rd p (Fk.wqHeadsCqTail e.q)) ∧
    ∀ x ∈ (getWq t e.q).entries, x.idx ≠ e.idx

/-- The canonical form of the memories and of the register map: the invariant of every step. -/
def Sound (s : State) : Prop :=
  Memory.wf s.dev = true ∧ Memory.wf s.host = true ∧ Memory.wf s.msixTable = true ∧ mwf regReset s.regs = true

/-! Links. -/

/-- A side message on port `p` is taken: its link is UP, ALIGNED, or in RETRAIN and in lock again (15 R403, R410). -/
def sideTaken (s : State) (p : Nat) : Bool :=
  decide (p < 16) && s.part.clocks && (decide (portState s p = 3) || decide (portState s p = 2) || (decide (portState s p = 4) && (getPort s p).synced))

/-- The job has ended in `t` under fault code `c` (18 R471, R472). -/
def EndedBy (t : State) (c : Nat) : Prop := rd t Fk.bootJobJstate = 4 ∧ rd t Fk.faultJobJobCode = c ∧ running t = false

/-- Counter `c` of `t` is that of `s` and 1, saturating (18 R484). -/
def Counted (s t : State) (c : Nat) : Prop := rd t (Fk.tallyCount c) = min (rd s (Fk.tallyCount c) + 1) (2 ^ 48 - 1)

/-- A write of the `n` bits of `v` from bit `b` of a register on, as its field `f` with key `k` takes it by its access code: a W1C
bit that hardware sets in the same cycle stays set (00 R11). -/
def FieldTakes (s t : State) (f : FieldDef) (k b n v : Nat) : Prop :=
  let hit := fun i => decide (b ≤ f.lo + i) && decide (f.lo + i < b + n)
  let new := fun i => bit v (f.lo + i - b)
  match f.acc with
  | .ro => rd t k = rd s k
  | .rw => ∀ i, i < f.width → bit (rd t k) i = if hit i then new i else bit (rd s k) i
  | .w1c => ∀ i, i < f.width → bit (rd t k) i = (bit (rd s k) i && !(hit i && new i && !bit (raisedNow s k) i))
  | .stg => rd t k = rd s k ∧ ∀ i, i < f.width → bit (stagedVal t k) i = if hit i then new i else bit (stagedVal s k) i

end Sys2Proof.Machine
end

