-- ==== Sys2Proof/Certificates/Slice0/Obligations.lean ====
section
/-! DEFINITION. The statements for the provers. -/

open Sys2Proof Sys2Proof.Machine

/-- A step runs the front command. -/
def Obligations.StepRunsFront : Prop :=
  ∀ (s : State) (c : Instr) (q : List Instr), step { s with pending := c :: q } = exec c { s with pending := q }

/-! Burins. -/

/-- 06 R184, R182: each register-register instruction of a running Burin writes its result to x[d], poisoned if an operand is, and goes on to the
next word; x0 stays 0, and nothing else changes. -/
def Obligations.BurinRegisterResults : Prop :=
  ∀ p ∈ rrRules, ∀ (b d a c : Nat) (s : State), burinOk s b = true →
    ∃ t, exec (p.1 b d a c) s = .next t ∧ OnlyBurin s t b ∧ OnlyX (getBurin s b) (getBurin t b) d ∧
      (getBurin t b).pc = (getBurin s b).pc + 4 ∧
      getX (getBurin t b) d = (if d = 0 then 0 else p.2 (getX (getBurin s b) a) (getX (getBurin s b) c)) ∧
      badX (getBurin t b) d = (decide (d ≠ 0) && (badX (getBurin s b) a || badX (getBurin s b) c))

/-- 06 R184: the same of the register-immediate instructions, for the fields that the encoding allows. -/
def Obligations.BurinImmediateResults : Prop :=
  ∀ p ∈ riRules, ∀ (b d a imm : Nat) (s : State), burinOk s b = true → imm < 2 ^ 16 → p.2.1 a imm = true →
    ∃ t, exec (p.1 b d a imm) s = .next t ∧ OnlyBurin s t b ∧ OnlyX (getBurin s b) (getBurin t b) d ∧
      (getBurin t b).pc = (getBurin s b).pc + 4 ∧
      getX (getBurin t b) d = (if d = 0 then 0 else p.2.2 (getX (getBurin s b) a) imm) ∧
      badX (getBurin t b) d = (decide (d ≠ 0) && badX (getBurin s b) a)

/-- 06 R182, R184, 09 R267: a load within local memory at a multiple of its size writes the little-endian number there to x[d], sign- or
zero-extended, and goes on; a half that is stored poisoned or met an uncorrectable error gives 0 and poison. Without memory errors nothing
else changes. -/
def Obligations.BurinLoads : Prop :=
  ∀ p ∈ loadRules, ∀ (b d a imm : Nat) (ue ce : Bool) (s : State),
    let u := getBurin s b
    let addr := (getX u a + BitVec.ofInt 32 (sext 16 imm)).toNat
    burinOk s b = true → badX u a = false → addr + p.2.1 ≤ 0x10000 → addr % p.2.1 = 0 →
    ∃ t, exec (p.1 b d a imm ue ce) s = .next t ∧ OnlyX u (getBurin t b) d ∧ (getBurin t b).pc = u.pc + 4 ∧
      getX (getBurin t b) d = (if d = 0 ∨ ue = true ∨ mBad u.mem addr = true then 0
        else BitVec.ofInt 32 (p.2.2 (mLE u.mem addr p.2.1))) ∧
      badX (getBurin t b) d = (decide (d ≠ 0) && (ue || mBad u.mem addr)) ∧
      (ue = false → ce = false → OnlyBurin s t b)

/-- 06 R182, R184, 03 R84: a store at or above BURIN_BYTES at a multiple of its size writes the low bytes of x[d], least significant first, and no
other byte of local memory; a poisoned x[d], or a half that is poisoned or met an uncorrectable error at the merge, leaves the half poisoned. -/
def Obligations.BurinStores : Prop :=
  ∀ p ∈ storeRules, ∀ (b d a imm : Nat) (ue ce : Bool) (s : State),
    let u := getBurin s b
    let addr := (getX u a + BitVec.ofInt 32 (sext 16 imm)).toNat
    burinOk s b = true → badX u a = false → burinBytesOf s ≤ addr → addr + p.2 ≤ 0x10000 → addr % p.2 = 0 →
    ∃ t, exec (p.1 b d a imm ue ce) s = .next t ∧ (getBurin t b).pc = u.pc + 4 ∧
      (∀ i, getX (getBurin t b) i = getX u i) ∧
      (badX u d = false → ue = false → mBad u.mem addr = false →
        ∀ x, mByte (getBurin t b).mem x =
          (if addr ≤ x ∧ x < addr + p.2 then (toLE p.2 (getX u d).toNat).getD (x - addr) 0 else mByte u.mem x)) ∧
      (badX u d = true ∨ ue = true ∨ mBad u.mem addr = true →
        mBad (getBurin t b).mem addr = true ∧ ∀ x, x / 32 ≠ addr / 32 → mByte (getBurin t b).mem x = mByte u.mem x) ∧
      (ue = false → ce = false → OnlyBurin s t b)

/-- 06 R182, R184: a branch compares x[d] with x[a] and goes to PC + 4 × sext(IMM16) where the comparison holds, and to the next word where
it does not; nothing but the program counter changes. -/
def Obligations.BurinBranches : Prop :=
  ∀ p ∈ branchRules, ∀ (b d a imm : Nat) (s : State),
    let u := getBurin s b
    let to_ := (u.pc.toNat : Int) + 4 * sext 16 imm
    let on := p.2 (getX u d) (getX u a)
    burinOk s b = true → badX u d = false → badX u a = false → (on = true → 0 ≤ to_ ∧ to_ < burinBytesOf s) →
    ∃ t, exec (p.1 b d a imm) s = .next t ∧ OnlyBurin s t b ∧
      getBurin t b = { u with pc := if on then BitVec.ofInt 16 to_ else u.pc + 4 }

/-- 06 R182, R184: JAL and JALR write the address of the next word to x31 or x[d] and go to PC + 4 × sext(OFF26), or to
(x[a] + sext(IMM16)) with its two low bits cleared, where that lies below BURIN_BYTES. -/
def Obligations.BurinJumps : Prop :=
  ∀ (b d a imm off : Nat) (s : State),
    let u := getBurin s b
    let ret := BitVec.ofNat 32 (u.pc.toNat + 4)
    let near := (u.pc.toNat : Int) + 4 * sext 26 off
    let far := (getX u a + BitVec.ofInt 32 (sext 16 imm)).toNat / 4 * 4
    burinOk s b = true →
    (0 ≤ near ∧ near < burinBytesOf s →
      ∃ t, exec (.jal b off) s = .next t ∧ OnlyBurin s t b ∧ OnlyX u (getBurin t b) 31 ∧ getX (getBurin t b) 31 = ret ∧
        (getBurin t b).pc = BitVec.ofInt 16 near) ∧
    (badX u a = false → far < burinBytesOf s →
      ∃ t, exec (.jalr b d a imm) s = .next t ∧ OnlyBurin s t b ∧ OnlyX u (getBurin t b) d ∧
        getX (getBurin t b) d = (if d = 0 then 0 else ret) ∧ (getBurin t b).pc = BitVec.ofNat 16 far)

/-- 06 R184: CSRR reads CYCLE, CYCLEH, EPOCHL, WHO, FRM, FFLAGS and the shape slots into x[d]. -/
def Obligations.BurinCsrReads : Prop :=
  ∀ (b d n : Nat) (s : State), burinOk s b = true →
    let u := getBurin s b
    ∀ v : Nat, (n, v) ∈ [(0x000, rd s Fk.epochCycle % 2 ^ 32), (0x001, rd s Fk.epochCycle / 2 ^ 32 % 2 ^ 32), (0x002, rd s Fk.epochCount % 2 ^ 32),
        (0x010, (burinRegion b + 16 * burinForge b + 256 * burinIdx b) % 2 ^ 32), (0x020, u.frm.toNat), (0x021, u.fflags.toNat)] ++
        (List.range 48).map (fun k => (0x030 + k, shapeVal s (burinRegion b) (k / 3) (k % 3) % 2 ^ 32)) →
    ∃ t, exec (.csrr b d 0 n) s = .next t ∧ OnlyBurin s t b ∧ OnlyX u (getBurin t b) d ∧ (getBurin t b).pc = u.pc + 4 ∧
      getX (getBurin t b) d = (if d = 0 then 0 else BitVec.ofNat 32 v) ∧ badX (getBurin t b) d = false

/-- 06 R184, R161: CSRW with an unpoisoned x[a] writes FRM, FFLAGS or a shape of at most 20 bits, and no other part of the state but the program
counter; the read-only CSRs take no value (the model's reading, log entry 6). -/
def Obligations.BurinCsrWrites : Prop :=
  ∀ (b a n : Nat) (s : State), burinOk s b = true → badX (getBurin s b) a = false →
    let u := getBurin s b
    let v := getX u a
    (n = 0x020 → exec (.csrw b 0 a n) s = .next (putBurin s b { u with frm := BitVec.ofNat 2 v.toNat, pc := u.pc + 4 })) ∧
    (n = 0x021 → exec (.csrw b 0 a n) s = .next (putBurin s b { u with fflags := BitVec.ofNat 5 v.toNat, pc := u.pc + 4 })) ∧
    (n = 0 ∨ n = 1 ∨ n = 2 ∨ n = 0x010 → exec (.csrw b 0 a n) s = .next (putBurin s b { u with pc := u.pc + 4 })) ∧
    (0x030 ≤ n → n < 0x060 → v.toNat < 2 ^ 20 →
      ∃ t, exec (.csrw b 0 a n) s = .next t ∧ t = { s with burins := t.burins, regions := t.regions } ∧
        getBurin t b = { u with pc := u.pc + 4 } ∧ (∀ j, j ≠ b → getBurin t j = getBurin s j) ∧
        (∀ r k d, d < 3 → shapeVal t r k d =
          if r = burinRegion b ∧ 3 * k + d = n - 0x030 then v.toNat else shapeVal s r k d) ∧
        ∀ r, { getRegion t r with shapes := [] } = { getRegion s r with shapes := [] })

/-- 06 R184, R181, 09 R249, 04 R131: SYNC goes on where EPOCH.CYCLE[31:0], or SCYC[31:0] while LAG is nonzero, has reached x[a] + sext(IMM16),
unsigned, and otherwise leaves the state as it is. HALT stops the Burin and adds its FFLAGS to the flags of the job; no other Burin changes. -/
def Obligations.BurinSyncAndHalt : Prop :=
  ∀ (b d a imm : Nat) (s : State), burinOk s b = true →
    let u := getBurin s b
    let n := posOf s (burinRegion b)
    let now := if rd s (Fk.rschedLag n) = 0 then rd s Fk.epochCycle % 2 ^ 32 else rd s (Fk.rschedScyc n) % 2 ^ 32
    let due := (getX u a + BitVec.ofInt 32 (sext 16 imm)).toNat
    (due ≤ now → exec (.syncCycle b d a imm) s = .next (putBurin s b { u with pc := u.pc + 4 })) ∧
    (now < due → exec (.syncCycle b d a imm) s = .next s) ∧
    ∃ t, exec (.burinHalt b) s = .next t ∧ (getBurin t b).running = false ∧ (∀ j, j ≠ b → getBurin t j = getBurin s j) ∧
      t.job.map (·.flags) = s.job.map (fun j => j.flags ||| ofFflags u.fflags.toNat) ∧ t.dev = s.dev ∧ t.host = s.host

/-- 06 R182: x0 reads 0 and m0 reads all ones, and writes to them are discarded. In a running Burin a load or store past 0xFFFF, a store below
BURIN_BYTES, and a transfer of control to or above BURIN_BYTES end the job with BURIN_ADDR; a misaligned access with BURIN_ALIGN (where
BURIN_ADDR does not hold: that order is the model's, log entry 41); a word or a field value that is not listed with BURIN_ILLEGAL. The access
does not happen. -/
def Obligations.BurinFaults : Prop :=
  (∀ (u : Burin) (v : Word) (m : BitVec 64) (bad : Bool), getX u 0 = 0 ∧ badX u 0 = false ∧ setX u 0 v bad = u ∧
    getM u 0 = BitVec.allOnes 64 ∧ badM u 0 = false ∧ setM u 0 m bad = u) ∧
  ∀ (b d a c imm : Nat) (s : State), burinOk s b = true →
    let u := getBurin s b
    let faults := fun (i : Instr) (n : Nat) => ∃ t, exec i s = .next t ∧ EndedBy t n ∧ t.dev = s.dev ∧
      (getBurin t b).mem = u.mem ∧ (∀ k, getX (getBurin t b) k = getX u k) ∧ (∀ k, getV (getBurin t b) k = getV u k)
    let addr := (getX u a + BitVec.ofInt 32 (sext 16 imm)).toNat
    let out := fun (n : Nat) (store : Bool) => 0x10000 < addr + n ∨ (store = true ∧ addr < burinBytesOf s)
    let away := fun (x : Int) => x < 0 ∨ (burinBytesOf s : Int) ≤ x
    (badX u a = false →
      (∀ p ∈ loadRules, ∀ ue ce, (out p.2.1 false → faults (p.1 b d a imm ue ce) 0x08) ∧
        (¬ out p.2.1 false → addr % p.2.1 ≠ 0 → faults (p.1 b d a imm ue ce) 0x09)) ∧
      (∀ p ∈ storeRules, ∀ ue ce, (out p.2 true → faults (p.1 b d a imm ue ce) 0x08) ∧
        (¬ out p.2 true → addr % p.2 ≠ 0 → faults (p.1 b d a imm ue ce) 0x09)) ∧
      (∀ ue ce, (out 64 false → faults (.vld b d a imm ue ce) 0x08) ∧ (¬ out 64 false → addr % 64 ≠ 0 → faults (.vld b d a imm ue ce) 0x09)) ∧
      (out 64 true → faults (.vst b d a imm) 0x08) ∧ (¬ out 64 true → addr % 64 ≠ 0 → faults (.vst b d a imm) 0x09) ∧
      (away ((addr / 4 * 4 : Nat) : Int) → faults (.jalr b d a imm) 0x08)) ∧
    (badX u d = false → badX u a = false → badX u c = false →
      let loc := (getX u d).toNat
      let n := (getX u c).toNat
      let skew := loc % 64 ≠ 0 ∨ (getX u a).toNat % 64 ≠ 0 ∨ n % 64 ≠ 0
      let low := 0 < n ∧ loc < burinBytesOf s
      ∀ e ue ce, (0x10000 < loc + n ∨ low → faults (.vxferIn b d a c e) 0x08) ∧
        (loc + n ≤ 0x10000 → ¬ low → skew → faults (.vxferIn b d a c e) 0x09) ∧
        (0x10000 < loc + n → faults (.vxferOut b d a c ue ce) 0x08) ∧ (loc + n ≤ 0x10000 → skew → faults (.vxferOut b d a c ue ce) 0x09)) ∧
    (∀ p ∈ branchRules, badX u d = false → badX u a = false → p.2 (getX u d) (getX u a) = true →
      away ((u.pc.toNat : Int) + 4 * sext 16 imm) → faults (p.1 b d a imm) 0x08) ∧
    (∀ off, away ((u.pc.toNat : Int) + 4 * sext 26 off) → faults (.jal b off) 0x08) ∧
    (∀ word, faults (.unlistedEncoding b word) 0x07) ∧
    (a ≠ 0 → faults (.lui b d a imm) 0x07) ∧
    (32 ≤ imm → imm < 2 ^ 16 → faults (.slli b d a imm) 0x07 ∧ faults (.srli b d a imm) 0x07 ∧ faults (.srai b d a imm) 0x07) ∧
    (imm < 2 ^ 16 → imm ∉ [0x000, 0x001, 0x002, 0x010, 0x020, 0x021] → ¬ (0x030 ≤ imm ∧ imm < 0x060) →
      faults (.csrr b d a imm) 0x07 ∧ (badX u a = false → faults (.csrw b d a imm) 0x07)) ∧
    (d ≠ 0 → faults (.csrw b d a imm) 0x07) ∧
    ∀ p ∈ laneRules, ∀ vd va vb m, faults (p.1 b vd va vb 3 m) 0x07

/-- 06 R185, R183: the integer lane operations under a mask that is not poisoned write the selected lanes of v[vd] and nothing else of the
Burin but the program counter. -/
def Obligations.BurinLaneResults : Prop :=
  ∀ p ∈ laneRules, ∀ (b vd va vb ew m : Nat) (s : State), burinOk s b = true → ew < 3 → badM (getBurin s b) m = false →
    let u := getBurin s b
    ∃ t, exec (p.1 b vd va vb ew m) s = .next t ∧ OnlyBurin s t b ∧ OnlyV u (getBurin t b) vd ∧ (getBurin t b).fflags = u.fflags ∧
      (getBurin t b).pc = u.pc + 4 ∧
      LanesAre ew (getM u m) (getV u vd) (getV (getBurin t b) vd) (fun i =>
        code (8 * laneBytes ew) (p.2 (8 * laneBytes ew) (lane ew (getV u va) i) (lane ew (getV u vb) i)))

/-- 06 R185: VSEL takes v[va] where m[vb] is set and v[vb] elsewhere; VCMPEQ and VCMPLT set the lane bits of m[vd]. -/
def Obligations.BurinSelectCompare : Prop :=
  (∀ (b vd va vb ew : Nat) (s : State), burinOk s b = true → ew < 3 →
    let u := getBurin s b
    ∃ t, exec (.vsel b vd va vb ew 0) s = .next t ∧ OnlyBurin s t b ∧ OnlyV u (getBurin t b) vd ∧ (getBurin t b).fflags = u.fflags ∧
      (getBurin t b).pc = u.pc + 4 ∧
      ∀ i, i < laneCount ew → lane ew (getV (getBurin t b) vd) i =
        if laneOn ew (getM u (vb % 8)) i then lane ew (getV u va) i else lane ew (getV u vb) i) ∧
  ∀ p ∈ laneCompares, ∀ (b vd va vb ew m : Nat) (s : State), burinOk s b = true → ew < 3 → vd < 8 → badM (getBurin s b) m = false →
    let u := getBurin s b
    ∃ t, exec (p.1 b vd va vb ew m) s = .next t ∧ OnlyBurin s t b ∧ OnlyM u (getBurin t b) vd ∧ (getBurin t b).fflags = u.fflags ∧
      (getBurin t b).pc = u.pc + 4 ∧
      (vd ≠ 0 → MaskIs ew (getM u m) (getM u vd) (getM (getBurin t b) vd) (fun i =>
        p.2 (8 * laneBytes ew) (lane ew (getV u va) i) (lane ew (getV u vb) i)))

/-- 06 R185, 04 R128 to R131: in a strict job the float lane operations write the strict results of the selected lanes under FRM and add their
flags to FFLAGS; the comparisons write m[vd]. -/
def Obligations.BurinFloatLanes : Prop :=
  (∀ p ∈ laneFloats, ∀ (b vd va vb ew m : Nat) (s : State), burinOk s b = true → jobStrict s = true → ew = 1 ∨ ew = 2 →
    badM (getBurin s b) m = false →
    let u := getBurin s b
    let q := strictLanes ew (getM u m) (laneCount ew) (fun i =>
      p.2.1 (laneFmt ew) u.frm.toNat (lane ew (getV u va) i) (lane ew (getV u vb) i) (lane ew (getV u vd) i))
    ∃ t, exec (p.1 b vd va vb ew m) s = .next t ∧ OnlyBurin s t b ∧ OnlyV u (getBurin t b) vd ∧ (getBurin t b).pc = u.pc + 4 ∧
      LanesAre ew (getM u m) (getV u vd) (getV (getBurin t b) vd) (fun i => q.1.getD i 0) ∧
      (getBurin t b).fflags = u.fflags ||| BitVec.ofNat 5 (toFflags q.2) ∧
      badV (getBurin t b) vd = (p.2.2 (badV u va) (badV u vb) (badV u vd) || (badV u vd && !allOn ew (getM u m)))) ∧
  ∀ p ∈ laneFloatCompares, ∀ (b vd va vb ew m : Nat) (s : State), burinOk s b = true → jobStrict s = true → ew = 1 ∨ ew = 2 → vd < 8 → vd ≠ 0 →
    badM (getBurin s b) m = false →
    let u := getBurin s b
    ∃ t, exec (p.1 b vd va vb ew m) s = .next t ∧ OnlyBurin s t b ∧ OnlyM u (getBurin t b) vd ∧ (getBurin t b).pc = u.pc + 4 ∧
      MaskIs ew (getM u m) (getM u vd) (getM (getBurin t b) vd) (fun i =>
        p.2 (laneFmt ew) (lane ew (getV u va) i) (lane ew (getV u vb) i))

/-- 06 R185, 04 R130: the strict conversions write lane i of the source to lane i of the target under FRM; target lanes without a source lane
keep their value. -/
def Obligations.BurinConversions : Prop :=
  ∀ p ∈ laneConversions, ∀ (b vd va vb ew m : Nat) (s : State), burinOk s b = true → jobStrict s = true → p.2.1 ew = true →
    badM (getBurin s b) m = false →
    let u := getBurin s b
    let src := p.2.2.1 ew
    let n := min (laneCount ew) (laneCount src)
    let q := strictLanes ew (getM u m) n (fun i => p.2.2.2 ew u.frm.toNat (lane src (getV u va) i))
    ∃ t, exec (p.1 b vd va vb ew m) s = .next t ∧ OnlyBurin s t b ∧ OnlyV u (getBurin t b) vd ∧ (getBurin t b).pc = u.pc + 4 ∧
      LanesAre ew (getM u m) (getV u vd) (getV (getBurin t b) vd) (fun i => if i < n then q.1.getD i 0 else lane ew (getV u vd) i) ∧
      (getBurin t b).fflags = u.fflags ||| BitVec.ofNat 5 (toFflags q.2)

/-- 06 R185: VBCAST, VEXT of a lane that exists, VREDI and VREDF. -/
def Obligations.BurinLaneMoves : Prop :=
  ∀ (b vd va vb ew m : Nat) (s : State), burinOk s b = true → ew < 3 → badM (getBurin s b) m = false →
    let u := getBurin s b
    (∃ t, exec (.vbcast b vd va vb ew m) s = .next t ∧ OnlyBurin s t b ∧ OnlyV u (getBurin t b) vd ∧ (getBurin t b).pc = u.pc + 4 ∧
      LanesAre ew (getM u m) (getV u vd) (getV (getBurin t b) vd) (fun _ => (getX u va).toNat)) ∧
    (vb < laneCount ew →
      ∃ t, exec (.vext b vd va vb ew m) s = .next t ∧ OnlyBurin s t b ∧ OnlyX u (getBurin t b) vd ∧ (getBurin t b).pc = u.pc + 4 ∧
        getX (getBurin t b) vd = (if vd = 0 then 0 else BitVec.ofNat 32 (lane ew (getV u va) vb))) ∧
    (∃ t, exec (.vredi b vd va vb ew m) s = .next t ∧ OnlyBurin s t b ∧ OnlyV u (getBurin t b) vd ∧ (getBurin t b).pc = u.pc + 4 ∧
      LanesAre ew (getM u m) (getV u vd) (getV (getBurin t b) vd) (fun i =>
        if i = 0 then ((List.range (laneCount ew)).map (lane ew (getV u va))).sum else 0)) ∧
    (ew ≠ 0 →
      ∃ t, exec (.vredf b vd va vb ew m) s = .next t ∧ OnlyBurin s t b ∧ OnlyV u (getBurin t b) vd ∧ (getBurin t b).pc = u.pc + 4 ∧
        LanesAre ew (getM u m) (getV u vd) (getV (getBurin t b) vd) (fun i =>
          if i = 0 then (runStrict (ieeeBough (laneFmt ew) u.frm.toNat ((List.range (laneCount ew)).map (lane ew (getV u va))))).1 else 0))

/-- 06 R182, R185: VLD and VST move 64 bytes between v[vd] and local memory at a multiple of 64, and change nothing else but the program counter. -/
def Obligations.BurinVectorMemory : Prop :=
  ∀ (b vd a imm : Nat) (s : State),
    let u := getBurin s b
    let addr := (getX u a + BitVec.ofInt 32 (sext 16 imm)).toNat
    burinOk s b = true → badX u a = false → addr + 64 ≤ 0x10000 → addr % 64 = 0 →
    (mBadIn u.mem addr 64 = false →
      ∃ t, exec (.vld b vd a imm [] []) s = .next t ∧ OnlyBurin s t b ∧ OnlyV u (getBurin t b) vd ∧ (getBurin t b).fflags = u.fflags ∧
        (getBurin t b).pc = u.pc + 4 ∧ (getV (getBurin t b) vd).toNat = mLE u.mem addr 64) ∧
    (burinBytesOf s ≤ addr → badV u vd = false →
      ∃ t, exec (.vst b vd a imm) s = .next t ∧ OnlyBurin s t b ∧ (getBurin t b).pc = u.pc + 4 ∧
        { getBurin t b with mem := u.mem, pc := u.pc } = u ∧
        ∀ x, mByte (getBurin t b).mem x =
          if addr ≤ x ∧ x < addr + 64 then BitVec.ofNat 8 ((getV u vd).toNat / 256 ^ (x - addr)) else mByte u.mem x)

/-- 06 R185: VXFER moves x[b] bytes between the Bench of the Burin's Forge and local memory, all multiples of 64. -/
def Obligations.BurinTransfers : Prop :=
  ∀ (b d a c : Nat) (s : State),
    let u := getBurin s b
    let loc := (getX u d).toNat
    let off := (getX u a).toNat
    let n := (getX u c).toNat
    let bench := 3 * 2 ^ 48 + burinRegion b * 2 ^ 27 + burinForge b * 2 ^ 23
    burinOk s b = true → badX u d = false → badX u a = false → badX u c = false →
    burinRegion b < 8 → loc % 64 = 0 → off % 64 = 0 → n % 64 = 0 → loc + n ≤ 0x10000 → off + n ≤ 2 ^ 23 →
    (burinBytesOf s ≤ loc → mBadIn s.dev (bench + off) n = false →
      ∃ t, exec (.vxferIn b d a c ⟨[], 0, 0, 0⟩) s = .next t ∧ OnlyBurin s t b ∧ (getBurin t b).pc = u.pc + 4 ∧
        { getBurin t b with mem := u.mem, pc := u.pc } = u ∧
        ∀ x, mByte (getBurin t b).mem x = if loc ≤ x ∧ x < loc + n then mByte s.dev (bench + off + (x - loc)) else mByte u.mem x) ∧
    (mBadIn u.mem loc n = false →
      ∃ t, exec (.vxferOut b d a c [] []) s = .next t ∧ t = { s with burins := t.burins, dev := t.dev } ∧
        getBurin t b = { u with pc := u.pc + 4 } ∧ (∀ j, j ≠ b → getBurin t j = getBurin s j) ∧
        ∀ x, mByte t.dev x =
          if bench + off ≤ x ∧ x < bench + off + n then mByte u.mem (loc + (x - bench - off)) else mByte s.dev x)

/-! Macro-instructions. -/

/-- 06 R188, R162 to R174, R180; 07 R208, R215; 03 R84; 04 R127; 12 R335: an instruction that computes a tensor, once it issues and no operand has an
address fault and no accumulator overflows, stores its cells to D0, after the scales of its own groups (05 R148), and no other byte, adds the flags of its arithmetic to the job, and retires: its
region goes to its next macro-instruction, of a product with the last chunks in its operand stores (07 R191), and nothing else but reports changes. Coded
blocks that it reads pass through hoops of its region first. Where
its region cannot issue, or DRAM_TEMP holds the job's accesses (03 R77), nothing happens. -/
def Obligations.TensorResults : Prop :=
  ∀ T ∈ tensorRules, ∀ (r : Nat) (w : MacroW) (e : MemErrs) (s : State) (pl : Place),
    (seqOk s r = false ∨ hotHeld s = true → exec (T.make r w e) s = .next s) ∧
    (Issues s r (T.refuse s r w e) (T.descs s w e) (T.early s r w) pl →
    let u := dispatch s r
    let k := T.work s u r w e pl
    k.opds.findSome? (opdFault u k.p0 k.p1) = none → k.spills = false → (∀ x ∈ k.cells, x.2.isSome = true) →
    let q := tensorRun k
    ∃ t, exec (T.make r w e) s = .next t ∧ OnlyWork s t (hoopKeys (posOf s r)) ∧ AtNextHoops s t r ∧
      (k.out.crec = none → Stores k.base t e.ue (runBytes k.out (gatherRuns ((k.cells.map (·.1)).zip q.1)))) ∧
      ((∀ o ∈ k.opds, o.crec = none) → OnlyWork s t [] ∧ AtNextChunks s t r k.chunks ∧ (k.scaled = false → (k.base.dev, k.base.host) = (s.dev, s.host)) ∧
        t.job.map (·.flags) = s.job.map (fun j => j.flags ||| q.2.flags)))

/-- 06 R172, R174, R180; 04 R108; 05 R133: the cells of the instructions that work element by element on integers: sums, differences and products
scaled by the table at D3, the larger and the smaller, a table entry, an exact widening, a moved or filled element, and a merged weight. -/
def Obligations.AssayElements : Prop :=
  ∀ (s u : State) (w : MacroW) (e : MemErrs) (a b d o : Opd) (p i0 i1 i2 : Nat), w.cls = false →
    let x := elemIn u e.ue a p i0 i1 i2
    let y := elemIn u e.ue b p i0 i1 i2
    let va := intVal (fmtField s w 1) x.1
    let vb := intVal (fmtField s w 2) y.1
    let za := zpElem u e.ue a i0 i1 i2
    let zb := zpElem u e.ue b i0 i1 i2
    let zo := zpElem u e.ue o i0 i1 i2
    let tb := eltTable u e.ue w p
    let fo := fmtField s w 0
    (∀ q ∈ ([(eltAddCmd, fun x y ma mb => ma * x + mb * y), (eltSubtractCmd, fun x y ma mb => ma * x - mb * y),
        (eltMultiplyCmd, fun x y ma _ => ma * (x * y))] : List ((State → MacroW → MemErrs → PointCmd) × (Int → Int → Int → Int → Int))),
      ∃ bad, (q.1 s w e).f u e.ue [a, b] o p i0 i1 i2 = some (pure (.main
        (code (fmtBits fo) (clamp (rneShift (q.2 (va - za.1) (vb - zb.1) tb.1 tb.2.1) tb.2.2.1 + zo.1) o.x.lo o.x.hi)) bad)) ∧
        (x.2 = true ∨ y.2 = true ∨ tb.2.2.2 = true ∨ zo.2 = true → bad = true)) ∧
    (fmtField s w 2 = fmtField s w 1 → ∃ bad, (eltMaxCmd s w e).f u e.ue [a, b] o p i0 i1 i2 = some (pure (.main (if va < vb then y.1 else x.1) bad))) ∧
    (fmtField s w 2 = fmtField s w 1 → ∃ bad, (eltMinCmd s w e).f u e.ue [a, b] o p i0 i1 i2 = some (pure (.main (if vb < va then y.1 else x.1) bad))) ∧
    (let n := fmtBits fo / 8
     let k := ((descOf u w.d2).getD descZero).base + 64 * p * ((descOf u w.d2).getD descZero).pstride +
       n * (va + 2 ^ (fmtBits (fmtField s w 1) - 1)).toNat
     ∃ bad, (lutCmd s w).f u e.ue [a] o p i0 i1 i2 = some (pure (.main (devLE u e.ue k n) bad))) ∧
    (fmtInt (fmtField s w 1) = true → fmtInt fo = true → fmtMin fo ≤ fmtMin (fmtField s w 1) → fmtMax (fmtField s w 1) ≤ fmtMax fo →
      ∃ bad, (cvtCmd s w).f u e.ue [a] o p i0 i1 i2 = some (pure (.main (code (fmtBits fo) va) bad))) ∧
    (transposeCmd s w).f u e.ue [a] o p i0 i1 i2 = some (pure (.main (rawIn u e.ue a p i1 i0 i2).1 (rawIn u e.ue a p i1 i0 i2).2)) ∧
    (a.n0 = o.n0 → a.n1 = o.n1 → a.n2 = o.n2 → (copyCmd s w).f u e.ue [a] o p i0 i1 i2 =
      some (pure (.main (rawIn u e.ue a p i0 i1 i2).1 (rawIn u e.ue a p i0 i1 i2).2))) ∧
    (i0 < o.n0 → i1 < o.n1 → i2 < o.n2 →
      let i := i0 + o.n0 * (i1 + o.n1 * i2)
      let c := rawIn u e.ue a p (i % a.n0) (i / a.n0 % a.n1) (i / (a.n0 * a.n1))
      (copyCmd s w).f u e.ue [a] o p i0 i1 i2 = some (pure (.main c.1 c.2))) ∧
    (fillCmd w).f u e.ue [] o p i0 i1 i2 = some (pure (.main (o.d.padc % 2 ^ fmtBits o.f) false)) ∧
    (let rank := bits w.p0 0 8
     let d4 := (descOf s w.d4).getD descZero
     let sc := fun k => graftScale (devLE u e.ue (d4.base + 64 * p * d4.pstride + 2 * k) 2)
     let sum := ((List.range rank).map (fun j =>
       intVal .int4 (elemAt u e.ue b p j i1 0).1 * intVal .int4 (elemAt u e.ue d p i0 j 0).1)).sum
     ∃ bad, (gmergeCmd s w).f u e.ue [a, b, d] o p i0 i1 i2 = some (pure (.main
       (code 8 (mergeWeight (intVal .int8 (elemAt u e.ue a p i0 i1 i2).1) sum (sc i1) (sc (o.n1 + i0)))) bad)))

/-- 04 R104, R107, R111; 06 R168, R169, R172; 08 R217, R230: the integer cells that sum or select over many elements. An MMUL or CONV output is its
bias and the products of A less its zero point with B, summed over the reduction index and requantised; a POOL or RED sum is the sum of the
elements less their zero point; a maximum is an element that no other exceeds. -/
def Obligations.AssaySums : Prop :=
  ∀ (s : State) (w : MacroW) (e : MemErrs), w.cls = false →
    (∀ (c : ProdCmd) (sh : Share) (p m n : Nat) (st : ArithSt), c.flt = false → sh.k = none → n < c.rq.cnt →
      ∃ bad, prodCell s e.ue c sh p m n st = (.main (code (fmtBits c.o.f) (requant
        ((if c.q.hasBias then sext 32 (c.q.bias n).1 else 0) + ((List.range c.q.k).map (fun k =>
          (intVal c.q.fa (c.q.a p m n k).1 - (c.q.za (c.q.chan n k)).1) * intVal c.q.fb (c.q.b p n k).1)).sum)
        (requantAt s e.ue c.rq n).1 (requantAt s e.ue c.rq n).2.1 (zpOf s e.ue c.o n).1 c.o.x.lo c.o.x.hi)) bad, st)) ∧
    (∀ (r : Nat) (pl : Place) (p m n k : Nat), let q := prodPlan (mmulPlan s r w e pl) pl
      k < q.a.n0 → m < q.a.n1 → k < q.a.q0 → m < q.a.q1 → 0 < q.a.q2 →
      q.c.q.k = q.a.n0 ∧ q.c.q.a p m n k = elemAt s e.ue q.a p k m 0 ∧ q.c.q.chan n k = k ∧
      (0 < q.b.q2 → bit w.p1 17 = true → k < q.b.q0 → n < q.b.q1 → q.c.q.b p n k = elemAt s e.ue q.b p k n 0) ∧
      (0 < q.b.q2 → bit w.p1 17 = false → n < q.b.q0 → k < q.b.q1 → q.c.q.b p n k = elemAt s e.ue q.b p n k 0)) ∧
    (∀ (r : Nat) (pl : Place) (p m n k : Nat), let q := prodPlan (convPlan s r 0 w e pl) pl
      let v := winOf w
      let cg := q.a.n2
      let x := runOf q.a (m / q.c.o.n0)
      q.c.q.k = v.kw * v.kh * cg ∧ (n < q.c.o.n2 → m < q.c.o.n0 * q.c.o.n1 → k < q.c.q.k →
      q.c.q.a p m n k = tapCode s e.ue x.1 p (k % cg) (tapPos v (m % q.c.o.n0) x.2 (k / cg)))) ∧
    (∀ (a o : Opd) (p x y n : Nat),
      let taps := poolTaps a (winOf w) false x y
      let l := taps.map (fun t => intVal a.f (tapCode s e.ue a p n t).1)
      let acc := (l.map (fun v => v - (zpOf s e.ue a n).1)).sum
      (inI48 acc = true → ∃ bad, poolSumCell s e.ue w a o p x y n = some (pure (.main
        (code (fmtBits o.f) (requant acc 1 (bits w.p1 18 6) (zpOf s e.ue o n).1 o.x.lo o.x.hi)) bad))) ∧
      (inI48 acc = false → poolSumCell s e.ue w a o p x y n = none) ∧
      (taps ≠ [] → ∃ c bad, poolMaxCell s e.ue w a o p x y n = some (pure (.main c bad)) ∧
        c ∈ taps.map (fun t => (tapCode s e.ue a p n t).1) ∧ ∀ v ∈ l, v ≤ intVal a.f c)) ∧
    (∀ (a : Opd) (l : List (Nat × Nat × Nat)) (p : Nat),
      let vs := l.map (fun x => intVal a.f (elemIn s e.ue a p x.1 x.2.1 x.2.2).1 - (zpElem s e.ue a x.1 x.2.1 x.2.2).1)
      (∀ k, inI48 (vs.take k).sum = true) → redSum s e.ue a l p = some vs.sum)

/-- 06 R176; 09 R254 to R256: a PUT with room for its slots in hoop P0[5:0] advances TAIL by one slot for each problem, and a TAKE from a hoop that
holds its slots advances HEAD; each then retires. With one problem the slot at TAIL takes the leading bytes of D1 and its MARK, or D0 takes the
slot at HEAD, and no other memory changes. -/
def Obligations.HoopMoves : Prop :=
  ∀ (r : Nat) (w : MacroW) (e : MemErrs) (s : State) (pl : Place),
    let n := posOf s r
    let h := bits w.p0 0 6
    let u := dispatch s r
    let np := w.rep + 1
    let size := hoopBytes s n h
    n < 8 → (getRegion s r).prog = [] →
    (let o := opdOf u r e.ue w.d1 np false false (1, 1, 1)
     let tail := rd s (Fk.hoopTail n h)
     Issues s r (hoopRefuse s w 0 false) (descsOf s w [1]) none pl → opdFault u 0 np o = none → size ≤ streamLen o →
     hoopCount s n h + np ≤ rd s (Fk.hoopCfgSlots n h) → (∀ k, k < np → slotFault u n h (if k = 0 then tail else (tail + k) % 2 ^ 32) = none) →
     ∃ t, exec (.put r w e) s = .next t ∧ OnlyWork s t [Fk.hoopTail n h] ∧ AtNextHoops s t r ∧
       rd t (Fk.hoopTail n h) = (tail + np) % 2 ^ 32 ∧
       (w.rep = 0 → slotMark t r h tail = (if bit w.p0 6 then some (rd s Fk.epochCount) else none) ∧
         Stores u t e.ue (bytesAt (fun k => hoopSlotAddr s n h tail + k) (streamBytes u e.ue o 0 0 size)))) ∧
    (let o := opdOf u r e.ue w.d0 np false false (1, 1, 1)
     let head := rd s (Fk.hoopHead n h)
     Issues s r (hoopRefuse s w 1 true) (descsOf s w [0]) none pl → opdFault u 0 np o = none → size ≤ streamLen o →
     np ≤ hoopCount s n h → (∀ k, k < np → slotFault u n h (if k = 0 then head else (head + k) % 2 ^ 32) = none) →
     ∃ t, exec (.take r w e) s = .next t ∧ OnlyWork s t [Fk.hoopHead n h] ∧ AtNextHoops s t r ∧
       rd t (Fk.hoopHead n h) = (head + np) % 2 ^ 32 ∧
       (w.rep = 0 → Stores u t e.ue (bytesAt (streamAddr o 0) (spanGet u e.ue (hoopSlotAddr s n h head) size))))

/-- 09 R256, R248: a PUT on a full hoop, or a TAKE on an empty one, holds its region where the other end of the hoop is elastic: HOLD sets and the
divergence counts; where that end is scheduled, the job ends with SCHED_MISS. -/
def Obligations.HoopWaits : Prop :=
  ∀ (r : Nat) (w : MacroW) (e : MemErrs) (s : State) (pl : Place),
    let n := posOf s r
    let h := bits w.p0 0 6
    let u := dispatch s r
    let np := w.rep + 1
    n < 8 → (getRegion s r).prog = [] →
    (Issues s r (hoopRefuse s w 0 false) (descsOf s w [1]) none pl → opdFault u 0 np (opdOf u r e.ue w.d1 np false false (1, 1, 1)) = none →
      hoopBytes s n h ≤ streamLen (opdOf u r e.ue w.d1 np false false (1, 1, 1)) → slotFault u n h (rd s (Fk.hoopTail n h)) = none →
      hoopFull s n h = true →
      ∃ t, exec (.put r w e) s = .next t ∧ rd t (Fk.hoopTail n h) = rd s (Fk.hoopTail n h) ∧
        (rd s (Fk.hoopCfgTakeEnd n h) ≠ 0 → rd t Fk.schedStatusHold = 1 ∧ (getRegion t r).run = .holding ∧
          (getRegion t r).pc = (getRegion s r).pc ∧ rd t Fk.bootJobJstate = jRunning) ∧
        (rd s (Fk.hoopCfgTakeEnd n h) = 0 → rd t Fk.schedStatusMiss = 1 ∧ rd t Fk.bootJobJstate = jEnded ∧
          rd t Fk.faultJobJobCode = 0x06)) ∧
    (Issues s r (hoopRefuse s w 1 true) (descsOf s w [0]) none pl → opdFault u 0 np (opdOf u r e.ue w.d0 np false false (1, 1, 1)) = none →
      hoopBytes s n h ≤ streamLen (opdOf u r e.ue w.d0 np false false (1, 1, 1)) → slotFault u n h (rd s (Fk.hoopHead n h)) = none →
      hoopEmpty s n h = true →
      ∃ t, exec (.take r w e) s = .next t ∧ rd t (Fk.hoopHead n h) = rd s (Fk.hoopHead n h) ∧
        (rd s (Fk.hoopCfgPutEnd n h) ≠ 0 → rd t Fk.schedStatusHold = 1 ∧ (getRegion t r).run = .holding ∧
          (getRegion t r).pc = (getRegion s r).pc ∧ rd t Fk.bootJobJstate = jRunning) ∧
        (rd s (Fk.hoopCfgPutEnd n h) = 0 → rd t Fk.schedStatusMiss = 1 ∧ rd t Fk.bootJobJstate = jEnded ∧
          rd t Fk.faultJobJobCode = 0x06))

/-- 15 R405, R401, R402: a SEND whose flits the port can take at once (UP, nothing queued, a credit and a place for each) puts them out in order, numbered on,
spends the credits and retires. -/
def Obligations.Sends : Prop :=
  ∀ (r : Nat) (w : MacroW) (e : MemErrs) (s : State) (pl : Place),
    let u := dispatch s r
    let o := opdOf u r e.ue w.d1 (w.rep + 1) false false (1, 1, 1)
    let p := bits w.p0 0 4
    let x := getPort s p
    let fl := (List.range (w.rep + 1)).flatMap (fun k => flitsOf (bits w.p0 4 6) (streamBytes u e.ue o k 0 (streamLen o)))
    Issues s r (sendRefuse s r w) (descsOf s w [1]) none pl → (getRegion s r).prog = [] →
    opdFault u 0 (w.rep + 1) o = none → portState s p = psUp → x.txq = [] → x.sideQ = [] → x.unacked.length + fl.length ≤ 256 →
    fl.length ≤ rd s (Fk.tlPcredTxCredit p) →
    ∃ t, exec (.send r w e) s = .next t ∧ rd t (Fk.tlPcredTxCredit p) = rd s (Fk.tlPcredTxCredit p) - fl.length ∧
      (getPort t p).unacked = x.unacked ++ ((List.range fl.length).zip fl).map (fun y => { y.2 with seq := (x.txSeq + y.1) % 4096 }) ∧
      (getPort t p).txq = [] ∧ AtNextHoops s t r ∧ (∀ k, k ≠ p → getPort t k = getPort s k) ∧ t.dev = s.dev ∧ t.host = s.host

/-- 06 R175; 09 R250 to R252: a CHAIN of one data entry that lies in the descriptor, keeps the rules of R251 and names bytes inside the data
window moves them between the window and the tensor or one slot of the hoop, and retires; an entry that breaks R251 ends the job with
CHAIN_ENTRY. -/
def Obligations.ChainMoves : Prop :=
  ∀ (read : Bool) (r : Nat) (w : MacroW) (e : MemErrs) (s : State) (pl : Place),
    let cmd : Instr := if read then .chainRead r w e else .chainWrite r w e
    let d := (descOf s (if read then w.d1 else w.d0)).getD descZero
    let oi := if read then w.d0 else w.d1
    let od := (descOf s oi).getD descZero
    let ax := (descOf s d.aux).getD descZero
    let u := dispatch s r
    let o := opdOf u r e.ue oi 1 false false (1, 1, 1)
    let a := devLE u e.ue d.base 8
    let n := devLE u e.ue (d.base + 8) 4
    let fl := devLE u e.ue (d.base + 12) 2
    let z := devLE u e.ue (d.base + 14) 2
    let m := posOf s r
    let h := hoopIdx od
    let size := hoopBytes s m h
    let sound := a % 64 = 0 ∧ a < 2 ^ 52 ∧ fl < 4 ∧ z = 0 ∧ 0 < n ∧ n ≤ 64 * d.n1
    Issues s r (chainRefuse s w (if read then 1 else 0) (if read then 0 else 1)) (if od.kind = 4 then [] else [od]) none pl →
    w.rep = 0 → w.p0 = 1 → (getRegion s r).prog = [] → 0 < d.n0 → spanFault u d.base 16 = none → devBad u e.ue d.base 16 = false →
    (od.kind = 0 → opdFault u 0 1 o = none) →
    (od.kind = 0 → sound → bit fl 0 = false → ax.base ≤ a → a + n ≤ ax.base + descExtent ax → spanFault u a n = none → n ≤ streamLen o →
      ∃ t, exec cmd s = .next t ∧ OnlyWork s t [] ∧ AtNext s t r ∧
        Stores u t e.ue (if read then bytesAt (streamAddr o 0) (spanGet u e.ue a n) else bytesAt (fun k => a + k) (streamBytes u e.ue o 0 0 n))) ∧
    (od.kind = 4 → sound → bit fl 0 = false → ax.base ≤ a → a + n ≤ ax.base + descExtent ax → spanFault u a n = none →
      m < 8 → n ≤ size → slotFault u m h (rd s (if read then Fk.hoopTail m h else Fk.hoopHead m h)) = none →
      (read = true → hoopFull s m h = false → ∃ t, exec cmd s = .next t ∧ AtNextHoops s t r ∧
        rd t (Fk.hoopTail m h) = (rd s (Fk.hoopTail m h) + 1) % 2 ^ 32 ∧ OnlyWork s t [Fk.hoopTail m h] ∧
        Stores u t e.ue (bytesAt (fun k => hoopSlotAddr s m h (rd s (Fk.hoopTail m h)) + k)
          (spanGet u e.ue a n ++ List.replicate (size - n) (0, false)))) ∧
      (read = false → hoopEmpty s m h = false → ∃ t, exec cmd s = .next t ∧ AtNextHoops s t r ∧
        rd t (Fk.hoopHead m h) = (rd s (Fk.hoopHead m h) + 1) % 2 ^ 32 ∧ OnlyWork s t [Fk.hoopHead m h] ∧
        Stores u t e.ue (bytesAt (fun k => a + k) (spanGet u e.ue (hoopSlotAddr s m h (rd s (Fk.hoopHead m h))) n)))) ∧
    (¬ sound → bit fl 0 = false → ∃ t, exec cmd s = .next t ∧ rd t Fk.schedStatusChainEntry = 1 ∧ rd t Fk.bootJobJstate = jEnded ∧
      rd t Fk.faultJobJobCode = 0x0B ∧ t.dev = s.dev)

/-- 06 R177; 09 R259, R260: an MCAST of one problem copies the bytes of D1 to D0, which holds as many, in every Forge or region that its mask names, all
enabled; a ROTATE that the lowest region of its ring takes passes the block of every Forge to the next. Both retire. -/
def Obligations.Copies : Prop :=
  ∀ (r : Nat) (w : MacroW) (e : MemErrs) (s : State) (pl : Place),
    let d0 := (descOf s w.d0).getD descZero
    let d1 := (descOf s w.d1).getD descZero
    let d2 := (descOf s w.d2).getD descZero
    let u := dispatch s r
    let np := w.rep + 1
    let a := opdOf u r e.ue w.d1 np false false (1, 1, 1)
    (∀ p, problemShare pl np = (p, p + 1) → Issues s r (mcastRefuse s w) [d0, d1] none pl → opdFault u p (p + 1) a = none →
      let o := opdOf u r e.ue w.d0 np false false (1, 1, 1)
      let at_ := d2.base + 64 * p * d2.pstride
      let mask := devLE u e.ue at_ 16
      let l := streamBytes u e.ue a p 0 (streamLen a)
      let dst := fun (x : Nat × Nat) => streamAddr { o with d := { o.d with base := placeAddr d0.base x.1 x.2 } } p
      streamLen a ≤ streamLen o → (∀ x ∈ mcastTargets d0.base mask, spanFault u (dst x 0) (streamLen a) = none) →
      spanFault u at_ 16 = none → devBad u e.ue at_ 16 = false →
      (∀ i, i < 128 → bit mask i = true → i / 16 < regionCount u ∧ forgeEn u (i / 16) (i % 16) = true) →
      ∃ t, exec (.mcast r w e) s = .next t ∧ OnlyWork s t [] ∧ AtNext s t r ∧
        Stores u t e.ue ((mcastTargets d0.base mask).flatMap (fun x => bytesAt (dst x) l))) ∧
    (Issues s r (rotateRefuse s w) [d1] none pl →
      let ring := ringOf u (getRegion s r).pc
      let at_ := fun (x : Nat × Nat) => { a with d := { a.d with base := placeAddr d1.base x.1 x.2 } }
      (ring.head?.map (·.1) ≠ some r → ∃ t, exec (.rotate r w e) s = .next t ∧ OnlyWork s t [] ∧ AtNext s t r ∧ t.dev = s.dev) ∧
      (ring.head?.map (·.1) = some r → (ring.map at_).findSome? (opdFault u 0 np) = none →
        ∃ t, exec (.rotate r w e) s = .next t ∧ OnlyWork s t [] ∧ AtNext s t r ∧
          Stores u t e.ue (((ring.tail ++ ring.take 1).zip ring).flatMap (fun x => (List.range np).flatMap (fun p =>
            bytesAt (streamAddr (at_ x.1) p) (streamBytes u e.ue (at_ x.2) p 0 (streamLen a))))))) 

/-- 06 R178, R179; 08 R235 to R238; 11 R306 to R325: a DRAW ENC whose records all find room in their hoop, and a DRAW DEC whose records are all present,
move them and retire, and so does a PRUNE; where the stream does not begin a further pass (14 R385), a DRAW ENC goes to the next instruction. A DRAW ENC of
one problem puts its record into the hoop, which no drain takes from, and advances TAIL by its slots; a DRAW DEC takes the record at HEAD and writes the elements that R309 and R321 to R325 give; a PRUNE writes its table. -/
def Obligations.CodecInstructions : Prop :=
  ∀ (r : Nat) (w : MacroW) (e : MemErrs) (s : State) (pl : Place),
    let u := dispatch s r
    let np := w.rep + 1
    let x := getRegion s r
    let p := x.prog.headD 0
    let mk := fun i => withAuxAxis (opdOf u r e.ue (dField w i) np false true (1, 1, 1)) false false false
    let d4 := (descOf u w.d4).getD descZero
    let n := posOf s r
    let sk := drawSkip u r w
    let st := drawStore u r pl
    let extra := if pres w 2 then [mk 2] else []
    (let h := hoopIdx ((descOf u w.d0).getD descZero)
     let pass := fun v => encPass v (bits w.p0 0 7) (drawAudio u w)
     let i := { mk 1 with n0 := drawN0 u r w (mk 1).n0 }
     let q := encRecord u e.ue sk st w i (mk 2) (mk 3) d4 0
     let k := (recSlots (hoopBytes s n h) q.1).length
     let f := fun b s => encDrawTry w e r h sk st (laneArea u r pl) i (mk 2) (mk 3) d4 b (if b = p then x.prog.getD 1 0 else 0)
       (if b = p then x.draw.bind (·.staged) else none) s
     Issues s r (drawRefuse s r w 0) (descsOf s w [1, 3]) none pl → ([i, mk 3] ++ extra).findSome? (opdFault u p np) = none →
     (∀ v, drawRecords f (np - p) p u = some v →
       ∃ t, exec (.drawEnc r w e) s = .next t ∧ (pass t ≤ pass u → AtNextFlow s t r) ∧ (t.dev, t.host) = (v.dev, v.host)) ∧
     (w.rep = 0 → x.prog = [] → x.draw = none → n < 8 → hoopCount s n h + k ≤ rd s (Fk.hoopCfgSlots n h) → rd s (Fk.hoopCfgTakeEnd n h) ≠ 4 →
       ∃ t, exec (.drawEnc r w e) s = .next t ∧ (pass t ≤ pass u → AtNextFlow s t r) ∧
         rd t (Fk.hoopTail n h) = (rd s (Fk.hoopTail n h) + k) % 2 ^ 32)) ∧
    (let h := hoopIdx ((descOf u w.d1).getD descZero)
     let o := withAuxAxis (withEdge u e.ue (instrOf u r) (opdOf u r e.ue w.d0 np false false (1, 1, 1))) false false false
     let o := { o with n0 := drawN0 u r w o.n0 }
     Issues s r (drawRefuse s r w 1) (descsOf s w [0, 3]) none pl → ([o, mk 3] ++ extra).findSome? (opdFault u p np) = none →
     (∀ v, drawRecords (fun b s => decDrawTry w e r h sk st o (mk 2) (mk 3) d4 b s) (np - p) p u = some v →
       ∃ t, exec (.drawDec r w e) s = .next t ∧ AtNext s t r ∧ (t.dev, t.host) = (v.dev, v.host)) ∧
     (w.rep = 0 → x.prog = [] → x.draw = none → n < 8 → ∀ k, recordSlots u r h = some k →
       ∃ t, exec (.drawDec r w e) s = .next t ∧ AtNext s t r ∧ rd t (Fk.hoopHead n h) = (rd s (Fk.hoopHead n h) + k) % 2 ^ 32 ∧
         (o.crec = none → Stores u t e.ue (runBytes o (gatherRuns (decCells u e.ue sk st w r h k o (mk 2) (mk 3) d4 0).1))))) ∧
    (let d0 := (descOf s w.d0).getD descZero
     let d1 := (descOf s w.d1).getD descZero
     let dl := withAuxAxis (opdOf u r e.ue w.d2 np false false (1, 1, 1)) false false false
     let sc := withAuxAxis (opdOf u r e.ue w.d3 np false false (1, 1, 1)) false false false
     Issues s r (pruneRefuse s w) (descsOf s w [2, 3]) none pl → [dl, sc].findSome? (opdFault u 0 np) = none →
     (∀ b, b < np → tableFault u w.d1 np (d1.base + 64 * b * d1.pstride) (64 + 8 * dl.n1) = none ∧
       tableFault u w.d0 np (d0.base + 64 * b * d0.pstride) (64 + 16 * (bits w.p1 0 12 + 1)) = none) →
     ∃ t, exec (.prune r w e) s = .next t ∧ AtNext s t r ∧
       (w.rep = 0 → (∀ c, regionCtx u r = some c → (getS u c false).enc = none) →
         Stores u t e.ue (bytesAt (fun k => d0.base + k) ((pruneOut w (pruneCands u e.ue d1 dl sc 0)).map
           (fun b => (b, pruneBad u e.ue d1 dl sc 0))))))

/-- 06 R181, R166; 02 R53; 17 R460; 19 R510: the control instructions of a region that can issue. NOP, TEMPER and POST retire; TEMPER adds its set to PENDING
where it is STAGED, and POST asks for its record; LAYER and BAR wait, BAR with its scope and the edge of its arrival; BURIN starts every
Burin it names at its entry and waits for them. Memory does not change. -/
def Obligations.ControlInstructions : Prop :=
  ∀ (r : Nat) (w : MacroW) (s : State), seqOk s r = true → ctrlRefuse w = none → segmentReady s r = true →
    let x := getRegion s r
    let n := bits w.p0 0 16
    let named := (List.range 32).filter (fun k => bit w.p1 (k / 2) && bit w.p1 (16 + k % 2))
    let others := fun (t : State) => ∀ k, k ≠ r → getRegion t k = getRegion s k
    (∃ t, exec (.nopMacro r w) s = .next t ∧ OnlyWork s t [] ∧ AtNext s t r ∧ t.dev = s.dev ∧ t.host = s.host) ∧
    (n < 16 → ∃ t, exec (.temperMark r w) s = .next t ∧ OnlyWork s t [Fk.temperSetsPending] ∧ others t ∧ t.dev = s.dev ∧ t.host = s.host ∧
      (∀ j, s.job = some j →
        let mk := if rdBit s Fk.temperSetsStaged n then x.marked ++ [n] else x.marked
        getRegion t r = { x with pc := pcFrom j r (x.pc + 1), run := .running, prog := [], draw := none, marked := mk }) ∧
      rd t Fk.temperSetsPending = (if rdBit s Fk.temperSetsStaged n then rd s Fk.temperSetsPending ||| 2 ^ n else rd s Fk.temperSetsPending)) ∧
    (s.waitRecs.length < 256 → ∃ t, exec (.post r w) s = .next t ∧ AtNext s t r ∧ t.dev = s.dev ∧ t.host = s.host ∧
      t.job = s.job.map (fun j => { j with posts := j.posts ++ [⟨r, x.pc, w.p0 % 2 ^ 32, bits w.p1 0 9, bit w.p1 9⟩] })) ∧
    (∃ t, exec (.layer r w) s = .next t ∧ OnlyWork s t [] ∧ others t ∧ getRegion t r = { x with run := .layer } ∧
      t.dev = s.dev ∧ t.host = s.host) ∧
    (∃ t, exec (.bar r w) s = .next t ∧ others t ∧ t.dev = s.dev ∧ t.host = s.host ∧ t.job = s.job ∧
      { getRegion t r with ballastW := x.ballastW, ballastSince := x.ballastSince } =
        { x with run := .barrier, scope := w.p0 % 2, arrivedAt := s.cc }) ∧
    (named ≠ [] → (∀ k ∈ named, forgeEn s r (k / 2) = true) →
      (if n = 0xFFFF then (s.job.map (·.burinEntry)).getD 0 else n) < (s.job.map (·.burinBytes)).getD 0 → ∃ t, exec (.burin r w) s = .next t ∧ others t ∧ t.dev = s.dev ∧ t.host = s.host ∧
      t.job = s.job ∧ getRegion t r = { x with run := .burins, burinMask := (named.map (fun k => 2 ^ k)).sum } ∧
      ∀ b, getBurin t b = (if b / 32 = r ∧ b % 32 ∈ named then
        { getBurin s b with pc := BitVec.ofNat 16 (if n = 0xFFFF then (s.job.map (·.burinEntry)).getD 0 else n), running := true }
        else getBurin s b))

/-- 06 R181; 19 R502, R509: HALT ends the stream of its region, and the last region's HALT ends the job: JSTATE 4, RUN and every STOP complete, and no
fault is recorded. LAYER_RETIRE lets a region that waits at a LAYER go on. POST_WRITE takes the first POST whose earlier instructions have all
retired. -/
def Obligations.StreamEnds : Prop :=
  ∀ (r : Nat) (w : MacroW) (s : State) (j : Job), s.job = some j →
    (seqOk s r = true → ctrlRefuse w = none →
      ∃ t, exec (.halt r w) s = .next t ∧ (getRegion t r).run = .halted ∧ (getRegion t r).pc = (getRegion s r).pc ∧
        (∀ k, k ≠ r → (getRegion t k).run = (getRegion s k).run ∧ (getRegion t k).pc = (getRegion s k).pc) ∧
        t.dev = s.dev ∧ rd t Fk.faultJobJobCode = rd s Fk.faultJobJobCode ∧
        ((∃ k ∈ jobRegions j, k ≠ r ∧ (getRegion s k).run ≠ .halted) → rd t Fk.bootJobJstate = jRunning ∧ t.job = some j ∧ t.host = s.host) ∧
        ((∀ k ∈ jobRegions j, k ≠ r → (getRegion s k).run = .halted) → rd t Fk.bootJobJstate = jEnded ∧
          t.job = some { j with run := none, stops := [], waiting := false } ∧
          ∀ e, j.run = some e ∨ e ∈ j.stops → ∀ x ∈ (getWq t e.q).entries, x.idx ≠ e.idx)) ∧
    (running s = true → (getRegion s r).run = .layer → ∃ t, exec (.layerRetire r) s = .next t ∧ t.dev = s.dev ∧ t.host = s.host ∧
      (∃ l, getRegion t r = { getRegion s r with
        pc := pcFrom j r ((getRegion s r).pc + 1), run := .running, prog := [], draw := none, lastStretch := l }) ∧
      ∀ k, k ≠ r → getRegion t k = getRegion s k) ∧
    (∀ p, j.posts.find? (fun p => retiredBefore s j p.instr) = some p →
      ∃ t, exec .postWrite s = .next t ∧ t.job = some { j with posts := j.posts.erase p } ∧ t.dev = s.dev ∧ t.regions = s.regions ∧
        ((getWq s 0).cqSet = true → cqRoom s 0 = true → (∀ x ∈ s.waitRecs, x.q ≠ 0) →
          rd t (Fk.wqHeadsCqTail 0) = (rd s (Fk.wqHeadsCqTail 0) + 1) % 2 ^ 20 ∧ t.waitRecs = s.waitRecs) ∧
        ((getWq s 0).cqSet = true → cqRoom s 0 = false → ∃ b v, t.waitRecs = s.waitRecs ++ [⟨0, b, v⟩] ∧ b.take 4 = toLE 4 p.tag))

/-- 18 R471, R472, R478; 19 R511: a job-scope fault of a running job ends it: JSTATE 4 with JOB_CODE and JOB_TAG, every region and Burin stopped, the
job's entries gone from every queue, device memory as it stands; a part-scope fault ends the part's job, running or not (the model's reading, log entry 124), the same way, keeps the first PART_CODE and ends
service, and leaves JOB_CODE (the model's reading, log entry 100). A word that
Izuno-S does not list raises BURIN_ILLEGAL in a running Burin (06 R182). -/
def Obligations.FaultsEndJobs : Prop :=
  let ends := fun (s t : State) =>
    rd t Fk.bootJobJstate = jEnded ∧ (∀ r, (getRegion t r).run = .stopped ∨ (getRegion t r).run = .idle) ∧ (∀ b, (getBurin t b).running = false) ∧
    (∀ q, q < 64 → ∀ e ∈ (getWq t q).entries, jobEntry e = false) ∧ t.dev = s.dev ∧ running t = false
  let ended := fun (s t : State) (code : Nat) =>
    ends s t ∧ rd t Fk.faultJobJobCode = code ∧ rd t Fk.faultJobJobTag = rd s Fk.tlCtlJobTag
  (∀ (s : State) (f : FaultRec), running s = true → ended s (jobFault s f) f.code) ∧
  (∀ (s : State) (f : FaultRec), loaded s = true → ends s (partFault s f) ∧ rd (partFault s f) Fk.faultJobJobCode = rd s Fk.faultJobJobCode ∧ (partFault s f).part.service = false ∧
    rd (partFault s f) Fk.faultPartPartCode = (if rd s Fk.faultPartPartCode = 0 then f.code else rd s Fk.faultPartPartCode)) ∧
  (∀ (b word : Nat) (s : State), burinOk s b = true → ∃ t, exec (.unlistedEncoding b word) s = .next t ∧ ended s t 0x07)

/-! Boot, resets and units. -/

/-- 19 R494 to R498: the stages of boot. Each goes to the next, or to FAILED with its stage and code; fuses give the enabled positions and Forges and bring
PCIe up; a device that does not train is down; a memory that fails BIST isolates its Forge or region; boot is READY where some region has passed
its self-test. -/
def Obligations.BootStages : Prop :=
  let failed := fun (t : State) (st code : Nat) =>
    stage t = 8 ∧ rd t Fk.bootStateFailStage = st ∧ rd t Fk.bootStateFailCode = code
  ∀ s : State,
    (stage s = 0 → ∃ t, exec .railsWithinBand s = .next t ∧ stage t = 1 ∧ t.part.tap = 0 ∧ t.part.pinsDriven = false) ∧
    (stage s = 1 → (∃ t, exec (.bootPll true) s = .next t ∧ stage t = 2 ∧ t.part.pllAt = s.cc) ∧
      ∃ t, exec (.bootPll false) s = .next t ∧ failed t 1 1) ∧
    (stage s = 2 → (∃ t, exec (.bootFuse none) s = .next t ∧ failed t 2 2) ∧
      ∀ x : FuseIn, ∃ t, exec (.bootFuse (some x)) s = .next t ∧ stage t = 3 ∧ t.part.pcieUp = true ∧
        rd t Fk.geomRegionsRegionMask = (if x.fused < 8 then 255 - 2 ^ x.fused else 255) ∧
        rd t Fk.geomRegionsRegionCount = (if x.fused < 8 then 7 else 8) ∧
        ∀ n, n < 8 → rd t (Fk.geomForgeMaskForgeEn n) = if n = x.fused then 0 else x.forges.getD n 0 % 65536) ∧
    (stage s = 3 → (∃ t, exec (.bootFlash none none) s = .next t ∧ failed t 3 3) ∧
      (∀ (x : FlashIn) (b : Option FlashIn), ∃ t, exec (.bootFlash (some x) b) s = .next t ∧ stage t = 4 ∧ rd t Fk.bootStateCopy = 0 ∧
        t.part.vendorId = x.vendorId % 65536) ∧
      ∀ x : FlashIn, ∃ t, exec (.bootFlash none (some x)) s = .next t ∧ stage t = 4 ∧ rd t Fk.bootStateCopy = 1) ∧
    (stage s = 4 → ∀ fails, ∃ t, exec (.bootMemtrain fails) s = .next t ∧ stage t = 5 ∧ ∀ d ∈ fails,
      (d < 16 → rdBit t Fk.faultDownMemStacks d = true) ∧ (16 ≤ d → d < 48 → rdBit t Fk.faultDownMemPackages (d - 16) = true)) ∧
    (stage s = 5 → ∀ x : BistIn, (∀ y ∈ x.forges, y.1 < 8) → (∀ n ∈ x.crucibles, n < 8) →
      ∃ t, exec (.bootBist x) s = .next t ∧ stage t = 6 ∧
        (∀ y ∈ x.forges, rdBit t (Fk.geomForgeMaskForgeEn y.1) (y.2 % 16) = false) ∧
        ∀ n ∈ x.crucibles, rdBit s Fk.geomRegionsRegionMask n = true →
          rd t (Fk.geomForgeMaskForgeEn n) % 65536 = 0 ∧ rdBit t Fk.bootResultStIsolated n = true) ∧
    (stage s = 6 → (∀ runs other static uMin, ∃ t, exec (.bootSelftest runs other static uMin) s = .next t ∧
        (rd t Fk.bootResultStPass = 0 → failed t 6 4) ∧ (rd t Fk.bootResultStPass ≠ 0 → stage t = 7 ∧ rd t Fk.geomIdGeomVersion = 1) ∧
        ∀ n, n < 8 → rdBit t Fk.bootResultStPass n = (rdBit s Fk.bootResultStPass n || (rdBit s Fk.geomRegionsRegionMask n &&
          decide (rd s (Fk.geomForgeMaskForgeEn n) ≠ 0) && match runs.find? (fun x => x.pos = n) with
            | some x => x.ok && decide (x.hallmark = if selfTestProfile s then selfTestHallmark else other)
            | none => false))) ∧
      ∀ n, n < 8 → rdBit s Fk.geomRegionsRegionMask n = true → ∃ t, exec (.selftestTimeout n) s = .next t ∧ stage t = 6 ∧
        rd t (Fk.geomForgeMaskForgeEn n) % 65536 = 0 ∧ rdBit t Fk.bootResultStIsolated n = true)

/-- 00 R12; 19 R491, R492, R495; 21 R538, R545: a cold reset leaves the part as State.reset has it, whatever was in it. A warm reset from any stage after
RESET ends the job, returns every register that it does not keep to its reset value, empties regions, Burins and queues, keeps EPOCH.COUNT and the
entries of the Heartwood records, counts itself and goes to FLASH. (Device memory is kept by the model's choice, log entry 30.) -/
def Obligations.Resets : Prop :=
  let cold := fun (s : State) => ({ State.reset with host := s.host, pending := s.pending, out := s.out, free := s.free } : State)
  let warm := fun (s t : State) =>
    stage t = 3 ∧ rd t Fk.bootStateWarm = 1 ∧ t.job = none ∧ t.regions = [] ∧ t.burins = [] ∧ t.waitRecs = [] ∧ t.ctxs = [] ∧ t.sets = [] ∧
    rd t Fk.epochCount = rd s Fk.epochCount ∧ rd t Fk.bootResultWarmCount = (rd s Fk.bootResultWarmCount + 1) % 2 ^ 32 ∧
    (∀ n, (getHw t n).ring = (getHw s n).ring ∧ (getHw t n).written = (getHw s n).written) ∧
    (∀ k, regKept k = false → k ≠ Fk.bootStateStage → k ≠ Fk.bootStateWarm → rd t k = regReset k) ∧
    (∀ q i, (getSlot t q i).st = .free) ∧ t.dev = s.dev ∧ t.host = s.host
  ∀ s : State,
    exec .coldReset s = .next (cold s) ∧ exec (.railOutOfBand 0) s = .next (cold s) ∧
    (∀ n, 2 ≤ n → n ≤ 17 → stage s ≠ 0 → stage s ≠ 7 → exec (.railOutOfBand n) s = .next (cold s)) ∧
    (∀ n, 2 ≤ n → n ≤ 17 → stage s = 7 → s.part.service = true → ∃ t, exec (.railOutOfBand n) s = .next t ∧ t.part.service = false ∧
      rd t Fk.faultPartPartCode = (if rd s Fk.faultPartPartCode = 0 then 0x18 else rd s Fk.faultPartPartCode)) ∧
    (stage s ≠ 0 → (∃ t, exec .warmReset s = .next t ∧ warm s t) ∧ (∃ t, exec .warmResetCmd s = .next t ∧ warm s t ∧ .mgmt 0 [] ∈ t.out) ∧
      (s.part.pcieUp = true → ∃ t, exec .bootCtlWarmReset s = .next t ∧ warm s t))

/-- 02 R39; 18 R469 to R472; 21 R527: the faults of units and interfaces. A loss of PLL lock stops the clocks and, like a control error of the chip, ends
service; a down device sets its bit; a Forge or region that fails is isolated at once, and GEN counts the cycle; each faults the part's job that uses it, running or not (the model's reading, log entry 124). The
host link going down disables every queue and faults that job, and its return enables none. -/
def Obligations.UnitFaults : Prop :=
  let partCode := fun (s t : State) (c : Nat) =>
    rd t Fk.faultPartPartCode = (if rd s Fk.faultPartPartCode = 0 then c else rd s Fk.faultPartPartCode) ∧ t.part.service = false
  let jobCode := fun (t : State) (c : Nat) => rd t Fk.bootJobJstate = jEnded ∧ rd t Fk.faultJobJobCode = c
  ∀ s : State,
    (∃ t, exec .pllLock s = .next t ∧ t.part.clocks = false ∧ partCode s t 0x19 ∧ (loaded s = true → rd t Fk.bootJobJstate = jEnded)) ∧
    (∀ u i, ∃ t, exec (.chipCtrl u i) s = .next t ∧ partCode s t 0x18 ∧ (loaded s = true → rd t Fk.bootJobJstate = jEnded)) ∧
    (∀ d, d < 48 → ∃ t, exec (.memPhy d) s = .next t ∧ (d < 16 → rdBit t Fk.faultDownMemStacks d = true) ∧
      (16 ≤ d → rdBit t Fk.faultDownMemPackages (d - 16) = true) ∧ (trafficOn s d = true → jobCode t 0x14)) ∧
    (s.part.pcieUp = true → ∀ l, ∃ t, exec (.hostLink l) s = .next t ∧ t.part.pcieUp = false ∧ (∀ q, q < 64 → rd t (Fk.wqSqEnable q) = 0) ∧
      t.host = s.host ∧ (loaded s = true → jobCode t 0x17)) ∧
    (3 ≤ stage s → stage s ≠ 8 → ∃ t, exec .pcieLinkReturn s = .next t ∧ t.part.pcieUp = true ∧ t.regs = s.regs) ∧
    (∀ n r f u c, n < 8 → logicalOf s n = some r → f < 16 → ∃ t, exec (.forgeFault n f u c) s = .next t ∧
      rdBit t (Fk.geomForgeMaskForgeEn n) f = false ∧ (jobUsesForge s r f = true → jobCode t 0x15) ∧
      (rdBit s (Fk.geomForgeMaskForgeEn n) f = true →
        rd t Fk.geomGen = (if s.part.genAt = some s.cc ∧ stage s ≠ 5 ∧ stage s ≠ 6 then rd s Fk.geomGen else (rd s Fk.geomGen + 1) % 2 ^ 32) ∧
        rdBit t (Fk.geomForgeMaskIsolated n) f = true)) ∧
    (∀ n r u c, n < 8 → logicalOf s n = some r → ∃ t, exec (.regionFault n u c) s = .next t ∧
      rd t (Fk.geomForgeMaskForgeEn n) % 65536 = 0 ∧ (jobUsesRegion s r = true → jobCode t 0x16)) ∧
    (∀ n r, n < 8 → logicalOf s n = some r → loaded s = false → rd s (Fk.faultPendForges n) < 65536 → ∃ t, exec (.pendingIsolation n) s = .next t ∧
      rd t (Fk.faultPendForges n) = 0 ∧ (rd s (Fk.faultPendRegion n) = 1 → rd t (Fk.faultPendRegion n) = 0 ∧
        rd t (Fk.geomForgeMaskForgeEn n) % 65536 = 0) ∧
      ∀ f, f < 16 → rdBit s (Fk.faultPendForges n) f = true → rdBit t (Fk.geomForgeMaskForgeEn n) f = false)

/-! Host accesses. -/

/-- 00 R11, R14; 19 R495, R500; 21 R526: an aligned write of 4 or 8 bytes to a register of BAR0 changes each of its fields by its access code and no other
register; fields of a register have distinct places. The MSI-X table takes the bytes written; before READY nothing but BOOT.CTL is written. (The
registers that act when written, TEMPER.CMD, BOOT.CTL, HW.STATE and the doorbells, have statements of their own.) -/
def Obligations.RegisterWrites : Prop :=
  ∀ (s : State) (off size v : Nat), s.part.pcieUp = true →
    let o := off / 8 * 8
    let b := 8 * (off % 8)
    (booted s = true → size = 4 ∨ size = 8 → off % size = 0 → off < 0x4000000 → fusedWindow s off = false → hwStateAt o = none →
      o ≠ 0xF000 → o ≠ 0x10 → ¬ (0x180000 ≤ off ∧ off < 0x182000) → ¬ (0x40000 ≤ off ∧ off < 0x80000) →
      ((fieldsAt o).map (·.lo)).Nodup →
      ∃ t, exec (.registerWrite off size v) s = .next t ∧
        t = { s with regs := t.regs, staging := t.staging, written := t.written } ∧
        (∀ f ∈ fieldsAt o, FieldTakes s t f (64 * o + f.lo) b (8 * size) (v % 2 ^ (8 * size))) ∧
        ∀ k, (∀ f ∈ fieldsAt o, k ≠ 64 * o + f.lo) → rd t k = rd s k ∧ stagedVal t k = stagedVal s k) ∧
    (booted s = true → 0x180000 ≤ off → off < 0x182000 → ∃ t, exec (.registerWrite off size v) s = .next t ∧
      t = { s with msixTable := t.msixTable } ∧ ∀ x, mByte t.msixTable x =
        if off % 0x2000 ≤ x ∧ x < off % 0x2000 + size then (toLE size v).getD (x - off % 0x2000) 0 else mByte s.msixTable x) ∧
    (booted s = false → o ≠ 0x10 → exec (.registerWrite off size v) s = .next s)

/-- 03 R75, R86 to R88; 18 R478; 19 R495, R500; 21 R525: a BAR4 read delivers the bytes of its window, 0 outside every window, and EP where a byte is poisoned;
an accepted BAR4 write stores its bytes and one that is not accepted is counted and discarded. Configuration requests are retried until FLASH
completes, then give the IDs and set the size of BAR4. A doorbell moves the tail of an enabled queue or sets DBERR; thawing ends a freeze, but not one of this very
cycle (00 R11). -/
def Obligations.HostAccesses : Prop :=
  ∀ (s : State), s.part.pcieUp = true →
    (∀ o n ue ce,
      let y := Out.bar4 ((List.range n).map (fun k => (bar4Byte s ue (o + k)).1)) ((List.range n).any (fun k => (bar4Byte s ue (o + k)).2))
      (ue = [] → ce = [] → exec (.bar4Read o n ue ce) s = .next { s with out := y :: s.out }) ∧
      ∃ t, exec (.bar4Read o n ue ce) s = .next t ∧ t.dev = s.dev ∧ t.host = s.host ∧ y ∈ t.out) ∧
    (∀ o ue, (winAddr s o = none → bar4Byte s ue o = (0, false)) ∧
      ∀ a w, winAddr s o = some (a, w) → remoteShut s a = false → slotOf s a = none → bar4Byte s ue o = devByte s ue a) ∧
    (∀ o l bad e a, winAddr s o = some (a, true) → remoteShut s a = false → (∀ k, k < l.length → slotOf s (a + k) = none) →
      ∃ t, exec (.bar4Write o l bad e) s = .next t ∧ Stores s t e.ue (bytesAt (fun k => a + k) (l.map (fun b => (b, bad))))) ∧
    (∀ o l bad e a w, winAddr s o = some (a, w) → w = false ∨ remoteShut s a = true → ∃ t, exec (.bar4Write o l bad e) s = .next t ∧
      t.dev = s.dev ∧ rd t (Fk.tallyCount tBar4Discard) = min (rd s (Fk.tallyCount tBar4Discard) + 1) (2 ^ 48 - 1)) ∧
    (∀ off r, stage s ≤ 3 → exec (.configRequest off r) s = .next { s with out := .cfg true 0 :: s.out }) ∧
    (3 < stage s → stage s ≠ 8 →
      (∀ off k, k ≤ 6 → exec (.configRequest off (some k)) s = .next (emit { s with part := { s.part with bar4Gib := 2 ^ k } } (.cfg false 0))) ∧
      exec (.configRequest 0 none) s = .next { s with out := .cfg false (0xF008 * 65536 + s.part.vendorId) :: s.out } ∧
      exec (.configRequest 0x2C none) s = .next { s with out := .cfg false s.part.subsysId :: s.out } ∧
      ∃ t y, exec (.configRequest 8 none) s = .next t ∧ t.out = .cfg false y :: s.out ∧ y / 256 = 0x120000) ∧
    (booted s = true →
      (∀ q v, q < 64 → (doorbellOk s q v = true → exec (.doorbell q v) s = .next (modWq s q (fun w => { w with doorbell := v, tail := v }))) ∧
        (doorbellOk s q v = false → exec (.doorbell q v) s = .next (raise s (Fk.wqStatusDberr q)))) ∧
      ∀ n, n ≤ 8 → (n < 8 → rdBit s Fk.geomRegionsRegionMask n = true) → ∃ t, exec (.thawRecord n) s = .next t ∧
        (getHw t n).frozen = ((getHw s n).frozen && decide (raisedNow s (frozenKey n) ≠ 0)) ∧ (getHw t n).ring = (getHw s n).ring ∧ (getHw t n).queue = (getHw s n).queue ∧ t.regs = s.regs)

/-- 19 R500, R502, R503, R507, R508: what entries do. A fetch takes the next entry, or refuses it as ENTRY where it arrives poisoned or breaks the format;
NOP completes; RELEASE frees a slot that is not PENDING; ITEM is staged, STOP awaits the release, and CLOSE lets END follow the last access
unit, or they are refused with the code of R503. -/
def Obligations.QueueEntries : Prop :=
  ∀ (s : State) (q : Nat), queueUp s = true →
    (∀ bad, rd s (Fk.wqSqEnable q) ≠ 0 → rd s (Fk.wqHeadsSqHead q) ≠ (getWq s q).tail →
      let head := rd s (Fk.wqHeadsSqHead q)
      let l := hostRead s bad (rd s (Fk.wqSqSqPage q) * 4096 + head % ringSize (rd s (Fk.wqSqSqLog2 q)) * 64) 64
      let e := parseEntry q head l.1
      ∃ t, exec (.entryFetch q bad) s = .next t ∧ rd t (Fk.wqHeadsSqHead q) = (head + 1) % 2 ^ 20 ∧
        (bad = true → exec (.hostReadError 0 q 0 0 0) s = .next t ∧ rd t (Fk.wqStatusFetchPoison q) = 1) ∧
        (l.2 = true ∨ entryBad s e l.1 = true → Completes s t e 3 0xE) ∧
        (l.2 = false → entryBad s e l.1 = false → (getWq t q).entries = (getWq s q).entries ++ [e] ∧
          (getWq t q).todo = (getWq s q).todo ++ [e])) ∧
    (∀ e, nextTodo s q 7 = some e → ∃ t, exec (.nopEntry q) s = .next t ∧ Completes s t e 0 0) ∧
    (∀ e, nextTodo s q 6 = some e → ∃ t, exec (.releaseEntry q) s = .next t ∧
      ((getSlot s q e.slot).st = .pending → Completes s t e 3 0xA) ∧
      ((getSlot s q e.slot).st ≠ .pending → Completes s t e 0 0 ∧ (getSlot t q e.slot).st = .free)) ∧
    (∀ e, nextTodo s q 3 = some e → ∃ t, exec (.stopEntry q) s = .next t ∧
      (q ≠ 0 → Completes s t e 3 0xB) ∧ (q = 0 → jobActive s = false → Completes s t e 3 0xC) ∧
      (q = 0 → jobActive s = true → rd s Fk.bootJobJstate ≠ jPaused → t.job = s.job.map (fun j => { j with stops := j.stops ++ [e] }) ∧ t.regs = s.regs) ∧
      (q = 0 → jobActive s = true → rd s Fk.bootJobJstate = jPaused → rd t Fk.bootJobJstate = jEnded)) ∧
    (∀ e, nextTodo s q 4 = some e → ∃ t, exec (.itemEntry q) s = .next t ∧
      (ctxOk s q e.ctx = false → Completes s t e 3 0xD) ∧
      (ctxOk s q e.ctx = true → (getSlot s q e.slot).st ≠ .free → Completes s t e 3 0xA) ∧
      (ctxOk s q e.ctx = true → (getSlot s q e.slot).st = .free →
        (getCtx t e.ctx).items = (getCtx s e.ctx).items ++ [⟨e, [], [], false, none, false, []⟩] ∧ t.regs = s.regs)) ∧
    (∀ e, nextTodo s q 5 = some e →
      (ctxOk s q e.ctx = false → ∃ t, exec (.closeEntry q) s = .next t ∧ Completes s t e 3 0xD) ∧
      (ctxOk s q e.ctx = true → (getS s e.ctx false).enc = none → (getS s e.ctx true).enc = none →
        ∃ t, exec (.closeEntry q) s = .next t ∧ Completes s t e 0 0 ∧
          (rd s (Fk.ctxCfgDir e.ctx) ≠ 1 → (getS s e.ctx false).pkg.isSome = true →
            (getCtx t e.ctx).drain.vEnd = some (endSlot (getS s e.ctx false).lastSlot (getCtx s e.ctx).drain.vSlot))))

/-- 06 R161; 09 R243; 19 R503, R504: a LOAD that a check of R503 stops is refused with its code and leaves the job; one that the part would admit and
the host loader refuses (01 R27, 03 R94, 05 R138, R146, 06 R154, R181, 09 R242, R245, 10 R270 to R273, R291, 11 R303, R304, 14 R376, 15 R409, 20 R519)
never reaches it; an admitted one parses its image into the job, writes the Izuno-S image to every Burin and leaves JSTATE 1. A RUN of a loaded job writes the shape table into every region and waits for its
first release, with SHAPE_OVER before the start where a shape is above its largest bucket or, by the model's reading (log entry 18), a window's excess
breaches 08 R218. -/
def Obligations.LoadAndRun : Prop :=
  ∀ (s : State), queueUp s = true →
    (∀ q x, loadHeld q s = true → exec (.loadEntry q x) s = .next s) ∧
    (∀ q x e, nextTodo s q 1 = some e → q ≠ 0 → ∃ t, exec (.loadEntry q x) s = .next t ∧ Completes s t e 3 0xB ∧ t.job = s.job) ∧
    (∀ x e, nextTodo s 0 1 = some e → loadHeld 0 s = false →
      let y := admission (actOn s e) e x
      let l := devBytes s [] e.addr0 e.len0
      let img := (l.drop (le l 0x28 8)).take (le l 0x30 4)
      let bare := fun (j : Job) => { j with banks := [], bankBad := [], saveAddr := 0, saveLen := 0, resumed := false }
      (∀ r, loadRefused (actOn s e) e x = some r → y.2 = none ∧ exec (.loadEntry 0 x) s = .refused (.loaderRefuses r)) ∧
      (loadRefused (actOn s e) e x = none → ∃ t, exec (.loadEntry 0 x) s = .next t ∧
        (loaded s = true → y.2 = some 1) ∧
        (∀ c, y.2 = some c → Completes s t e 3 c ∧ t.job = s.job ∧ t.dev = s.dev ∧ rd t Fk.bootJobJstate = rd s Fk.bootJobJstate) ∧
        (y.2 = none → (∃ h, (e.addr1 = 0 → h = s.host) ∧ Completes { s with host := h } t e 0 0) ∧ rd t Fk.bootJobJstate = jLoaded ∧ t.job.map bare = some (bare (parseJob l e.addr0 e x)) ∧
          (e.addr1 = 0 → t.dev = s.dev) ∧ ∀ b, b < 32 * regionCount s → (getBurin t b).running = false ∧
            ∀ i, i < img.length → mByte (getBurin t b).mem i = img.getD i 0))) ∧
    (∀ q bad e, nextTodo s q 2 = some e →
      let tb := if e.addr0 = 0 then (List.replicate 192 0, false) else hostRead s bad e.addr0 192
      let v := setShapes (actOn s e) tb.1
      ∃ t, exec (.runEntry q bad) s = .next t ∧ (bad = true → exec (.hostReadError 2 q 0 0 0) s = .next t) ∧
        (e.q ≠ 0 → Completes s t e 3 0xB) ∧ (e.q = 0 → s.job = none → Completes s t e 3 0xC) ∧
        ∀ j, s.job = some j → e.q = 0 →
          (rd s Fk.bootJobJstate ≠ jLoaded ∨ j.waiting = true → Completes s t e 3 0xC) ∧
          (rd s Fk.bootJobJstate = jLoaded → j.waiting = false →
            (∀ z, runShapeOver v tb.1 j = some z → Completes s t e 2 0x01 ∧ rd t Fk.faultJobJobCode = 0x01 ∧
              rd t Fk.bootJobJstate = jLoaded) ∧
            (runShapeOver v tb.1 j = none → e.set = 0xFFFF → hoopsReady s = true →
              t.job = some { j with run := some e, shapeTab := tb.1, waiting := true, stops := [] } ∧ rd t Fk.bootJobJstate = jLoaded ∧
              ∀ r k, r < 8 → k < 48 → mget (fun _ => 0) (getRegion t r).shapes k = le tb.1 (4 * k) 4 % 2 ^ 20)))

/-- 19 R502, R507 to R510; 16 R442: an eligible item is copied to its staging addresses and marked complete; a result that is ready makes its slot READY with
its record, counts the item and completes its entry; a record that waits is written at CQ_TAIL with its PHASE once the ring has room. -/
def Obligations.ItemsAndRecords : Prop :=
  ∀ (s : State) (q : Nat),
    (∀ idx sa sb bad x, (List.range 128).findSome? (fun c =>
        (getCtx s c).items.find? (fun x => decide (x.entry.q = q) && decide (x.entry.idx = idx) && x.doneAt.isNone)) = some x →
      x ∈ (getCtx s x.entry.ctx).items →
      let a := hostRead s bad x.entry.addr0 x.entry.len0
      let b := if x.entry.addr1 = 0 then ([], false) else hostRead s bad x.entry.addr1 x.entry.len1
      ∃ t, exec (.itemEligible q idx sa sb bad) s = .next t ∧ (bad = true → exec (.hostReadError 1 q idx sa sb) s = .next t) ∧
        (∃ z ∈ (getCtx t x.entry.ctx).items, z.entry = x.entry ∧ z.input = a.1 ∧ z.boxes = b.1 ∧ z.bad = (a.2 || b.2) ∧
          z.doneAt = some (rd s Fk.epochCount) ∧ z.taken = x.taken) ∧
        ((a.2 || b.2) = true → rd t (Fk.wqStatusFetchPoison q) = 1) ∧
        Stores s t [] (bytesAt (fun k => sa + k) (a.1.map (fun y => (y, a.2))) ++
          bytesAt (fun k => sb + k) (b.1.map (fun y => (y, b.2))))) ∧
    (∀ idx spans x, takenItem s q idx = some x → q < 64 → x.entry.ctx < 128 → levelOf (slotAddr s q x.entry.slot) ≠ 5 →
      resultLen spans ≤ rd s (Fk.wqResRsize4k q) * 4096 - 64 →
      ∃ t, exec (.resultReady q idx spans) s = .next t ∧ Completes s t x.entry 0 0 ∧ (getSlot t q x.entry.slot).st = .ready ∧
        rd t (Fk.ctxStatItems x.entry.ctx) = (rd s (Fk.ctxStatItems x.entry.ctx) + 1) % 2 ^ 32 ∧
        (∀ z ∈ (getCtx t x.entry.ctx).items, z.entry ≠ x.entry) ∧
        (resultBad s q x.entry.slot spans = true →
          rd t (Fk.tallyCount tPoisonOut) = min (rd s (Fk.tallyCount tPoisonOut) + 1) (2 ^ 48 - 1))) ∧
    (∀ w, s.waitRecs.find? (fun w => decide (w.q = q)) = some w → cqRoom s q = true → s.part.pcieUp = true → w.bytes.length = 64 →
      let tail := rd s (Fk.wqHeadsCqTail q)
      let size := ringSize (rd s (Fk.wqCqCqLog2 q))
      let a := rd s (Fk.wqCqCqPage q) * 4096 + tail % size * 64
      ∃ t, exec (.cqRecordFlush q) s = .next t ∧ t.waitRecs = s.waitRecs.erase w ∧ rd t (Fk.wqHeadsCqTail q) = (tail + 1) % 2 ^ 20 ∧
        (∀ x, mByte t.host x = if a ≤ x ∧ x < a + 64 then (withPhase w.bytes (phaseOf tail size)).getD (x - a) 0 else mByte s.host x) ∧
        t.out = (match w.irq with
          | some v => .msix v :: s.out
          | none => s.out))

/-! Temper sets and releases. -/

/-- 19 R513 to R515: the Temper commands. STAGE captures the fields written and is BUSY until its check, which leaves the set STAGED or names a field; APPLY
makes a STAGED set PENDING; DISCARD returns the staging copy to the values in force; FREE empties a set that no job names; a command while BUSY
is ignored. With no job running, the pending sets apply on the next TCLK edge. -/
def Obligations.TemperCommands : Prop :=
  ∀ (s : State) (n : Nat), n < 16 →
    (hostWrites s = true → rd s Fk.temperStatusResult = 1 → ∀ c ∈ [Instr.temperStage n, .temperApply n, .temperDiscard n, .temperFree n], exec c s = .next s) ∧
    (hostWrites s = true → rd s Fk.temperStatusResult ≠ 1 →
      (∃ t, exec (.temperStage n) s = .next t ∧
        (rdBit s Fk.temperSetsPending n = true → rd t Fk.temperStatusResult = 3 ∧ t.sets = s.sets ∧ t.written = s.written) ∧
        (rdBit s Fk.temperSetsPending n = false → rd t Fk.temperStatusResult = 1 ∧ t.checking = some n ∧ t.written = [] ∧
          (Fk.temperCmdSet ∉ s.written → Fk.temperCmdOp ∉ s.written → setOf t n = s.written.map (fun k => (k, stagedVal s k))) ∧ rdBit t Fk.temperSetsStaged n = false)) ∧
      (∃ t, exec (.temperApply n) s = .next t ∧ t.sets = s.sets ∧
        (rdBit s Fk.temperSetsPending n = true → rd t Fk.temperStatusResult = 2) ∧
        (rdBit s Fk.temperSetsPending n = false → rdBit s Fk.temperSetsStaged n = true → rd t Fk.temperStatusResult = 2 ∧
          rdBit t Fk.temperSetsPending n = true ∧ n ∈ t.hostSets) ∧
        (rdBit s Fk.temperSetsPending n = false → rdBit s Fk.temperSetsStaged n = false → rd t Fk.temperStatusResult = 3 ∧ t.hostSets = s.hostSets)) ∧
      (∃ t, exec (.temperDiscard n) s = .next t ∧ rd t Fk.temperStatusResult = 2 ∧ t.sets = s.sets ∧ ∀ k, stagedVal t k = rd t k) ∧
      (∃ t, exec (.temperFree n) s = .next t ∧
        (rdBit s Fk.temperSetsPending n = true ∨ programNames s n = true → rd t Fk.temperStatusResult = 3 ∧ t.sets = s.sets) ∧
        (rdBit s Fk.temperSetsPending n = false → programNames s n = false → rd t Fk.temperStatusResult = 2 ∧ setOf t n = [] ∧
          rdBit t Fk.temperSetsStaged n = false))) ∧
    (s.checking = some n → (setOf s n).length ≤ 1024 → ∃ t, exec .stageCheckDone s = .next t ∧ t.checking = none ∧
      (temperCheck { s with checking := none } (setOf s n) = none → rd t Fk.temperStatusResult = 2 ∧ rdBit t Fk.temperSetsStaged n = true ∧
        setOf t n = setOf s n) ∧
      ∀ f, temperCheck { s with checking := none } (setOf s n) = some f → rd t Fk.temperStatusResult = 3 ∧ rd t Fk.temperField = f ∧ setOf t n = []) ∧
    (running s = false → applyOrder s ≠ [] → ∃ t, exec .temperSetApply s = .next t ∧ rd t Fk.temperSetsPending = 0 ∧ t.hostSets = [] ∧
      (∀ r, (getRegion t r).marked = []) ∧ t.cc = (s.cc / 8 + 1) * 8) ∧
    (∀ k v, k ∈ [Fk.bellowsCapStgCap, Fk.bellowsCapStgHyst, Fk.bellowsThermWarmC, Fk.faultThreshStoreCe, Fk.faultThreshDramCe] →
      setOf s n = [(k, v)] → temperCheck s [(k, v)] = none → rd (applySet s n).1 k = v ∧ (applySet s n).2 = true ∧
        rd (applySet s n).1 Fk.temperAppliedCount = (rd s Fk.temperAppliedCount + 1) % 2 ^ 32)

/-- 02 R52, R53; 15 R412; 16 R439, R444; 19 R502, R504: a release that is due and not blocked advances EPOCH.COUNT and starts EPOCH.CYCLE, SCYC and LAG at 0. A
waiting job starts every region at its first instruction, and one with bucketed tensors records its shape table (20 R519 c24); a running one goes on behind its barriers, ends where STOP asks for it, or pauses. A
release that lacks replay inputs waits and says so, and counts once when it comes. -/
def Obligations.Releases : Prop :=
  let released := fun (s t : State) =>
    rd t Fk.epochCycle = 0 ∧ ∀ r, r < regionCount s → posOf s r < 8 → rd t (Fk.rschedScyc (posOf s r)) = 0 ∧ rd t (Fk.rschedLag (posOf s r)) = 0
  let goes := fun (s t : State) => ∀ j, s.job = some j → applyOrder s = [] → rd s Fk.auditWcfgWmode ≠ wmReplay →
    (j.stops ≠ [] → j.waiting = true ∨ running s = true → rd t Fk.bootJobJstate = jEnded) ∧
    (j.stops = [] → j.waiting = true → s.resume = none → rd t Fk.bootJobJstate = jRunning ∧
      (∀ r ∈ jobRegions j, r < regionCount s → (getRegion t r).run = .running ∧ (getRegion t r).pc = pcFrom j r 0) ∧
      ∀ e, j.run = some e → (∃ d ∈ j.descs, d.bkt ≠ 0) → rd s Fk.auditWcfgWmode = wmRecord →
        ∃ w ∈ t.witness, w.kind = 1 ∧ w.source = 0 ∧ w.epoch = 0 ∧ w.value = e.idx ∧ w.bytes = j.shapeTab.length) ∧
    (j.stops = [] → j.waiting = false → running s = true → j.pausing = true → rd t Fk.bootJobJstate = jPaused ∧
      t.job.map (·.saving) = some true) ∧
    (j.stops = [] → j.waiting = false → running s = true → j.pausing = false → rd t Fk.bootJobJstate = jRunning ∧
      ∀ r, r < 8 → (getRegion s r).run = .barrier → (getRegion t r).run = .running ∧ (getRegion t r).pc = pcFrom j r ((getRegion s r).pc + 1))
  ∀ (s : State) (c : Nat), rd s Fk.epochCount = c →
    (∀ d, soloDue s = some d →
      (replayBlocked (advanceTo s d) = false → ∃ t, exec .soloRelease s = .next t ∧ exec .epochRelease s = .next t ∧ released s t ∧
        rd t Fk.epochCount = (c + 1) % 2 ^ 64 ∧ t.cc = max s.cc d ∧ goes s t) ∧
      (replayBlocked (advanceTo s d) = true → ∃ t, exec .soloRelease s = .next t ∧ rd t Fk.epochCount = c ∧ t.root.starved = true ∧
        rd t Fk.auditStatusReplayStarved = 1)) ∧
    (∀ e d, role s ≠ roleSolo → s.root.relPend = some (e, d) → s.part.clocks = true → replayBlocked (advance s (ccUntil s d)) = false →
      ∃ t, exec .epochRelease s = .next t ∧ released s t ∧ goes s t ∧ t.cc = s.cc + ccUntil s d ∧
        (s.root.joined = true → rd t Fk.epochCount = (c + 1) % 2 ^ 64) ∧
        (s.root.joined = false → rd t Fk.epochCount % 2 ^ 32 = e % 2 ^ 32)) ∧
    (s.root.starved = true → replayBlocked s = false → s.part.clocks = true → ∃ t, exec .replayWaitEnd s = .next t ∧ released s t ∧
      t.root.starved = false)

/-- 16 R434, R437, R444, R446, R448: the oldest witness entry is written at WDEV, behind a GAP where entries were lost, or is lost where the area is full, also
by the GAP; with no entry nothing happens. A save image, which begins with its magic and version and holds its length at 0x48, is stored at
SAVE_BASE, poisoned where the memory saved is (03 R84), when it completes and sets SAVED; one that fails sets SAVE_FAIL and stores nothing; a job that saves nothing is left alone. Both wait
where DRAM_TEMP holds the device (03 R77). -/
def Obligations.WitnessAndSave : Prop :=
  ∀ s : State,
    (s.witness = [] → exec .witnessWrite s = .next s) ∧
    (∀ w l, s.witness = w :: l → hotSpan s (rd s Fk.auditWbase) (logSize s) = false →
      let place := fun (d : Nat) => rd s Fk.auditWbase + d % max 1 (logSize s)
      let d := rd s Fk.auditWdev
      let put := fun (a : Nat) (x : Witness) => bytesAt (fun k => a + k) ((witBytes x).map (fun b => (b, false)))
      let room := decide (wrapSub 64 ((d + 64) % 2 ^ 64) (rd s Fk.auditWhost) < logSize s)
      ∃ t, exec .witnessWrite s = .next t ∧ t.witness = l ∧
        (logFull s = true → t.witLost = s.witLost + 1 ∧ rd t Fk.auditStatusWitnessFull = 1 ∧ t.dev = s.dev ∧ rd t Fk.auditWdev = rd s Fk.auditWdev) ∧
        (logFull s = false → s.witLost = 0 → rd t Fk.auditWdev = (d + 64) % 2 ^ 64 ∧ t.witLost = 0 ∧ Stores s t [] (put (place d) w)) ∧
        (logFull s = false → s.witLost ≠ 0 → room = true → rd t Fk.auditWdev = (d + 128) % 2 ^ 64 ∧ t.witLost = 0 ∧
          Stores s t [] (put (place d) (gapWit s) ++ put (place ((d + 64) % 2 ^ 64)) w)) ∧
        (logFull s = false → s.witLost ≠ 0 → room = false → rd t Fk.auditWdev = (d + 64) % 2 ^ 64 ∧ t.witLost = 1 ∧
          rd t Fk.auditStatusWitnessFull = 1 ∧ Stores s t [] (put (place d) (gapWit s)))) ∧
    (s.witness ≠ [] → hotSpan s (rd s Fk.auditWbase) (logSize s) = true → exec .witnessWrite s = .next s) ∧
    (∀ ok others, (∀ j, s.job = some j → j.saving = false ∨ rd s Fk.bootJobJstate ≠ jPaused ∨ s.part.clocks = false ∨
      hotSpan s (rd s Fk.auditSaveBase) (saveImage s j others).length = true) → exec (.saveComplete ok others) s = .next s) ∧
    (∀ j others, s.job = some j → j.saving = true → rd s Fk.bootJobJstate = jPaused → s.part.clocks = true →
      let img := saveImage s j others
      let a := rd s Fk.auditSaveBase
      hotSpan s a img.length = false →
      img.take 8 = toLE 4 0x45564153 ++ toLE 2 1 ++ toLE 2 0 ∧
      (j.progDigest.length = 32 → (img.drop 0x48).take 8 = toLE 8 img.length ∧ (img.drop 0x20).take 32 = j.progDigest) ∧
      (∃ t, exec (.saveComplete true others) s = .next t ∧ rd t Fk.auditStatusSaved = 1 ∧ rd t Fk.auditSaveCtlPause = 0 ∧
        t.job = some { j with saving := false } ∧ rd t Fk.bootJobJstate = jPaused ∧ t.saved = some (savedNow (passBarrier s) j) ∧
        Stores s t [] (((List.range img.length).zip img).map (fun y => (a + y.1, y.2, (savePoison s j others).getD ((a + y.1) / 32 - a / 32) false)))) ∧
      ∃ t, exec (.saveComplete false others) s = .next t ∧ rd t Fk.auditStatusSaveFail = 1 ∧ rd t Fk.auditSaveCtlPause = 0 ∧ t.dev = s.dev)

/-- 02 R48, R50; 09 R247, R248, R266: a BEAT_RELEASE of a timed beat that has arrived at its release cycle completes, and the beat leaves the landing buffer for its
consumer with its bytes, a half that meets an uncorrectable error on its way poisoned and zero (18 R467); an absent one holds its region where it was stretched since the beat's issue, and else ends the job with SCHED_MISS. A HOLD_RESUME of a
held region whose wait is over completes: the region resumes at a multiple of 32 of EPOCH.CYCLE, its SCYC as it stood and its LAG grown by the time that passed, and
a late beat goes to its consumer. -/
def Obligations.BeatsAndHolds : Prop :=
  ∀ (s : State) (r : Nat),
    (∀ a w mark, seqOk s r = true →
      let v := untilScyc (land s r w.landed) r w.due
      let b := landedBeat v r a w.due w.hits
      (∃ t, exec (.beatRelease r a w true mark) s = .next t ∧ (getRegion t r).handed = some b ∧
        (getRegion t r).landing = (getRegion v r).landing.filter (fun b => decide (b.addr ≠ a ∨ b.due ≠ w.due)) ∧
        (getRegion t r).run = .running ∧ t.dev = s.dev ∧ t.job = s.job ∧ rd t Fk.bootJobJstate = jRunning) ∧
      (mark = true ∨ regionStretched v r w.issue = true → ∃ t, exec (.beatRelease r a w false mark) s = .next t ∧ (getRegion t r).run = .holding ∧
        (getRegion t r).awaits = some .beat ∧ rd t Fk.schedStatusHold = 1 ∧
        rd t (Fk.tallyCount tDivLateBeat) = min (rd s (Fk.tallyCount tDivLateBeat) + 1) (2 ^ 48 - 1)) ∧
      (mark = false → regionStretched v r w.issue = false → ∃ t, exec (.beatRelease r a w false mark) s = .next t ∧ rd t Fk.schedStatusMiss = 1 ∧
        rd t Fk.bootJobJstate = jEnded ∧ rd t Fk.faultJobJobCode = 0x06)) ∧
    (∀ a, (getRegion s r).landing.all (fun b => decide (b.addr ≠ a)) = true → ∀ due,
      landedBeat s r a due [] = ⟨a, due, devBytes s [] (a / 64 * 64) 64, (devBad s [] (a / 64 * 64) 32, devBad s [] (a / 64 * 64 + 32) 32)⟩ ∧
      ∀ hits, a / 64 * 2 ∈ struck hits → a / 64 * 2 + 1 ∉ struck hits →
        landedBeat s r a due hits = ⟨a, due, List.replicate 32 0 ++ devBytes s [] (a / 64 * 64 + 32) 32, (true, devBad s [] (a / 64 * 64 + 32) 32)⟩) ∧
    (∀ w, (getRegion s r).awaits = some w → (getRegion s r).run = .holding → running s = true → waitOver s r w = true → s.part.clocks = true →
      ∃ t, exec (.holdResume r) s = .next t ∧ (getRegion t r).run = .running ∧ (getRegion t r).awaits = none ∧
        (getRegion t r).pc = (getRegion s r).pc ∧ (getRegion t r).prog = (getRegion s r).prog ∧ rd t Fk.epochCycle % 32 = 0 ∧
        (let n := roundUp (rd s Fk.epochCycle) 32 - rd s Fk.epochCycle
        t.cc = s.cc + n ∧ (r < regionCount s → rd s Fk.epochCycle + n < 2 ^ 64 → roundUp (getRegion s r).holdSince 32 ≤ rd s Fk.epochCycle →
          rd t (Fk.rschedScyc (posOf s r)) % 2 ^ 64 = rd s (Fk.rschedScyc (posOf s r)) % 2 ^ 64 ∧
          rd t (Fk.rschedLag (posOf s r)) = if n = 0 then rd s (Fk.rschedLag (posOf s r)) else min (rd s (Fk.rschedLag (posOf s r)) + n) (2 ^ 32 - 1))))

/-! Domains and links. -/

/-- 02 R55 to R57, R61, R66: Rootline frames on the pair. A frame is re-sent; one whose CRC fails sets CRC_DROP and is not acted on. At a MEMBER a good SYNC sets
TIME_NS, or on the side path counts towards the return to the pair; the first good RELEASE of an epoch sets its release time, and one past its
time is counted late. The root sends a SYNC as every twelfth frame, else a waiting RELEASE copy or IDLE. Four lost SYNC periods lead to the
side path, and without one to HOLDOVER. -/
def Obligations.RootlineFrames : Prop :=
  ∀ (s : State) (t frac seq e : Nat),
    let frames := [(fun crc => Instr.syncFrame t frac seq crc, syncChars t frac seq), (fun crc => Instr.releaseFrame e t crc, releaseChars e t),
      (fun crc => Instr.idleFrame crc, idleChars)]
    (∀ f ∈ frames, ∀ crc,
      (role s = roleRoot ∨ s.part.clocks = false → exec (f.1 crc) s = .next s) ∧
      (role s ≠ roleRoot → s.part.clocks = true →
        (crc % 65536 ≠ crc16 f.2 → exec (f.1 crc) s =
          .next { raise (emit s (.rootline (f.2 ++ toBE 2 crc))) Fk.epochStatusCrcDrop with root := { s.root with goodRun := 0 } }) ∧
        (crc % 65536 = crc16 f.2 → ∃ u, exec (f.1 crc) s = .next u ∧ Out.rootline (f.2 ++ toBE 2 crc) ∈ u.out ∧
          rd u Fk.epochStatusCrcDrop = rd s Fk.epochStatusCrcDrop ∧ u.dev = s.dev ∧ u.regions = s.regions ∧ u.job = s.job))) ∧
    (role s = roleMember → s.part.clocks = true →
      (∃ u, exec (.syncFrame t frac seq (crc16 (syncChars t frac seq))) s = .next u ∧
        (onSidePath s = false → u.root = s.root ∧ rd u Fk.epochTimeNs = t % 2 ^ 64 ∧ rd u Fk.epochTimeAuxTimeFrac = frac % 2 ^ 16 ∧
          rd u Fk.epochTimeAuxTimeState = (if rd s Fk.epochTimeAuxTimeState = 3 then 3 else if rd s Fk.epochCalCalValid = 1 then 2 else 1)) ∧
        (onSidePath s = true → rd u Fk.epochTimeNs = rd s Fk.epochTimeNs ∧
          onSidePath u = decide (s.root.goodRun + 1 < 16) ∧ (s.root.goodRun + 1 < 16 → u.root.goodRun = s.root.goodRun + 1))) ∧
      ∃ u, exec (.releaseFrame e t (crc16 (releaseChars e t))) s = .next u ∧
        (onSidePath s = true ∨ s.root.relSeen = some (e % 2 ^ 32) → u.root = s.root) ∧
        (onSidePath s = false → s.root.relSeen ≠ some (e % 2 ^ 32) →
          u.root = { s.root with relSeen := some (e % 2 ^ 32), relPend := some (e % 2 ^ 32, t % 2 ^ 64) } ∧
          (calThirds s > ((t % 2 ^ 64 * 196608 : Nat) : Int) → rd u Fk.epochStatusLateRelease = 1 ∧ Counted s u tDivLateRelease) ∧
          (calThirds s ≤ ((t % 2 ^ 64 * 196608 : Nat) : Int) → rd u Fk.epochStatusLateRelease = rd s Fk.epochStatusLateRelease))) ∧
    (role s = roleRoot → s.part.clocks = true →
      let r := s.root
      let sync := decide (r.frameNo % 12 = 0)
      let c := if sync then syncChars (rd s Fk.epochTimeNs) (rd s Fk.epochTimeAuxTimeFrac) r.syncSeq else r.relQueue.headD idleChars
      ∃ u, exec .rootFrameSend s = .next u ∧ Out.rootline (c ++ toBE 2 (crc16 c)) ∈ u.out ∧
        u.root = { r with frameNo := (r.frameNo + 1) % 12, syncSeq := if sync then (r.syncSeq + 1) % 65536 else r.syncSeq
                          relQueue := if sync then r.relQueue else r.relQueue.tail }) ∧
    (role s = roleMember → onSidePath s = false → ∃ u, exec .rootlineLoss s = .next u ∧ onSidePath u = true ∧ rd u Fk.epochStatusSidePath = 1 ∧
      (portState s (rd s Fk.epochCfgTimeParent) = 3 → rd u Fk.epochTimeAuxTimeState = rd s Fk.epochTimeAuxTimeState) ∧
      (portState s (rd s Fk.epochCfgTimeParent) ≠ 3 → rd u Fk.epochTimeAuxTimeState = 3 ∧ rd u Fk.epochStatusHoldover = 1))

/-- 15 R403, R410 to R414; 02 R58: the side messages that a port takes. ROOTLINE from the time parent gives the RELEASE while the side path is in use; ARRIVE
of a child is held; a new ABORT is remembered, and ends a running job of its JOB_TAG with JOB_ABORT; CAL of a child is answered and CAL of
the parent adds to the exchange, which after 256 gives CAL_OFFSET; HELLO names the peer and brings the port UP, or to FAILED for another peer. -/
def Obligations.SideMessages : Prop :=
  ∀ (s : State) (p t4 : Nat) (b : List Byte),
    let m := (b ++ List.replicate 13 0).take 13
    (sideTaken s p = false → ∀ c ∈ [Instr.rootlineMsg p b, .arriveMsg p b, .abortMsg p b, .calMsg p b t4, .helloMsg p b], exec c s = .next s) ∧
    (sideTaken s p = true →
      (∃ u, exec (.rootlineMsg p b) s = .next u ∧
        (isParentPort s p = false ∨ onSidePath s = false ∨ le m 0 1 ≠ 2 ∨ s.root.relSeen = some (le m 1 4) → u.root = s.root) ∧
        (isParentPort s p = true → onSidePath s = true → le m 0 1 = 2 → s.root.relSeen ≠ some (le m 1 4) →
          u.root = { s.root with relSeen := some (le m 1 4), relPend := some (le m 1 4, le m 5 8) })) ∧
      (∃ u, exec (.arriveMsg p b) s = .next u ∧
        (isChildPort s p = false → u.root = s.root ∧ rd u Fk.tlBarrierChildArrived = rd s Fk.tlBarrierChildArrived) ∧
        (isChildPort s p = true → rdBit u Fk.tlBarrierChildArrived p = true ∧ rd u Fk.tlBarrierWaitEpoch = nextEpoch s ∧
          u.root.firstArr = some (s.root.firstArr.getD s.cc) ∧ mget (fun _ => none) u.root.arrivals p =
            some ⟨le m 9 4, le m 5 4, le m 1 4, bit (le m 0 1) 0, bit (le m 0 1) 1, bit (le m 0 1) 2, u.cc⟩)) ∧
      (∃ u, exec (.abortMsg p b) s = .next u ∧ (s.root.aborts.contains (le m 3 4, le m 7 4) = true → u.root = s.root ∧ u.job = s.job) ∧
        (s.root.aborts.contains (le m 3 4, le m 7 4) = false →
          (running s = true → rd s Fk.tlCtlJobTag = le m 1 2 → EndedBy u 0x0D ∧ rd u Fk.tlStatusAbortRx = 1 ∧ u.root.arrivals = []) ∧
          (running s = false ∨ rd s Fk.tlCtlJobTag ≠ le m 1 2 → u.job = s.job ∧ u.root = { s.root with aborts := (le m 3 4, le m 7 4) :: s.root.aborts }))) ∧
      (le m 0 1 = 0 → exec (.calMsg p b t4) s = .next (pumpAll (
        if isChildPort s p ∧ (role s = roleRoot ∨ rd s Fk.epochCalCalValid = 1) then
          sideSend s p (sideMsg 4 (toLE 1 1 ++ toLE 2 (le m 1 2) ++ toLE 8 (stamp (calThirds s)))) else s))) ∧
      (le m 0 1 ≠ 0 → isParentPort s p = true → s.root.calOn = true → le m 1 2 = s.root.calN →
        let a := sext 64 (code 64 (((stamp (timeThirds s) : Nat) : Int) - ((le m 3 8 : Nat) : Int)))
        let d := sext 64 (code 64 (((t4 : Nat) : Int) - ((s.root.calT3 : Nat) : Int)))
        let off := s.root.calOff + (a - d)
        let dly := s.root.calDelay + (a + d)
        ∃ u, exec (.calMsg p b t4) s = .next u ∧ u.root.calN = s.root.calN + 1 ∧ u.root.calOff = off ∧ u.root.calDelay = dly ∧
          (s.root.calN = 255 → u.root.calOn = false ∧ rd u Fk.epochTimeAuxTimeState = 2 ∧ rd u (Fk.tlPdelayDelayValid p) = 1 ∧
            (dly % 512 = 0 → rd u (Fk.tlPdelayDelay p) = code 40 (dly / 512)) ∧
            (onSidePath s = false ∨ rd s Fk.epochCalCalValid ≠ 1 → rd u Fk.epochCalCalValid = 1 ∧
              (off % 512 = 0 → rd u Fk.epochCalCalOffset = code 48 (-(off / 512)))))) ∧
      ∃ u, exec (.helloMsg p b) s = .next u ∧ rd u (Fk.tlPstatePeerId p) = le m 1 4 ∧ rd u (Fk.tlPstatePeerPort p) = le m 5 1 % 16 ∧
        rd u (Fk.tlPstatePeerValid p) = 1 ∧ (isChildPort s p ≠ bit (le m 0 1) 0 → rd u Fk.tlStatusTreeMismatch = 1) ∧
        (portState s p = 2 → portState u p = if (getPort s p).helloSent then 3 else 2) ∧
        (portState s p = 3 → portState u p = 3) ∧ (portState s p = 4 → portState u p = if samePeer s p m then 3 else 5))

/-- 02 R58, R61, R62; 15 R412, R413: the barrier of a domain. A MEMBER that may arrive sends ARRIVE; the root that holds every arrival sends three copies of the
RELEASE, or faults under PROFILE_MIXED, EPOCH_SKEW or DOMAIN_COUNT, in this order; no release within TIMEOUT_US faults under EPOCH_TIMEOUT. A MEMBER
calibrates with its time parent. -/
def Obligations.DomainBarriers : Prop :=
  ∀ s : State,
    (mayArrive s = false → exec .arriveSend s = .next s) ∧
    (mayArrive s = true → ∃ t, exec .arriveSend s = .next t ∧ rd t Fk.tlBarrierSentUp = 1 ∧ rd t Fk.tlBarrierSelfArrived = 1 ∧
      rd t Fk.tlBarrierWaitEpoch = nextEpoch s ∧ t.root = { s.root with lastArr := s.cc } ∧ t.job = s.job) ∧
    (rootReady s = false → exec .rootRelease s = .next s) ∧
    (rootReady s = true → ∃ t, exec .rootRelease s = .next t ∧
      let faults := fun (c : Nat) => t.root.arrivals = [] ∧ rd t Fk.tlBarrierChildArrived = 0 ∧ (running s = true → EndedBy t c) ∧ (running s = false → t.job = s.job)
      let other := partsCounted s ≠ rd s Fk.tlDomainDomainParts
      (isMixed s = true → faults 0x11 ∧ rd t Fk.tlStatusProfileMixed = 1) ∧
      (isMixed s = false → isSkew s = true → faults 0x1B ∧ rd t Fk.tlStatusEpochSkew = 1) ∧
      (isMixed s = false → isSkew s = false → other → faults 0x12 ∧ rd t Fk.tlStatusDomainCount = 1) ∧
      (isMixed s = false → isSkew s = false → ¬ other →
        let n := max (ceilDiv (timeThirds s) 1048576 + rd s Fk.epochCfgLead) (s.root.prevT + 128)
        let ns := ceilDiv (16 * n) 3
        t.root = { s.root with prevT := n, relPend := some (nextEpoch s, ns), relQueue := List.replicate 3 (releaseChars (nextEpoch s) ns) } ∧
        rd t Fk.tlBarrierSentUp = 1 ∧ t.job = s.job)) ∧
    (timeoutFrom s = none → exec .epochTimeout s = .next s) ∧
    (∀ n, timeoutFrom s = some n → s.part.clocks = true → s.part.service = true → ∃ t, exec .epochTimeout s = .next t ∧
      t.cc = max s.cc (n + rd s Fk.epochCfgTimeoutUs * 1500) ∧ t.root.arrivals = [] ∧ (running s = true → EndedBy t 0x0C)) ∧
    (∀ p, parentPort s = some p → portState s p = 3 →
      let starts := fun (c : Instr) => ∃ t, exec c s = .next t ∧ t.root =
        { s.root with calOn := true, calN := 0, calOff := 0, calDelay := 0, calT3 := stamp (timeThirds s) }
      (rd s Fk.epochCalCalValid = 0 → starts .calibration) ∧ (s.root.calOn = true → starts .calRetry) ∧
      (onSidePath s = true → starts .sidePathCalibration)) ∧
    (rd s Fk.epochCalCalValid ≠ 0 → exec .calibration s = .next s) ∧ (s.root.calOn = false → exec .calRetry s = .next s) ∧
    (onSidePath s = false → exec .sidePathCalibration s = .next s)

/-- 15 R400 to R402, R406: flits that arrive on a link that carries them. A sequenced flit in order is taken and counted; one out of order, like one whose CRC
fails, changes nothing but the NAK. ACK and CREDIT are taken from an IDLE flit. The beats of a DATA flit go to the TAIL slot of the hoop of its
receive stream behind those already there; a DATA_LAST that ends its slot closes it with MARK, and one that ends short fills it with poisoned
zeros and sets RX_FORMAT; a flit of a stream without a matching entry faults a running job under TINLINK_STREAM. -/
def Obligations.TinlinkFlits : Prop :=
  ∀ (s : State) (p : Nat) (x : FlitIn), linkOn s p = true →
    let y := getPort s p
    (∀ c ∈ [Instr.dataFlit p x, .dataLastFlit p x, .sideFlit p x], ∃ t, exec c s = .next t ∧
      (x.seq % 4096 = y.rxSeq → (getPort t p).rxSeq = (y.rxSeq + 1) % 4096 ∧ (getPort t p).nakOut = false) ∧
      (x.seq % 4096 ≠ y.rxSeq → (getPort t p).rxSeq = y.rxSeq ∧ (getPort t p).nakOut = true ∧ (getPort t p).held = y.held ∧
        t.regions = s.regions ∧ t.dev = s.dev ∧ t.host = s.host)) ∧
    (∃ t, exec (.flitCrcFailure p) s = .next t ∧ (getPort t p).rxSeq = y.rxSeq ∧ (getPort t p).nakOut = true ∧ (getPort t p).held = y.held ∧
      t.regs = s.regs ∧ t.dev = s.dev ∧ (y.nakOut = true → t = s)) ∧
    (x.nak = false → y.txq = [] → y.sideQ = [] → ∃ t, exec (.idleFlit p x) s = .next t ∧ t.out = s.out ∧ t.dev = s.dev ∧
      (getPort t p).unacked = y.unacked.drop (ackCount y.unacked x.ack) ∧ (getPort t p).rxSeq = y.rxSeq ∧
      rd t (Fk.tlPerrFecCorr p) = (rd s (Fk.tlPerrFecCorr p) + x.fec) % 2 ^ 32 ∧
      rd t (Fk.tlPcredTxCredit p) = min 512 (rd s (Fk.tlPcredTxCredit p) + (x.credit + 64 - y.seenCredit) % 64)) ∧
    (x.nak = true → y.txq = [] → y.sideQ = [] → ∃ t, exec (.idleFlit p x) s = .next t ∧
      rd t (Fk.tlPerrReplays p) = min 0xFFFF (rd s (Fk.tlPerrReplays p) + (y.unacked.drop (ackCount y.unacked x.ack)).length) ∧
      t.out.length = s.out.length + (y.unacked.drop (ackCount y.unacked x.ack)).length) ∧
    (x.seq % 4096 = y.rxSeq → x.sideV = false → y.held = [] →
      (∀ c ∈ [Instr.dataFlit p x, .dataLastFlit p x], rxTarget s p (x.stream % 64) = none → ∃ t, exec c s = .next t ∧
        rd t Fk.tlStatusRxFormat = 1 ∧ (getPort t p).held = [] ∧ t.dev = s.dev ∧ (getPort t p).freed = (y.freed + 1) % 64 ∧
        (running s = true → EndedBy t 0x0F)) ∧
      ∀ r h, rxTarget s p (x.stream % 64) = some (r, h) → posOf s r < 8 → h < 64 → rxRoom s r h = true →
        let n := posOf s r
        let f := hoopFill s r h
        let tail := rd s (Fk.hoopTail n h)
        let size := 2 * rd s (Fk.hoopCfgSlotBeats n h)
        let base := hoopSlotAddr s n h tail + 32 * f
        let data := fun (k : Nat) => bytesAt (fun i => base + i) ((List.range (32 * k)).map (fun i =>
          if bit x.poison (i / 32) then (0, true) else (x.payload.getD i 0, false)))
        let closed := fun (t : State) => rd t (Fk.hoopTail n h) = (tail + 1) % 2 ^ 32 ∧ hoopFill t r h = 0
        let m := x.beatsM1 % 16 + 1
        (f + 16 ≤ size → ∃ t, exec (.dataFlit p x) s = .next t ∧ (getPort t p).held = [] ∧ Stores s t [] (data 16) ∧
          (f + 16 = size → closed t ∧ slotMark t r h tail = none) ∧
          (f + 16 < size → rd t (Fk.hoopTail n h) = tail ∧ hoopFill t r h = f + 16)) ∧
        (f + m ≤ size → ∃ t, exec (.dataLastFlit p x) s = .next t ∧ (getPort t p).held = [] ∧ closed t ∧
          slotMark t r h tail = some (rd s Fk.epochCount) ∧
          (f + m = size → Stores s t [] (data m) ∧ rd t Fk.tlStatusRxFormat = rd s Fk.tlStatusRxFormat) ∧
          (f + m < size → Stores s t [] (data m ++ bytesAt (fun i => base + 32 * m + i) (List.replicate (32 * (size - f - m)) (0, true))) ∧
            rd t Fk.tlStatusRxFormat = 1)))

/-- 15 R403, R404: the states of a port. TRAINING ends in ALIGNED, or in FAILED; ALIGNED without a HELLO goes back to TRAINING; loss of FEC lock, or one flit resent 8
times, leads from UP to RETRAIN, where the lanes align again or the port fails. A failed port is DOWN, drops its flits, and faults a running job
that uses it; RETRAIN counts, and on the port of the time parent ends the calibration. In any other state the event does nothing. -/
def Obligations.LinkEvents : Prop :=
  ∀ (s : State) (p : Nat), p < 16 → s.part.clocks = true →
    let st := portState s p
    let fails := fun (c : Instr) => ∃ t, exec c s = .next t ∧ portState t p = 5 ∧ rdBit t Fk.tlStatusDown p = true ∧ (getPort t p).unacked = [] ∧
      (getPort t p).txq = [] ∧ (running s = true → jobUsesPort s p = true → EndedBy t 0x0E) ∧
      (running s = false ∨ jobUsesPort s p = false → t.job = s.job)
    let retrains := fun (c : Instr) => ∃ t, exec c s = .next t ∧ portState t p = 4 ∧ rdBit t Fk.tlStatusRetrained p = true ∧
      rd t (Fk.tlPerrRetrains p) = (rd s (Fk.tlPerrRetrains p) + 1) % 256 ∧ rd t (Fk.tlPdelayDelayValid p) = 0 ∧
      (isParentPort s p = true → rd t Fk.epochCalCalValid = 0 ∧ rd t Fk.epochTimeAuxTimeState ≠ 2) ∧ (getPort t p).unacked = (getPort s p).unacked
    (st = 1 → (∃ t, exec (.linkAligned p) s = .next t ∧ portState t p = 2 ∧ (getPort t p).helloSent = true) ∧ fails (.trainingTimeout p)) ∧
    (st = 2 → ∃ t, exec (.helloTimeout p) s = .next t ∧ portState t p = 1 ∧ rd t (Fk.tlPcredTxCredit p) = 512 ∧ rd t (Fk.tlPstatePeerValid p) = 0 ∧ getPort t p = portEmpty) ∧
    (st = 3 → retrains (.fecLockLost p) ∧ ((∃ n ∈ (getPort s p).resends, 8 ≤ n) → retrains (.replayLimit p)) ∧
      ((∀ n ∈ (getPort s p).resends, n < 8) → exec (.replayLimit p) s = .next s)) ∧
    (st = 4 → fails (.retrainTimeout p) ∧ ((getPort s p).synced = true → exec (.linkAligned p) s = .next s) ∧
      ((getPort s p).synced = false → ∃ t, exec (.linkAligned p) s = .next t ∧ portState t p = 4 ∧ (getPort t p).synced = true ∧
        (getPort t p).helloSent = true ∧
        rd t (Fk.tlPerrReplays p) = min 0xFFFF (rd s (Fk.tlPerrReplays p) + (getPort s p).unacked.length))) ∧
    (st ≠ 1 → exec (.trainingTimeout p) s = .next s ∧ (st ≠ 4 → exec (.linkAligned p) s = .next s)) ∧
    (st ≠ 2 → exec (.helloTimeout p) s = .next s) ∧ (st ≠ 3 → exec (.fecLockLost p) s = .next s ∧ exec (.replayLimit p) s = .next s) ∧
    (st ≠ 4 → exec (.retrainTimeout p) s = .next s)

/-! Media and drains. -/

/-- 21 R528 to R531: essence packets of a context. Nothing is seen while the link is down; a packet of a flow that is off is discarded, one that breaks the format is
counted; an accepted one opens the unit of its timestamp, discarded whole where the hoop lacks room, and adds its samples, but for one of a unit
that is closed, whose samples are dropped; the marker closes a
video unit into the hoop. An audio sample stands in the unit of 960 that holds its timestamp, as an INT16 code. -/
def Obligations.MediaPackets : Prop :=
  ∀ (s : State) (c : Nat), c < 128 →
    (∀ v, let p := rd s (Fk.mediaFlowVPort c)
      let w := rd s (Fk.mediaFlowVWidth c)
      let u := getIn s c false
      let add := fun (m : SMap (Option Nat)) => v.samples.foldl (fun m x => mput (fun _ => none) m (sampleNo w x.1 x.2.2.1 x.2.1) (some x.2.2.2)) m
      (rd s (Fk.mediaPortStateLinkUp p) = 0 → exec (.mediaVideoPacket c v) s = .next s) ∧
      (rd s (Fk.mediaPortStateLinkUp p) ≠ 0 →
        (rd s (Fk.mediaFlowVEn c) = 0 → exec (.mediaVideoPacket c v) s = .next (bump s (Fk.mediaPortCnt0RxDiscard p) 32)) ∧
        (rd s (Fk.mediaFlowVEn c) ≠ 0 → videoFormatOk s c v = false →
          exec (.mediaVideoPacket c v) s = .next (bump s (Fk.mediaFlowDropFormatDrop c) 32)) ∧
        (rd s (Fk.mediaFlowVEn c) ≠ 0 → videoFormatOk s c v = true → p < 2 →
          let room := match ingressHoop s c with
            | some (r, h) => unitRoom s r h (unitLen s c false)
            | none => false
          (u.isOpen = false → unitPast u v.ts = true → ∃ t, exec (.mediaVideoPacket c v) s = .next t ∧ (getIn t c false).isOpen = false ∧
            (getIn t c false).got = u.got ∧ t.dev = s.dev) ∧
          (u.isOpen = false → unitPast u v.ts = false → v.marker = false → ∃ t, exec (.mediaVideoPacket c v) s = .next t ∧ (getIn t c false).isOpen = true ∧
            (getIn t c false).ts = v.ts ∧ (getIn t c false).drop = !room ∧ (getIn t c false).got = add [] ∧
            rd t (Fk.mediaPortCnt0RxFrames p) = (if room then (rd s (Fk.mediaPortCnt0RxFrames p) + 1) % 2 ^ 32 else rd s (Fk.mediaPortCnt0RxFrames p)) ∧
            rd t (Fk.mediaFlowDropUnitDrop c) = (if room then rd s (Fk.mediaFlowDropUnitDrop c) else (rd s (Fk.mediaFlowDropUnitDrop c) + 1) % 2 ^ 32)) ∧
          (u.isOpen = true → u.ts = v.ts → v.marker = false → ∃ t, exec (.mediaVideoPacket c v) s = .next t ∧ (getIn t c false).isOpen = true ∧
            (getIn t c false).ts = v.ts ∧ (getIn t c false).got = add u.got) ∧
          (u.isOpen = true → u.ts = v.ts → u.drop = false → v.marker = true →
            let len := 64 + (poisonBeats (videoData s c { u with got := add u.got })).length
            ∀ r h, ingressHoop s c = some (r, h) → posOf s r < 8 → h < 64 → unitRoom s r h len = true →
              ∃ t, exec (.mediaVideoPacket c v) s = .next t ∧ (getIn t c false).isOpen = false ∧
                rd t (Fk.mediaFlowVstatPictures c) = (rd s (Fk.mediaFlowVstatPictures c) + 1) % 2 ^ 32 ∧
                rd t (Fk.hoopTail (posOf s r) h) =
                  (rd s (Fk.hoopTail (posOf s r) h) + ceilDiv len (max 1 (hoopBytes s (posOf s r) h))) % 2 ^ 32)))) ∧
    (∀ x, let p := rd s (Fk.mediaFlowAPort c)
      let n := (x.chans.headD []).length
      let t0 := ((getIn s c true).t0).getD (x.ts % 2 ^ 32)
      let ts := (x.ts + (n - 1)) % 2 ^ 32
      let start := (t0 + wrapSub 32 ts t0 / 960 * 960) % 2 ^ 32
      (rd s (Fk.mediaPortStateLinkUp p) = 0 → exec (.mediaAudioPacket c x) s = .next s) ∧
      (rd s (Fk.mediaPortStateLinkUp p) ≠ 0 →
        (rd s (Fk.mediaFlowAEn c) = 0 → exec (.mediaAudioPacket c x) s = .next (bump s (Fk.mediaPortCnt0RxDiscard p) 32)) ∧
        (rd s (Fk.mediaFlowAEn c) ≠ 0 → audioFormatOk s c x = false →
          exec (.mediaAudioPacket c x) s = .next (bump s (Fk.mediaFlowDropFormatDrop c) 32)) ∧
        (rd s (Fk.mediaFlowAEn c) ≠ 0 → audioFormatOk s c x = true → (getIn s c true).isOpen = false → unitPast (getIn s c true) start = false → t0 < 2 ^ 32 →
          ∃ t, exec (.mediaAudioPacket c x) s = .next t ∧ (getIn t c true).isOpen = true ∧ (getIn t c true).ts = start ∧
            ∀ k, k < x.chans.length → gotAt (getIn t c true) (16 * wrapSub 32 ts start + k) =
              some (let z := (x.chans.getD k []).getD (n - 1) 0
                if x.l24 then code 16 (clamp (rneShift (sext 24 z) 8) (-32768) 32767) else z % 65536))))

/-- 21 R528, R533, R542; 02 R64 to R66: the media ports. LINK_UP falls, which closes the units of the port's flows and loses its PTP lock, and rises on an enabled
port; a frame that the port does not support is counted. Sixteen good Syncs in a row lock PTP, an offset above 1,000 ns unlocks it; on the port
that steers, a Sync moves TIME_NS by its offset, and losing the lock enters HOLDOVER. -/
def Obligations.MediaPorts : Prop :=
  ∀ (s : State) (p : Nat), p < 2 →
    let up := rd s (Fk.mediaPortStateLinkUp p)
    let locked := rd s (Fk.mediaPortStatePtpLock p)
    let unlocked := fun (t : State) => rd t (Fk.mediaPortStatePtpLock p) = 0 ∧ rd t (Fk.mediaPortPtpoffValid p) = 0 ∧
      (locked = 1 → ptpSteers s p = true → rd t Fk.epochTimeAuxTimeState = 3 ∧ rd t Fk.epochStatusHoldover = 1)
    (up = 0 → exec (.mediaLinkDown p) s = .next s ∧ (∀ o, exec (.ptpSync p o) s = .next s)) ∧
    (up ≠ 0 → ∃ t, exec (.mediaLinkDown p) s = .next t ∧ rd t (Fk.mediaPortStateLinkUp p) = 0 ∧ unlocked t ∧ ∀ c, c < 128 →
      (rd s (Fk.mediaFlowVEn c) = 1 → rd s (Fk.mediaFlowVPort c) = p → (getIn t c false).isOpen = false) ∧
      (rd s (Fk.mediaFlowAEn c) = 1 → rd s (Fk.mediaFlowAPort c) = p → (getIn t c true).isOpen = false)) ∧
    (rd s (Fk.mediaPortCtlEnable p) = 1 → up = 0 → ∃ t, exec (.mediaLinkUp p) s = .next t ∧ rd t (Fk.mediaPortStateLinkUp p) = 1 ∧ t.ctxs = s.ctxs) ∧
    (rd s (Fk.mediaPortCtlEnable p) ≠ 1 ∨ up ≠ 0 → exec (.mediaLinkUp p) s = .next s) ∧
    exec (.mediaFrameDiscard p) s = .next (if up = 1 then bump s (Fk.mediaPortCnt0RxDiscard p) 32 else s) ∧
    (∃ t, exec (.ptpAnnounceTimeout p) s = .next t ∧ unlocked t) ∧
    (up ≠ 0 → ∀ o : Int,
      let good := o.natAbs < 6553600
      let far := 65536000 < o.natAbs
      let n := mget (fun _ => 0) s.root.ptpGood p + 1
      ∃ t, exec (.ptpSync p o) s = .next t ∧ rd t (Fk.mediaPortPtpoffOffset p) = code 48 o ∧
        (good → mget (fun _ => 0) t.root.ptpGood p = min n 16) ∧ (¬ good → mget (fun _ => 0) t.root.ptpGood p = 0) ∧
        (good → 16 ≤ n → rd t (Fk.mediaPortStatePtpLock p) = 1 ∧ (ptpSteers s p = true → rd t Fk.epochTimeAuxTimeState = 2)) ∧
        (far → unlocked t) ∧ (good ∨ ¬ far → ¬ (good ∧ 16 ≤ n) → rd t (Fk.mediaPortStatePtpLock p) = locked) ∧
        (ptpSteers s p = true → rd t Fk.epochTimeNs = (((timeThirds s : Nat) : Int) - 3 * o).toNat / 196608 % 2 ^ 64) ∧
        (ptpSteers s p = false → rd t Fk.epochTimeNs = rd s Fk.epochTimeNs))

/-- 13 R361, R370 to R373; 14 R374 to R378; 16 R438; 19 R501; 20 R523, R524; 21 R532: drains. At the availability time of its next slot a stream discards late records, which
leave its hoop (R378), and queues the access unit of the slot: PRE, then its ingot, complete by that time, or a hold, and END where the stream ends. A datagram carries seven packets of the
cycle, PAT and PMT first, and leaves on a media port whose link is up, or to the output ring of the context's queue while it has room; else
it is discarded. -/
def Obligations.Drains : Prop :=
  ∀ (s : State) (c : Nat),
    let d := (getCtx s c).drain
    (∀ a, slotDue s c a = false → exec (.drainAction c a) s = .next s) ∧
    (∀ a, slotDue s c a = true → rd s Fk.auditWcfgWmode ≠ wmReplay ∨ d.holding = some 2 →
      let n := nextSlot d a
      let late := d.recs.filter (fun r => decide (r.video = !a) && decide (r.slot < n) && !r.pre && r.slots.isSome)
      let v := discardLate (untilNs s (slotTime s c a n)) c n a
      let find := fun (pre : Bool) => (getCtx v c).drain.recs.find? (fun r => decide (r.video = !a) && decide (r.slot = n) && decide (r.pre = pre) &&
        r.slots.isSome && (decide (rd s Fk.auditWcfgWmode = wmReplay) || decide (r.doneAt ≤ slotTime s c a n)))
      let got := if d.holding = none then find false else none
      let unit := match got with
        | some r => r.bytes
        | none => holdUnit n (if d.holding = some 2 then 2 else if encPoisoned s c n a then 1 else d.holding.getD 0)
      let pre := ((find true).map (·.bytes)).getD []
      let fin := if endOf d a = some n then unitBytes utEnd (toBE 4 (n + 1)) else []
      ∃ t, exec (.drainAction c a) s = .next t ∧
        (let e := (getCtx t c).drain
         nextSlot e a = n + 1 ∧ nextSlot e (!a) = nextSlot d (!a) ∧ queueOf e (!a) = queueOf d (!a) ∧
         queueOf e a = queueOf d a ++ (cutUnit (streamPid s c a) (slotPts s c n a) (pre ++ unit ++ fin)).map (fun p => (slotTime s c a n, p)) ∧
         (∀ r ∈ e.recs, ∃ q ∈ d.recs, (r.video, r.slot, r.pre, r.bytes, r.num, r.isPic) = (q.video, q.slot, q.pre, q.bytes, q.num, q.isPic)) ∧
         ((∀ r ∈ d.recs, r.slots.isSome = true) → (getCtx v c).drain.recs = d.recs.filter (fun r => decide (r.video = a) || decide (n ≤ r.slot)) ∧
           ∀ r ∈ e.recs, r ∈ d.recs ∧ (r.video = (!a) → n ≤ r.slot))) ∧
        t.drainWit = s.drainWit ++ [(c, n, !got.any (·.isPic))] ∧
        rd t (Fk.drainStatHolds c) =
          (if got.any (·.isPic) then rd s (Fk.drainStatHolds c) else (rd s (Fk.drainStatHolds c) + 1) % 2 ^ 16) ∧
        (late ≠ [] → rd t (Fk.drainStatDiscarded c) = (rd s (Fk.drainStatDiscarded c) + late.length) % 2 ^ 16) ∧
        t.cc = s.cc + (slotTime s c a n * 196608 - timeThirds s + 131071) / 131072) ∧
    (drainRuns s c = false → exec (.drainDatagram c) s = .next s) ∧
    (drainRuns s c = true →
      let dest := rd s (Fk.drainCfgDest c)
      let tm := oppTime s c d.cycle (7 * d.dgram + 6)
      let next := fun (t : State) => let e := (getCtx t c).drain
        if 7 * (d.dgram + 1) ≥ rd s (Fk.drainCycleC c) then e.dgram = 0 ∧ e.cycle = d.cycle + 1 else e.dgram = d.dgram + 1 ∧ e.cycle = d.cycle
      let q := rd s (Fk.ctxCfgWq c)
      (dest < 2 → ∃ t l, exec (.drainDatagram c) s = .next t ∧ next t ∧
        rd t (Fk.mediaEgrStatRtpSeq c) = (rd s (Fk.mediaEgrStatRtpSeq c) + 1) % 2 ^ 16 ∧
        (d.dgram = 0 → l.take 376 = withCc (patPacket s c) (nextCc s c 0) ++ withCc (pmtPacket s c) (nextCc s c 1)) ∧
        (rd s (Fk.mediaPortStateLinkUp dest) = 1 → t.out.head? = some (.media dest (egressFrame s c dest tm l)) ∧
          rd t (Fk.mediaPortCnt1TxDatagrams dest) = (rd s (Fk.mediaPortCnt1TxDatagrams dest) + 1) % 2 ^ 32) ∧
        (rd s (Fk.mediaPortStateLinkUp dest) ≠ 1 → t.out = s.out ∧
          rd t (Fk.mediaPortCnt1TxDiscard dest) = (rd s (Fk.mediaPortCnt1TxDiscard dest) + 1) % 2 ^ 32)) ∧
      (dest = 2 → rd s Fk.auditWcfgWmode = wmReplay → ringRoom s q = false → exec (.drainDatagram c) s = .next s) ∧
      (dest = 2 → rd s Fk.auditWcfgWmode ≠ wmReplay ∨ ringRoom s q = true → ∃ t, exec (.drainDatagram c) s = .next t ∧ next t ∧
        (s.part.pcieUp = true → ringRoom s q = true →
          let tail := rd s (Fk.wqHeadsOrTail q)
          let a := rd s (Fk.wqOrOrPage q) * 4096 + tail % ringSize (rd s (Fk.wqOrOrLog2 q)) * 1344
          rd t (Fk.wqHeadsOrTail q) = (tail + 1) % 2 ^ 20 ∧ (getWq t q).dseq = ((getWq s q).dseq + 1) % 2 ^ 32 ∧
          (d.vq = [] → d.aq = [] → ∃ l : List Byte, l.length = 1316 ∧
            mBytes t.host a 1344 = toLE 4 (getWq s q).dseq ++ toLE 2 c ++ toLE 2 0 ++ toLE 8 tm ++ l ++ List.replicate 12 0)) ∧
        (s.part.pcieUp = false ∨ ringRoom s q = false → t.host = s.host ∧
          rd t (Fk.drainStatDiscarded c) = (rd s (Fk.drainStatDiscarded c) + 1) % 2 ^ 16)))

/-! Memory devices and power. -/

/-- 03 R71, R72, R77, R85; 17 R464; 18 R468: a refresh window begins at its channel's offset plus a whole number of periods; a device above 85 degrees, or 95 at
2x refresh, sets its bit, refreshes at 2x and faults a job with traffic on it; a scrub pass clears the recorded addresses of channels and SRAM
on which the job has no traffic and that no held device has (an address from 2^52 on is a local memory's); an
error window ends a whole number of windows after PLL lock and clears every count. -/
def Obligations.MemoryEvents : Prop :=
  ∀ s : State,
    (∀ (hearth : Bool) g, s.part.clocks = true → g < (if hearth then 256 else 128) → rd s Fk.epochCycle < 2 ^ 60 →
      let per := if refresh2x s (if hearth then g / 16 else 16 + g / 4) then 2432 else 5312
      ∃ t k, exec (.refreshWindow hearth g) s = .next t ∧ rd t Fk.epochCycle = 64 * (g % 8) + per * k ∧ rd s Fk.epochCycle ≤ rd t Fk.epochCycle ∧
        (k ≠ 0 → rd t Fk.epochCycle < rd s Fk.epochCycle + per) ∧ t.cc = s.cc + (rd t Fk.epochCycle - rd s Fk.epochCycle) ∧ t.dev = s.dev) ∧
    (∀ dev temp, (48 ≤ dev → exec (.dramTempReport dev temp) s = .next s) ∧
      (dev < 48 →
        let hearth2x := rd s (if dev < 16 then Fk.memRefreshHearth2x else Fk.memRefreshCellar2x) = 1
        let hot := (hearth2x → 95 < temp) ∧ (¬ hearth2x → 85 < temp)
        ∃ t, exec (.dramTempReport dev temp) s = .next t ∧ dramTemp t dev = temp ∧
          (dramFigure s dev < temp → rd t Fk.bellowsStatusDramWarm = 1) ∧ (temp ≤ dramFigure s dev → t.regs = s.regs) ∧
          (hot → refresh2x t dev = true ∧ (dev < 16 → rdBit t Fk.memStatusHearthTemp dev = true) ∧
            (16 ≤ dev → rdBit t Fk.memStatusCellarTemp (dev - 16) = true) ∧ (trafficOn s dev = true → EndedBy t 0x13)) ∧
          (¬ hot ∨ trafficOn s dev = false → t.job = s.job))) ∧
    (let unit := fun (a : Nat) => if 2 ^ 52 ≤ a ∧ a < 2 ^ 53 then (1, 0) else errUnit s a
     let idle := fun (a : Nat) => !unitTraffic s (unit a) && !hotUnit s (unit a)
     ∃ t, exec .scrub s = .next t ∧ t.part.scrub = s.part.scrub.filter (fun a => !idle a) ∧ t.dev = s.dev ∧
       (s.part.scrub.filter idle = [] → t = s) ∧
       (s.part.scrub.filter idle ≠ [] → rd t Fk.memStatusScrubPending = if s.part.scrub.filter (fun a => !idle a) = [] then 0 else 1)) ∧
    ∃ t n, exec .errorWindowEnd s = .next t ∧ t.part.ceCounts = [] ∧ t.part.ueCounts = [] ∧ s.cc < t.cc ∧ t.cc = s.part.pllAt + 1500000000 * n ∧
      (s.part.pllAt ≤ s.cc → t.cc ≤ s.cc + 1500000000) ∧ t.dev = s.dev

/-- 17 R450 to R453, R458, R459, R461 to R464: Bellows. A sample gives each region its mean demand and each sensor's thermal state; TRIP stops the clocks, pulls
THERMTRIP_N low and ends service; a fast mean above the limit sets URGENT, and the pending paces are adopted at once. A governor window gives the
measured totals and the floors, below which no pending pace falls. A droop trip stretches its region until it is clear; ballast ramps up to START_W
before a job's first release, and down after MAX_US. -/
def Obligations.Power : Prop :=
  ∀ s : State,
    let each := fun (f : Nat → Nat → Prop) => ∀ r, r < regionCount s → posOf s r < 8 → f r (posOf s r)
    (∀ d u tj io, (s.part.clocks = false → exec (.bellowsSample d u tj io) s = .next s) ∧
      (s.part.clocks = true →
        let p := meanSample ((⟨d, u⟩ :: s.bellows.fast).take 32)
        let trips := fun (n : Nat) => rd s Fk.bellowsThermTripC ≤ (tj.getD n (0, 0)).2
        let cold := fun (x : Nat) => x < rd s Fk.bellowsThermTripC ∧ x + rd s Fk.bellowsThermHystC < rd s Fk.bellowsThermHotC
        let fast := decide (((packageDemand s p : Nat) : Int) > capW s * ((100 + rd s Fk.bellowsCapStgFastPct : Nat) : Int) / 100)
        let top := rd s Fk.bellowsBallastStartW
        ∃ t, exec (.bellowsSample d u tj io) s = .next t ∧
          each (fun r n => rd t (Fk.bellowsRegionPwrRegionW n) = demandOf p r % 65536) ∧
          (∀ n, n < 8 → logicalOf s n ≠ none → rd t (Fk.bellowsRegionPwrTjMax n) = (tj.getD n (0, 0)).2 % 256 ∧
            rd t (Fk.bellowsRegionPwrTstate n) = nextTstate s (rd s (Fk.bellowsRegionPwrTstate n)) (tj.getD n (0, 0)).2) ∧
          (∀ n, n < 8 → logicalOf s n ≠ none → trips n → rd s (Fk.bellowsRegionPwrTstate n) ≠ 3 → s.part.thermtrip = false →
            t.part.clocks = false ∧ t.part.service = false ∧ Out.pin "THERMTRIP_N" false ∈ t.out ∧
            rd t Fk.faultPartPartCode = (if rd s Fk.faultPartPartCode = 0 then 0x1A else rd s Fk.faultPartPartCode) ∧
            (running s = true → rd t Fk.bootJobJstate = jEnded)) ∧
          ((∀ n, n < 8 → cold (tj.getD n (0, 0)).2) → (∀ n, n < 2 → cold (io.getD n (0, 0)).2) → fast = false →
            each (fun r n => rd s (Fk.bellowsRegionPwrBallastOn n) ≠ 0 → (getRegion s r).run ≠ .barrier → (getRegion s r).ballastW < top →
              (getRegion t r).ballastW = min top ((getRegion s r).ballastW + rd s Fk.bellowsBallastRamp * ((s.cc - (getRegion s r).ballastSince) / 1500)))) ∧
          ((∀ n, n < 8 → ¬ trips n) → (∀ n, n < 2 → (io.getD n (0, 0)).2 < rd s Fk.bellowsThermTripC) → fast = true →
            rd t Fk.bellowsStatusUrgent = 1 ∧ each (fun _ n => rd t (Fk.bellowsRegionPwrPace n) = rd t (Fk.bellowsRegionPwrPending n))))) ∧
    (s.part.clocks = false → exec .governorWindow s = .next s) ∧
    (s.part.clocks = true →
      let k := max 1 s.bellows.govN
      let p : PowerSample := ⟨s.bellows.govSum.map (· / k), s.bellows.govU / k⟩
      ∃ t, exec .governorWindow s = .next t ∧ t.bellows = { s.bellows with govSum := List.replicate 24 0, govU := 0, govN := 0 } ∧
        rd t Fk.bellowsMeasPkgW = packageDemand s p % 65536 ∧ rd t Fk.bellowsMeasComputeW = classTotal s p 0 % 65536 ∧
        rd t Fk.bellowsMeasMemoryW = classTotal s p 1 % 65536 ∧ rd t Fk.bellowsMeasLinksW = classTotal s p 2 % 65536 ∧
        each (fun r n =>
          let st := max (rd s (Fk.bellowsRegionPwrTstate n)) (max (mget (fun _ => 0) s.bellows.io 0) (mget (fun _ => 0) s.bellows.io 1))
          let hot := ∃ v, v < 48 ∧ r ∈ dramRegions s v ∧ dramFigure s v < dramTemp s v
          let cool := ∀ v, v < 48 → r ∈ dramRegions s v → dramTemp s v + 3 ≤ dramFigure s v
          let f := rd s (Fk.bellowsRegionPwrFloor n)
          let g := rd t (Fk.bellowsRegionPwrFloor n)
          g ≤ rd t (Fk.bellowsRegionPwrPending n) ∧ (2 ≤ st → 6 ≤ g) ∧ (st = 1 ∨ (st = 0 ∧ hot) → g = min 12 (f + 1)) ∧
            (st = 0 → ¬ hot → cool → g = f - 1) ∧ (st = 0 → ¬ hot → ¬ cool → g = f))) ∧
    (∀ n, n < 8 →
      (logicalOf s n = none → exec (.droopTrip n) s = .next s ∧ exec (.droopClear n) s = .next s) ∧
      (∀ r, logicalOf s n = some r →
        (rd s (Fk.bellowsRegionPwrStretchOn n) = 1 → exec (.droopTrip n) s = .next (modRegion s r (fun x => { x with droopClear := s.cc }))) ∧
        (rd s (Fk.bellowsRegionPwrStretchOn n) ≠ 1 → ∃ t, exec (.droopTrip n) s = .next t ∧ rd t (Fk.bellowsRegionPwrStretchOn n) = 1 ∧
          Counted s t tDivStretch ∧ getRegion t r = { getRegion s r with droopExt := rd s Fk.bellowsDroopExt, droopClear := s.cc }) ∧
        (rd s (Fk.bellowsRegionPwrStretchOn n) = 0 → exec (.droopClear n) s = .next s) ∧
        (rd s (Fk.bellowsRegionPwrStretchOn n) ≠ 0 → ∃ t, exec (.droopClear n) s = .next t ∧ rd t (Fk.bellowsRegionPwrStretchOn n) = 0 ∧
          getRegion t r = { getRegion s r with droopExt := 0, lastStretch := (getRegion t r).lastStretch } ∧
          (0 < (getRegion s r).droopExt → 0 < rd t (Fk.rschedScyc (posOf s r)) →
            (getRegion t r).lastStretch = some (rd t (Fk.rschedScyc (posOf s r)) - 1)) ∧
          t.cc = max s.cc ((getRegion s r).droopClear +
            ceilDiv (rd s Fk.bellowsDroopHoldCc * min 16 (4 + paceOf s r + (getRegion s r).droopExt)) 4)))) ∧
    ∀ r, let x := getRegion s r
      (rd s (Fk.bellowsRegionPwrBallastOn (posOf s r)) = 0 ∨ x.run ≠ .barrier → exec (.ballastRampDown r) s = .next s) ∧
      (rd s (Fk.bellowsRegionPwrBallastOn (posOf s r)) ≠ 0 → x.run = .barrier →
        let maxUs := rd s Fk.bellowsBallastMaxUs
        ∃ t, exec (.ballastRampDown r) s = .next t ∧ t.cc = max s.cc (x.ballastSince + (maxUs + 1) * 1500) ∧ (getRegion t r).run = .barrier ∧
          (getRegion t r).ballastW = max (x.ballastW - rd s Fk.bellowsBallastRamp * ((t.cc - x.ballastSince) / 1500 - maxUs))
            (min x.ballastW (rd s Fk.bellowsStaticSRegionW)))

/-! Observation and management. -/

/-- 18 R475, R477, R478, R480, R481, R486, R489; 21 R541: a Heartwood record writes its oldest queued entry with the next SEQ, and freezes once the entries of the
fatal cycle are written; the ring takes up to four entries, one from each source; the port sends the next entry, or skips behind a gap record; a
held alarm is raised once it may; a READ of defined form is answered with the bytes of the observation space, any other is discarded. -/
def Obligations.Observation : Prop :=
  ∀ s : State,
    (∀ n, n ≤ 8 → let r := getHw s n
      (r.freezeAt = none → r.frozen = true ∨ r.queue = [] → exec (.heartwoodWrite n) s = .next s) ∧
      (∀ e q, r.frozen = false → r.queue = e :: q → (∀ c, r.freezeAt = some c → e.stamp ≤ c) → ∃ t, exec (.heartwoodWrite n) s = .next t ∧
        mget (fun _ => none) (getHw t n).ring (r.written % hwSize n) = some { e.entry with seq := r.written } ∧
        (getHw t n).written = (r.written + 1) % 2 ^ 32 ∧ (n = 8 → e.first = true → rd t Fk.faultJobHwSeq = r.written) ∧
        (∀ c, r.freezeAt = some c → (getHw t n).frozen = q.all (fun x => decide (c < x.stamp))) ∧
        (r.freezeAt = none → (getHw t n).queue = q ∧ (getHw t n).frozen = false ∧ (e.first = false → t.regs = s.regs))) ∧
      (∀ c, r.freezeAt = some c → (∀ x ∈ r.queue, c < x.stamp) → ∃ t, exec (.heartwoodWrite n) s = .next t ∧ (getHw t n).frozen = true ∧
        (getHw t n).queue = [] ∧ (getHw t n).ring = r.ring ∧ (getHw t n).dropped = min (r.dropped + r.queue.length) (2 ^ 32 - 1))) ∧
    (let src := fun (i : Nat) => mget (fun _ => srcEmpty) s.trace.srcs i
     let have_ := (List.range 10).filter (fun i => (src i).fifo ≠ [])
     s.trace.next < 10 → s.trace.written < 2 ^ 32 → ∃ t, exec .ringWrite s = .next t ∧
       t.trace.written = (s.trace.written + min 4 have_.length) % 2 ^ 32 ∧ (have_ = [] → t = s) ∧
       (have_.length ≤ 4 → ∀ i ∈ have_, (mget (fun _ => srcEmpty) t.trace.srcs i).fifo = (src i).fifo.tail) ∧
       ∀ i e l, have_ = [i] → (src i).fifo = e :: l → t.trace.next = (i + 1) % 10 ∧
         mget (fun _ => none) t.trace.ring (s.trace.written % 131072) = some { e with seq := s.trace.written } ∧
         t.trace.gaps = if e.cls = 15 then (s.trace.gaps + 1) % 2 ^ 32 else s.trace.gaps) ∧
    (let p := s.trace.portPos
     let behind := wrapSub 32 s.trace.written p
     (rd s Fk.ringCfgPortEn = 0 ∨ behind = 0 → exec .obsTraceSend s = .next s) ∧
     (rd s Fk.ringCfgPortEn ≠ 0 → behind ≠ 0 → behind ≤ 1024 → ∀ e, mget (fun _ => none) s.trace.ring (p % 131072) = some e →
       let b := toLE 1 0x82 ++ traceBytes e
       exec .obsTraceSend s = .next { s with trace := { s.trace with portPos := (p + 1) % 2 ^ 32 }, out := .obs (b ++ toBE 2 (crc16 b)) :: s.out }) ∧
     (rd s Fk.ringCfgPortEn ≠ 0 → 1024 < behind → ∃ t e, exec .obsTraceSend s = .next t ∧
       (let b := toLE 1 0x82 ++ traceBytes e
        t.out = .obs (b ++ toBE 2 (crc16 b)) :: s.out ∧ e.cls = 15 ∧ e.source = 0xFFFF ∧
        e.data.take 8 = toLE 4 s.trace.portGap ++ toLE 4 (behind - 1)) ∧
       t.trace.portPos = wrapSub 32 s.trace.written 1 ∧ t.trace.portGap = (s.trace.portGap + 1) % 2 ^ 32)) ∧
    (∀ k, k < 16 →
      (rd s (Fk.alarmHeld k) ≠ 1 ∨ alarmReady s k = false → exec (.alarmRaise k) s = .next s) ∧
      (rd s (Fk.alarmHeld k) = 1 → alarmReady s k = true → ∃ t, exec (.alarmRaise k) s = .next t ∧ rd t (Fk.alarmPending k) = 1 ∧
        Counted s t tAlarms ∧ (k ≠ 14 → rd t (Fk.alarmHeld k) = 0) ∧
        (s.part.pcieUp = true → Out.msix (rd s (Fk.alarmVector k)) ∈ t.out) ∧ (rd s (Fk.alarmMgmt k) = 1 → Out.pldm k ∈ t.out))) ∧
    ∀ tag a n ok,
      let good := ok = true ∧ a % 8 = 0 ∧ n % 8 = 0 ∧ 8 ≤ n ∧ n ≤ 256 ∧ a + n ≤ 0x1000000
      let b := toLE 1 0x81 ++ toLE 2 tag ++ toLE 2 n ++ bar2Bytes s a n
      (good → exec (.obsRead tag a n ok) s = .next { s with out := .obs (b ++ toBE 2 (crc16 b)) :: s.out }) ∧
      (¬ good → exec (.obsRead tag a n ok) s = .next s)

/-- 21 R537, R538, R540: management and the TAP. A READ of 8 to 48 bytes in eights gives bytes of the observation space, any other command
ERROR_UNSUPPORTED_CMD; a dynamic address moves the bus to I3C and RSTDAA back; the TAP instructions act in RESET alone, BYPASS, CLAMP and HIGHZ
capture 0, IDCODE gives its code, and EXTEST and CLAMP drive the lands. -/
def Obligations.Management : Prop :=
  ∀ s : State,
    (∀ a n, (a % 8 = 0 ∧ n % 8 = 0 ∧ 8 ≤ n ∧ n ≤ 48 ∧ a < 2 ^ 32 → exec (.mctpRead a n) s = .next { s with out := .mgmt 0 (bar2Bytes s a n) :: s.out }) ∧
      (¬ (a % 8 = 0 ∧ n % 8 = 0 ∧ 8 ≤ n ∧ n ≤ 48 ∧ a < 2 ^ 32) → exec (.mctpRead a n) s = .next { s with out := .mgmt 5 [] :: s.out })) ∧
    exec .mctpUnsupported s = .next { s with out := .mgmt 5 [] :: s.out } ∧
    (∀ a, exec (.i3cDaa a) s = .next { s with part := { s.part with i3c := true, dynAddr := a % 128 } }) ∧
    exec .rstdaa s = .next { s with part := { s.part with i3c := false, dynAddr := 0 } } ∧
    (stage s ≠ 0 → ∀ l p, ∀ c ∈ [Instr.bypass, .idcode, .samplePreload l p, .extest l, .clamp, .highz], exec c s = .next s) ∧
    (stage s = 0 →
      let tap := fun (i : Nat) (drive : Bool) (v : Nat) =>
        ({ s with part := { s.part with tap := i, pinsDriven := drive }, out := .tap v :: s.out } : State)
      exec .bypass s = .next (tap 1 false 0) ∧ exec .idcode s = .next (tap 2 false (0x0F008000 + 2 * Config.jep106.toNat + 1)) ∧
      (∀ l p, exec (.samplePreload l p) s = .next
        { s with part := { s.part with tap := 3, pinsDriven := false, boundary := p }, out := .tap l :: s.out }) ∧
      (∀ l, exec (.extest l) s = .next (tap 4 true l)) ∧ exec .clamp s = .next (tap 5 true 0) ∧ exec .highz s = .next (tap 6 false 0))

/-! Streams. -/

/-- 10 R297; 11 R318; 13 R345 to R354, R361 to R369; 19 R506: what a decoder does with the units around its ingots. A header of another MAJOR, one that breaks its
format, and one that starts a new stream; MODEL, which must match the package; REFRESH and END; a hold, which is output for its slot; units that
are skipped; the loss of unit sync. A GRAFT unit that repeats a set held changes nothing, another is refused, or is moved into memory form and waits in PENDING until its merge
completes. A lane, which keeps at most 16 transfers in progress, parks one grantee's coder state and restores
another's, poisoned where its store is uncorrectable. -/
def Obligations.CodecUnits : Prop :=
  ∀ (s : State) (c : Nat), c < 128 →
    let flagged := fun (t : State) (i : Nat) => rdBit t (Fk.ctxFlags c) i = true
    (∀ a body ts h bad, decodes s c = false →
      ∀ k ∈ [Instr.streamHeader c a body, .modelUnit c a body, .refreshUnit c a body, .holdIngot c a body, .endUnit c a body, .extensionUnit c a,
        .unassignedUnit c a, .unitSyncLoss c a ts, .videoIngot c h body bad, .audioIngot c h body bad], exec k s = .next s) ∧
    (∀ a, decodes s c = true →
      let st := getS s c a
      let off := discarding st || st.otherMajor
      (∃ t, exec (.extensionUnit c a) s = .next t ∧ t = { s with ctxs := t.ctxs } ∧ ∀ k, getCtx t k = getCtx s k) ∧
      (∀ body, st.resync = false →
        (be body 0 1 ≠ 1 → ∃ t, exec (.streamHeader c a body) s = .next t ∧ (getS t c a).otherMajor = true ∧ (getS t c a).header = st.header ∧
          flagged t 17) ∧
        (be body 0 1 = 1 → headerOk st.pkg a body = false → ∃ t, exec (.streamHeader c a body) s = .next t ∧ flagged t 14 ∧
          (getS t c a).header = st.header ∧ (getS t c a).joined = false) ∧
        (be body 0 1 = 1 → headerOk st.pkg a body = true → ∃ t, exec (.streamHeader c a body) s = .next t ∧
          (getS t c a).header = some body ∧ (getS t c a).otherMajor = false ∧ (getS t c a).graftJoin = true ∧ t.regs = s.regs ∧
          (st.header = some body → (getS t c a).model = st.model ∧ (getS t c a).refs = st.refs ∧ (getS t c a).lastSlot = st.lastSlot) ∧
          (st.header ≠ some body → (getS t c a).model = none ∧ (getS t c a).refs = [] ∧ (getS t c a).lastSlot = none ∧
            (getS t c a).current = none ∧ (getS t c a).coding = false ∧ (getCtx t c).chain = List.replicate 32 0))) ∧
      (st.resync = true → ∀ body, body.length ≠ (if a then 10 else 24) ∨ be body 0 1 ≠ 1 → exec (.streamHeader c a body) s = .next s) ∧
      (off = true → ∀ body, ∀ k ∈ [Instr.modelUnit c a body, .refreshUnit c a body, .endUnit c a body], exec k s = .next s) ∧
      (off = false → ∀ body,
        (∃ t, exec (.modelUnit c a body) s = .next t ∧
          (lenOk (minorOf st) 72 body.length = false ∨ be body 6 2 ≠ 0 → flagged t 14 ∧ (getS t c a).model = st.model) ∧
          (lenOk (minorOf st) 72 body.length = true → be body 6 2 = 0 → (getS t c a).model = some body ∧
            (getS t c a).modelOk = (if st.model = some body then st.modelOk else modelMatches s st.pkg body) ∧
            ((getS t c a).modelOk = false → flagged t 16) ∧
            (st.model.isSome = true → st.model ≠ some body → (getS t c a).refs = [] ∧ (getS t c a).lastSlot = none))) ∧
        (let good := lenOk (minorOf st) 8 body.length = true ∧ be body 6 2 = 0 ∧ be body 4 2 ≠ 0 ∧ (a = true → be body 4 2 = 1)
         ∃ t, exec (.refreshUnit c a body) s = .next t ∧ (good → (getS t c a).refresh = some (be body 0 4, be body 4 2) ∧ t.regs = s.regs) ∧
           (¬ good → flagged t 14 ∧ (getS t c a).refresh = st.refresh)) ∧
        ∃ t, exec (.endUnit c a body) s = .next t ∧
          (lenOk (minorOf st) 4 body.length = true → (getS t c a).header = none ∧ (getS t c a).model = none ∧ (getS t c a).joined = false ∧ t.regs = s.regs) ∧
          (lenOk (minorOf st) 4 body.length = false → flagged t 14 ∧ (getS t c a).header = st.header)) ∧
      (off = true → exec (.unassignedUnit c a) s = .next s) ∧
      (off = false → ∃ t, exec (.unassignedUnit c a) s = .next t ∧ flagged t 14 ∧ (getS t c a).joined = false) ∧
      (∀ ts, ∃ t, exec (.unitSyncLoss c a ts) s = .next t ∧ flagged t 14 ∧ (getS t c a).resync = (!ts) ∧ (getS t c a).lostUnread = max 1 st.lostUnread ∧
        (getS t c a).joined = (st.joined && ts)) ∧
      ∀ body, off = false → st.lostUnread = 0 → body.length = 3 →
        let slot := match st.lastSlot with
          | none => be body 0 2
          | some l => l + 1 + (be body 0 2 + 65536 - (l + 1) % 65536) % 65536
        ∃ t, exec (.holdIngot c a body) s = .next t ∧ (getS t c a).lastSlot = some slot ∧
          (let h := st.header.getD []
           let n := be h 8 2 * be h 10 2
           let fill := if a then [(960 * be h 8 1, 0)] else if st.shown then [] else [(n, if be h 23 1 = 1 then 0 else 64), (n / 2, 512)]
           st.joined = true → st.modelOk = true → t.out = .unit c a slot (if a then 3 else if st.shown then 1 else 2) false ::
             ((if fill = [] then [] else [.samples c a slot fill]) ++ .holdReason c a slot (if 3 ≤ be body 2 1 then 0 else be body 2 1) :: s.out)) ∧
          (st.modelOk = false → t.out.head? = some (.unit c a slot (if a then 3 else if st.shown then 1 else 2) true) ∧ flagged t 13)) ∧
    (let st := getS s c false
     ∀ body,
      let id := be body 0 4
      let held := decide (st.current.map (·.num) = some id) || decide (st.pendingG.map (·.num) = some id)
      let dir := rd s (Fk.ctxCfgDir c)
      let minor := if dir = 0 then 0 else minorOf st
      let again := held && graftForm st.pkg minor body
      let ok := graftOk st.pkg minor body
      (running s = false ∨ rd s (Fk.ctxCfgMode c) = 0 → ∀ bad, exec (.graftUnit c body bad) s = .next s) ∧
      (running s = true → rd s (Fk.ctxCfgMode c) ≠ 0 → dir = 0 ∨ (discarding st || st.otherMajor) = false →
        ∀ bad, ∃ t, exec (.graftUnit c body bad) s = .next t ∧
          (again = true → t.regs = s.regs ∧ t.dev = s.dev ∧ (getS t c false).pendingG = st.pendingG) ∧
          (again = false → bad = true ∨ ok = false → flagged t 12 ∧ t.dev = s.dev ∧ (getS t c false).pendingG = st.pendingG) ∧
          (again = false → bad = false → ok = true → t.regs = s.regs ∧ t.dev = (placeGraft s c body).dev ∧
            (getS t c false).pendingG = some ⟨id, body, false, false, false⟩))) ∧
    (∃ t, exec (.graftMerge c) s = .next t ∧ t = { s with ctxs := t.ctxs } ∧ (getS t c false).pendingG = (getS s c false).pendingG.map (fun g =>
      if rd s (Fk.ctxCfgDir c) = 1 ∨ g.sent then { g with merged := true } else g)) ∧
    ∀ r lane gout gin st, lane < 32 → gout < 65536 → gin < 65536 →
      let parks := (getRegion s r).parks
      let key := fun (g : Nat) => lane * 65536 + g
      let at_ := fun (m : SMap (Option Park)) => mget (fun _ => none) m
      let out := if gout = 0 then none else st.coder
      let back := at_ parks (key gin)
      (running s = false ∨ gout = gin → exec (.lanePark r lane gout gin st) s = .next s) ∧
      let held := (parks.filter (fun x => decide (x.1 / 65536 = lane) && decide (x.1 ≠ key gin) && decide (x.1 ≠ key gout) && x.2.isSome)).length +
        (if out.isSome then 1 else 0) + (if back.isSome then 1 else 0)
      (running s = true → gout ≠ gin → 16 < held → exec (.lanePark r lane gout gin st) s = .refused (.loaderRefuses "R318")) ∧
      (running s = true → gout ≠ gin → held ≤ 16 → ∃ t, exec (.lanePark r lane gout gin st) s = .next t ∧ t.dev = s.dev ∧
        at_ (getRegion t r).parks (key gout) = out.map (fun c => ⟨c, false⟩) ∧ at_ (getRegion t r).parks (key gin) = none ∧
        at_ (getRegion t r).lanes lane = back.map (fun q => { q with bad := q.bad || decide (st.err = 2) }) ∧
        ∀ k, k ≠ key gout → k ≠ key gin → at_ (getRegion t r).parks k = at_ parks k)

/-- 13 R355 to R360, R362, R367, R368; 10 R286, R297; 11 R314, R315; 14 R391; 19 R505: ingots. One met while bytes are discarded or of another MAJOR is lost and counted; one whose
slot does not follow the last is ignored with STREAM_ORDER; one that breaks its format, or that no join point or matching model precedes, is
lost and its slot output concealed; a good one puts its step records into the hoop, becomes the stream's last, and is output, concealed where a
reference, its weights or its predecessor is missing. -/
def Obligations.Ingots : Prop :=
  ∀ (s : State) (c h : Nat) (a : Bool) (body : List Byte) (poison : List Nat), c < 128 → h < 64 → decodes s c = true →
    let cmd := if a then Instr.audioIngot c h body poison else .videoIngot c h body poison
    let st := getS s c a
    let slot := be body 0 4
    let r := rd s (Fk.ctxCfgHome c)
    let n := posOf s r
    let flagged := fun (t : State) (i : Nat) => rdBit t (Fk.ctxFlags c) i = true
    let lost := fun (t : State) => (getS t c a).lastSlot = some slot ∧ (getS t c a).refs = st.refs ∧ flagged t 13 ∧
      Out.unit c a slot (if a then 3 else if st.shown then 1 else 2) true ∈ t.out ∧ rd t (Fk.ctxStatResults c) = rd s (Fk.ctxStatResults c)
    let put := fun (t : State) (recs : List (List (Byte × Bool))) =>
      rd t (Fk.ctxStatResults c) = (rd s (Fk.ctxStatResults c) + 1) % 2 ^ 32 ∧ (getS t c a).lastSlot = some slot ∧ (getS t c a).shown = true ∧
      ∀ k, k = (recs.map (fun x => ceilDiv x.length (max 1 (hoopBytes s n h)))).sum → k ≠ 0 →
        rd t (Fk.hoopTail n h) = (rd s (Fk.hoopTail n h) + k) % 2 ^ 32
    (st.resync = true ∨ st.otherMajor = true → ∃ t, exec cmd s = .next t ∧ (getS t c a).lostUnread = st.lostUnread + 1 ∧ (getS t c a).lastSlot = st.lastSlot ∧
      (getS t c a).refs = st.refs ∧ flagged t 13 ∧ rd t (Fk.drainStatConcealed c) = (rd s (Fk.drainStatConcealed c) + 1) % 2 ^ 16 ∧ t.dev = s.dev) ∧
    (st.resync = false → st.otherMajor = false →
      (st.header = none → exec cmd s = .next s) ∧
      ∀ hd, st.header = some hd →
        (body.length < 4 → ∃ t, exec cmd s = .next t ∧ flagged t 14 ∧ (getS t c a).lostUnread = st.lostUnread + 1) ∧
        (4 ≤ body.length → (∃ l, st.lastSlot = some l ∧ slot ≤ l) → ∃ t, exec cmd s = .next t ∧ flagged t 15 ∧ t.ctxs = s.ctxs) ∧
        (4 ≤ body.length → (∀ l, st.lastSlot = some l → l < slot) → ∀ p, st.pkg = some p →
          (a = false → readVideo p hd body = none → ∃ t, exec cmd s = .next t ∧ lost t ∧ flagged t 14) ∧
          (∀ v, a = false → readVideo p hd body = some v →
            (st.modelOk = false → ∃ t, exec cmd s = .next t ∧ lost t) ∧
            (let recs := ((List.range v.steps.length).zip v.steps).map (fun x => recordOf body poison (videoSymbols p hd v.skip x.1) x.2)
             st.modelOk = true → st.joined = true → (st.holdJoin = false ∨ refreshOf st v.num ≠ 2) → slotsFit s r h recs = true → n < 8 → v.graft = 0 →
              let missing := v.refs.any (fun m => (heldRef (graftUse (settleRefs (slotRead (flagRefresh s c false v.num) c false slot) c) c 0).1 c m).isNone)
              ∃ t, exec cmd s = .next t ∧ put t recs ∧ (getS t c a).picNum = (v.num + 1) % 2 ^ 32 ∧ (getS t c a).qpRow = v.qp ∧
                (getS t c a).skip = v.skip ∧ (getS t c a).off = v.off ∧ t.out.head? = some (.unit c a slot 0 missing) ∧
                (missing = true → flagged t 13) ∧ (∀ m ∈ v.refs, (∀ x ∈ st.refs, x.num ≠ m) → missing = true) ∧
                ∀ d, v.hm = some d → Out.hallmark c a slot d ∈ t.out)) ∧
          (a = true →
            let steps := ingotSteps (be hd 1 1) (bit (be body 8 1) 0) body 1 11
            let fine := be body 8 1 < 2 ∧ be body 9 1 ≠ 0 ∧ be body 9 1 ≤ p.groups ∧ be body 10 1 = 1 ∧ 11 ≤ body.length
            (¬ fine ∨ steps = none → ∃ t, exec cmd s = .next t ∧ lost t ∧ flagged t 14) ∧
            ∀ l, steps = some l → fine →
              (st.modelOk = false → ∃ t, exec cmd s = .next t ∧ lost t) ∧
              (let num := be body 4 4
               let recs := l.map (recordOf body poison (be hd 8 1 * (960 / max 1 p.stride) * be body 9 1))
               let gone := !st.fresh && !decide (refreshOf st num = 1) && decide (st.prevAudio.map (fun m => (m + 1) % 2 ^ 32) ≠ some num)
               st.modelOk = true → st.joined = true → (st.holdJoin = false ∨ refreshOf st num ≠ 2) → slotsFit s r h recs = true → n < 8 →
                ∃ t, exec cmd s = .next t ∧ put t recs ∧ (getS t c a).pktNum = (num + 1) % 2 ^ 32 ∧ (getS t c a).prevAudio = some num ∧
                  t.out.head? = some (.unit c a slot 0 gone) ∧
                  ∀ d, ingotMark (bit (be body 8 1) 0) body l = some d → Out.hallmark c a slot d ∈ t.out))))

/-! The whole block. -/

/-- 02 R37, R38, R54; 09 R247: with no command waiting one TCLK period passes (the model's choice, log entry 7): eight CCLK periods of EPOCH.CYCLE, TIME_NS, and SCYC
of each region that runs or LAG, to saturate, of each that holds from a multiple of 32 on (log entry 107); memory is as before where no link holds flits. -/
def Obligations.IdleStep : Prop :=
  ∀ s : State, s.pending = [] → ∃ t, step s = .next t ∧ t.cc = s.cc + 8 ∧ t.pending = [] ∧
    (s.part.clocks = false → t = { s with cc := s.cc + 8 }) ∧
    (s.part.clocks = true → rd t Fk.epochCycle = (rd s Fk.epochCycle + 8) % 2 ^ 64 ∧
      rd t Fk.epochTimeNs = (timeThirds s + 8 * 131072) / 196608 % 2 ^ 64 ∧
      ((∀ p, p < 16 → (getPort s p).held = []) → t.job = s.job ∧ t.dev = s.dev ∧ t.regions = s.regions ∧
        ∀ r, r < regionCount s → posOf s r < 8 →
          let k := if (getRegion s r).run = .holding then min 8 (roundUp (getRegion s r).holdSince 32 - ((rd s Fk.epochCycle + 8) % 2 ^ 64 - 8)) else 8
          rd t (Fk.rschedScyc (posOf s r)) = (rd s (Fk.rschedScyc (posOf s r)) + k) % 2 ^ 64 ∧
            rd t (Fk.rschedLag (posOf s r)) = if k < 8 then min (rd s (Fk.rschedLag (posOf s r)) + (8 - k)) (2 ^ 32 - 1) else rd s (Fk.rschedLag (posOf s r))))

/-- 00 R12; 19 R491, R493, R494: after a cold reset the part is in RESET with no job, nothing queued, every register at its Reset value, and no memory byte listed (what
such a byte reads as is the model's choice, log entry 2), in the canonical form that the invariant asks. -/
def Obligations.ResetState : Prop :=
  Sound State.reset ∧ stage State.reset = 0 ∧ State.reset.job = none ∧ State.reset.pending = [] ∧ State.reset.part.pcieUp = false ∧
    (∀ k, rd State.reset k = regReset k) ∧ (∀ a, mByte State.reset.dev a = 0 ∧ mBad State.reset.dev a = false) ∧
    rd State.reset Fk.bootJobJstate = 0 ∧ rd State.reset Fk.epochCount = 0 ∧ rd State.reset Fk.epochCfgLead = 256 ∧
    rd State.reset Fk.epochCfgTimeoutUs = 1000000 ∧ (∀ p, p < 16 → rd State.reset (Fk.tlPstateState p) = 0) ∧
    (∀ q, q < 64 → rd State.reset (Fk.wqSqEnable q) = 0) ∧ ∀ r, (getRegion State.reset r).run = .idle

/-- Every step from a sound state ends in a sound one: the memories and the register map keep their canonical form. -/
def Obligations.StepsStaySound : Prop :=
  ∀ s t : State, Sound s → step s = .next t → Sound t

/-- The queue is first in, first out: a step takes the command in front and leaves the rest as they wait; no command adds to the queue, drops from it or reorders
it. -/
def Obligations.QueueIsFifo : Prop :=
  ∀ s t : State, step s = .next t → t.pending = s.pending.tail
end

