-- ==== Sys2Proof/Laws/Sparse.lean ====
section
/-! SUPPORT. Laws of sparse maps: what a write leaves, and that every operation keeps the canonical form. -/

namespace Sys2Proof.Machine

variable {α : Type}

@[simp] theorem mget_nil (d : Nat → α) (k : Nat) : mget d ([] : SMap α) k = d k := rfl

theorem mget_cons (d : Nat → α) (j k : Nat) (v : α) (m : SMap α) :
    mget d ((j, v) :: m) k = if j = k then v else mget d m k := rfl

/-- A map whose keys are at least `lo` reads as the default below. -/
theorem mget_of_lt [DecidableEq α] (d : Nat → α) :
    ∀ (m : SMap α) (lo k : Nat), mwfFrom d lo m = true → k < lo → mget d m k = d k
  | [], _, _, _, _ => rfl
  | (j, v) :: m, lo, k, h, hk => by
    simp only [mwfFrom, Bool.and_eq_true, decide_eq_true_eq] at h
    have hj : j ≠ k := by omega
    simp only [mget, if_neg hj]
    exact mget_of_lt d m (j + 1) k h.2 (by omega)

theorem mwfFrom_mono [DecidableEq α] (d : Nat → α) :
    ∀ (m : SMap α) (lo lo' : Nat), lo' ≤ lo → mwfFrom d lo m = true → mwfFrom d lo' m = true
  | [], _, _, _, _ => rfl
  | (j, v) :: m, lo, lo', hl, h => by
    simp only [mwfFrom, Bool.and_eq_true, decide_eq_true_eq] at h ⊢
    exact ⟨⟨by omega, h.1.2⟩, h.2⟩

theorem mget_mdel_same (d : Nat → α) : ∀ (m : SMap α) (k : Nat), mget d (mdel m k) k = d k
  | [], _ => rfl
  | (j, w) :: m, k => by
    simp only [mdel]
    split
    · exact mget_mdel_same d m k
    · next h => simp only [mget, if_neg h]; exact mget_mdel_same d m k

theorem mget_mdel_ne (d : Nat → α) : ∀ (m : SMap α) (k x : Nat), x ≠ k → mget d (mdel m k) x = mget d m x
  | [], _, _, _ => rfl
  | (j, w) :: m, k, x, h => by
    simp only [mdel]
    split
    · next e => subst e; simp only [mget, if_neg (Ne.symm h)]; exact mget_mdel_ne d m _ x h
    · simp only [mget]; rw [mget_mdel_ne d m k x h]

theorem mget_mins_ne (d : Nat → α) : ∀ (m : SMap α) (k x : Nat) (v : α), x ≠ k → mget d (mins m k v) x = mget d m x
  | [], _, _, _, h => by simp [mins, mget, Ne.symm h]
  | (j, w) :: m, k, x, v, h => by
    simp only [mins]
    split
    · simp [mget, Ne.symm h]
    · simp only [mget]; rw [mget_mins_ne d m k x v h]

theorem mget_mins_mdel (d : Nat → α) : ∀ (m : SMap α) (k : Nat) (v : α), mget d (mins (mdel m k) k v) k = v
  | [], k, v => by simp [mdel, mins, mget]
  | (j, w) :: m, k, v => by
    simp only [mdel]
    split
    · exact mget_mins_mdel d m k v
    · next h =>
      simp only [mins]
      split
      · simp [mget]
      · simp only [mget, if_neg h]; exact mget_mins_mdel d m k v

/-- The value written reads back, in any map. -/
@[simp] theorem mget_mput_same [DecidableEq α] (d : Nat → α) (m : SMap α) (k : Nat) (v : α) : mget d (mput d m k v) k = v := by
  unfold mput
  split
  · next h => rw [mget_mdel_same, h]
  · exact mget_mins_mdel d m k v

/-- Every other key reads as before. -/
theorem mget_mput_ne [DecidableEq α] (d : Nat → α) (m : SMap α) (k x : Nat) (v : α) (h : x ≠ k) :
    mget d (mput d m k v) x = mget d m x := by
  unfold mput
  split
  · exact mget_mdel_ne d m k x h
  · rw [mget_mins_ne d _ k x v h, mget_mdel_ne d m k x h]

/-- A write changes the value at its own key alone. -/
theorem mget_mput [DecidableEq α] (d : Nat → α) (m : SMap α) (k x : Nat) (v : α) :
    mget d (mput d m k v) x = if x = k then v else mget d m x := by
  split
  · next h => subst h; exact mget_mput_same d m x v
  · next h => exact mget_mput_ne d m k x v h

theorem mdel_wf [DecidableEq α] (d : Nat → α) : ∀ (m : SMap α) (lo k : Nat), mwfFrom d lo m = true → mwfFrom d lo (mdel m k) = true
  | [], _, _, _ => rfl
  | (j, w) :: m, lo, k, h => by
    simp only [mwfFrom, Bool.and_eq_true, decide_eq_true_eq] at h
    simp only [mdel]
    split
    · exact mwfFrom_mono d _ (j + 1) lo (by omega) (mdel_wf d m (j + 1) k h.2)
    · simp only [mwfFrom, Bool.and_eq_true, decide_eq_true_eq]
      exact ⟨h.1, mdel_wf d m (j + 1) k h.2⟩

theorem mins_wf [DecidableEq α] (d : Nat → α) : ∀ (m : SMap α) (lo k : Nat) (v : α), lo ≤ k → v ≠ d k → mwfFrom d lo m = true →
    (∀ e ∈ m, e.1 ≠ k) → mwfFrom d lo (mins m k v) = true
  | [], lo, k, v, hk, hv, _, _ => by simp [mins, mwfFrom, hk, hv]
  | (j, w) :: m, lo, k, v, hk, hv, h, hn => by
    have hj : j ≠ k := hn (j, w) (List.mem_cons_self ..)
    simp only [mwfFrom, Bool.and_eq_true, decide_eq_true_eq] at h
    simp only [mins]
    split
    · simp only [mwfFrom, Bool.and_eq_true, decide_eq_true_eq]
      exact ⟨⟨hk, hv⟩, ⟨by omega, h.1.2⟩, h.2⟩
    · simp only [mwfFrom, Bool.and_eq_true, decide_eq_true_eq]
      exact ⟨h.1, mins_wf d m (j + 1) k v (by omega) hv h.2 (fun e he => hn e (List.mem_cons_of_mem _ he))⟩

theorem mdel_keys : ∀ (m : SMap α) (k : Nat), ∀ e ∈ mdel m k, e.1 ≠ k
  | [], _, _, h => by cases h
  | (j, w) :: m, k, e, h => by
    simp only [mdel] at h
    split at h
    · exact mdel_keys m k e h
    · next hj =>
      rcases List.mem_cons.1 h with h | h
      · subst h; exact hj
      · exact mdel_keys m k e h

/-- A write keeps the canonical form. -/
theorem mwfFrom_mput [DecidableEq α] (d : Nat → α) (m : SMap α) (lo k : Nat) (v : α) (hk : lo ≤ k) (h : mwfFrom d lo m = true) :
    mwfFrom d lo (mput d m k v) = true := by
  unfold mput
  split
  · exact mdel_wf d m lo k h
  · next hv => exact mins_wf d _ lo k v hk hv (mdel_wf d m lo k h) (mdel_keys m k)

theorem mwf_nil [DecidableEq α] (d : Nat → α) : mwf d ([] : SMap α) = true := rfl

theorem mwf_mput [DecidableEq α] (d : Nat → α) (m : SMap α) (k : Nat) (v : α) (h : mwf d m = true) :
    mwf d (mput d m k v) = true := mwfFrom_mput d m 0 k v (Nat.zero_le k) h

theorem mwf_mputs [DecidableEq α] (d : Nat → α) :
    ∀ (l : List α) (m : SMap α) (k : Nat), mwf d m = true → mwf d (mputs d m k l) = true
  | [], _, _, h => h
  | v :: l, m, k, h => mwf_mputs d l (mput d m k v) (k + 1) (mwf_mput d m k v h)

/-- Leaving entries out keeps the canonical form. -/
theorem mwfFrom_filter [DecidableEq α] (d : Nat → α) (p : Nat × α → Bool) :
    ∀ (m : SMap α) (lo : Nat), mwfFrom d lo m = true → mwfFrom d lo (m.filter p) = true
  | [], _, _ => rfl
  | (j, v) :: m, lo, h => by
    have h' := h
    simp only [mwfFrom, Bool.and_eq_true, decide_eq_true_eq] at h'
    simp only [List.filter_cons]
    have ih := mwfFrom_filter d p m (j + 1) h'.2
    split
    · simp only [mwfFrom, Bool.and_eq_true, decide_eq_true_eq]
      exact ⟨h'.1, ih⟩
    · exact mwfFrom_mono d _ (j + 1) lo (by omega) ih

theorem mwf_filter [DecidableEq α] (d : Nat → α) (p : Nat × α → Bool) (m : SMap α) (h : mwf d m = true) :
    mwf d (m.filter p) = true := mwfFrom_filter d p m 0 h

end Sys2Proof.Machine
end

