-- ==== Sys2Proof/Laws/State.lean ====
section
/-! SUPPORT. What each basic update of the state leaves in each field, and what the accessors read after it. -/

namespace Sys2Proof.Machine

/-! wr changes regs alone. -/

@[simp] theorem wr_cc (s : State) (k v : Nat) : (wr s k v).cc = s.cc := rfl
@[simp] theorem wr_trem (s : State) (k v : Nat) : (wr s k v).trem = s.trem := rfl
@[simp] theorem wr_staging (s : State) (k v : Nat) : (wr s k v).staging = s.staging := rfl
@[simp] theorem wr_written (s : State) (k v : Nat) : (wr s k v).written = s.written := rfl
@[simp] theorem wr_raised (s : State) (k v : Nat) : (wr s k v).raised = s.raised := rfl
@[simp] theorem wr_sets (s : State) (k v : Nat) : (wr s k v).sets = s.sets := rfl
@[simp] theorem wr_checking (s : State) (k v : Nat) : (wr s k v).checking = s.checking := rfl
@[simp] theorem wr_hostSets (s : State) (k v : Nat) : (wr s k v).hostSets = s.hostSets := rfl
@[simp] theorem wr_dev (s : State) (k v : Nat) : (wr s k v).dev = s.dev := rfl
@[simp] theorem wr_host (s : State) (k v : Nat) : (wr s k v).host = s.host := rfl
@[simp] theorem wr_msixTable (s : State) (k v : Nat) : (wr s k v).msixTable = s.msixTable := rfl
@[simp] theorem wr_job (s : State) (k v : Nat) : (wr s k v).job = s.job := rfl
@[simp] theorem wr_regions (s : State) (k v : Nat) : (wr s k v).regions = s.regions := rfl
@[simp] theorem wr_burins (s : State) (k v : Nat) : (wr s k v).burins = s.burins := rfl
@[simp] theorem wr_hwChip (s : State) (k v : Nat) : (wr s k v).hwChip = s.hwChip := rfl
@[simp] theorem wr_hwRegions (s : State) (k v : Nat) : (wr s k v).hwRegions = s.hwRegions := rfl
@[simp] theorem wr_trace (s : State) (k v : Nat) : (wr s k v).trace = s.trace := rfl
@[simp] theorem wr_alarms (s : State) (k v : Nat) : (wr s k v).alarms = s.alarms := rfl
@[simp] theorem wr_wqs (s : State) (k v : Nat) : (wr s k v).wqs = s.wqs := rfl
@[simp] theorem wr_waitRecs (s : State) (k v : Nat) : (wr s k v).waitRecs = s.waitRecs := rfl
@[simp] theorem wr_ports (s : State) (k v : Nat) : (wr s k v).ports = s.ports := rfl
@[simp] theorem wr_root (s : State) (k v : Nat) : (wr s k v).root = s.root := rfl
@[simp] theorem wr_witness (s : State) (k v : Nat) : (wr s k v).witness = s.witness := rfl
@[simp] theorem wr_witSeq (s : State) (k v : Nat) : (wr s k v).witSeq = s.witSeq := rfl
@[simp] theorem wr_witLost (s : State) (k v : Nat) : (wr s k v).witLost = s.witLost := rfl
@[simp] theorem wr_drainWit (s : State) (k v : Nat) : (wr s k v).drainWit = s.drainWit := rfl
@[simp] theorem wr_saved (s : State) (k v : Nat) : (wr s k v).saved = s.saved := rfl
@[simp] theorem wr_resume (s : State) (k v : Nat) : (wr s k v).resume = s.resume := rfl
@[simp] theorem wr_ctxs (s : State) (k v : Nat) : (wr s k v).ctxs = s.ctxs := rfl
@[simp] theorem wr_bellows (s : State) (k v : Nat) : (wr s k v).bellows = s.bellows := rfl
@[simp] theorem wr_part (s : State) (k v : Nat) : (wr s k v).part = s.part := rfl
@[simp] theorem wr_pending (s : State) (k v : Nat) : (wr s k v).pending = s.pending := rfl
@[simp] theorem wr_out (s : State) (k v : Nat) : (wr s k v).out = s.out := rfl
@[simp] theorem wr_free (s : State) (k v : Nat) : (wr s k v).free = s.free := rfl

/-! wrb changes regs alone. -/

@[simp] theorem wrb_cc (s : State) (k : Nat) (b : Bool) : (wrb s k b).cc = s.cc := rfl
@[simp] theorem wrb_trem (s : State) (k : Nat) (b : Bool) : (wrb s k b).trem = s.trem := rfl
@[simp] theorem wrb_staging (s : State) (k : Nat) (b : Bool) : (wrb s k b).staging = s.staging := rfl
@[simp] theorem wrb_written (s : State) (k : Nat) (b : Bool) : (wrb s k b).written = s.written := rfl
@[simp] theorem wrb_raised (s : State) (k : Nat) (b : Bool) : (wrb s k b).raised = s.raised := rfl
@[simp] theorem wrb_sets (s : State) (k : Nat) (b : Bool) : (wrb s k b).sets = s.sets := rfl
@[simp] theorem wrb_checking (s : State) (k : Nat) (b : Bool) : (wrb s k b).checking = s.checking := rfl
@[simp] theorem wrb_hostSets (s : State) (k : Nat) (b : Bool) : (wrb s k b).hostSets = s.hostSets := rfl
@[simp] theorem wrb_dev (s : State) (k : Nat) (b : Bool) : (wrb s k b).dev = s.dev := rfl
@[simp] theorem wrb_host (s : State) (k : Nat) (b : Bool) : (wrb s k b).host = s.host := rfl
@[simp] theorem wrb_msixTable (s : State) (k : Nat) (b : Bool) : (wrb s k b).msixTable = s.msixTable := rfl
@[simp] theorem wrb_job (s : State) (k : Nat) (b : Bool) : (wrb s k b).job = s.job := rfl
@[simp] theorem wrb_regions (s : State) (k : Nat) (b : Bool) : (wrb s k b).regions = s.regions := rfl
@[simp] theorem wrb_burins (s : State) (k : Nat) (b : Bool) : (wrb s k b).burins = s.burins := rfl
@[simp] theorem wrb_hwChip (s : State) (k : Nat) (b : Bool) : (wrb s k b).hwChip = s.hwChip := rfl
@[simp] theorem wrb_hwRegions (s : State) (k : Nat) (b : Bool) : (wrb s k b).hwRegions = s.hwRegions := rfl
@[simp] theorem wrb_trace (s : State) (k : Nat) (b : Bool) : (wrb s k b).trace = s.trace := rfl
@[simp] theorem wrb_alarms (s : State) (k : Nat) (b : Bool) : (wrb s k b).alarms = s.alarms := rfl
@[simp] theorem wrb_wqs (s : State) (k : Nat) (b : Bool) : (wrb s k b).wqs = s.wqs := rfl
@[simp] theorem wrb_waitRecs (s : State) (k : Nat) (b : Bool) : (wrb s k b).waitRecs = s.waitRecs := rfl
@[simp] theorem wrb_ports (s : State) (k : Nat) (b : Bool) : (wrb s k b).ports = s.ports := rfl
@[simp] theorem wrb_root (s : State) (k : Nat) (b : Bool) : (wrb s k b).root = s.root := rfl
@[simp] theorem wrb_witness (s : State) (k : Nat) (b : Bool) : (wrb s k b).witness = s.witness := rfl
@[simp] theorem wrb_witSeq (s : State) (k : Nat) (b : Bool) : (wrb s k b).witSeq = s.witSeq := rfl
@[simp] theorem wrb_witLost (s : State) (k : Nat) (b : Bool) : (wrb s k b).witLost = s.witLost := rfl
@[simp] theorem wrb_drainWit (s : State) (k : Nat) (b : Bool) : (wrb s k b).drainWit = s.drainWit := rfl
@[simp] theorem wrb_saved (s : State) (k : Nat) (b : Bool) : (wrb s k b).saved = s.saved := rfl
@[simp] theorem wrb_resume (s : State) (k : Nat) (b : Bool) : (wrb s k b).resume = s.resume := rfl
@[simp] theorem wrb_ctxs (s : State) (k : Nat) (b : Bool) : (wrb s k b).ctxs = s.ctxs := rfl
@[simp] theorem wrb_bellows (s : State) (k : Nat) (b : Bool) : (wrb s k b).bellows = s.bellows := rfl
@[simp] theorem wrb_part (s : State) (k : Nat) (b : Bool) : (wrb s k b).part = s.part := rfl
@[simp] theorem wrb_pending (s : State) (k : Nat) (b : Bool) : (wrb s k b).pending = s.pending := rfl
@[simp] theorem wrb_out (s : State) (k : Nat) (b : Bool) : (wrb s k b).out = s.out := rfl
@[simp] theorem wrb_free (s : State) (k : Nat) (b : Bool) : (wrb s k b).free = s.free := rfl

/-! bump changes regs alone. -/

@[simp] theorem bump_cc (s : State) (k w : Nat) : (bump s k w).cc = s.cc := rfl
@[simp] theorem bump_trem (s : State) (k w : Nat) : (bump s k w).trem = s.trem := rfl
@[simp] theorem bump_staging (s : State) (k w : Nat) : (bump s k w).staging = s.staging := rfl
@[simp] theorem bump_written (s : State) (k w : Nat) : (bump s k w).written = s.written := rfl
@[simp] theorem bump_raised (s : State) (k w : Nat) : (bump s k w).raised = s.raised := rfl
@[simp] theorem bump_sets (s : State) (k w : Nat) : (bump s k w).sets = s.sets := rfl
@[simp] theorem bump_checking (s : State) (k w : Nat) : (bump s k w).checking = s.checking := rfl
@[simp] theorem bump_hostSets (s : State) (k w : Nat) : (bump s k w).hostSets = s.hostSets := rfl
@[simp] theorem bump_dev (s : State) (k w : Nat) : (bump s k w).dev = s.dev := rfl
@[simp] theorem bump_host (s : State) (k w : Nat) : (bump s k w).host = s.host := rfl
@[simp] theorem bump_msixTable (s : State) (k w : Nat) : (bump s k w).msixTable = s.msixTable := rfl
@[simp] theorem bump_job (s : State) (k w : Nat) : (bump s k w).job = s.job := rfl
@[simp] theorem bump_regions (s : State) (k w : Nat) : (bump s k w).regions = s.regions := rfl
@[simp] theorem bump_burins (s : State) (k w : Nat) : (bump s k w).burins = s.burins := rfl
@[simp] theorem bump_hwChip (s : State) (k w : Nat) : (bump s k w).hwChip = s.hwChip := rfl
@[simp] theorem bump_hwRegions (s : State) (k w : Nat) : (bump s k w).hwRegions = s.hwRegions := rfl
@[simp] theorem bump_trace (s : State) (k w : Nat) : (bump s k w).trace = s.trace := rfl
@[simp] theorem bump_alarms (s : State) (k w : Nat) : (bump s k w).alarms = s.alarms := rfl
@[simp] theorem bump_wqs (s : State) (k w : Nat) : (bump s k w).wqs = s.wqs := rfl
@[simp] theorem bump_waitRecs (s : State) (k w : Nat) : (bump s k w).waitRecs = s.waitRecs := rfl
@[simp] theorem bump_ports (s : State) (k w : Nat) : (bump s k w).ports = s.ports := rfl
@[simp] theorem bump_root (s : State) (k w : Nat) : (bump s k w).root = s.root := rfl
@[simp] theorem bump_witness (s : State) (k w : Nat) : (bump s k w).witness = s.witness := rfl
@[simp] theorem bump_witSeq (s : State) (k w : Nat) : (bump s k w).witSeq = s.witSeq := rfl
@[simp] theorem bump_witLost (s : State) (k w : Nat) : (bump s k w).witLost = s.witLost := rfl
@[simp] theorem bump_drainWit (s : State) (k w : Nat) : (bump s k w).drainWit = s.drainWit := rfl
@[simp] theorem bump_saved (s : State) (k w : Nat) : (bump s k w).saved = s.saved := rfl
@[simp] theorem bump_resume (s : State) (k w : Nat) : (bump s k w).resume = s.resume := rfl
@[simp] theorem bump_ctxs (s : State) (k w : Nat) : (bump s k w).ctxs = s.ctxs := rfl
@[simp] theorem bump_bellows (s : State) (k w : Nat) : (bump s k w).bellows = s.bellows := rfl
@[simp] theorem bump_part (s : State) (k w : Nat) : (bump s k w).part = s.part := rfl
@[simp] theorem bump_pending (s : State) (k w : Nat) : (bump s k w).pending = s.pending := rfl
@[simp] theorem bump_out (s : State) (k w : Nat) : (bump s k w).out = s.out := rfl
@[simp] theorem bump_free (s : State) (k w : Nat) : (bump s k w).free = s.free := rfl

/-! setBit changes regs alone. -/

@[simp] theorem setBit_cc (s : State) (k i : Nat) : (setBit s k i).cc = s.cc := rfl
@[simp] theorem setBit_trem (s : State) (k i : Nat) : (setBit s k i).trem = s.trem := rfl
@[simp] theorem setBit_staging (s : State) (k i : Nat) : (setBit s k i).staging = s.staging := rfl
@[simp] theorem setBit_written (s : State) (k i : Nat) : (setBit s k i).written = s.written := rfl
@[simp] theorem setBit_raised (s : State) (k i : Nat) : (setBit s k i).raised = s.raised := rfl
@[simp] theorem setBit_sets (s : State) (k i : Nat) : (setBit s k i).sets = s.sets := rfl
@[simp] theorem setBit_checking (s : State) (k i : Nat) : (setBit s k i).checking = s.checking := rfl
@[simp] theorem setBit_hostSets (s : State) (k i : Nat) : (setBit s k i).hostSets = s.hostSets := rfl
@[simp] theorem setBit_dev (s : State) (k i : Nat) : (setBit s k i).dev = s.dev := rfl
@[simp] theorem setBit_host (s : State) (k i : Nat) : (setBit s k i).host = s.host := rfl
@[simp] theorem setBit_msixTable (s : State) (k i : Nat) : (setBit s k i).msixTable = s.msixTable := rfl
@[simp] theorem setBit_job (s : State) (k i : Nat) : (setBit s k i).job = s.job := rfl
@[simp] theorem setBit_regions (s : State) (k i : Nat) : (setBit s k i).regions = s.regions := rfl
@[simp] theorem setBit_burins (s : State) (k i : Nat) : (setBit s k i).burins = s.burins := rfl
@[simp] theorem setBit_hwChip (s : State) (k i : Nat) : (setBit s k i).hwChip = s.hwChip := rfl
@[simp] theorem setBit_hwRegions (s : State) (k i : Nat) : (setBit s k i).hwRegions = s.hwRegions := rfl
@[simp] theorem setBit_trace (s : State) (k i : Nat) : (setBit s k i).trace = s.trace := rfl
@[simp] theorem setBit_alarms (s : State) (k i : Nat) : (setBit s k i).alarms = s.alarms := rfl
@[simp] theorem setBit_wqs (s : State) (k i : Nat) : (setBit s k i).wqs = s.wqs := rfl
@[simp] theorem setBit_waitRecs (s : State) (k i : Nat) : (setBit s k i).waitRecs = s.waitRecs := rfl
@[simp] theorem setBit_ports (s : State) (k i : Nat) : (setBit s k i).ports = s.ports := rfl
@[simp] theorem setBit_root (s : State) (k i : Nat) : (setBit s k i).root = s.root := rfl
@[simp] theorem setBit_witness (s : State) (k i : Nat) : (setBit s k i).witness = s.witness := rfl
@[simp] theorem setBit_witSeq (s : State) (k i : Nat) : (setBit s k i).witSeq = s.witSeq := rfl
@[simp] theorem setBit_witLost (s : State) (k i : Nat) : (setBit s k i).witLost = s.witLost := rfl
@[simp] theorem setBit_drainWit (s : State) (k i : Nat) : (setBit s k i).drainWit = s.drainWit := rfl
@[simp] theorem setBit_saved (s : State) (k i : Nat) : (setBit s k i).saved = s.saved := rfl
@[simp] theorem setBit_resume (s : State) (k i : Nat) : (setBit s k i).resume = s.resume := rfl
@[simp] theorem setBit_ctxs (s : State) (k i : Nat) : (setBit s k i).ctxs = s.ctxs := rfl
@[simp] theorem setBit_bellows (s : State) (k i : Nat) : (setBit s k i).bellows = s.bellows := rfl
@[simp] theorem setBit_part (s : State) (k i : Nat) : (setBit s k i).part = s.part := rfl
@[simp] theorem setBit_pending (s : State) (k i : Nat) : (setBit s k i).pending = s.pending := rfl
@[simp] theorem setBit_out (s : State) (k i : Nat) : (setBit s k i).out = s.out := rfl
@[simp] theorem setBit_free (s : State) (k i : Nat) : (setBit s k i).free = s.free := rfl

/-! modRegion changes regions alone. -/

@[simp] theorem modRegion_cc (s : State) (r : Nat) (f : Region → Region) : (modRegion s r f).cc = s.cc := rfl
@[simp] theorem modRegion_trem (s : State) (r : Nat) (f : Region → Region) : (modRegion s r f).trem = s.trem := rfl
@[simp] theorem modRegion_regs (s : State) (r : Nat) (f : Region → Region) : (modRegion s r f).regs = s.regs := rfl
@[simp] theorem modRegion_staging (s : State) (r : Nat) (f : Region → Region) : (modRegion s r f).staging = s.staging := rfl
@[simp] theorem modRegion_written (s : State) (r : Nat) (f : Region → Region) : (modRegion s r f).written = s.written := rfl
@[simp] theorem modRegion_raised (s : State) (r : Nat) (f : Region → Region) : (modRegion s r f).raised = s.raised := rfl
@[simp] theorem modRegion_sets (s : State) (r : Nat) (f : Region → Region) : (modRegion s r f).sets = s.sets := rfl
@[simp] theorem modRegion_checking (s : State) (r : Nat) (f : Region → Region) : (modRegion s r f).checking = s.checking := rfl
@[simp] theorem modRegion_hostSets (s : State) (r : Nat) (f : Region → Region) : (modRegion s r f).hostSets = s.hostSets := rfl
@[simp] theorem modRegion_dev (s : State) (r : Nat) (f : Region → Region) : (modRegion s r f).dev = s.dev := rfl
@[simp] theorem modRegion_host (s : State) (r : Nat) (f : Region → Region) : (modRegion s r f).host = s.host := rfl
@[simp] theorem modRegion_msixTable (s : State) (r : Nat) (f : Region → Region) : (modRegion s r f).msixTable = s.msixTable := rfl
@[simp] theorem modRegion_job (s : State) (r : Nat) (f : Region → Region) : (modRegion s r f).job = s.job := rfl
@[simp] theorem modRegion_burins (s : State) (r : Nat) (f : Region → Region) : (modRegion s r f).burins = s.burins := rfl
@[simp] theorem modRegion_hwChip (s : State) (r : Nat) (f : Region → Region) : (modRegion s r f).hwChip = s.hwChip := rfl
@[simp] theorem modRegion_hwRegions (s : State) (r : Nat) (f : Region → Region) : (modRegion s r f).hwRegions = s.hwRegions := rfl
@[simp] theorem modRegion_trace (s : State) (r : Nat) (f : Region → Region) : (modRegion s r f).trace = s.trace := rfl
@[simp] theorem modRegion_alarms (s : State) (r : Nat) (f : Region → Region) : (modRegion s r f).alarms = s.alarms := rfl
@[simp] theorem modRegion_wqs (s : State) (r : Nat) (f : Region → Region) : (modRegion s r f).wqs = s.wqs := rfl
@[simp] theorem modRegion_waitRecs (s : State) (r : Nat) (f : Region → Region) : (modRegion s r f).waitRecs = s.waitRecs := rfl
@[simp] theorem modRegion_ports (s : State) (r : Nat) (f : Region → Region) : (modRegion s r f).ports = s.ports := rfl
@[simp] theorem modRegion_root (s : State) (r : Nat) (f : Region → Region) : (modRegion s r f).root = s.root := rfl
@[simp] theorem modRegion_witness (s : State) (r : Nat) (f : Region → Region) : (modRegion s r f).witness = s.witness := rfl
@[simp] theorem modRegion_witSeq (s : State) (r : Nat) (f : Region → Region) : (modRegion s r f).witSeq = s.witSeq := rfl
@[simp] theorem modRegion_witLost (s : State) (r : Nat) (f : Region → Region) : (modRegion s r f).witLost = s.witLost := rfl
@[simp] theorem modRegion_drainWit (s : State) (r : Nat) (f : Region → Region) : (modRegion s r f).drainWit = s.drainWit := rfl
@[simp] theorem modRegion_saved (s : State) (r : Nat) (f : Region → Region) : (modRegion s r f).saved = s.saved := rfl
@[simp] theorem modRegion_resume (s : State) (r : Nat) (f : Region → Region) : (modRegion s r f).resume = s.resume := rfl
@[simp] theorem modRegion_ctxs (s : State) (r : Nat) (f : Region → Region) : (modRegion s r f).ctxs = s.ctxs := rfl
@[simp] theorem modRegion_bellows (s : State) (r : Nat) (f : Region → Region) : (modRegion s r f).bellows = s.bellows := rfl
@[simp] theorem modRegion_part (s : State) (r : Nat) (f : Region → Region) : (modRegion s r f).part = s.part := rfl
@[simp] theorem modRegion_pending (s : State) (r : Nat) (f : Region → Region) : (modRegion s r f).pending = s.pending := rfl
@[simp] theorem modRegion_out (s : State) (r : Nat) (f : Region → Region) : (modRegion s r f).out = s.out := rfl
@[simp] theorem modRegion_free (s : State) (r : Nat) (f : Region → Region) : (modRegion s r f).free = s.free := rfl

/-! putBurin changes burins alone. -/

@[simp] theorem putBurin_cc (s : State) (b : Nat) (u : Burin) : (putBurin s b u).cc = s.cc := rfl
@[simp] theorem putBurin_trem (s : State) (b : Nat) (u : Burin) : (putBurin s b u).trem = s.trem := rfl
@[simp] theorem putBurin_regs (s : State) (b : Nat) (u : Burin) : (putBurin s b u).regs = s.regs := rfl
@[simp] theorem putBurin_staging (s : State) (b : Nat) (u : Burin) : (putBurin s b u).staging = s.staging := rfl
@[simp] theorem putBurin_written (s : State) (b : Nat) (u : Burin) : (putBurin s b u).written = s.written := rfl
@[simp] theorem putBurin_raised (s : State) (b : Nat) (u : Burin) : (putBurin s b u).raised = s.raised := rfl
@[simp] theorem putBurin_sets (s : State) (b : Nat) (u : Burin) : (putBurin s b u).sets = s.sets := rfl
@[simp] theorem putBurin_checking (s : State) (b : Nat) (u : Burin) : (putBurin s b u).checking = s.checking := rfl
@[simp] theorem putBurin_hostSets (s : State) (b : Nat) (u : Burin) : (putBurin s b u).hostSets = s.hostSets := rfl
@[simp] theorem putBurin_dev (s : State) (b : Nat) (u : Burin) : (putBurin s b u).dev = s.dev := rfl
@[simp] theorem putBurin_host (s : State) (b : Nat) (u : Burin) : (putBurin s b u).host = s.host := rfl
@[simp] theorem putBurin_msixTable (s : State) (b : Nat) (u : Burin) : (putBurin s b u).msixTable = s.msixTable := rfl
@[simp] theorem putBurin_job (s : State) (b : Nat) (u : Burin) : (putBurin s b u).job = s.job := rfl
@[simp] theorem putBurin_regions (s : State) (b : Nat) (u : Burin) : (putBurin s b u).regions = s.regions := rfl
@[simp] theorem putBurin_hwChip (s : State) (b : Nat) (u : Burin) : (putBurin s b u).hwChip = s.hwChip := rfl
@[simp] theorem putBurin_hwRegions (s : State) (b : Nat) (u : Burin) : (putBurin s b u).hwRegions = s.hwRegions := rfl
@[simp] theorem putBurin_trace (s : State) (b : Nat) (u : Burin) : (putBurin s b u).trace = s.trace := rfl
@[simp] theorem putBurin_alarms (s : State) (b : Nat) (u : Burin) : (putBurin s b u).alarms = s.alarms := rfl
@[simp] theorem putBurin_wqs (s : State) (b : Nat) (u : Burin) : (putBurin s b u).wqs = s.wqs := rfl
@[simp] theorem putBurin_waitRecs (s : State) (b : Nat) (u : Burin) : (putBurin s b u).waitRecs = s.waitRecs := rfl
@[simp] theorem putBurin_ports (s : State) (b : Nat) (u : Burin) : (putBurin s b u).ports = s.ports := rfl
@[simp] theorem putBurin_root (s : State) (b : Nat) (u : Burin) : (putBurin s b u).root = s.root := rfl
@[simp] theorem putBurin_witness (s : State) (b : Nat) (u : Burin) : (putBurin s b u).witness = s.witness := rfl
@[simp] theorem putBurin_witSeq (s : State) (b : Nat) (u : Burin) : (putBurin s b u).witSeq = s.witSeq := rfl
@[simp] theorem putBurin_witLost (s : State) (b : Nat) (u : Burin) : (putBurin s b u).witLost = s.witLost := rfl
@[simp] theorem putBurin_drainWit (s : State) (b : Nat) (u : Burin) : (putBurin s b u).drainWit = s.drainWit := rfl
@[simp] theorem putBurin_saved (s : State) (b : Nat) (u : Burin) : (putBurin s b u).saved = s.saved := rfl
@[simp] theorem putBurin_resume (s : State) (b : Nat) (u : Burin) : (putBurin s b u).resume = s.resume := rfl
@[simp] theorem putBurin_ctxs (s : State) (b : Nat) (u : Burin) : (putBurin s b u).ctxs = s.ctxs := rfl
@[simp] theorem putBurin_bellows (s : State) (b : Nat) (u : Burin) : (putBurin s b u).bellows = s.bellows := rfl
@[simp] theorem putBurin_part (s : State) (b : Nat) (u : Burin) : (putBurin s b u).part = s.part := rfl
@[simp] theorem putBurin_pending (s : State) (b : Nat) (u : Burin) : (putBurin s b u).pending = s.pending := rfl
@[simp] theorem putBurin_out (s : State) (b : Nat) (u : Burin) : (putBurin s b u).out = s.out := rfl
@[simp] theorem putBurin_free (s : State) (b : Nat) (u : Burin) : (putBurin s b u).free = s.free := rfl

/-! modCtx changes ctxs alone. -/

@[simp] theorem modCtx_cc (s : State) (c : Nat) (f : Ctx → Ctx) : (modCtx s c f).cc = s.cc := rfl
@[simp] theorem modCtx_trem (s : State) (c : Nat) (f : Ctx → Ctx) : (modCtx s c f).trem = s.trem := rfl
@[simp] theorem modCtx_regs (s : State) (c : Nat) (f : Ctx → Ctx) : (modCtx s c f).regs = s.regs := rfl
@[simp] theorem modCtx_staging (s : State) (c : Nat) (f : Ctx → Ctx) : (modCtx s c f).staging = s.staging := rfl
@[simp] theorem modCtx_written (s : State) (c : Nat) (f : Ctx → Ctx) : (modCtx s c f).written = s.written := rfl
@[simp] theorem modCtx_raised (s : State) (c : Nat) (f : Ctx → Ctx) : (modCtx s c f).raised = s.raised := rfl
@[simp] theorem modCtx_sets (s : State) (c : Nat) (f : Ctx → Ctx) : (modCtx s c f).sets = s.sets := rfl
@[simp] theorem modCtx_checking (s : State) (c : Nat) (f : Ctx → Ctx) : (modCtx s c f).checking = s.checking := rfl
@[simp] theorem modCtx_hostSets (s : State) (c : Nat) (f : Ctx → Ctx) : (modCtx s c f).hostSets = s.hostSets := rfl
@[simp] theorem modCtx_dev (s : State) (c : Nat) (f : Ctx → Ctx) : (modCtx s c f).dev = s.dev := rfl
@[simp] theorem modCtx_host (s : State) (c : Nat) (f : Ctx → Ctx) : (modCtx s c f).host = s.host := rfl
@[simp] theorem modCtx_msixTable (s : State) (c : Nat) (f : Ctx → Ctx) : (modCtx s c f).msixTable = s.msixTable := rfl
@[simp] theorem modCtx_job (s : State) (c : Nat) (f : Ctx → Ctx) : (modCtx s c f).job = s.job := rfl
@[simp] theorem modCtx_regions (s : State) (c : Nat) (f : Ctx → Ctx) : (modCtx s c f).regions = s.regions := rfl
@[simp] theorem modCtx_burins (s : State) (c : Nat) (f : Ctx → Ctx) : (modCtx s c f).burins = s.burins := rfl
@[simp] theorem modCtx_hwChip (s : State) (c : Nat) (f : Ctx → Ctx) : (modCtx s c f).hwChip = s.hwChip := rfl
@[simp] theorem modCtx_hwRegions (s : State) (c : Nat) (f : Ctx → Ctx) : (modCtx s c f).hwRegions = s.hwRegions := rfl
@[simp] theorem modCtx_trace (s : State) (c : Nat) (f : Ctx → Ctx) : (modCtx s c f).trace = s.trace := rfl
@[simp] theorem modCtx_alarms (s : State) (c : Nat) (f : Ctx → Ctx) : (modCtx s c f).alarms = s.alarms := rfl
@[simp] theorem modCtx_wqs (s : State) (c : Nat) (f : Ctx → Ctx) : (modCtx s c f).wqs = s.wqs := rfl
@[simp] theorem modCtx_waitRecs (s : State) (c : Nat) (f : Ctx → Ctx) : (modCtx s c f).waitRecs = s.waitRecs := rfl
@[simp] theorem modCtx_ports (s : State) (c : Nat) (f : Ctx → Ctx) : (modCtx s c f).ports = s.ports := rfl
@[simp] theorem modCtx_root (s : State) (c : Nat) (f : Ctx → Ctx) : (modCtx s c f).root = s.root := rfl
@[simp] theorem modCtx_witness (s : State) (c : Nat) (f : Ctx → Ctx) : (modCtx s c f).witness = s.witness := rfl
@[simp] theorem modCtx_witSeq (s : State) (c : Nat) (f : Ctx → Ctx) : (modCtx s c f).witSeq = s.witSeq := rfl
@[simp] theorem modCtx_witLost (s : State) (c : Nat) (f : Ctx → Ctx) : (modCtx s c f).witLost = s.witLost := rfl
@[simp] theorem modCtx_drainWit (s : State) (c : Nat) (f : Ctx → Ctx) : (modCtx s c f).drainWit = s.drainWit := rfl
@[simp] theorem modCtx_saved (s : State) (c : Nat) (f : Ctx → Ctx) : (modCtx s c f).saved = s.saved := rfl
@[simp] theorem modCtx_resume (s : State) (c : Nat) (f : Ctx → Ctx) : (modCtx s c f).resume = s.resume := rfl
@[simp] theorem modCtx_bellows (s : State) (c : Nat) (f : Ctx → Ctx) : (modCtx s c f).bellows = s.bellows := rfl
@[simp] theorem modCtx_part (s : State) (c : Nat) (f : Ctx → Ctx) : (modCtx s c f).part = s.part := rfl
@[simp] theorem modCtx_pending (s : State) (c : Nat) (f : Ctx → Ctx) : (modCtx s c f).pending = s.pending := rfl
@[simp] theorem modCtx_out (s : State) (c : Nat) (f : Ctx → Ctx) : (modCtx s c f).out = s.out := rfl
@[simp] theorem modCtx_free (s : State) (c : Nat) (f : Ctx → Ctx) : (modCtx s c f).free = s.free := rfl

/-! modPort changes ports alone. -/

@[simp] theorem modPort_cc (s : State) (p : Nat) (f : Port → Port) : (modPort s p f).cc = s.cc := rfl
@[simp] theorem modPort_trem (s : State) (p : Nat) (f : Port → Port) : (modPort s p f).trem = s.trem := rfl
@[simp] theorem modPort_regs (s : State) (p : Nat) (f : Port → Port) : (modPort s p f).regs = s.regs := rfl
@[simp] theorem modPort_staging (s : State) (p : Nat) (f : Port → Port) : (modPort s p f).staging = s.staging := rfl
@[simp] theorem modPort_written (s : State) (p : Nat) (f : Port → Port) : (modPort s p f).written = s.written := rfl
@[simp] theorem modPort_raised (s : State) (p : Nat) (f : Port → Port) : (modPort s p f).raised = s.raised := rfl
@[simp] theorem modPort_sets (s : State) (p : Nat) (f : Port → Port) : (modPort s p f).sets = s.sets := rfl
@[simp] theorem modPort_checking (s : State) (p : Nat) (f : Port → Port) : (modPort s p f).checking = s.checking := rfl
@[simp] theorem modPort_hostSets (s : State) (p : Nat) (f : Port → Port) : (modPort s p f).hostSets = s.hostSets := rfl
@[simp] theorem modPort_dev (s : State) (p : Nat) (f : Port → Port) : (modPort s p f).dev = s.dev := rfl
@[simp] theorem modPort_host (s : State) (p : Nat) (f : Port → Port) : (modPort s p f).host = s.host := rfl
@[simp] theorem modPort_msixTable (s : State) (p : Nat) (f : Port → Port) : (modPort s p f).msixTable = s.msixTable := rfl
@[simp] theorem modPort_job (s : State) (p : Nat) (f : Port → Port) : (modPort s p f).job = s.job := rfl
@[simp] theorem modPort_regions (s : State) (p : Nat) (f : Port → Port) : (modPort s p f).regions = s.regions := rfl
@[simp] theorem modPort_burins (s : State) (p : Nat) (f : Port → Port) : (modPort s p f).burins = s.burins := rfl
@[simp] theorem modPort_hwChip (s : State) (p : Nat) (f : Port → Port) : (modPort s p f).hwChip = s.hwChip := rfl
@[simp] theorem modPort_hwRegions (s : State) (p : Nat) (f : Port → Port) : (modPort s p f).hwRegions = s.hwRegions := rfl
@[simp] theorem modPort_trace (s : State) (p : Nat) (f : Port → Port) : (modPort s p f).trace = s.trace := rfl
@[simp] theorem modPort_alarms (s : State) (p : Nat) (f : Port → Port) : (modPort s p f).alarms = s.alarms := rfl
@[simp] theorem modPort_wqs (s : State) (p : Nat) (f : Port → Port) : (modPort s p f).wqs = s.wqs := rfl
@[simp] theorem modPort_waitRecs (s : State) (p : Nat) (f : Port → Port) : (modPort s p f).waitRecs = s.waitRecs := rfl
@[simp] theorem modPort_root (s : State) (p : Nat) (f : Port → Port) : (modPort s p f).root = s.root := rfl
@[simp] theorem modPort_witness (s : State) (p : Nat) (f : Port → Port) : (modPort s p f).witness = s.witness := rfl
@[simp] theorem modPort_witSeq (s : State) (p : Nat) (f : Port → Port) : (modPort s p f).witSeq = s.witSeq := rfl
@[simp] theorem modPort_witLost (s : State) (p : Nat) (f : Port → Port) : (modPort s p f).witLost = s.witLost := rfl
@[simp] theorem modPort_drainWit (s : State) (p : Nat) (f : Port → Port) : (modPort s p f).drainWit = s.drainWit := rfl
@[simp] theorem modPort_saved (s : State) (p : Nat) (f : Port → Port) : (modPort s p f).saved = s.saved := rfl
@[simp] theorem modPort_resume (s : State) (p : Nat) (f : Port → Port) : (modPort s p f).resume = s.resume := rfl
@[simp] theorem modPort_ctxs (s : State) (p : Nat) (f : Port → Port) : (modPort s p f).ctxs = s.ctxs := rfl
@[simp] theorem modPort_bellows (s : State) (p : Nat) (f : Port → Port) : (modPort s p f).bellows = s.bellows := rfl
@[simp] theorem modPort_part (s : State) (p : Nat) (f : Port → Port) : (modPort s p f).part = s.part := rfl
@[simp] theorem modPort_pending (s : State) (p : Nat) (f : Port → Port) : (modPort s p f).pending = s.pending := rfl
@[simp] theorem modPort_out (s : State) (p : Nat) (f : Port → Port) : (modPort s p f).out = s.out := rfl
@[simp] theorem modPort_free (s : State) (p : Nat) (f : Port → Port) : (modPort s p f).free = s.free := rfl

/-! modWq changes wqs alone. -/

@[simp] theorem modWq_cc (s : State) (q : Nat) (f : Wq → Wq) : (modWq s q f).cc = s.cc := rfl
@[simp] theorem modWq_trem (s : State) (q : Nat) (f : Wq → Wq) : (modWq s q f).trem = s.trem := rfl
@[simp] theorem modWq_regs (s : State) (q : Nat) (f : Wq → Wq) : (modWq s q f).regs = s.regs := rfl
@[simp] theorem modWq_staging (s : State) (q : Nat) (f : Wq → Wq) : (modWq s q f).staging = s.staging := rfl
@[simp] theorem modWq_written (s : State) (q : Nat) (f : Wq → Wq) : (modWq s q f).written = s.written := rfl
@[simp] theorem modWq_raised (s : State) (q : Nat) (f : Wq → Wq) : (modWq s q f).raised = s.raised := rfl
@[simp] theorem modWq_sets (s : State) (q : Nat) (f : Wq → Wq) : (modWq s q f).sets = s.sets := rfl
@[simp] theorem modWq_checking (s : State) (q : Nat) (f : Wq → Wq) : (modWq s q f).checking = s.checking := rfl
@[simp] theorem modWq_hostSets (s : State) (q : Nat) (f : Wq → Wq) : (modWq s q f).hostSets = s.hostSets := rfl
@[simp] theorem modWq_dev (s : State) (q : Nat) (f : Wq → Wq) : (modWq s q f).dev = s.dev := rfl
@[simp] theorem modWq_host (s : State) (q : Nat) (f : Wq → Wq) : (modWq s q f).host = s.host := rfl
@[simp] theorem modWq_msixTable (s : State) (q : Nat) (f : Wq → Wq) : (modWq s q f).msixTable = s.msixTable := rfl
@[simp] theorem modWq_job (s : State) (q : Nat) (f : Wq → Wq) : (modWq s q f).job = s.job := rfl
@[simp] theorem modWq_regions (s : State) (q : Nat) (f : Wq → Wq) : (modWq s q f).regions = s.regions := rfl
@[simp] theorem modWq_burins (s : State) (q : Nat) (f : Wq → Wq) : (modWq s q f).burins = s.burins := rfl
@[simp] theorem modWq_hwChip (s : State) (q : Nat) (f : Wq → Wq) : (modWq s q f).hwChip = s.hwChip := rfl
@[simp] theorem modWq_hwRegions (s : State) (q : Nat) (f : Wq → Wq) : (modWq s q f).hwRegions = s.hwRegions := rfl
@[simp] theorem modWq_trace (s : State) (q : Nat) (f : Wq → Wq) : (modWq s q f).trace = s.trace := rfl
@[simp] theorem modWq_alarms (s : State) (q : Nat) (f : Wq → Wq) : (modWq s q f).alarms = s.alarms := rfl
@[simp] theorem modWq_waitRecs (s : State) (q : Nat) (f : Wq → Wq) : (modWq s q f).waitRecs = s.waitRecs := rfl
@[simp] theorem modWq_ports (s : State) (q : Nat) (f : Wq → Wq) : (modWq s q f).ports = s.ports := rfl
@[simp] theorem modWq_root (s : State) (q : Nat) (f : Wq → Wq) : (modWq s q f).root = s.root := rfl
@[simp] theorem modWq_witness (s : State) (q : Nat) (f : Wq → Wq) : (modWq s q f).witness = s.witness := rfl
@[simp] theorem modWq_witSeq (s : State) (q : Nat) (f : Wq → Wq) : (modWq s q f).witSeq = s.witSeq := rfl
@[simp] theorem modWq_witLost (s : State) (q : Nat) (f : Wq → Wq) : (modWq s q f).witLost = s.witLost := rfl
@[simp] theorem modWq_drainWit (s : State) (q : Nat) (f : Wq → Wq) : (modWq s q f).drainWit = s.drainWit := rfl
@[simp] theorem modWq_saved (s : State) (q : Nat) (f : Wq → Wq) : (modWq s q f).saved = s.saved := rfl
@[simp] theorem modWq_resume (s : State) (q : Nat) (f : Wq → Wq) : (modWq s q f).resume = s.resume := rfl
@[simp] theorem modWq_ctxs (s : State) (q : Nat) (f : Wq → Wq) : (modWq s q f).ctxs = s.ctxs := rfl
@[simp] theorem modWq_bellows (s : State) (q : Nat) (f : Wq → Wq) : (modWq s q f).bellows = s.bellows := rfl
@[simp] theorem modWq_part (s : State) (q : Nat) (f : Wq → Wq) : (modWq s q f).part = s.part := rfl
@[simp] theorem modWq_pending (s : State) (q : Nat) (f : Wq → Wq) : (modWq s q f).pending = s.pending := rfl
@[simp] theorem modWq_out (s : State) (q : Nat) (f : Wq → Wq) : (modWq s q f).out = s.out := rfl
@[simp] theorem modWq_free (s : State) (q : Nat) (f : Wq → Wq) : (modWq s q f).free = s.free := rfl

/-! modJob changes job alone. -/

@[simp] theorem modJob_cc (s : State) (f : Job → Job) : (modJob s f).cc = s.cc := rfl
@[simp] theorem modJob_trem (s : State) (f : Job → Job) : (modJob s f).trem = s.trem := rfl
@[simp] theorem modJob_regs (s : State) (f : Job → Job) : (modJob s f).regs = s.regs := rfl
@[simp] theorem modJob_staging (s : State) (f : Job → Job) : (modJob s f).staging = s.staging := rfl
@[simp] theorem modJob_written (s : State) (f : Job → Job) : (modJob s f).written = s.written := rfl
@[simp] theorem modJob_raised (s : State) (f : Job → Job) : (modJob s f).raised = s.raised := rfl
@[simp] theorem modJob_sets (s : State) (f : Job → Job) : (modJob s f).sets = s.sets := rfl
@[simp] theorem modJob_checking (s : State) (f : Job → Job) : (modJob s f).checking = s.checking := rfl
@[simp] theorem modJob_hostSets (s : State) (f : Job → Job) : (modJob s f).hostSets = s.hostSets := rfl
@[simp] theorem modJob_dev (s : State) (f : Job → Job) : (modJob s f).dev = s.dev := rfl
@[simp] theorem modJob_host (s : State) (f : Job → Job) : (modJob s f).host = s.host := rfl
@[simp] theorem modJob_msixTable (s : State) (f : Job → Job) : (modJob s f).msixTable = s.msixTable := rfl
@[simp] theorem modJob_regions (s : State) (f : Job → Job) : (modJob s f).regions = s.regions := rfl
@[simp] theorem modJob_burins (s : State) (f : Job → Job) : (modJob s f).burins = s.burins := rfl
@[simp] theorem modJob_hwChip (s : State) (f : Job → Job) : (modJob s f).hwChip = s.hwChip := rfl
@[simp] theorem modJob_hwRegions (s : State) (f : Job → Job) : (modJob s f).hwRegions = s.hwRegions := rfl
@[simp] theorem modJob_trace (s : State) (f : Job → Job) : (modJob s f).trace = s.trace := rfl
@[simp] theorem modJob_alarms (s : State) (f : Job → Job) : (modJob s f).alarms = s.alarms := rfl
@[simp] theorem modJob_wqs (s : State) (f : Job → Job) : (modJob s f).wqs = s.wqs := rfl
@[simp] theorem modJob_waitRecs (s : State) (f : Job → Job) : (modJob s f).waitRecs = s.waitRecs := rfl
@[simp] theorem modJob_ports (s : State) (f : Job → Job) : (modJob s f).ports = s.ports := rfl
@[simp] theorem modJob_root (s : State) (f : Job → Job) : (modJob s f).root = s.root := rfl
@[simp] theorem modJob_witness (s : State) (f : Job → Job) : (modJob s f).witness = s.witness := rfl
@[simp] theorem modJob_witSeq (s : State) (f : Job → Job) : (modJob s f).witSeq = s.witSeq := rfl
@[simp] theorem modJob_witLost (s : State) (f : Job → Job) : (modJob s f).witLost = s.witLost := rfl
@[simp] theorem modJob_drainWit (s : State) (f : Job → Job) : (modJob s f).drainWit = s.drainWit := rfl
@[simp] theorem modJob_saved (s : State) (f : Job → Job) : (modJob s f).saved = s.saved := rfl
@[simp] theorem modJob_resume (s : State) (f : Job → Job) : (modJob s f).resume = s.resume := rfl
@[simp] theorem modJob_ctxs (s : State) (f : Job → Job) : (modJob s f).ctxs = s.ctxs := rfl
@[simp] theorem modJob_bellows (s : State) (f : Job → Job) : (modJob s f).bellows = s.bellows := rfl
@[simp] theorem modJob_part (s : State) (f : Job → Job) : (modJob s f).part = s.part := rfl
@[simp] theorem modJob_pending (s : State) (f : Job → Job) : (modJob s f).pending = s.pending := rfl
@[simp] theorem modJob_out (s : State) (f : Job → Job) : (modJob s f).out = s.out := rfl
@[simp] theorem modJob_free (s : State) (f : Job → Job) : (modJob s f).free = s.free := rfl

/-! emit changes out alone. -/

@[simp] theorem emit_cc (s : State) (o : Out) : (emit s o).cc = s.cc := rfl
@[simp] theorem emit_trem (s : State) (o : Out) : (emit s o).trem = s.trem := rfl
@[simp] theorem emit_regs (s : State) (o : Out) : (emit s o).regs = s.regs := rfl
@[simp] theorem emit_staging (s : State) (o : Out) : (emit s o).staging = s.staging := rfl
@[simp] theorem emit_written (s : State) (o : Out) : (emit s o).written = s.written := rfl
@[simp] theorem emit_raised (s : State) (o : Out) : (emit s o).raised = s.raised := rfl
@[simp] theorem emit_sets (s : State) (o : Out) : (emit s o).sets = s.sets := rfl
@[simp] theorem emit_checking (s : State) (o : Out) : (emit s o).checking = s.checking := rfl
@[simp] theorem emit_hostSets (s : State) (o : Out) : (emit s o).hostSets = s.hostSets := rfl
@[simp] theorem emit_dev (s : State) (o : Out) : (emit s o).dev = s.dev := rfl
@[simp] theorem emit_host (s : State) (o : Out) : (emit s o).host = s.host := rfl
@[simp] theorem emit_msixTable (s : State) (o : Out) : (emit s o).msixTable = s.msixTable := rfl
@[simp] theorem emit_job (s : State) (o : Out) : (emit s o).job = s.job := rfl
@[simp] theorem emit_regions (s : State) (o : Out) : (emit s o).regions = s.regions := rfl
@[simp] theorem emit_burins (s : State) (o : Out) : (emit s o).burins = s.burins := rfl
@[simp] theorem emit_hwChip (s : State) (o : Out) : (emit s o).hwChip = s.hwChip := rfl
@[simp] theorem emit_hwRegions (s : State) (o : Out) : (emit s o).hwRegions = s.hwRegions := rfl
@[simp] theorem emit_trace (s : State) (o : Out) : (emit s o).trace = s.trace := rfl
@[simp] theorem emit_alarms (s : State) (o : Out) : (emit s o).alarms = s.alarms := rfl
@[simp] theorem emit_wqs (s : State) (o : Out) : (emit s o).wqs = s.wqs := rfl
@[simp] theorem emit_waitRecs (s : State) (o : Out) : (emit s o).waitRecs = s.waitRecs := rfl
@[simp] theorem emit_ports (s : State) (o : Out) : (emit s o).ports = s.ports := rfl
@[simp] theorem emit_root (s : State) (o : Out) : (emit s o).root = s.root := rfl
@[simp] theorem emit_witness (s : State) (o : Out) : (emit s o).witness = s.witness := rfl
@[simp] theorem emit_witSeq (s : State) (o : Out) : (emit s o).witSeq = s.witSeq := rfl
@[simp] theorem emit_witLost (s : State) (o : Out) : (emit s o).witLost = s.witLost := rfl
@[simp] theorem emit_drainWit (s : State) (o : Out) : (emit s o).drainWit = s.drainWit := rfl
@[simp] theorem emit_saved (s : State) (o : Out) : (emit s o).saved = s.saved := rfl
@[simp] theorem emit_resume (s : State) (o : Out) : (emit s o).resume = s.resume := rfl
@[simp] theorem emit_ctxs (s : State) (o : Out) : (emit s o).ctxs = s.ctxs := rfl
@[simp] theorem emit_bellows (s : State) (o : Out) : (emit s o).bellows = s.bellows := rfl
@[simp] theorem emit_part (s : State) (o : Out) : (emit s o).part = s.part := rfl
@[simp] theorem emit_pending (s : State) (o : Out) : (emit s o).pending = s.pending := rfl
@[simp] theorem emit_free (s : State) (o : Out) : (emit s o).free = s.free := rfl

/-! Reads after an update of another part. -/

@[simp] theorem rd_modRegion (s : State) (r : Nat) (f : Region → Region) (j : Nat) : rd (modRegion s r f) j = rd s j := rfl
@[simp] theorem rd_putBurin (s : State) (b : Nat) (u : Burin) (j : Nat) : rd (putBurin s b u) j = rd s j := rfl
@[simp] theorem rd_modCtx (s : State) (c : Nat) (f : Ctx → Ctx) (j : Nat) : rd (modCtx s c f) j = rd s j := rfl
@[simp] theorem rd_modPort (s : State) (p : Nat) (f : Port → Port) (j : Nat) : rd (modPort s p f) j = rd s j := rfl
@[simp] theorem rd_modWq (s : State) (q : Nat) (f : Wq → Wq) (j : Nat) : rd (modWq s q f) j = rd s j := rfl
@[simp] theorem rd_modJob (s : State) (f : Job → Job) (j : Nat) : rd (modJob s f) j = rd s j := rfl
@[simp] theorem rd_emit (s : State) (o : Out) (j : Nat) : rd (emit s o) j = rd s j := rfl
@[simp] theorem getRegion_wr (s : State) (k v : Nat) (j : Nat) : getRegion (wr s k v) j = getRegion s j := rfl
@[simp] theorem getRegion_wrb (s : State) (k : Nat) (b : Bool) (j : Nat) : getRegion (wrb s k b) j = getRegion s j := rfl
@[simp] theorem getRegion_bump (s : State) (k w : Nat) (j : Nat) : getRegion (bump s k w) j = getRegion s j := rfl
@[simp] theorem getRegion_setBit (s : State) (k i : Nat) (j : Nat) : getRegion (setBit s k i) j = getRegion s j := rfl
@[simp] theorem getRegion_putBurin (s : State) (b : Nat) (u : Burin) (j : Nat) : getRegion (putBurin s b u) j = getRegion s j := rfl
@[simp] theorem getRegion_modCtx (s : State) (c : Nat) (f : Ctx → Ctx) (j : Nat) : getRegion (modCtx s c f) j = getRegion s j := rfl
@[simp] theorem getRegion_modPort (s : State) (p : Nat) (f : Port → Port) (j : Nat) : getRegion (modPort s p f) j = getRegion s j := rfl
@[simp] theorem getRegion_modWq (s : State) (q : Nat) (f : Wq → Wq) (j : Nat) : getRegion (modWq s q f) j = getRegion s j := rfl
@[simp] theorem getRegion_modJob (s : State) (f : Job → Job) (j : Nat) : getRegion (modJob s f) j = getRegion s j := rfl
@[simp] theorem getRegion_emit (s : State) (o : Out) (j : Nat) : getRegion (emit s o) j = getRegion s j := rfl
@[simp] theorem getBurin_wr (s : State) (k v : Nat) (j : Nat) : getBurin (wr s k v) j = getBurin s j := rfl
@[simp] theorem getBurin_wrb (s : State) (k : Nat) (b : Bool) (j : Nat) : getBurin (wrb s k b) j = getBurin s j := rfl
@[simp] theorem getBurin_bump (s : State) (k w : Nat) (j : Nat) : getBurin (bump s k w) j = getBurin s j := rfl
@[simp] theorem getBurin_setBit (s : State) (k i : Nat) (j : Nat) : getBurin (setBit s k i) j = getBurin s j := rfl
@[simp] theorem getBurin_modRegion (s : State) (r : Nat) (f : Region → Region) (j : Nat) : getBurin (modRegion s r f) j = getBurin s j := rfl
@[simp] theorem getBurin_modCtx (s : State) (c : Nat) (f : Ctx → Ctx) (j : Nat) : getBurin (modCtx s c f) j = getBurin s j := rfl
@[simp] theorem getBurin_modPort (s : State) (p : Nat) (f : Port → Port) (j : Nat) : getBurin (modPort s p f) j = getBurin s j := rfl
@[simp] theorem getBurin_modWq (s : State) (q : Nat) (f : Wq → Wq) (j : Nat) : getBurin (modWq s q f) j = getBurin s j := rfl
@[simp] theorem getBurin_modJob (s : State) (f : Job → Job) (j : Nat) : getBurin (modJob s f) j = getBurin s j := rfl
@[simp] theorem getBurin_emit (s : State) (o : Out) (j : Nat) : getBurin (emit s o) j = getBurin s j := rfl
@[simp] theorem getCtx_wr (s : State) (k v : Nat) (j : Nat) : getCtx (wr s k v) j = getCtx s j := rfl
@[simp] theorem getCtx_wrb (s : State) (k : Nat) (b : Bool) (j : Nat) : getCtx (wrb s k b) j = getCtx s j := rfl
@[simp] theorem getCtx_bump (s : State) (k w : Nat) (j : Nat) : getCtx (bump s k w) j = getCtx s j := rfl
@[simp] theorem getCtx_setBit (s : State) (k i : Nat) (j : Nat) : getCtx (setBit s k i) j = getCtx s j := rfl
@[simp] theorem getCtx_modRegion (s : State) (r : Nat) (f : Region → Region) (j : Nat) : getCtx (modRegion s r f) j = getCtx s j := rfl
@[simp] theorem getCtx_putBurin (s : State) (b : Nat) (u : Burin) (j : Nat) : getCtx (putBurin s b u) j = getCtx s j := rfl
@[simp] theorem getCtx_modPort (s : State) (p : Nat) (f : Port → Port) (j : Nat) : getCtx (modPort s p f) j = getCtx s j := rfl
@[simp] theorem getCtx_modWq (s : State) (q : Nat) (f : Wq → Wq) (j : Nat) : getCtx (modWq s q f) j = getCtx s j := rfl
@[simp] theorem getCtx_modJob (s : State) (f : Job → Job) (j : Nat) : getCtx (modJob s f) j = getCtx s j := rfl
@[simp] theorem getCtx_emit (s : State) (o : Out) (j : Nat) : getCtx (emit s o) j = getCtx s j := rfl
@[simp] theorem getPort_wr (s : State) (k v : Nat) (j : Nat) : getPort (wr s k v) j = getPort s j := rfl
@[simp] theorem getPort_wrb (s : State) (k : Nat) (b : Bool) (j : Nat) : getPort (wrb s k b) j = getPort s j := rfl
@[simp] theorem getPort_bump (s : State) (k w : Nat) (j : Nat) : getPort (bump s k w) j = getPort s j := rfl
@[simp] theorem getPort_setBit (s : State) (k i : Nat) (j : Nat) : getPort (setBit s k i) j = getPort s j := rfl
@[simp] theorem getPort_modRegion (s : State) (r : Nat) (f : Region → Region) (j : Nat) : getPort (modRegion s r f) j = getPort s j := rfl
@[simp] theorem getPort_putBurin (s : State) (b : Nat) (u : Burin) (j : Nat) : getPort (putBurin s b u) j = getPort s j := rfl
@[simp] theorem getPort_modCtx (s : State) (c : Nat) (f : Ctx → Ctx) (j : Nat) : getPort (modCtx s c f) j = getPort s j := rfl
@[simp] theorem getPort_modWq (s : State) (q : Nat) (f : Wq → Wq) (j : Nat) : getPort (modWq s q f) j = getPort s j := rfl
@[simp] theorem getPort_modJob (s : State) (f : Job → Job) (j : Nat) : getPort (modJob s f) j = getPort s j := rfl
@[simp] theorem getPort_emit (s : State) (o : Out) (j : Nat) : getPort (emit s o) j = getPort s j := rfl
@[simp] theorem getWq_wr (s : State) (k v : Nat) (j : Nat) : getWq (wr s k v) j = getWq s j := rfl
@[simp] theorem getWq_wrb (s : State) (k : Nat) (b : Bool) (j : Nat) : getWq (wrb s k b) j = getWq s j := rfl
@[simp] theorem getWq_bump (s : State) (k w : Nat) (j : Nat) : getWq (bump s k w) j = getWq s j := rfl
@[simp] theorem getWq_setBit (s : State) (k i : Nat) (j : Nat) : getWq (setBit s k i) j = getWq s j := rfl
@[simp] theorem getWq_modRegion (s : State) (r : Nat) (f : Region → Region) (j : Nat) : getWq (modRegion s r f) j = getWq s j := rfl
@[simp] theorem getWq_putBurin (s : State) (b : Nat) (u : Burin) (j : Nat) : getWq (putBurin s b u) j = getWq s j := rfl
@[simp] theorem getWq_modCtx (s : State) (c : Nat) (f : Ctx → Ctx) (j : Nat) : getWq (modCtx s c f) j = getWq s j := rfl
@[simp] theorem getWq_modPort (s : State) (p : Nat) (f : Port → Port) (j : Nat) : getWq (modPort s p f) j = getWq s j := rfl
@[simp] theorem getWq_modJob (s : State) (f : Job → Job) (j : Nat) : getWq (modJob s f) j = getWq s j := rfl
@[simp] theorem getWq_emit (s : State) (o : Out) (j : Nat) : getWq (emit s o) j = getWq s j := rfl

/-! Reads after an update of the same part. -/

@[simp] theorem rd_wr_same (s : State) (k v : Nat) : rd (wr s k v) k = v := mget_mput_same _ _ _ _

theorem rd_wr_ne (s : State) (k v j : Nat) (h : j ≠ k) : rd (wr s k v) j = rd s j := mget_mput_ne _ _ _ _ _ h

theorem rd_wr (s : State) (k v j : Nat) : rd (wr s k v) j = if j = k then v else rd s j := mget_mput _ _ _ _ _

@[simp] theorem getRegion_modRegion_same (s : State) (r : Nat) (f : Region → Region) : getRegion (modRegion s r f) r = f (getRegion s r) :=
  mget_mput_same _ _ _ _

theorem getRegion_modRegion_ne (s : State) (r j : Nat) (f : Region → Region) (h : j ≠ r) : getRegion (modRegion s r f) j = getRegion s j :=
  mget_mput_ne _ _ _ _ _ h

@[simp] theorem getCtx_modCtx_same (s : State) (r : Nat) (f : Ctx → Ctx) : getCtx (modCtx s r f) r = f (getCtx s r) :=
  mget_mput_same _ _ _ _

theorem getCtx_modCtx_ne (s : State) (r j : Nat) (f : Ctx → Ctx) (h : j ≠ r) : getCtx (modCtx s r f) j = getCtx s j :=
  mget_mput_ne _ _ _ _ _ h

@[simp] theorem getPort_modPort_same (s : State) (r : Nat) (f : Port → Port) : getPort (modPort s r f) r = f (getPort s r) :=
  mget_mput_same _ _ _ _

theorem getPort_modPort_ne (s : State) (r j : Nat) (f : Port → Port) (h : j ≠ r) : getPort (modPort s r f) j = getPort s j :=
  mget_mput_ne _ _ _ _ _ h

@[simp] theorem getWq_modWq_same (s : State) (r : Nat) (f : Wq → Wq) : getWq (modWq s r f) r = f (getWq s r) :=
  mget_mput_same _ _ _ _

theorem getWq_modWq_ne (s : State) (r j : Nat) (f : Wq → Wq) (h : j ≠ r) : getWq (modWq s r f) j = getWq s j :=
  mget_mput_ne _ _ _ _ _ h

@[simp] theorem getBurin_putBurin_same (s : State) (b : Nat) (u : Burin) : getBurin (putBurin s b u) b = u := mget_mput_same _ _ _ _

theorem getBurin_putBurin_ne (s : State) (b j : Nat) (u : Burin) (h : j ≠ b) : getBurin (putBurin s b u) j = getBurin s j :=
  mget_mput_ne _ _ _ _ _ h

end Sys2Proof.Machine
end

