-- ==== Sys2Proof/Laws/Burin.lean ====
section
/-! SUPPORT. Reads of a Burin's registers after a write, and what each shared operation of the scalar unit does where it does not fault. -/

namespace Sys2Proof.Machine

@[simp] theorem getX_zero (u : Burin) : getX u 0 = 0 := rfl
@[simp] theorem badX_zero (u : Burin) : badX u 0 = false := rfl
@[simp] theorem getM_zero (u : Burin) : getM u 0 = BitVec.allOnes 64 := rfl
@[simp] theorem badM_zero (u : Burin) : badM u 0 = false := rfl

theorem getX_setX (u : Burin) (d i : Nat) (v : Word) (p : Bool) :
    getX (setX u d v p) i = if i = d ∧ d ≠ 0 then v else getX u i := by
  unfold setX getX
  by_cases hd : d = 0
  · simp [hd]
  · by_cases hi : i = 0
    · simp [hi, Ne.symm hd]
    · simp only [hd, if_false, hi, mget_mput, and_true, ne_eq, not_false_iff]

theorem badX_setX (u : Burin) (d i : Nat) (v : Word) (p : Bool) :
    badX (setX u d v p) i = if i = d ∧ d ≠ 0 then p else badX u i := by
  unfold setX badX
  by_cases hd : d = 0
  · simp [hd]
  · by_cases hi : i = 0
    · simp [hi, Ne.symm hd]
    · simp only [hd, if_false, hi, mget_mput, and_true, ne_eq, not_false_iff]

theorem getV_setV (u : Burin) (d i : Nat) (v : BitVec 512) (p : Bool) : getV (setV u d v p) i = if i = d then v else getV u i :=
  mget_mput _ _ _ _ _

theorem badV_setV (u : Burin) (d i : Nat) (v : BitVec 512) (p : Bool) : badV (setV u d v p) i = if i = d then p else badV u i :=
  mget_mput _ _ _ _ _

theorem getM_setM (u : Burin) (d i : Nat) (v : BitVec 64) (p : Bool) :
    getM (setM u d v p) i = if i = d ∧ d ≠ 0 then v else getM u i := by
  unfold setM getM
  by_cases hd : d = 0
  · simp [hd]
  · by_cases hi : i = 0
    · simp [hi, Ne.symm hd]
    · simp only [hd, if_false, hi, mget_mput, and_true, ne_eq, not_false_iff]

theorem badM_setM (u : Burin) (d i : Nat) (v : BitVec 64) (p : Bool) :
    badM (setM u d v p) i = if i = d ∧ d ≠ 0 then p else badM u i := by
  unfold setM badM
  by_cases hd : d = 0
  · simp [hd]
  · by_cases hi : i = 0
    · simp [hi, Ne.symm hd]
    · simp only [hd, if_false, hi, mget_mput, and_true, ne_eq, not_false_iff]

/-! A write of one register leaves the other parts. -/

section

variable (u : Burin) (d i : Nat) (v : Word) (w : BitVec 512) (k : BitVec 64) (p : Bool)

@[simp] theorem setX_pc : (setX u d v p).pc = u.pc := by unfold setX; split <;> rfl
@[simp] theorem setX_frm : (setX u d v p).frm = u.frm := by unfold setX; split <;> rfl
@[simp] theorem setX_fflags : (setX u d v p).fflags = u.fflags := by unfold setX; split <;> rfl
@[simp] theorem setX_mem : (setX u d v p).mem = u.mem := by unfold setX; split <;> rfl
@[simp] theorem setX_running : (setX u d v p).running = u.running := by unfold setX; split <;> rfl
@[simp] theorem getV_setX : getV (setX u d v p) i = getV u i := by unfold setX; split <;> rfl
@[simp] theorem badV_setX : badV (setX u d v p) i = badV u i := by unfold setX; split <;> rfl
@[simp] theorem getM_setX : getM (setX u d v p) i = getM u i := by unfold setX; split <;> rfl
@[simp] theorem badM_setX : badM (setX u d v p) i = badM u i := by unfold setX; split <;> rfl

@[simp] theorem setV_pc : (setV u d w p).pc = u.pc := rfl
@[simp] theorem setV_frm : (setV u d w p).frm = u.frm := rfl
@[simp] theorem setV_fflags : (setV u d w p).fflags = u.fflags := rfl
@[simp] theorem setV_mem : (setV u d w p).mem = u.mem := rfl
@[simp] theorem setV_running : (setV u d w p).running = u.running := rfl
@[simp] theorem getX_setV : getX (setV u d w p) i = getX u i := rfl
@[simp] theorem badX_setV : badX (setV u d w p) i = badX u i := rfl
@[simp] theorem getM_setV : getM (setV u d w p) i = getM u i := rfl
@[simp] theorem badM_setV : badM (setV u d w p) i = badM u i := rfl

@[simp] theorem setM_pc : (setM u d k p).pc = u.pc := by unfold setM; split <;> rfl
@[simp] theorem setM_frm : (setM u d k p).frm = u.frm := by unfold setM; split <;> rfl
@[simp] theorem setM_fflags : (setM u d k p).fflags = u.fflags := by unfold setM; split <;> rfl
@[simp] theorem setM_mem : (setM u d k p).mem = u.mem := by unfold setM; split <;> rfl
@[simp] theorem setM_running : (setM u d k p).running = u.running := by unfold setM; split <;> rfl
@[simp] theorem getX_setM : getX (setM u d k p) i = getX u i := by unfold setM; split <;> rfl
@[simp] theorem badX_setM : badX (setM u d k p) i = badX u i := by unfold setM; split <;> rfl
@[simp] theorem getV_setM : getV (setM u d k p) i = getV u i := by unfold setM; split <;> rfl
@[simp] theorem badV_setM : badV (setM u d k p) i = badV u i := by unfold setM; split <;> rfl

@[simp] theorem stepPc_pc : (stepPc u).pc = u.pc + 4 := rfl
@[simp] theorem stepPc_frm : (stepPc u).frm = u.frm := rfl
@[simp] theorem stepPc_fflags : (stepPc u).fflags = u.fflags := rfl
@[simp] theorem stepPc_mem : (stepPc u).mem = u.mem := rfl
@[simp] theorem stepPc_running : (stepPc u).running = u.running := rfl
@[simp] theorem getX_stepPc : getX (stepPc u) i = getX u i := rfl
@[simp] theorem badX_stepPc : badX (stepPc u) i = badX u i := rfl
@[simp] theorem getV_stepPc : getV (stepPc u) i = getV u i := rfl
@[simp] theorem badV_stepPc : badV (stepPc u) i = badV u i := rfl
@[simp] theorem getM_stepPc : getM (stepPc u) i = getM u i := rfl
@[simp] theorem badM_stepPc : badM (stepPc u) i = badM u i := rfl

end

/-! The shared operations where they do not fault. -/

theorem burinDo_ok (s : State) (b : Nat) (f : Burin → Burin) (h : burinOk s b = true) :
    burinDo s b f = putBurin s b (stepPc (f (getBurin s b))) := by
  simp [burinDo, h]

theorem burinDo_idle (s : State) (b : Nat) (f : Burin → Burin) (h : burinOk s b = false) : burinDo s b f = s := by
  simp [burinDo, h]

theorem loadX_ok (s : State) (b op d a imm n : Nat) (ue ce : Bool) (f : Nat → Word) (h : burinOk s b = true)
    (ha : badX (getBurin s b) a = false) (hf : localFault s (localAddr (getBurin s b) a imm) n false = none) :
    loadX s b op d a imm n ue ce f =
      putBurin (localErrors s b ue ce (localAddr (getBurin s b) a imm)) b (stepPc (setX (getBurin s b) d
        (if (ue || mBad (getBurin s b).mem (localAddr (getBurin s b) a imm)) = true then f 0
         else f (mLE (getBurin s b).mem (localAddr (getBurin s b) a imm) n))
        (ue || mBad (getBurin s b).mem (localAddr (getBurin s b) a imm)))) := by
  simp [loadX, h, ha, hf]

theorem storeX_ok (s : State) (b op d a imm n : Nat) (ue ce : Bool) (h : burinOk s b = true)
    (ha : badX (getBurin s b) a = false) (hf : localFault s (localAddr (getBurin s b) a imm) n true = none) :
    storeX s b op d a imm n ue ce =
      putBurin (localErrors s b ue ce (localAddr (getBurin s b) a imm)) b (stepPc { getBurin s b with
        mem := if badX (getBurin s b) d = true then mWriteBad (getBurin s b).mem (localAddr (getBurin s b) a imm) n
          else mWrite (if ue = true then [localAddr (getBurin s b) a imm / 32] else []) (getBurin s b).mem
            (localAddr (getBurin s b) a imm) (toLE n (getX (getBurin s b) d).toNat) }) := by
  simp [storeX, h, ha, hf]

theorem goTo_ok (s : State) (b w : Nat) (t : Int) (f : Burin → Burin) (h0 : 0 ≤ t) (h1 : t < burinBytesOf s) :
    goTo s b w t f = putBurin s b { f (getBurin s b) with pc := BitVec.ofInt 16 t } := by
  simp only [goTo]
  rw [if_neg (by omega)]

theorem branch_taken (s : State) (b op d a imm : Nat) (f : Word → Word → Bool) (h : burinOk s b = true)
    (hd : badX (getBurin s b) d = false) (ha : badX (getBurin s b) a = false)
    (hc : f (getX (getBurin s b) d) (getX (getBurin s b) a) = true) :
    branch s b op d a imm f = goTo s b (encI op d a imm) (((getBurin s b).pc.toNat : Int) + 4 * sext 16 imm) id := by
  simp [branch, h, hd, ha, hc]

theorem branch_not_taken (s : State) (b op d a imm : Nat) (f : Word → Word → Bool) (h : burinOk s b = true)
    (hd : badX (getBurin s b) d = false) (ha : badX (getBurin s b) a = false)
    (hc : f (getX (getBurin s b) d) (getX (getBurin s b) a) = false) :
    branch s b op d a imm f = putBurin s b (stepPc (getBurin s b)) := by
  simp [branch, h, hd, ha, hc]

theorem vecDo_ok (s : State) (b w ew m : Nat) (ok : Bool) (f : Burin → State) (h : burinOk s b = true) (he : ew < 3) (hk : ok = true)
    (hm : badM (getBurin s b) m = false) : vecDo s b w ew m ok f = f (getBurin s b) := by
  simp [vecDo, h, hk, hm]
  omega

/-! Lanes. -/

theorem lanesNat_lt (w : Nat) (l : List Nat) : l.foldr (fun x a => x % 2 ^ w + a * 2 ^ w) 0 < (2 ^ w) ^ l.length := by
  induction l with
  | nil => simp
  | cons x l ih =>
    simp only [List.foldr_cons, List.length_cons, Nat.pow_succ]
    have h1 : x % 2 ^ w < 2 ^ w := Nat.mod_lt _ (Nat.two_pow_pos w)
    calc _ < 2 ^ w + l.foldr (fun x a => x % 2 ^ w + a * 2 ^ w) 0 * 2 ^ w := by omega
      _ = (l.foldr (fun x a => x % 2 ^ w + a * 2 ^ w) 0 + 1) * 2 ^ w := by rw [Nat.add_mul, Nat.one_mul, Nat.add_comm]
      _ ≤ _ := Nat.mul_le_mul_right _ ih

theorem lanesNat_get (w : Nat) (l : List Nat) (i : Nat) (h : i < l.length) :
    l.foldr (fun x a => x % 2 ^ w + a * 2 ^ w) 0 / (2 ^ w) ^ i % 2 ^ w = l.getD i 0 % 2 ^ w := by
  induction l generalizing i with
  | nil => simp at h
  | cons x l ih =>
    have h1 : x % 2 ^ w < 2 ^ w := Nat.mod_lt _ (Nat.two_pow_pos w)
    cases i with
    | zero => simp [Nat.add_mul_mod_self_right]
    | succ i =>
      simp only [List.foldr_cons, List.getD_cons_succ, Nat.pow_succ]
      rw [Nat.mul_comm ((2 ^ w) ^ i), ← Nat.div_div_eq_div_mul, Nat.add_mul_div_right _ _ (Nat.two_pow_pos w),
        Nat.div_eq_of_lt h1, Nat.zero_add]
      exact ih i (by simpa using h)

/-- The lanes of a vector built of lanes. -/
theorem lane_ofLanes (ew : Nat) (l : List Nat) (i : Nat) (he : ew < 3) (hl : l.length = laneCount ew) (hi : i < laneCount ew) :
    lane ew (ofLanes ew l) i = l.getD i 0 % 2 ^ (8 * laneBytes ew) := by
  have hw : (2 ^ (8 * laneBytes ew)) ^ l.length = 2 ^ 512 := by
    have h8 : 8 * laneBytes ew * laneCount ew = 512 := by
      have : ew = 0 ∨ ew = 1 ∨ ew = 2 := by omega
      rcases this with rfl | rfl | rfl <;> rfl
    rw [hl, ← Nat.pow_mul, h8]
  have hn := lanesNat_lt (8 * laneBytes ew) l
  rw [hw] at hn
  unfold lane ofLanes bits
  rw [BitVec.toNat_ofNat, Nat.mod_eq_of_lt hn, Nat.pow_mul 2 (8 * laneBytes ew) i]
  exact lanesNat_get _ l i (by omega)

/-- The lanes of a vector after a write under a mask. -/
theorem lane_mergeLanes (ew : Nat) (mk : BitVec 64) (old : BitVec 512) (l : List Nat) (i : Nat) (he : ew < 3) (hi : i < laneCount ew) :
    lane ew (mergeLanes ew mk old l) i =
      if laneOn ew mk i then l.getD i 0 % 2 ^ (8 * laneBytes ew) else lane ew old i := by
  unfold mergeLanes
  rw [lane_ofLanes ew _ i he (by simp) hi]
  have : (((List.range (laneCount ew)).map (fun i => if laneOn ew mk i then l.getD i 0 else lane ew old i)).getD i 0) =
      if laneOn ew mk i then l.getD i 0 else lane ew old i := by
    simp [List.getD, hi]
  rw [this]
  split
  · rfl
  · unfold lane bits
    exact Nat.mod_mod _ _

end Sys2Proof.Machine
end

