-- ==== Sys2Proof/Laws/Memory.lean ====
section
/-! SUPPORT. Laws of byte memories: every operation keeps the canonical form, and what a write of one byte leaves. -/

namespace Sys2Proof.Machine

theorem Memory_wf_iff (m : Mem) :
    Memory.wf m = true ↔ mwf (fun _ => 0) m.cells = true ∧ mwf (fun _ => false) m.bad = true := by
  simp [Memory.wf]

theorem memEmpty_wf : Memory.wf memEmpty = true := rfl

theorem mSet_wf (m : Mem) (a : Nat) (b : Byte) (h : Memory.wf m = true) : Memory.wf (mSet m a b) = true := by
  rw [Memory_wf_iff] at h ⊢
  exact ⟨mwf_mput _ _ _ _ h.1, h.2⟩

theorem mPut_wf (m : Mem) (a : Nat) (l : List Byte) (h : Memory.wf m = true) : Memory.wf (mPut m a l) = true := by
  rw [Memory_wf_iff] at h ⊢
  exact ⟨mwf_mputs _ _ _ _ h.1, h.2⟩

theorem mPoison_wf (m : Mem) (k : Nat) (h : Memory.wf m = true) : Memory.wf (mPoison m k) = true := by
  rw [Memory_wf_iff] at h ⊢
  unfold mPoison
  generalize List.replicate 32 (0 : Byte) = l
  exact ⟨mwf_mputs _ _ _ _ h.1, mwf_mput _ _ k true h.2⟩

theorem mClean_wf (m : Mem) (k : Nat) (h : Memory.wf m = true) : Memory.wf (mClean m k) = true := by
  rw [Memory_wf_iff] at h ⊢
  exact ⟨h.1, mwf_mput _ _ k false h.2⟩

theorem mWriteHalf_wf (ue : List Nat) (m : Mem) (a : Nat) (l : List Byte) (k : Nat) (h : Memory.wf m = true) :
    Memory.wf (mWriteHalf ue m a l k) = true := by
  unfold mWriteHalf
  dsimp only
  split
  · exact mPut_wf _ _ _ (mClean_wf _ _ h)
  · split
    · exact mPoison_wf _ _ h
    · exact mPut_wf _ _ _ h

/-- A fold of operations that keep the form keeps it. -/
theorem foldl_wf {β : Type} (f : Mem → β → Mem) (hf : ∀ m b, Memory.wf m = true → Memory.wf (f m b) = true) :
    ∀ (l : List β) (m : Mem), Memory.wf m = true → Memory.wf (l.foldl f m) = true
  | [], _, h => h
  | b :: l, m, h => foldl_wf f hf l (f m b) (hf m b h)

theorem mWrite_wf (ue : List Nat) (m : Mem) (a : Nat) (l : List Byte) (h : Memory.wf m = true) :
    Memory.wf (mWrite ue m a l) = true :=
  foldl_wf _ (fun m k hm => mWriteHalf_wf ue m a l k hm) _ _ h

theorem mWriteBad_wf (m : Mem) (a n : Nat) (h : Memory.wf m = true) : Memory.wf (mWriteBad m a n) = true :=
  foldl_wf _ (fun m k hm => mPoison_wf m k hm) _ _ h

theorem mWriteMix_wf (ue : List Nat) (m : Mem) (a : Nat) (l : List Byte) (bad : Nat → Bool) (h : Memory.wf m = true) :
    Memory.wf (mWriteMix ue m a l bad) = true := by
  refine foldl_wf _ (fun m k hm => ?_) _ _ h
  split
  · exact mPoison_wf _ _ hm
  · exact mWriteHalf_wf _ _ _ _ _ hm

theorem mergeHalf_wf (u bad : Bool) (l : List (Nat × Byte)) (m : Mem) (b : Nat) (h : Memory.wf m = true) :
    Memory.wf (mergeHalf u bad l m b) = true := by
  have hp : ∀ m, Memory.wf m = true → Memory.wf (l.foldl (fun m x => mSet m (b + x.1 % 32) x.2) m) = true :=
    fun m hm => foldl_wf _ (fun m x hm => mSet_wf m _ _ hm) _ _ hm
  unfold mergeHalf
  dsimp only
  split
  · exact mPoison_wf _ _ h
  · split
    · exact hp _ (mClean_wf _ _ h)
    · split
      · exact mPoison_wf _ _ h
      · exact hp _ h

/-- One byte written reads back, and every other address reads as before. -/
theorem mByte_mSet (m : Mem) (a x : Nat) (b : Byte) : mByte (mSet m a b) x = if x = a then b else mByte m x :=
  mget_mput _ _ _ _ _

/-- Stored bytes read back, and every other byte reads as before. -/
theorem mPut_byte (l : List Byte) (m : Mem) (a x : Nat) :
    mByte (mPut m a l) x = if a ≤ x ∧ x < a + l.length then l.getD (x - a) 0 else mByte m x := by
  unfold mPut mByte
  simp only
  generalize m.cells = c
  induction l generalizing a c with
  | nil =>
    have h : ¬ (a ≤ x ∧ x < a + ([] : List Byte).length) := by simp only [List.length_nil]; omega
    rw [if_neg h]
    rfl
  | cons v l ih =>
    simp only [mputs, ih (a + 1), mget_mput, List.length_cons]
    by_cases h : x = a
    · subst h
      have h1 : ¬ (x + 1 ≤ x ∧ x < x + 1 + l.length) := by omega
      rw [if_neg h1, if_pos rfl, if_pos (by omega), Nat.sub_self, List.getD_cons_zero]
    · by_cases h2 : a + 1 ≤ x ∧ x < a + 1 + l.length
      · rw [if_pos h2, if_pos (by omega)]
        obtain ⟨k, hk⟩ : ∃ k, x - a = k + 1 := ⟨x - a - 1, by omega⟩
        rw [hk, List.getD_cons_succ]
        congr 1
        omega
      · rw [if_neg h2, if_neg h, if_neg (by omega)]

/-- A half stored as clean, or as poisoned, keeps the bytes of the other halves. -/
theorem mPoison_byte (m : Mem) (h x : Nat) (hx : x / 32 ≠ h) : mByte (mPoison m h) x = mByte m x := by
  have := mPut_byte (List.replicate 32 0) m (32 * h) x
  simp only [List.length_replicate] at this
  rw [if_neg (by omega)] at this
  exact this

theorem mPoison_bad (m : Mem) (h : Nat) : mBad (mPoison m h) (32 * h) = true := by
  unfold mBad mPoison
  rw [Nat.mul_div_cancel_left h (by decide)]
  exact mget_mput_same (fun _ => false) m.bad h true

/-- Bytes that lie in one half touch that half alone. -/
theorem halves_one (a n : Nat) (hn : 0 < n) (h : a % 32 + n ≤ 32) : halves a n = [a / 32] := by
  unfold halves
  have h1 : (a + n - 1) / 32 = a / 32 := by omega
  rw [if_neg (by omega), h1, Nat.add_sub_cancel_left]
  rfl

/-- A clean write within one half (03 R84). -/
theorem mWrite_one (ue : List Nat) (m : Mem) (a : Nat) (l : List Byte) (hn : 0 < l.length) (h : a % 32 + l.length ≤ 32) :
    mWrite ue m a l = mWriteHalf ue m a l (a / 32) := by
  unfold mWrite
  rw [halves_one a _ hn h]
  rfl

theorem halfPart_one (a : Nat) (l : List Byte) (h : a % 32 + l.length ≤ 32) : halfPart a l (a / 32) = (a, l) := by
  have h1 : max a (32 * (a / 32)) = a := by omega
  have h2 : min (a + l.length) (32 * (a / 32) + 32) = a + l.length := by omega
  simp [halfPart, h1, h2]

end Sys2Proof.Machine
end

