-- ==== Sys2Proof/Laws/Keeps.lean ====
section
/-! SUPPORT. What every command keeps, as one relation, and how it passes through the shapes that meanings are built of. The relation says that the queue
is untouched, and that the byte memories and the register map keep their canonical form. -/

namespace Sys2Proof.Machine

/-- `t` has the queue of `s`, and canonical memories and registers where `s` has them. -/
structure Keeps (s t : State) : Prop where
  pending : t.pending = s.pending
  dev : Memory.wf s.dev = true → Memory.wf t.dev = true
  host : Memory.wf s.host = true → Memory.wf t.host = true
  msix : Memory.wf s.msixTable = true → Memory.wf t.msixTable = true
  regs : mwf regReset s.regs = true → mwf regReset t.regs = true

/-- An outcome whose next state keeps. -/
def KeepsOut (s : State) (o : Host.Outcome State Fault Refusal) : Prop := ∀ t, o = .next t → Keeps s t

/-- A state that may be absent. -/
def KeepsOpt (s : State) (o : Option State) : Prop := ∀ t, o = some t → Keeps s t

/-- A state on either side. -/
def KeepsSum (s : State) (o : State ⊕ State) : Prop := (∀ t, o = .inl t → Keeps s t) ∧ (∀ t, o = .inr t → Keeps s t)

theorem keeps_refl (s : State) : Keeps s s := ⟨rfl, id, id, id, id⟩

theorem keeps_trans {a b c : State} (h : Keeps a b) (k : Keeps b c) : Keeps a c :=
  ⟨k.pending.trans h.pending, fun w => k.dev (h.dev w), fun w => k.host (h.host w), fun w => k.msix (h.msix w), fun w => k.regs (h.regs w)⟩

theorem keeps_ite {σ a b : State} {c : Prop} [Decidable c] (ha : c → Keeps σ a) (hb : ¬ c → Keeps σ b) :
    Keeps σ (if c then a else b) := by
  split
  · next h => exact ha h
  · next h => exact hb h

theorem keepsOut_ite {σ : State} {a b : Host.Outcome State Fault Refusal} {c : Prop} [Decidable c] (ha : c → KeepsOut σ a)
    (hb : ¬ c → KeepsOut σ b) : KeepsOut σ (if c then a else b) := by
  split
  · next h => exact ha h
  · next h => exact hb h

theorem keepsOut_next {σ t : State} (h : Keeps σ t) : KeepsOut σ (.next t) := by
  intro u hu
  cases hu
  exact h

theorem keepsOut_refused {σ : State} (r : Refusal) : KeepsOut σ (.refused r) := by
  intro u hu
  cases hu

theorem keeps_foldl {β : Type} {σ : State} {f : State → β → State} {s : State} {l : List β}
    (hf : ∀ t x, Keeps σ t → Keeps σ (f t x)) (h : Keeps σ s) : Keeps σ (l.foldl f s) := by
  induction l generalizing s with
  | nil => exact h
  | cons x l ih => exact ih (hf s x h)

theorem keeps_foldl_fst {β γ : Type} {σ : State} {f : State × γ → β → State × γ} {p : State × γ} {l : List β}
    (hf : ∀ q x, Keeps σ q.1 → Keeps σ (f q x).1) (h : Keeps σ p.1) : Keeps σ (l.foldl f p).1 := by
  induction l generalizing p with
  | nil => exact h
  | cons x l ih => exact ih (hf p x h)

theorem keeps_foldl_snd {β γ : Type} {σ : State} {f : γ × State → β → γ × State} {p : γ × State} {l : List β}
    (hf : ∀ q x, Keeps σ q.2 → Keeps σ (f q x).2) (h : Keeps σ p.2) : Keeps σ (l.foldl f p).2 := by
  induction l generalizing p with
  | nil => exact h
  | cons x l ih => exact ih (hf p x h)

theorem keepsOpt_some {σ t : State} (h : Keeps σ t) : KeepsOpt σ (some t) := by
  intro u hu
  cases hu
  exact h

theorem keepsOpt_none (σ : State) : KeepsOpt σ none := by
  intro u hu
  cases hu

theorem keepsOpt_ite {σ : State} {a b : Option State} {c : Prop} [Decidable c] (ha : c → KeepsOpt σ a)
    (hb : ¬ c → KeepsOpt σ b) : KeepsOpt σ (if c then a else b) := by
  split
  · next h => exact ha h
  · next h => exact hb h

theorem keepsSum_inl {σ t : State} (h : Keeps σ t) : KeepsSum σ (.inl t) := by
  constructor <;> intro u hu <;> cases hu
  exact h

theorem keepsSum_inr {σ t : State} (h : Keeps σ t) : KeepsSum σ (.inr t) := by
  constructor <;> intro u hu <;> cases hu
  exact h

theorem keepsSum_ite {σ : State} {a b : State ⊕ State} {c : Prop} [Decidable c] (ha : c → KeepsSum σ a)
    (hb : ¬ c → KeepsSum σ b) : KeepsSum σ (if c then a else b) := by
  split
  · next h => exact ha h
  · next h => exact hb h

theorem keepsOpt_elim {σ t : State} {o : Option State} (h : KeepsOpt σ o) (e : o = some t) : Keeps σ t := h t e

theorem keepsSum_left {σ t : State} {o : State ⊕ State} (h : KeepsSum σ o) (e : o = .inl t) : Keeps σ t := h.1 t e

theorem keepsSum_right {σ t : State} {o : State ⊕ State} (h : KeepsSum σ o) (e : o = .inr t) : Keeps σ t := h.2 t e

theorem keeps_fst {γ : Type} {σ t : State} {p : State × γ} {x : γ} (e : p = (t, x)) (h : Keeps σ p.1) : Keeps σ t := by
  cases e
  exact h

/-- A record update that leaves the queue. -/
theorem keeps_mk {σ t : State} {cc_ : Nat} {trem_ : Nat} {staging_ : SMap (Option Nat)} {written_ : List Nat} {raised_ : List (Nat × Nat × Nat)} {sets_ : SMap TSet} {checking_ : Option Nat} {hostSets_ : List Nat} {job_ : Option Job} {regions_ : SMap Region} {burins_ : SMap Burin} {hwChip_ : HwRec} {hwRegions_ : SMap HwRec} {trace_ : Trace} {alarms_ : SMap AlarmX} {wqs_ : SMap Wq} {waitRecs_ : List WaitRec} {ports_ : SMap Port} {root_ : Root} {witness_ : List Witness} {witSeq_ : SMap Nat} {witLost_ : Nat} {drainWit_ : List (Nat × Nat × Bool)} {saved_ : Option Saved} {resume_ : Option Saved} {ctxs_ : SMap Ctx} {bellows_ : Bellows} {part_ : Part} {out_ : List Out} {free_ : Nat}
    {rg : SMap Nat} {dv ho ms : Mem} (h : Keeps σ t)
    (hr : mwf regReset t.regs = true → mwf regReset rg = true) (hd : Memory.wf t.dev = true → Memory.wf dv = true)
    (hh : Memory.wf t.host = true → Memory.wf ho = true) (hm : Memory.wf t.msixTable = true → Memory.wf ms = true) :
    Keeps σ (State.mk cc_ trem_ rg staging_ written_ raised_ sets_ checking_ hostSets_ dv ho ms job_ regions_ burins_ hwChip_ hwRegions_ trace_ alarms_ wqs_ waitRecs_ ports_ root_ witness_ witSeq_ witLost_ drainWit_ saved_ resume_ ctxs_ bellows_ part_ t.pending out_ free_) :=
  ⟨h.pending, fun w => hd (h.dev w), fun w => hh (h.host w), fun w => hm (h.msix w), fun w => hr (h.regs w)⟩

end Sys2Proof.Machine
end

