-- ==== Sys2Proof/Laws/KeepsOps.lean ====
section
/-! SUPPORT. What every operation of Machine/Ops.lean keeps. -/

namespace Sys2Proof.Machine

theorem wr_keeps {σ : State} (s : State) (k : Nat) (v : Nat) (hs : Keeps σ s) :
    Keeps σ (wr s k v) := by
  unfold wr
  iterate 60 all_goals try first
    | with_reducible assumption | with_reducible apply keeps_ite | with_reducible apply keeps_foldl | with_reducible apply keeps_foldl_fst | with_reducible apply keeps_foldl_snd
    | intro _ | split | dsimp only | (refine keeps_mk ?_ ?_ ?_ ?_ ?_ <;> first | exact id | skip) | with_reducible apply mwf_mput

theorem wrb_keeps {σ : State} (s : State) (k : Nat) (b : Bool) (hs : Keeps σ s) :
    Keeps σ (wrb s k b) := by
  unfold wrb
  iterate 60 all_goals try first
    | with_reducible assumption | with_reducible apply wr_keeps | with_reducible apply keeps_ite | with_reducible apply keeps_foldl | with_reducible apply keeps_foldl_fst | with_reducible apply keeps_foldl_snd
    | intro _ | split | dsimp only | (refine keeps_mk ?_ ?_ ?_ ?_ ?_ <;> first | exact id | skip)

theorem bump_keeps {σ : State} (s : State) (k : Nat) (w : Nat) (hs : Keeps σ s) :
    Keeps σ (bump s k w) := by
  unfold bump
  iterate 60 all_goals try first
    | with_reducible assumption | with_reducible apply wr_keeps | with_reducible apply keeps_ite | with_reducible apply keeps_foldl | with_reducible apply keeps_foldl_fst | with_reducible apply keeps_foldl_snd
    | intro _ | split | dsimp only | (refine keeps_mk ?_ ?_ ?_ ?_ ?_ <;> first | exact id | skip)

theorem setBit_keeps {σ : State} (s : State) (k : Nat) (i : Nat) (hs : Keeps σ s) :
    Keeps σ (setBit s k i) := by
  unfold setBit
  iterate 60 all_goals try first
    | with_reducible assumption | with_reducible apply wr_keeps | with_reducible apply keeps_ite | with_reducible apply keeps_foldl | with_reducible apply keeps_foldl_fst | with_reducible apply keeps_foldl_snd
    | intro _ | split | dsimp only | (refine keeps_mk ?_ ?_ ?_ ?_ ?_ <;> first | exact id | skip)

theorem markRaised_keeps {σ : State} (s : State) (k m : Nat) (hs : Keeps σ s) : Keeps σ (markRaised s k m) := by
  unfold markRaised
  iterate 60 all_goals try first
    | with_reducible assumption | with_reducible apply wr_keeps | with_reducible apply setBit_keeps
    | intro _ | split | dsimp only | (refine keeps_mk ?_ ?_ ?_ ?_ ?_ <;> first | exact id | skip)

theorem raise_keeps {σ : State} (s : State) (k : Nat) (hs : Keeps σ s) : Keeps σ (raise s k) := by
  unfold raise
  exact markRaised_keeps _ _ _ (wr_keeps _ _ _ hs)

theorem raiseBit_keeps {σ : State} (s : State) (k i : Nat) (hs : Keeps σ s) : Keeps σ (raiseBit s k i) := by
  unfold raiseBit
  exact markRaised_keeps _ _ _ (setBit_keeps _ _ _ hs)

theorem clearBit_keeps {σ : State} (s : State) (k : Nat) (i : Nat) (hs : Keeps σ s) :
    Keeps σ (clearBit s k i) := by
  unfold clearBit
  iterate 60 all_goals try first
    | with_reducible assumption | with_reducible apply wr_keeps | with_reducible apply raise_keeps | with_reducible apply raiseBit_keeps | with_reducible apply markRaised_keeps | with_reducible apply keeps_ite | with_reducible apply keeps_foldl | with_reducible apply keeps_foldl_fst | with_reducible apply keeps_foldl_snd
    | intro _ | split | dsimp only | (refine keeps_mk ?_ ?_ ?_ ?_ ?_ <;> first | exact id | skip)

theorem modRegion_keeps {σ : State} (s : State) (r : Nat) (f : Region → Region) (hs : Keeps σ s) :
    Keeps σ (modRegion s r f) := by
  unfold modRegion
  iterate 60 all_goals try first
    | with_reducible assumption | with_reducible apply raise_keeps | with_reducible apply raiseBit_keeps | with_reducible apply markRaised_keeps | with_reducible apply keeps_ite | with_reducible apply keeps_foldl | with_reducible apply keeps_foldl_fst | with_reducible apply keeps_foldl_snd
    | intro _ | split | dsimp only | (refine keeps_mk ?_ ?_ ?_ ?_ ?_ <;> first | exact id | skip)

theorem putBurin_keeps {σ : State} (s : State) (b : Nat) (u : Burin) (hs : Keeps σ s) :
    Keeps σ (putBurin s b u) := by
  unfold putBurin
  iterate 60 all_goals try first
    | with_reducible assumption | with_reducible apply raise_keeps | with_reducible apply raiseBit_keeps | with_reducible apply markRaised_keeps | with_reducible apply keeps_ite | with_reducible apply keeps_foldl | with_reducible apply keeps_foldl_fst | with_reducible apply keeps_foldl_snd
    | intro _ | split | dsimp only | (refine keeps_mk ?_ ?_ ?_ ?_ ?_ <;> first | exact id | skip)

theorem modCtx_keeps {σ : State} (s : State) (c : Nat) (f : Ctx → Ctx) (hs : Keeps σ s) :
    Keeps σ (modCtx s c f) := by
  unfold modCtx
  iterate 60 all_goals try first
    | with_reducible assumption | with_reducible apply raise_keeps | with_reducible apply raiseBit_keeps | with_reducible apply markRaised_keeps | with_reducible apply keeps_ite | with_reducible apply keeps_foldl | with_reducible apply keeps_foldl_fst | with_reducible apply keeps_foldl_snd
    | intro _ | split | dsimp only | (refine keeps_mk ?_ ?_ ?_ ?_ ?_ <;> first | exact id | skip)

theorem modPort_keeps {σ : State} (s : State) (p : Nat) (f : Port → Port) (hs : Keeps σ s) :
    Keeps σ (modPort s p f) := by
  unfold modPort
  iterate 60 all_goals try first
    | with_reducible assumption | with_reducible apply raise_keeps | with_reducible apply raiseBit_keeps | with_reducible apply markRaised_keeps | with_reducible apply keeps_ite | with_reducible apply keeps_foldl | with_reducible apply keeps_foldl_fst | with_reducible apply keeps_foldl_snd
    | intro _ | split | dsimp only | (refine keeps_mk ?_ ?_ ?_ ?_ ?_ <;> first | exact id | skip)

theorem modWq_keeps {σ : State} (s : State) (q : Nat) (f : Wq → Wq) (hs : Keeps σ s) :
    Keeps σ (modWq s q f) := by
  unfold modWq
  iterate 60 all_goals try first
    | with_reducible assumption | with_reducible apply raise_keeps | with_reducible apply raiseBit_keeps | with_reducible apply markRaised_keeps | with_reducible apply keeps_ite | with_reducible apply keeps_foldl | with_reducible apply keeps_foldl_fst | with_reducible apply keeps_foldl_snd
    | intro _ | split | dsimp only | (refine keeps_mk ?_ ?_ ?_ ?_ ?_ <;> first | exact id | skip)

theorem modHw_keeps {σ : State} (s : State) (n : Nat) (f : HwRec → HwRec) (hs : Keeps σ s) :
    Keeps σ (modHw s n f) := by
  unfold modHw
  iterate 60 all_goals try first
    | with_reducible assumption | with_reducible apply raise_keeps | with_reducible apply raiseBit_keeps | with_reducible apply markRaised_keeps | with_reducible apply keeps_ite | with_reducible apply keeps_foldl | with_reducible apply keeps_foldl_fst | with_reducible apply keeps_foldl_snd
    | intro _ | split | dsimp only | (refine keeps_mk ?_ ?_ ?_ ?_ ?_ <;> first | exact id | skip)

theorem emit_keeps {σ : State} (s : State) (o : Out) (hs : Keeps σ s) :
    Keeps σ (emit s o) := by
  unfold emit
  iterate 60 all_goals try first
    | with_reducible assumption | with_reducible apply raise_keeps | with_reducible apply raiseBit_keeps | with_reducible apply markRaised_keeps | with_reducible apply keeps_ite | with_reducible apply keeps_foldl | with_reducible apply keeps_foldl_fst | with_reducible apply keeps_foldl_snd
    | intro _ | split | dsimp only | (refine keeps_mk ?_ ?_ ?_ ?_ ?_ <;> first | exact id | skip)

theorem takeFree_keeps {σ : State} (s : State) (w : Nat) (hs : Keeps σ s) :
    Keeps σ (takeFree s w).2 := by
  unfold takeFree
  iterate 60 all_goals try first
    | with_reducible assumption | with_reducible apply raise_keeps | with_reducible apply raiseBit_keeps | with_reducible apply markRaised_keeps | with_reducible apply keeps_ite | with_reducible apply keeps_foldl | with_reducible apply keeps_foldl_fst | with_reducible apply keeps_foldl_snd
    | intro _ | split | dsimp only | (refine keeps_mk ?_ ?_ ?_ ?_ ?_ <;> first | exact id | skip)

theorem modJob_keeps {σ : State} (s : State) (f : Job → Job) (hs : Keeps σ s) :
    Keeps σ (modJob s f) := by
  unfold modJob
  iterate 60 all_goals try first
    | with_reducible assumption | with_reducible apply raise_keeps | with_reducible apply raiseBit_keeps | with_reducible apply markRaised_keeps | with_reducible apply keeps_ite | with_reducible apply keeps_foldl | with_reducible apply keeps_foldl_fst | with_reducible apply keeps_foldl_snd
    | intro _ | split | dsimp only | (refine keeps_mk ?_ ?_ ?_ ?_ ?_ <;> first | exact id | skip)

theorem devHalf_keeps {σ : State} (ue : List Nat) (a : Nat) (l : List Byte) (bad : Nat → Bool) (s : State) (hh : Nat) (hs : Keeps σ s) :
    Keeps σ (devHalf ue a l bad s hh) := by
  unfold devHalf
  split
  · dsimp only
    split
    · exact hs
    · refine keeps_mk hs id id (fun h => ?_) id
      split
      · exact mPoison_wf _ _ h
      · exact mWriteHalf_wf _ _ _ _ _ h
  · refine keeps_mk hs id (fun h => ?_) id id
    split
    · exact mPoison_wf _ _ h
    · exact mWriteHalf_wf _ _ _ _ _ h

theorem devWrite_keeps {σ : State} (s : State) (ue : List Nat) (a : Nat) (l : List Byte) (bad : Nat → Bool) (hs : Keeps σ s) :
    Keeps σ (devWrite s ue a l bad) := by
  unfold devWrite
  exact keeps_foldl (fun t x ht => devHalf_keeps _ _ _ _ t x ht) hs

theorem devPut_keeps {σ : State} (s : State) (a : Nat) (l : List Byte) (hs : Keeps σ s) :
    Keeps σ (devPut s a l) := by
  unfold devPut
  iterate 60 all_goals try first
    | with_reducible assumption | with_reducible apply devWrite_keeps | with_reducible apply raise_keeps | with_reducible apply raiseBit_keeps | with_reducible apply markRaised_keeps | with_reducible apply keeps_ite | with_reducible apply keeps_foldl | with_reducible apply keeps_foldl_fst | with_reducible apply keeps_foldl_snd
    | intro _ | split | dsimp only | (refine keeps_mk ?_ ?_ ?_ ?_ ?_ <;> first | exact id | skip) | with_reducible apply mPut_wf

theorem alarmFire_keeps {σ : State} (s : State) (k : Nat) (hs : Keeps σ s) :
    Keeps σ (alarmFire s k) := by
  unfold alarmFire
  iterate 60 all_goals try first
    | with_reducible assumption | with_reducible apply wr_keeps | with_reducible apply emit_keeps | with_reducible apply raise_keeps | with_reducible apply raiseBit_keeps | with_reducible apply markRaised_keeps | with_reducible apply keeps_ite | with_reducible apply keeps_foldl | with_reducible apply keeps_foldl_fst | with_reducible apply keeps_foldl_snd
    | intro _ | split | dsimp only | (refine keeps_mk ?_ ?_ ?_ ?_ ?_ <;> first | exact id | skip)

theorem alarmRaw_keeps {σ : State} (s : State) (k : Nat) (hs : Keeps σ s) :
    Keeps σ (alarmRaw s k) := by
  unfold alarmRaw
  iterate 60 all_goals try first
    | with_reducible assumption | with_reducible apply alarmFire_keeps | with_reducible apply wr_keeps | with_reducible apply raise_keeps | with_reducible apply raiseBit_keeps | with_reducible apply markRaised_keeps | with_reducible apply keeps_ite | with_reducible apply keeps_foldl | with_reducible apply keeps_foldl_fst | with_reducible apply keeps_foldl_snd
    | intro _ | split | dsimp only | (refine keeps_mk ?_ ?_ ?_ ?_ ?_ <;> first | exact id | skip)

theorem tallyRaw_keeps {σ : State} (s : State) (c : Nat) (n : Nat) (hs : Keeps σ s) :
    Keeps σ (tallyRaw s c n).1 := by
  unfold tallyRaw
  iterate 60 all_goals try first
    | with_reducible assumption | with_reducible apply wr_keeps | with_reducible apply raise_keeps | with_reducible apply raiseBit_keeps | with_reducible apply markRaised_keeps | with_reducible apply keeps_ite | with_reducible apply keeps_foldl | with_reducible apply keeps_foldl_fst | with_reducible apply keeps_foldl_snd
    | intro _ | split | dsimp only | (refine keeps_mk ?_ ?_ ?_ ?_ ?_ <;> first | exact id | skip)

theorem alarmEvent_keeps {σ : State} (s : State) (k : Nat) (hs : Keeps σ s) :
    Keeps σ (alarmEvent s k) := by
  unfold alarmEvent
  iterate 60 all_goals try first
    | with_reducible assumption | with_reducible apply alarmRaw_keeps | with_reducible refine keeps_fst (by assumption) (tallyRaw_keeps _ _ _ ?_) | with_reducible apply tallyRaw_keeps | with_reducible apply raise_keeps | with_reducible apply raiseBit_keeps | with_reducible apply markRaised_keeps | with_reducible apply keeps_ite | with_reducible apply keeps_foldl | with_reducible apply keeps_foldl_fst | with_reducible apply keeps_foldl_snd
    | intro _ | split | dsimp only | (refine keeps_mk ?_ ?_ ?_ ?_ ?_ <;> first | exact id | skip)

theorem tallyAdd_keeps {σ : State} (s : State) (c : Nat) (n : Nat) (hs : Keeps σ s) :
    Keeps σ (tallyAdd s c n) := by
  unfold tallyAdd
  iterate 60 all_goals try first
    | with_reducible assumption | with_reducible refine keeps_fst (by assumption) (tallyRaw_keeps _ _ _ ?_) | with_reducible apply tallyRaw_keeps | with_reducible apply alarmEvent_keeps | with_reducible apply raise_keeps | with_reducible apply raiseBit_keeps | with_reducible apply markRaised_keeps | with_reducible apply keeps_ite | with_reducible apply keeps_foldl | with_reducible apply keeps_foldl_fst | with_reducible apply keeps_foldl_snd
    | intro _ | split | dsimp only | (refine keeps_mk ?_ ?_ ?_ ?_ ?_ <;> first | exact id | skip)

theorem diverge_keeps {σ : State} (s : State) (c : Nat) (n : Nat) (hs : Keeps σ s) :
    Keeps σ (diverge s c n) := by
  unfold diverge
  iterate 60 all_goals try first
    | with_reducible assumption | with_reducible apply tallyAdd_keeps | with_reducible apply raise_keeps | with_reducible apply raiseBit_keeps | with_reducible apply markRaised_keeps | with_reducible apply keeps_ite | with_reducible apply keeps_foldl | with_reducible apply keeps_foldl_fst | with_reducible apply keeps_foldl_snd
    | intro _ | split | dsimp only | (refine keeps_mk ?_ ?_ ?_ ?_ ?_ <;> first | exact id | skip)

theorem statusAlarm_keeps {σ : State} (s : State) (key : Nat) (k : Nat) (hs : Keeps σ s) :
    Keeps σ (statusAlarm s key k) := by
  unfold statusAlarm
  iterate 60 all_goals try first
    | with_reducible assumption | with_reducible apply alarmEvent_keeps | with_reducible apply wr_keeps | with_reducible apply raise_keeps | with_reducible apply raiseBit_keeps | with_reducible apply markRaised_keeps | with_reducible apply keeps_ite | with_reducible apply keeps_foldl | with_reducible apply keeps_foldl_fst | with_reducible apply keeps_foldl_snd
    | intro _ | split | dsimp only | (refine keeps_mk ?_ ?_ ?_ ?_ ?_ <;> first | exact id | skip)

theorem trace_keeps {σ : State} (s : State) (cls : Nat) (event : Nat) (source : Nat) (data : List Byte) (hs : Keeps σ s) :
    Keeps σ (trace s cls event source data) := by
  unfold trace
  iterate 60 all_goals try first
    | with_reducible assumption | with_reducible apply tallyAdd_keeps | with_reducible apply raise_keeps | with_reducible apply raiseBit_keeps | with_reducible apply markRaised_keeps | with_reducible apply keeps_ite | with_reducible apply keeps_foldl | with_reducible apply keeps_foldl_fst | with_reducible apply keeps_foldl_snd
    | intro _ | split | dsimp only | (refine keeps_mk ?_ ?_ ?_ ?_ ?_ <;> first | exact id | skip)

theorem hwPut_keeps {σ : State} (s : State) (n : Nat) (e : HwQ) (hs : Keeps σ s) :
    Keeps σ (hwPut s n e) := by
  unfold hwPut
  iterate 60 all_goals try first
    | with_reducible assumption | with_reducible apply modHw_keeps | with_reducible apply alarmEvent_keeps | with_reducible apply raise_keeps | with_reducible apply raiseBit_keeps | with_reducible apply markRaised_keeps | with_reducible apply keeps_ite | with_reducible apply keeps_foldl | with_reducible apply keeps_foldl_fst | with_reducible apply keeps_foldl_snd
    | intro _ | split | dsimp only | (refine keeps_mk ?_ ?_ ?_ ?_ ?_ <;> first | exact id | skip)

theorem hwCopy_keeps {σ : State} (s : State) (q : HwQ) (hs : Keeps σ s) :
    Keeps σ (hwCopy s q) := by
  unfold hwCopy
  iterate 60 all_goals try first
    | with_reducible assumption | with_reducible apply hwPut_keeps | with_reducible apply modHw_keeps | with_reducible apply raise_keeps | with_reducible apply raiseBit_keeps | with_reducible apply markRaised_keeps | with_reducible apply keeps_ite | with_reducible apply keeps_foldl | with_reducible apply keeps_foldl_fst | with_reducible apply keeps_foldl_snd
    | intro _ | split | dsimp only | (refine keeps_mk ?_ ?_ ?_ ?_ ?_ <;> first | exact id | skip)

theorem hwRecord_keeps {σ : State} (s : State) (first : Bool) (e : HwEntry) (hs : Keeps σ s) :
    Keeps σ (hwRecord s first e) := by
  unfold hwRecord
  iterate 60 all_goals try first
    | with_reducible assumption | with_reducible apply hwPut_keeps | with_reducible apply hwCopy_keeps | with_reducible apply trace_keeps | with_reducible apply raise_keeps | with_reducible apply raiseBit_keeps | with_reducible apply markRaised_keeps | with_reducible apply keeps_ite | with_reducible apply keeps_foldl | with_reducible apply keeps_foldl_fst | with_reducible apply keeps_foldl_snd
    | intro _ | split | dsimp only | (refine keeps_mk ?_ ?_ ?_ ?_ ?_ <;> first | exact id | skip)

theorem hwFreeze_keeps {σ : State} (s : State) (n : Nat) (hs : Keeps σ s) :
    Keeps σ (hwFreeze s n) := by
  unfold hwFreeze
  iterate 60 all_goals try first
    | with_reducible assumption | with_reducible apply modHw_keeps | with_reducible apply raise_keeps | with_reducible apply raiseBit_keeps | with_reducible apply markRaised_keeps | with_reducible apply keeps_ite | with_reducible apply keeps_foldl | with_reducible apply keeps_foldl_fst | with_reducible apply keeps_foldl_snd
    | intro _ | split | dsimp only | (refine keeps_mk ?_ ?_ ?_ ?_ ?_ <;> first | exact id | skip)

theorem hwFreezeAll_keeps {σ : State} (s : State) (hs : Keeps σ s) :
    Keeps σ (hwFreezeAll s) := by
  unfold hwFreezeAll
  iterate 60 all_goals try first
    | with_reducible assumption | with_reducible apply hwFreeze_keeps | with_reducible apply raise_keeps | with_reducible apply raiseBit_keeps | with_reducible apply markRaised_keeps | with_reducible apply keeps_ite | with_reducible apply keeps_foldl | with_reducible apply keeps_foldl_fst | with_reducible apply keeps_foldl_snd
    | intro _ | split | dsimp only | (refine keeps_mk ?_ ?_ ?_ ?_ ?_ <;> first | exact id | skip)

theorem sideSend_keeps {σ : State} (s : State) (p : Nat) (m : List Byte) (hs : Keeps σ s) :
    Keeps σ (sideSend s p m) := by
  unfold sideSend
  iterate 60 all_goals try first
    | with_reducible assumption | with_reducible apply modPort_keeps | with_reducible apply raise_keeps | with_reducible apply raiseBit_keeps | with_reducible apply markRaised_keeps | with_reducible apply keeps_ite | with_reducible apply keeps_foldl | with_reducible apply keeps_foldl_fst | with_reducible apply keeps_foldl_snd
    | intro _ | split | dsimp only | (refine keeps_mk ?_ ?_ ?_ ?_ ?_ <;> first | exact id | skip)

theorem sendAbort_keeps {σ : State} (s : State) (c : Nat) (hs : Keeps σ s) :
    Keeps σ (sendAbort s c) := by
  unfold sendAbort
  iterate 60 all_goals try first
    | with_reducible assumption | with_reducible apply sideSend_keeps | with_reducible apply raise_keeps | with_reducible apply raiseBit_keeps | with_reducible apply markRaised_keeps | with_reducible apply keeps_ite | with_reducible apply keeps_foldl | with_reducible apply keeps_foldl_fst | with_reducible apply keeps_foldl_snd
    | intro _ | split | dsimp only | (refine keeps_mk ?_ ?_ ?_ ?_ ?_ <;> first | exact id | skip)

end Sys2Proof.Machine
end

