-- ==== Sys2Proof/Laws/KeepsFlags.lean ====
section
/-! SUPPORT. What every operation of Machine/Flags.lean keeps. -/

namespace Sys2Proof.Machine

theorem setStickies_keeps {σ : State} (s : State) (c : Option Nat) (m : Nat) (hs : Keeps σ s) :
    Keeps σ (setStickies s c m) := by
  unfold setStickies
  iterate 60 all_goals try first
    | with_reducible assumption | with_reducible apply modJob_keeps | with_reducible apply wr_keeps | with_reducible apply trace_keeps | with_reducible apply raise_keeps | with_reducible apply raiseBit_keeps | with_reducible apply markRaised_keeps | with_reducible apply keeps_ite | with_reducible apply keeps_foldl | with_reducible apply keeps_foldl_fst | with_reducible apply keeps_foldl_snd
    | intro _ | split | dsimp only | (refine keeps_mk ?_ ?_ ?_ ?_ ?_ <;> first | exact id | skip)

end Sys2Proof.Machine
end

