-- ==== Sys2Proof/Laws/KeepsQueue.lean ====
section
/-! SUPPORT. What every operation of Machine/Queue.lean keeps. -/

namespace Sys2Proof.Machine

theorem cqWrite_keeps {σ : State} (s : State) (q : Nat) (b : List Byte) (irq : Option Nat) (hs : Keeps σ s) :
    Keeps σ (cqWrite s q b irq) := by
  unfold cqWrite
  iterate 60 all_goals try first
    | with_reducible assumption | with_reducible apply wr_keeps | with_reducible apply emit_keeps | with_reducible apply raise_keeps | with_reducible apply raiseBit_keeps | with_reducible apply markRaised_keeps | with_reducible apply keeps_ite | with_reducible apply keeps_foldl | with_reducible apply keeps_foldl_fst | with_reducible apply keeps_foldl_snd
    | intro _ | split | dsimp only | (refine keeps_mk ?_ ?_ ?_ ?_ ?_ <;> first | exact id | skip) | with_reducible apply mSet_wf | with_reducible apply mPut_wf | with_reducible apply mWrite_wf | with_reducible apply mWriteMix_wf | with_reducible apply mWriteBad_wf

theorem cqPost_keeps {σ : State} (s : State) (q : Nat) (b : List Byte) (irq : Option Nat) (hs : Keeps σ s) :
    Keeps σ (cqPost s q b irq) := by
  unfold cqPost
  iterate 60 all_goals try first
    | with_reducible assumption | with_reducible apply cqWrite_keeps | with_reducible apply raise_keeps | with_reducible apply raiseBit_keeps | with_reducible apply markRaised_keeps | with_reducible apply keeps_ite | with_reducible apply keeps_foldl | with_reducible apply keeps_foldl_fst | with_reducible apply keeps_foldl_snd
    | intro _ | split | dsimp only | (refine keeps_mk ?_ ?_ ?_ ?_ ?_ <;> first | exact id | skip)

theorem dropEntry_keeps {σ : State} (s : State) (e : Entry) (hs : Keeps σ s) :
    Keeps σ (dropEntry s e) := by
  unfold dropEntry
  iterate 60 all_goals try first
    | with_reducible assumption | with_reducible apply modWq_keeps | with_reducible apply raise_keeps | with_reducible apply raiseBit_keeps | with_reducible apply markRaised_keeps | with_reducible apply keeps_ite | with_reducible apply keeps_foldl | with_reducible apply keeps_foldl_fst | with_reducible apply keeps_foldl_snd
    | intro _ | split | dsimp only | (refine keeps_mk ?_ ?_ ?_ ?_ ?_ <;> first | exact id | skip)

theorem completeEntry_keeps {σ : State} (s : State) (e : Entry) (r : RecFields) (hs : Keeps σ s) :
    Keeps σ (completeEntry s e r) := by
  unfold completeEntry
  iterate 60 all_goals try first
    | with_reducible assumption | with_reducible apply cqPost_keeps | with_reducible apply dropEntry_keeps | with_reducible apply raise_keeps | with_reducible apply raiseBit_keeps | with_reducible apply markRaised_keeps | with_reducible apply keeps_ite | with_reducible apply keeps_foldl | with_reducible apply keeps_foldl_fst | with_reducible apply keeps_foldl_snd
    | intro _ | split | dsimp only | (refine keeps_mk ?_ ?_ ?_ ?_ ?_ <;> first | exact id | skip)

theorem completeDone_keeps {σ : State} (s : State) (e : Entry) (hs : Keeps σ s) :
    Keeps σ (completeDone s e) := by
  unfold completeDone
  iterate 60 all_goals try first
    | with_reducible assumption | with_reducible apply completeEntry_keeps | with_reducible apply raise_keeps | with_reducible apply raiseBit_keeps | with_reducible apply markRaised_keeps | with_reducible apply keeps_ite | with_reducible apply keeps_foldl | with_reducible apply keeps_foldl_fst | with_reducible apply keeps_foldl_snd
    | intro _ | split | dsimp only | (refine keeps_mk ?_ ?_ ?_ ?_ ?_ <;> first | exact id | skip)

theorem completeRefused_keeps {σ : State} (s : State) (e : Entry) (code : Nat) (hs : Keeps σ s) :
    Keeps σ (completeRefused s e code) := by
  unfold completeRefused
  iterate 60 all_goals try first
    | with_reducible assumption | with_reducible apply completeEntry_keeps | with_reducible apply raise_keeps | with_reducible apply raiseBit_keeps | with_reducible apply markRaised_keeps | with_reducible apply keeps_ite | with_reducible apply keeps_foldl | with_reducible apply keeps_foldl_fst | with_reducible apply keeps_foldl_snd
    | intro _ | split | dsimp only | (refine keeps_mk ?_ ?_ ?_ ?_ ?_ <;> first | exact id | skip)

theorem putSlot_keeps {σ : State} (s : State) (q : Nat) (i : Nat) (x : Slot) (hs : Keeps σ s) :
    Keeps σ (putSlot s q i x) := by
  unfold putSlot
  iterate 60 all_goals try first
    | with_reducible assumption | with_reducible apply modWq_keeps | with_reducible apply raise_keeps | with_reducible apply raiseBit_keeps | with_reducible apply markRaised_keeps | with_reducible apply keeps_ite | with_reducible apply keeps_foldl | with_reducible apply keeps_foldl_fst | with_reducible apply keeps_foldl_snd
    | intro _ | split | dsimp only | (refine keeps_mk ?_ ?_ ?_ ?_ ?_ <;> first | exact id | skip)

theorem freePending_keeps {σ : State} (s : State) (q : Nat) (hs : Keeps σ s) :
    Keeps σ (freePending s q) := by
  unfold freePending
  iterate 60 all_goals try first
    | with_reducible assumption | with_reducible apply modWq_keeps | with_reducible apply raise_keeps | with_reducible apply raiseBit_keeps | with_reducible apply markRaised_keeps | with_reducible apply keeps_ite | with_reducible apply keeps_foldl | with_reducible apply keeps_foldl_fst | with_reducible apply keeps_foldl_snd
    | intro _ | split | dsimp only | (refine keeps_mk ?_ ?_ ?_ ?_ ?_ <;> first | exact id | skip)

end Sys2Proof.Machine
end

