-- ==== Sys2Proof/Laws/KeepsFaults.lean ====
section
/-! SUPPORT. What every operation of Machine/Faults.lean keeps. -/

namespace Sys2Proof.Machine

theorem holdDrains_keeps {σ : State} (s : State) (r : Nat) (hs : Keeps σ s) :
    Keeps σ (holdDrains s r) := by
  unfold holdDrains
  iterate 60 all_goals try first
    | with_reducible assumption | with_reducible apply modCtx_keeps | with_reducible apply raise_keeps | with_reducible apply raiseBit_keeps | with_reducible apply markRaised_keeps | with_reducible apply keeps_ite | with_reducible apply keeps_foldl | with_reducible apply keeps_foldl_fst | with_reducible apply keeps_foldl_snd
    | intro _ | split | dsimp only | (refine keeps_mk ?_ ?_ ?_ ?_ ?_ <;> first | exact id | skip)

theorem stopDrains_keeps {σ : State} (s : State) (hs : Keeps σ s) :
    Keeps σ (stopDrains s) := by
  unfold stopDrains
  iterate 60 all_goals try first
    | with_reducible assumption | with_reducible apply modCtx_keeps | with_reducible apply raise_keeps | with_reducible apply raiseBit_keeps | with_reducible apply markRaised_keeps | with_reducible apply keeps_ite | with_reducible apply keeps_foldl | with_reducible apply keeps_foldl_fst | with_reducible apply keeps_foldl_snd
    | intro _ | split | dsimp only | (refine keeps_mk ?_ ?_ ?_ ?_ ?_ <;> first | exact id | skip)

theorem stopRegions_keeps {σ : State} (s : State) (hs : Keeps σ s) :
    Keeps σ (stopRegions s) := by
  unfold stopRegions
  iterate 60 all_goals try first
    | with_reducible assumption | with_reducible apply raise_keeps | with_reducible apply raiseBit_keeps | with_reducible apply markRaised_keeps | with_reducible apply keeps_ite | with_reducible apply keeps_foldl | with_reducible apply keeps_foldl_fst | with_reducible apply keeps_foldl_snd
    | intro _ | split | dsimp only | (refine keeps_mk ?_ ?_ ?_ ?_ ?_ <;> first | exact id | skip)

theorem faultRecord_keeps {σ : State} (s : State) (code : Nat) (q : Nat) (hs : Keeps σ s) :
    Keeps σ (faultRecord s code q) := by
  unfold faultRecord
  iterate 60 all_goals try first
    | with_reducible assumption | with_reducible apply freePending_keeps | with_reducible apply modWq_keeps | with_reducible apply cqPost_keeps | with_reducible apply raise_keeps | with_reducible apply raiseBit_keeps | with_reducible apply markRaised_keeps | with_reducible apply keeps_ite | with_reducible apply keeps_foldl | with_reducible apply keeps_foldl_fst | with_reducible apply keeps_foldl_snd
    | intro _ | split | dsimp only | (refine keeps_mk ?_ ?_ ?_ ?_ ?_ <;> first | exact id | skip)

theorem faultRecords_keeps {σ : State} (s : State) (code : Nat) (hs : Keeps σ s) :
    Keeps σ (faultRecords s code) := by
  unfold faultRecords
  iterate 60 all_goals try first
    | with_reducible assumption | with_reducible apply faultRecord_keeps | with_reducible apply raise_keeps | with_reducible apply raiseBit_keeps | with_reducible apply markRaised_keeps | with_reducible apply keeps_ite | with_reducible apply keeps_foldl | with_reducible apply keeps_foldl_fst | with_reducible apply keeps_foldl_snd
    | intro _ | split | dsimp only | (refine keeps_mk ?_ ?_ ?_ ?_ ?_ <;> first | exact id | skip)

theorem dropItems_keeps {σ : State} (s : State) (hs : Keeps σ s) :
    Keeps σ (dropItems s) := by
  unfold dropItems
  iterate 60 all_goals try first
    | with_reducible assumption | with_reducible apply raise_keeps | with_reducible apply raiseBit_keeps | with_reducible apply markRaised_keeps | with_reducible apply keeps_ite | with_reducible apply keeps_foldl | with_reducible apply keeps_foldl_fst | with_reducible apply keeps_foldl_snd
    | intro _ | split | dsimp only | (refine keeps_mk ?_ ?_ ?_ ?_ ?_ <;> first | exact id | skip)

theorem endFaulted_keeps {σ : State} (s : State) (code : Nat) (hs : Keeps σ s) :
    Keeps σ (endFaulted s code) := by
  unfold endFaulted
  iterate 60 all_goals try first
    | with_reducible assumption | with_reducible apply stopRegions_keeps | with_reducible apply sendAbort_keeps | with_reducible apply faultRecords_keeps | with_reducible apply dropItems_keeps | with_reducible apply holdDrains_keeps | with_reducible apply stopDrains_keeps | with_reducible apply wr_keeps | with_reducible apply modJob_keeps | with_reducible apply raise_keeps | with_reducible apply raiseBit_keeps | with_reducible apply markRaised_keeps | with_reducible apply keeps_ite | with_reducible apply keeps_foldl | with_reducible apply keeps_foldl_fst | with_reducible apply keeps_foldl_snd
    | intro _ | split | dsimp only | (refine keeps_mk ?_ ?_ ?_ ?_ ?_ <;> first | exact id | skip)

theorem faultEntry_keeps {σ : State} (s : State) (first : Bool) (f : FaultRec) (hs : Keeps σ s) :
    Keeps σ (faultEntry s first f) := by
  unfold faultEntry
  iterate 60 all_goals try first
    | with_reducible assumption | with_reducible apply hwRecord_keeps | with_reducible apply hwFreeze_keeps | with_reducible apply raise_keeps | with_reducible apply raiseBit_keeps | with_reducible apply markRaised_keeps | with_reducible apply keeps_ite | with_reducible apply keeps_foldl | with_reducible apply keeps_foldl_fst | with_reducible apply keeps_foldl_snd
    | intro _ | split | dsimp only | (refine keeps_mk ?_ ?_ ?_ ?_ ?_ <;> first | exact id | skip)

theorem nameFault_keeps {σ : State} (s : State) (code : Nat) (hs : Keeps σ s) :
    Keeps σ (nameFault s code) := by
  unfold nameFault
  iterate 60 all_goals try first
    | with_reducible assumption | with_reducible apply wr_keeps | with_reducible apply raise_keeps | with_reducible apply raiseBit_keeps | with_reducible apply markRaised_keeps | with_reducible apply keeps_ite | with_reducible apply keeps_foldl | with_reducible apply keeps_foldl_fst | with_reducible apply keeps_foldl_snd
    | intro _ | split | dsimp only | (refine keeps_mk ?_ ?_ ?_ ?_ ?_ <;> first | exact id | skip)

theorem takeFault_keeps {σ : State} (s : State) (f : FaultRec) (hs : Keeps σ s) :
    Keeps σ (takeFault s f) := by
  unfold takeFault
  iterate 60 all_goals try first
    | with_reducible assumption | with_reducible apply endFaulted_keeps | with_reducible apply faultEntry_keeps | with_reducible apply nameFault_keeps | with_reducible apply alarmEvent_keeps | with_reducible apply raise_keeps | with_reducible apply raiseBit_keeps | with_reducible apply markRaised_keeps | with_reducible apply keeps_ite | with_reducible apply keeps_foldl | with_reducible apply keeps_foldl_fst | with_reducible apply keeps_foldl_snd
    | intro _ | split | dsimp only | (refine keeps_mk ?_ ?_ ?_ ?_ ?_ <;> first | exact id | skip)

theorem jobFault_keeps {σ : State} (s : State) (f : FaultRec) (hs : Keeps σ s) :
    Keeps σ (jobFault s f) := by
  unfold jobFault
  iterate 60 all_goals try first
    | with_reducible assumption | with_reducible apply faultEntry_keeps | with_reducible apply nameFault_keeps | with_reducible apply takeFault_keeps | with_reducible apply alarmEvent_keeps | with_reducible apply raise_keeps | with_reducible apply raiseBit_keeps | with_reducible apply markRaised_keeps | with_reducible apply keeps_ite | with_reducible apply keeps_foldl | with_reducible apply keeps_foldl_fst | with_reducible apply keeps_foldl_snd
    | intro _ | split | dsimp only | (refine keeps_mk ?_ ?_ ?_ ?_ ?_ <;> first | exact id | skip)

theorem heldFault_keeps {σ : State} (s : State) (f : FaultRec) (hs : Keeps σ s) :
    Keeps σ (heldFault s f) := by
  unfold heldFault
  iterate 60 all_goals try first
    | with_reducible assumption | with_reducible apply takeFault_keeps | with_reducible apply jobFault_keeps | with_reducible apply raise_keeps | with_reducible apply raiseBit_keeps | with_reducible apply markRaised_keeps | with_reducible apply keeps_ite | with_reducible apply keeps_foldl | with_reducible apply keeps_foldl_fst | with_reducible apply keeps_foldl_snd
    | intro _ | split | dsimp only | (refine keeps_mk ?_ ?_ ?_ ?_ ?_ <;> first | exact id | skip)

theorem partFault_keeps {σ : State} (s : State) (f : FaultRec) (hs : Keeps σ s) :
    Keeps σ (partFault s f) := by
  unfold partFault
  iterate 60 all_goals try first
    | with_reducible assumption | with_reducible apply faultEntry_keeps | with_reducible apply hwFreezeAll_keeps | with_reducible apply alarmEvent_keeps | with_reducible apply wr_keeps | with_reducible apply endFaulted_keeps | with_reducible apply raise_keeps | with_reducible apply raiseBit_keeps | with_reducible apply markRaised_keeps | with_reducible apply keeps_ite | with_reducible apply keeps_foldl | with_reducible apply keeps_foldl_fst | with_reducible apply keeps_foldl_snd
    | intro _ | split | dsimp only | (refine keeps_mk ?_ ?_ ?_ ?_ ?_ <;> first | exact id | skip)

theorem regionFault_keeps {σ : State} (s : State) (r : Nat) (code : Nat) (detail : List Byte) (hs : Keeps σ s) :
    Keeps σ (regionFault s r code detail) := by
  unfold regionFault
  iterate 60 all_goals try first
    | with_reducible assumption | with_reducible apply jobFault_keeps | with_reducible apply raise_keeps | with_reducible apply raiseBit_keeps | with_reducible apply markRaised_keeps | with_reducible apply keeps_ite | with_reducible apply keeps_foldl | with_reducible apply keeps_foldl_fst | with_reducible apply keeps_foldl_snd
    | intro _ | split | dsimp only | (refine keeps_mk ?_ ?_ ?_ ?_ ?_ <;> first | exact id | skip)

theorem overFault_keeps {σ : State} (s : State) (r : Nat) (detail : List Byte) (hs : Keeps σ s) :
    Keeps σ (overFault s r detail) := by
  unfold overFault
  iterate 60 all_goals try first
    | with_reducible assumption | with_reducible apply jobFault_keeps | with_reducible apply raise_keeps | with_reducible apply raiseBit_keeps | with_reducible apply markRaised_keeps | with_reducible apply keeps_ite | with_reducible apply keeps_foldl | with_reducible apply keeps_foldl_fst | with_reducible apply keeps_foldl_snd
    | intro _ | split | dsimp only | (refine keeps_mk ?_ ?_ ?_ ?_ ?_ <;> first | exact id | skip)

theorem addrFaultAt_keeps {σ : State} (s : State) (r : Nat) (code : Nat) (a : Nat) (d : Nat) (hs : Keeps σ s) :
    Keeps σ (addrFaultAt s r code a d) := by
  unfold addrFaultAt
  iterate 60 all_goals try first
    | with_reducible assumption | with_reducible apply regionFault_keeps | with_reducible apply raise_keeps | with_reducible apply raiseBit_keeps | with_reducible apply markRaised_keeps | with_reducible apply keeps_ite | with_reducible apply keeps_foldl | with_reducible apply keeps_foldl_fst | with_reducible apply keeps_foldl_snd
    | intro _ | split | dsimp only | (refine keeps_mk ?_ ?_ ?_ ?_ ?_ <;> first | exact id | skip)

theorem genStep_keeps {σ : State} (s : State) (hs : Keeps σ s) :
    Keeps σ (genStep s) := by
  unfold genStep
  iterate 60 all_goals try first
    | with_reducible assumption | with_reducible apply bump_keeps | with_reducible apply raise_keeps | with_reducible apply raiseBit_keeps | with_reducible apply markRaised_keeps | with_reducible apply keeps_ite | with_reducible apply keeps_foldl | with_reducible apply keeps_foldl_fst | with_reducible apply keeps_foldl_snd
    | intro _ | split | dsimp only | (refine keeps_mk ?_ ?_ ?_ ?_ ?_ <;> first | exact id | skip)

theorem isolate_keeps {σ : State} (s : State) (n : Nat) (mask : Nat) (hs : Keeps σ s) :
    Keeps σ (isolate s n mask) := by
  unfold isolate
  iterate 60 all_goals try first
    | with_reducible assumption | with_reducible apply wr_keeps | with_reducible apply genStep_keeps | with_reducible apply hwRecord_keeps | with_reducible apply alarmEvent_keeps | with_reducible apply raise_keeps | with_reducible apply raiseBit_keeps | with_reducible apply markRaised_keeps | with_reducible apply keeps_ite | with_reducible apply keeps_foldl | with_reducible apply keeps_foldl_fst | with_reducible apply keeps_foldl_snd
    | intro _ | split | dsimp only | (refine keeps_mk ?_ ?_ ?_ ?_ ?_ <;> first | exact id | skip)

theorem markPending_keeps {σ : State} (s : State) (u : Nat × Nat) (hs : Keeps σ s) :
    Keeps σ (markPending s u) := by
  unfold markPending
  iterate 60 all_goals try first
    | with_reducible assumption | with_reducible apply wr_keeps | with_reducible apply setBit_keeps | with_reducible apply raise_keeps | with_reducible apply raiseBit_keeps | with_reducible apply markRaised_keeps | with_reducible apply keeps_ite | with_reducible apply keeps_foldl | with_reducible apply keeps_foldl_fst | with_reducible apply keeps_foldl_snd
    | intro _ | split | dsimp only | (refine keeps_mk ?_ ?_ ?_ ?_ ?_ <;> first | exact id | skip)

theorem limitReached_keeps {σ : State} (s : State) (u : Nat × Nat) (field : Nat) (count : Nat) (hs : Keeps σ s) :
    Keeps σ (limitReached s u field count) := by
  unfold limitReached
  iterate 60 all_goals try first
    | with_reducible assumption | with_reducible apply hwRecord_keeps | with_reducible apply markPending_keeps | with_reducible apply alarmEvent_keeps | with_reducible apply raise_keeps | with_reducible apply raiseBit_keeps | with_reducible apply markRaised_keeps | with_reducible apply keeps_ite | with_reducible apply keeps_foldl | with_reducible apply keeps_foldl_fst | with_reducible apply keeps_foldl_snd
    | intro _ | split | dsimp only | (refine keeps_mk ?_ ?_ ?_ ?_ ?_ <;> first | exact id | skip)

theorem errDetail_keeps {σ : State} (s : State) (u : Nat × Nat) (a : Nat) (hs : Keeps σ s) :
    Keeps σ (errDetail s u a).2 := by
  unfold errDetail
  iterate 60 all_goals try first
    | with_reducible assumption | with_reducible apply takeFree_keeps | with_reducible apply raise_keeps | with_reducible apply raiseBit_keeps | with_reducible apply markRaised_keeps | with_reducible apply keeps_ite | with_reducible apply keeps_foldl | with_reducible apply keeps_foldl_fst | with_reducible apply keeps_foldl_snd
    | intro _ | split | dsimp only | (refine keeps_mk ?_ ?_ ?_ ?_ ?_ <;> first | exact id | skip)

theorem ceAt_keeps {σ : State} (s : State) (u : Nat × Nat) (a : Nat) (hs : Keeps σ s) :
    Keeps σ (ceAt s u a) := by
  unfold ceAt
  iterate 60 all_goals try first
    | with_reducible assumption | with_reducible apply errDetail_keeps | with_reducible apply hwRecord_keeps | with_reducible apply tallyAdd_keeps | with_reducible apply wr_keeps | with_reducible apply limitReached_keeps | with_reducible apply raise_keeps | with_reducible apply raiseBit_keeps | with_reducible apply markRaised_keeps | with_reducible apply keeps_ite | with_reducible apply keeps_foldl | with_reducible apply keeps_foldl_fst | with_reducible apply keeps_foldl_snd
    | intro _ | split | dsimp only | (refine keeps_mk ?_ ?_ ?_ ?_ ?_ <;> first | exact id | skip)

theorem ueAt_keeps {σ : State} (s : State) (u : Nat × Nat) (a : Nat) (hs : Keeps σ s) :
    Keeps σ (ueAt s u a) := by
  unfold ueAt
  iterate 60 all_goals try first
    | with_reducible assumption | with_reducible apply errDetail_keeps | with_reducible apply hwRecord_keeps | with_reducible apply tallyAdd_keeps | with_reducible apply alarmEvent_keeps | with_reducible apply limitReached_keeps | with_reducible apply raise_keeps | with_reducible apply raiseBit_keeps | with_reducible apply markRaised_keeps | with_reducible apply keeps_ite | with_reducible apply keeps_foldl | with_reducible apply keeps_foldl_fst | with_reducible apply keeps_foldl_snd
    | intro _ | split | dsimp only | (refine keeps_mk ?_ ?_ ?_ ?_ ?_ <;> first | exact id | skip)

theorem memErrors_keeps {σ : State} (s : State) (ue : List Nat) (ce : List Nat) (hs : Keeps σ s) :
    Keeps σ (memErrors s ue ce) := by
  unfold memErrors
  iterate 60 all_goals try first
    | with_reducible assumption | with_reducible apply ueAt_keeps | with_reducible apply ceAt_keeps | with_reducible apply raise_keeps | with_reducible apply raiseBit_keeps | with_reducible apply markRaised_keeps | with_reducible apply keeps_ite | with_reducible apply keeps_foldl | with_reducible apply keeps_foldl_fst | with_reducible apply keeps_foldl_snd
    | intro _ | split | dsimp only | (refine keeps_mk ?_ ?_ ?_ ?_ ?_ <;> first | exact id | skip)

theorem isolatePending_keeps {σ : State} (s : State) (n : Nat) (hs : Keeps σ s) :
    Keeps σ (isolatePending s n) := by
  unfold isolatePending
  iterate 60 all_goals try first
    | with_reducible assumption | with_reducible apply wr_keeps | with_reducible apply isolate_keeps | with_reducible apply raise_keeps | with_reducible apply raiseBit_keeps | with_reducible apply markRaised_keeps | with_reducible apply keeps_ite | with_reducible apply keeps_foldl | with_reducible apply keeps_foldl_fst | with_reducible apply keeps_foldl_snd
    | intro _ | split | dsimp only | (refine keeps_mk ?_ ?_ ?_ ?_ ?_ <;> first | exact id | skip)

end Sys2Proof.Machine
end

