-- ==== Sys2Proof/Laws/KeepsLink.lean ====
section
/-! SUPPORT. What every operation of Machine/Link.lean keeps. -/

namespace Sys2Proof.Machine

theorem sendFlit_keeps {σ : State} (s : State) (p : Nat) (f : Flit) (hs : Keeps σ s) :
    Keeps σ (sendFlit s p f) := by
  unfold sendFlit
  iterate 60 all_goals try first
    | with_reducible assumption | with_reducible apply emit_keeps | with_reducible apply modPort_keeps | with_reducible apply raise_keeps | with_reducible apply raiseBit_keeps | with_reducible apply markRaised_keeps | with_reducible apply keeps_ite | with_reducible apply keeps_foldl | with_reducible apply keeps_foldl_fst | with_reducible apply keeps_foldl_snd
    | intro _ | split | dsimp only | (refine keeps_mk ?_ ?_ ?_ ?_ ?_ <;> first | exact id | skip)

theorem pumpOne_keeps {σ : State} (s : State) (p : Nat) (hs : Keeps σ s) :
    KeepsOpt σ (pumpOne s p) := by
  unfold pumpOne
  iterate 60 all_goals try first
    | with_reducible assumption | with_reducible exact keepsOpt_none _ | with_reducible apply keepsOpt_some | with_reducible apply sendFlit_keeps | with_reducible apply modPort_keeps | with_reducible apply tallyAdd_keeps | with_reducible apply wr_keeps | with_reducible apply raise_keeps | with_reducible apply raiseBit_keeps | with_reducible apply markRaised_keeps | with_reducible apply keeps_ite | with_reducible apply keepsOpt_ite | with_reducible apply keeps_foldl | with_reducible apply keeps_foldl_fst | with_reducible apply keeps_foldl_snd
    | with_reducible intro _ | split | dsimp only | (refine keeps_mk ?_ ?_ ?_ ?_ ?_ <;> first | exact id | skip)

theorem pumpLoop_keeps {σ : State} (p : Nat) (y1 : Nat) (y2 : State) (hy2 : Keeps σ y2) :
    Keeps σ (pumpLoop p y1 y2) := by
  induction y1 generalizing y2 with
  | zero =>
    unfold pumpLoop
    iterate 60 all_goals try first
      | with_reducible assumption | with_reducible refine keepsOpt_elim (pumpOne_keeps _ _ ?_) (by assumption) | with_reducible apply pumpOne_keeps | with_reducible apply raise_keeps | with_reducible apply raiseBit_keeps | with_reducible apply markRaised_keeps | with_reducible apply keeps_ite | with_reducible apply keeps_foldl | with_reducible apply keeps_foldl_fst | with_reducible apply keeps_foldl_snd
      | intro _ | split | dsimp only | (refine keeps_mk ?_ ?_ ?_ ?_ ?_ <;> first | exact id | skip)
  | succ k ih =>
    unfold pumpLoop
    iterate 60 all_goals try first
      | with_reducible assumption | with_reducible refine keepsOpt_elim (pumpOne_keeps _ _ ?_) (by assumption) | with_reducible apply pumpOne_keeps | with_reducible apply ih | with_reducible apply raise_keeps | with_reducible apply raiseBit_keeps | with_reducible apply markRaised_keeps | with_reducible apply keeps_ite | with_reducible apply keeps_foldl | with_reducible apply keeps_foldl_fst | with_reducible apply keeps_foldl_snd
      | intro _ | split | dsimp only | (refine keeps_mk ?_ ?_ ?_ ?_ ?_ <;> first | exact id | skip)

theorem pump_keeps {σ : State} (s : State) (p : Nat) (hs : Keeps σ s) :
    Keeps σ (pump s p) := by
  unfold pump
  iterate 60 all_goals try first
    | with_reducible assumption | with_reducible apply pumpLoop_keeps | with_reducible apply raise_keeps | with_reducible apply raiseBit_keeps | with_reducible apply markRaised_keeps | with_reducible apply keeps_ite | with_reducible apply keeps_foldl | with_reducible apply keeps_foldl_fst | with_reducible apply keeps_foldl_snd
    | intro _ | split | dsimp only | (refine keeps_mk ?_ ?_ ?_ ?_ ?_ <;> first | exact id | skip)

theorem pumpAll_keeps {σ : State} (s : State) (hs : Keeps σ s) :
    Keeps σ (pumpAll s) := by
  unfold pumpAll
  iterate 60 all_goals try first
    | with_reducible assumption | with_reducible apply pump_keeps | with_reducible apply raise_keeps | with_reducible apply raiseBit_keeps | with_reducible apply markRaised_keeps | with_reducible apply keeps_ite | with_reducible apply keeps_foldl | with_reducible apply keeps_foldl_fst | with_reducible apply keeps_foldl_snd
    | intro _ | split | dsimp only | (refine keeps_mk ?_ ?_ ?_ ?_ ?_ <;> first | exact id | skip)

theorem holdover_keeps {σ : State} (s : State) (hs : Keeps σ s) :
    Keeps σ (holdover s) := by
  unfold holdover
  iterate 60 all_goals try first
    | with_reducible assumption | with_reducible apply wr_keeps | with_reducible apply raise_keeps | with_reducible apply raiseBit_keeps | with_reducible apply markRaised_keeps | with_reducible apply keeps_ite | with_reducible apply keeps_foldl | with_reducible apply keeps_foldl_fst | with_reducible apply keeps_foldl_snd
    | intro _ | split | dsimp only | (refine keeps_mk ?_ ?_ ?_ ?_ ?_ <;> first | exact id | skip)

theorem portFailed_keeps {σ : State} (s : State) (p : Nat) (hs : Keeps σ s) :
    Keeps σ (portFailed s p) := by
  unfold portFailed
  iterate 60 all_goals try first
    | with_reducible assumption | with_reducible apply modPort_keeps | with_reducible apply setBit_keeps | with_reducible apply jobFault_keeps | with_reducible apply raise_keeps | with_reducible apply raiseBit_keeps | with_reducible apply markRaised_keeps | with_reducible apply keeps_ite | with_reducible apply keeps_foldl | with_reducible apply keeps_foldl_fst | with_reducible apply keeps_foldl_snd
    | intro _ | split | dsimp only | (refine keeps_mk ?_ ?_ ?_ ?_ ?_ <;> first | exact id | skip)

theorem portEntered_keeps {σ : State} (s : State) (p : Nat) (st : Nat) (hs : Keeps σ s) :
    Keeps σ (portEntered s p st) := by
  unfold portEntered
  iterate 60 all_goals try first
    | with_reducible assumption | with_reducible apply modPort_keeps | with_reducible apply wr_keeps | with_reducible apply bump_keeps | with_reducible apply setBit_keeps | with_reducible apply portFailed_keeps | with_reducible apply raise_keeps | with_reducible apply raiseBit_keeps | with_reducible apply markRaised_keeps | with_reducible apply keeps_ite | with_reducible apply keeps_foldl | with_reducible apply keeps_foldl_fst | with_reducible apply keeps_foldl_snd
    | intro _ | split | dsimp only | (refine keeps_mk ?_ ?_ ?_ ?_ ?_ <;> first | exact id | skip)

theorem portEnter_keeps {σ : State} (s : State) (p : Nat) (st : Nat) (hs : Keeps σ s) :
    Keeps σ (portEnter s p st) := by
  unfold portEnter
  iterate 60 all_goals try first
    | with_reducible assumption | with_reducible apply wr_keeps | with_reducible apply hwRecord_keeps | with_reducible apply trace_keeps | with_reducible apply alarmEvent_keeps | with_reducible apply portEntered_keeps | with_reducible apply holdover_keeps | with_reducible apply raise_keeps | with_reducible apply raiseBit_keeps | with_reducible apply markRaised_keeps | with_reducible apply keeps_ite | with_reducible apply keeps_foldl | with_reducible apply keeps_foldl_fst | with_reducible apply keeps_foldl_snd
    | intro _ | split | dsimp only | (refine keeps_mk ?_ ?_ ?_ ?_ ?_ <;> first | exact id | skip)

end Sys2Proof.Machine
end

