-- ==== Sys2Proof/Laws/KeepsSequencer.lean ====
section
/-! SUPPORT. What every operation of Machine/Sequencer.lean keeps. -/

namespace Sys2Proof.Machine

theorem retire_keeps {σ : State} (s : State) (r : Nat) (hs : Keeps σ s) :
    Keeps σ (retire s r) := by
  unfold retire
  iterate 60 all_goals try first
    | with_reducible assumption | with_reducible apply trace_keeps | with_reducible apply modRegion_keeps | with_reducible apply raise_keeps | with_reducible apply raiseBit_keeps | with_reducible apply markRaised_keeps | with_reducible apply keeps_ite | with_reducible apply keeps_foldl | with_reducible apply keeps_foldl_fst | with_reducible apply keeps_foldl_snd
    | intro _ | split | dsimp only | (refine keeps_mk ?_ ?_ ?_ ?_ ?_ <;> first | exact id | skip)

theorem dispatch_keeps {σ : State} (s : State) (r : Nat) (hs : Keeps σ s) :
    Keeps σ (dispatch s r) := by
  unfold dispatch
  iterate 60 all_goals try first
    | with_reducible assumption | with_reducible apply trace_keeps | with_reducible apply raise_keeps | with_reducible apply raiseBit_keeps | with_reducible apply markRaised_keeps | with_reducible apply keeps_ite | with_reducible apply keeps_foldl | with_reducible apply keeps_foldl_fst | with_reducible apply keeps_foldl_snd
    | intro _ | split | dsimp only | (refine keeps_mk ?_ ?_ ?_ ?_ ?_ <;> first | exact id | skip)

theorem chargeErrs_keeps {σ : State} (s : State) (e : MemErrs) (hs : Keeps σ s) :
    Keeps σ (chargeErrs s e) := by
  unfold chargeErrs
  iterate 60 all_goals try first
    | with_reducible assumption | with_reducible apply memErrors_keeps | with_reducible apply diverge_keeps | with_reducible apply tallyAdd_keeps | with_reducible apply raise_keeps | with_reducible apply raiseBit_keeps | with_reducible apply markRaised_keeps | with_reducible apply keeps_ite | with_reducible apply keeps_foldl | with_reducible apply keeps_foldl_fst | with_reducible apply keeps_foldl_snd
    | intro _ | split | dsimp only | (refine keeps_mk ?_ ?_ ?_ ?_ ?_ <;> first | exact id | skip)

theorem holdAs_keeps {σ : State} (s : State) (r : Nat) (cnt : Nat) (w : Wait) (prog : List Nat) (hs : Keeps σ s) :
    Keeps σ (holdAs s r cnt w prog) := by
  unfold holdAs
  iterate 60 all_goals try first
    | with_reducible assumption | with_reducible apply modRegion_keeps | with_reducible apply wr_keeps | with_reducible apply diverge_keeps | with_reducible apply trace_keeps | with_reducible apply raise_keeps | with_reducible apply raiseBit_keeps | with_reducible apply markRaised_keeps | with_reducible apply keeps_ite | with_reducible apply keeps_foldl | with_reducible apply keeps_foldl_fst | with_reducible apply keeps_foldl_snd
    | intro _ | split | dsimp only | (refine keeps_mk ?_ ?_ ?_ ?_ ?_ <;> first | exact id | skip)

theorem holdRegion_keeps {σ : State} (s : State) (r : Nat) (w : Wait) (prog : List Nat) (hs : Keeps σ s) :
    Keeps σ (holdRegion s r w prog) := by
  unfold holdRegion
  iterate 60 all_goals try first
    | with_reducible assumption | with_reducible apply holdAs_keeps | with_reducible apply raise_keeps | with_reducible apply raiseBit_keeps | with_reducible apply markRaised_keeps | with_reducible apply keeps_ite | with_reducible apply keeps_foldl | with_reducible apply keeps_foldl_fst | with_reducible apply keeps_foldl_snd
    | intro _ | split | dsimp only | (refine keeps_mk ?_ ?_ ?_ ?_ ?_ <;> first | exact id | skip)

theorem schedMiss_keeps {σ : State} (s : State) (r : Nat) (what : Nat) (item : Nat) (rel : Nat) (hs : Keeps σ s) :
    Keeps σ (schedMiss s r what item rel) := by
  unfold schedMiss
  iterate 60 all_goals try first
    | with_reducible assumption | with_reducible apply regionFault_keeps | with_reducible apply wr_keeps | with_reducible apply raise_keeps | with_reducible apply raiseBit_keeps | with_reducible apply markRaised_keeps | with_reducible apply keeps_ite | with_reducible apply keeps_foldl | with_reducible apply keeps_foldl_fst | with_reducible apply keeps_foldl_snd
    | intro _ | split | dsimp only | (refine keeps_mk ?_ ?_ ?_ ?_ ?_ <;> first | exact id | skip)

theorem regionPoison_keeps {σ : State} (s : State) (r : Nat) (use : Nat) (hs : Keeps σ s) :
    Keeps σ (regionPoison s r use) := by
  unfold regionPoison
  iterate 60 all_goals try first
    | with_reducible assumption | with_reducible apply regionFault_keeps | with_reducible apply wr_keeps | with_reducible apply raise_keeps | with_reducible apply raiseBit_keeps | with_reducible apply markRaised_keeps | with_reducible apply keeps_ite | with_reducible apply keeps_foldl | with_reducible apply keeps_foldl_fst | with_reducible apply keeps_foldl_snd
    | intro _ | split | dsimp only | (refine keeps_mk ?_ ?_ ?_ ?_ ?_ <;> first | exact id | skip)

theorem macroDo_keeps {σ : State} (s : State) (r : Nat) (refuse : Option String) (descs : List Desc) (early : Option (Nat × Nat × Nat × Nat)) (f : Place → State → State) (hs : Keeps σ s) (hf : ∀ a0 a1, Keeps σ a1 → Keeps σ (f a0 a1)) :
    KeepsOut σ (macroDo s r refuse descs early f) := by
  unfold macroDo
  iterate 60 all_goals try first
    | with_reducible assumption | with_reducible exact keepsOut_refused _ | with_reducible apply keepsOut_next | with_reducible apply hf | with_reducible apply retire_keeps | with_reducible apply regionFault_keeps | with_reducible apply dispatch_keeps | with_reducible apply raise_keeps | with_reducible apply raiseBit_keeps | with_reducible apply markRaised_keeps | with_reducible apply keeps_ite | with_reducible apply keepsOut_ite | with_reducible apply keeps_foldl | with_reducible apply keeps_foldl_fst | with_reducible apply keeps_foldl_snd
    | with_reducible intro _ | split | dsimp only | (refine keeps_mk ?_ ?_ ?_ ?_ ?_ <;> first | exact id | skip)

end Sys2Proof.Machine
end

