-- ==== Sys2Proof/Laws/KeepsCoded.lean ====
section
/-! SUPPORT. What every operation of Machine/Coded.lean keeps. -/

namespace Sys2Proof.Machine

theorem writeIndex_keeps {σ : State} (s : State) (ue : List Nat) (d : Desc) (p : Nat) (l : List Nat) (hs : Keeps σ s) :
    Keeps σ (writeIndex s ue d p l) := by
  unfold writeIndex
  iterate 60 all_goals try first
    | with_reducible assumption | with_reducible apply devWrite_keeps | with_reducible apply raise_keeps | with_reducible apply raiseBit_keeps | with_reducible apply markRaised_keeps | with_reducible apply keeps_ite | with_reducible apply keeps_foldl | with_reducible apply keeps_foldl_fst | with_reducible apply keeps_foldl_snd
    | intro _ | split | dsimp only | (refine keeps_mk ?_ ?_ ?_ ?_ ?_ <;> first | exact id | skip)

theorem writeCoded_keeps {σ : State} (s : State) (ue : List Nat) (d : Desc) (c : CRec) (val : Nat → Nat → Nat → Int × Bool) (p : Nat) (hs : Keeps σ s) :
    Keeps σ (writeCoded s ue d c val p).1 := by
  unfold writeCoded
  iterate 60 all_goals try first
    | with_reducible assumption | with_reducible apply writeIndex_keeps | with_reducible apply devPut_keeps | with_reducible apply devWrite_keeps | with_reducible apply raise_keeps | with_reducible apply raiseBit_keeps | with_reducible apply markRaised_keeps | with_reducible apply keeps_ite | with_reducible apply keeps_foldl | with_reducible apply keeps_foldl_fst | with_reducible apply keeps_foldl_snd
    | intro _ | split | dsimp only | (refine keeps_mk ?_ ?_ ?_ ?_ ?_ <;> first | exact id | skip)

end Sys2Proof.Machine
end

