-- ==== Sys2Proof/Laws/KeepsHoops.lean ====
section
/-! SUPPORT. What every operation of Machine/Hoops.lean keeps. -/

namespace Sys2Proof.Machine

theorem putHalf_keeps {σ : State} (s : State) (ue : List Nat) (a : Nat) (l : List (Nat × Byte)) (bad : Bool) (hs : Keeps σ s) :
    Keeps σ (putHalf s ue a l bad) := by
  unfold putHalf
  iterate 60 all_goals try first
    | with_reducible assumption | with_reducible apply raise_keeps | with_reducible apply raiseBit_keeps | with_reducible apply markRaised_keeps | with_reducible apply keeps_ite | with_reducible apply keeps_foldl | with_reducible apply keeps_foldl_fst | with_reducible apply keeps_foldl_snd
    | intro _ | split | dsimp only | (refine keeps_mk ?_ ?_ ?_ ?_ ?_ <;> first | exact id | skip) | with_reducible apply mWriteMix_wf | with_reducible apply mergeHalf_wf | with_reducible apply mWriteHalf_wf

theorem putBytes_keeps {σ : State} (s : State) (ue : List Nat) (l : List (Nat × Byte × Bool)) (hs : Keeps σ s) :
    Keeps σ (putBytes s ue l) := by
  unfold putBytes
  iterate 60 all_goals try first
    | with_reducible assumption | with_reducible apply putHalf_keeps | with_reducible apply raise_keeps | with_reducible apply raiseBit_keeps | with_reducible apply markRaised_keeps | with_reducible apply keeps_ite | with_reducible apply keeps_foldl | with_reducible apply keeps_foldl_fst | with_reducible apply keeps_foldl_snd
    | intro _ | split | dsimp only | (refine keeps_mk ?_ ?_ ?_ ?_ ?_ <;> first | exact id | skip)

theorem spanPut_keeps {σ : State} (s : State) (ue : List Nat) (a : Nat) (l : List (Byte × Bool)) (hs : Keeps σ s) :
    Keeps σ (spanPut s ue a l) := by
  unfold spanPut
  iterate 60 all_goals try first
    | with_reducible assumption | with_reducible apply chargeErrs_keeps | with_reducible apply putBytes_keeps | with_reducible apply raise_keeps | with_reducible apply raiseBit_keeps | with_reducible apply markRaised_keeps | with_reducible apply keeps_ite | with_reducible apply keeps_foldl | with_reducible apply keeps_foldl_fst | with_reducible apply keeps_foldl_snd
    | intro _ | split | dsimp only | (refine keeps_mk ?_ ?_ ?_ ?_ ?_ <;> first | exact id | skip)

theorem hoopClose_keeps {σ : State} (s : State) (r : Nat) (hh : Nat) (mark : Bool) (hs : Keeps σ s) :
    Keeps σ (hoopClose s r hh mark) := by
  unfold hoopClose
  iterate 60 all_goals try first
    | with_reducible assumption | with_reducible apply chargeErrs_keeps | with_reducible apply modRegion_keeps | with_reducible apply wr_keeps | with_reducible apply raise_keeps | with_reducible apply raiseBit_keeps | with_reducible apply markRaised_keeps | with_reducible apply keeps_ite | with_reducible apply keeps_foldl | with_reducible apply keeps_foldl_fst | with_reducible apply keeps_foldl_snd
    | intro _ | split | dsimp only | (refine keeps_mk ?_ ?_ ?_ ?_ ?_ <;> first | exact id | skip)

theorem hoopPutSlot_keeps {σ : State} (s : State) (r : Nat) (hh : Nat) (ue : List Nat) (l : List (Byte × Bool)) (mark : Bool) (hs : Keeps σ s) :
    Keeps σ (hoopPutSlot s r hh ue l mark) := by
  unfold hoopPutSlot
  iterate 60 all_goals try first
    | with_reducible assumption | with_reducible apply chargeErrs_keeps | with_reducible apply hoopClose_keeps | with_reducible apply spanPut_keeps | with_reducible apply raise_keeps | with_reducible apply raiseBit_keeps | with_reducible apply markRaised_keeps | with_reducible apply keeps_ite | with_reducible apply keeps_foldl | with_reducible apply keeps_foldl_fst | with_reducible apply keeps_foldl_snd
    | intro _ | split | dsimp only | (refine keeps_mk ?_ ?_ ?_ ?_ ?_ <;> first | exact id | skip)

theorem hoopPop_keeps {σ : State} (s : State) (r : Nat) (hh : Nat) (hs : Keeps σ s) :
    Keeps σ (hoopPop s r hh) := by
  unfold hoopPop
  iterate 60 all_goals try first
    | with_reducible assumption | with_reducible apply chargeErrs_keeps | with_reducible apply wr_keeps | with_reducible apply raise_keeps | with_reducible apply raiseBit_keeps | with_reducible apply markRaised_keeps | with_reducible apply keeps_ite | with_reducible apply keeps_foldl | with_reducible apply keeps_foldl_fst | with_reducible apply keeps_foldl_snd
    | intro _ | split | dsimp only | (refine keeps_mk ?_ ?_ ?_ ?_ ?_ <;> first | exact id | skip)

theorem hoopPops_keeps {σ : State} (s : State) (r : Nat) (hh : Nat) (y3 : Nat) (hs : Keeps σ s) :
    Keeps σ (hoopPops s r hh y3) := by
  induction y3 generalizing s with
  | zero =>
    unfold hoopPops
    iterate 60 all_goals try first
      | with_reducible assumption | with_reducible apply chargeErrs_keeps | with_reducible apply hoopPop_keeps | with_reducible apply raise_keeps | with_reducible apply raiseBit_keeps | with_reducible apply markRaised_keeps | with_reducible apply keeps_ite | with_reducible apply keeps_foldl | with_reducible apply keeps_foldl_fst | with_reducible apply keeps_foldl_snd
      | intro _ | split | dsimp only | (refine keeps_mk ?_ ?_ ?_ ?_ ?_ <;> first | exact id | skip)
  | succ k ih =>
    unfold hoopPops
    iterate 60 all_goals try first
      | with_reducible assumption | with_reducible apply chargeErrs_keeps | with_reducible apply hoopPop_keeps | with_reducible apply ih | with_reducible apply raise_keeps | with_reducible apply raiseBit_keeps | with_reducible apply markRaised_keeps | with_reducible apply keeps_ite | with_reducible apply keeps_foldl | with_reducible apply keeps_foldl_fst | with_reducible apply keeps_foldl_snd
      | intro _ | split | dsimp only | (refine keeps_mk ?_ ?_ ?_ ?_ ?_ <;> first | exact id | skip)

theorem putRecords_keeps {σ : State} (s : State) (r : Nat) (hh : Nat) (recs : List (List (Byte × Bool))) (hs : Keeps σ s) :
    Keeps σ (putRecords s r hh recs) := by
  unfold putRecords
  iterate 60 all_goals try first
    | with_reducible assumption | with_reducible apply hoopPutSlot_keeps | with_reducible apply raise_keeps | with_reducible apply raiseBit_keeps | with_reducible apply markRaised_keeps | with_reducible apply keeps_ite | with_reducible apply keeps_foldl | with_reducible apply keeps_foldl_fst | with_reducible apply keeps_foldl_snd
    | intro _ | split | dsimp only | (refine keeps_mk ?_ ?_ ?_ ?_ ?_ <;> first | exact id | skip)

theorem hoopWait_keeps {σ : State} (s : State) (r : Nat) (hh : Nat) (other : Nat) (prog : List Nat) (hs : Keeps σ s) :
    Keeps σ (hoopWait s r hh other prog) := by
  unfold hoopWait
  iterate 60 all_goals try first
    | with_reducible assumption | with_reducible apply chargeErrs_keeps | with_reducible apply schedMiss_keeps | with_reducible apply trace_keeps | with_reducible apply holdRegion_keeps | with_reducible apply raise_keeps | with_reducible apply raiseBit_keeps | with_reducible apply markRaised_keeps | with_reducible apply keeps_ite | with_reducible apply keeps_foldl | with_reducible apply keeps_foldl_fst | with_reducible apply keeps_foldl_snd
    | intro _ | split | dsimp only | (refine keeps_mk ?_ ?_ ?_ ?_ ?_ <;> first | exact id | skip)


end Sys2Proof.Machine
end

