-- ==== Sys2Proof/Laws/KeepsOperands.lean ====
section
/-! SUPPORT. What every operation of Machine/Operands.lean keeps. -/

namespace Sys2Proof.Machine

theorem chargeArith_keeps {σ : State} (s : State) (r : Nat) (a : ArithSt) (hs : Keeps σ s) :
    Keeps σ (chargeArith s r a) := by
  unfold chargeArith
  iterate 60 all_goals try first
    | with_reducible assumption | with_reducible apply tallyAdd_keeps | with_reducible apply setStickies_keeps | with_reducible apply raise_keeps | with_reducible apply raiseBit_keeps | with_reducible apply markRaised_keeps | with_reducible apply keeps_ite | with_reducible apply keeps_foldl | with_reducible apply keeps_foldl_fst | with_reducible apply keeps_foldl_snd
    | intro _ | split | dsimp only | (refine keeps_mk ?_ ?_ ?_ ?_ ?_ <;> first | exact id | skip)

theorem chargeLanes_keeps {σ : State} (s : State) (r : Nat) (o : Opd) (c : CRec) (es : List Nat) (per : Nat) (hs : Keeps σ s) :
    Keeps σ (chargeLanes s r o c es per) := by
  unfold chargeLanes
  iterate 60 all_goals try first
    | with_reducible assumption | with_reducible apply tallyAdd_keeps | with_reducible apply raise_keeps | with_reducible apply raiseBit_keeps | with_reducible apply markRaised_keeps | with_reducible apply keeps_ite | with_reducible apply keeps_foldl | with_reducible apply keeps_foldl_fst | with_reducible apply keeps_foldl_snd
    | intro _ | split | dsimp only | (refine keeps_mk ?_ ?_ ?_ ?_ ?_ <;> first | exact id | skip)

theorem blockTransit_keeps {σ : State} (s : State) (r : Nat) (ue : List Nat) (d : Desc) (c : CRec) (p e : Nat) (hs : Keeps σ s) :
    Keeps σ (blockTransit s r ue d c p e) := by
  unfold blockTransit
  iterate 60 all_goals try first
    | with_reducible assumption | with_reducible apply hoopPop_keeps | with_reducible apply hoopPutSlot_keeps | with_reducible apply raise_keeps | with_reducible apply raiseBit_keeps | with_reducible apply markRaised_keeps | with_reducible apply keeps_ite | with_reducible apply keeps_foldl | with_reducible apply keeps_foldl_fst | with_reducible apply keeps_foldl_snd
    | intro _ | split | dsimp only | (refine keeps_mk ?_ ?_ ?_ ?_ ?_ <;> first | exact id | skip)

theorem storeRuns_keeps {σ : State} (s : State) (r : Nat) (ue : List Nat) (o : Opd) (runs : List Run) (hs : Keeps σ s) :
    Keeps σ (storeRuns s r ue o runs) := by
  unfold storeRuns
  iterate 60 all_goals try first
    | with_reducible assumption | with_reducible apply putBytes_keeps | with_reducible refine keeps_fst (by assumption) (writeCoded_keeps _ _ _ _ _ _ ?_) | with_reducible apply writeCoded_keeps | with_reducible apply setStickies_keeps | with_reducible apply chargeLanes_keeps | with_reducible apply raise_keeps | with_reducible apply raiseBit_keeps | with_reducible apply markRaised_keeps | with_reducible apply keeps_ite | with_reducible apply keeps_foldl | with_reducible apply keeps_foldl_fst | with_reducible apply keeps_foldl_snd
    | intro _ | split | dsimp only | (refine keeps_mk ?_ ?_ ?_ ?_ ?_ <;> first | exact id | skip)

theorem chargeBlocks_keeps {σ : State} (s : State) (r : Nat) (ue : List Nat) (o : Opd) (es : List Nat) (hs : Keeps σ s) :
    Keeps σ (chargeBlocks s r ue o es) := by
  unfold chargeBlocks
  iterate 60 all_goals try first
    | with_reducible assumption | with_reducible apply setStickies_keeps | with_reducible apply chargeLanes_keeps | with_reducible apply blockTransit_keeps | with_reducible apply raise_keeps | with_reducible apply raiseBit_keeps | with_reducible apply markRaised_keeps | with_reducible apply keeps_ite | with_reducible apply keeps_foldl | with_reducible apply keeps_foldl_fst | with_reducible apply keeps_foldl_snd
    | intro _ | split | dsimp only | (refine keeps_mk ?_ ?_ ?_ ?_ ?_ <;> first | exact id | skip)

theorem guardAddr_keeps {σ : State} (s : State) (r : Nat) (p0 : Nat) (p1 : Nat) (l : List Opd) (f : Unit → State) (hs : Keeps σ s) (hf : ∀ a0, Keeps σ (f a0)) :
    Keeps σ (guardAddr s r p0 p1 l f) := by
  unfold guardAddr
  iterate 60 all_goals try first
    | with_reducible assumption | with_reducible apply hf | with_reducible apply addrFaultAt_keeps | with_reducible apply raise_keeps | with_reducible apply raiseBit_keeps | with_reducible apply markRaised_keeps | with_reducible apply keeps_ite | with_reducible apply keeps_foldl | with_reducible apply keeps_foldl_fst | with_reducible apply keeps_foldl_snd
    | intro _ | split | dsimp only | (refine keeps_mk ?_ ?_ ?_ ?_ ?_ <;> first | exact id | skip)

end Sys2Proof.Machine
end

