-- ==== Sys2Proof/Laws/KeepsMatrix.lean ====
section
/-! SUPPORT. What every operation of Machine/Matrix.lean keeps. -/

namespace Sys2Proof.Machine

theorem formScales_keeps {σ : State} (s : State) (ue : List Nat) (o : Opd) (l : List ((Nat × Nat) × Cell)) (hs : Keeps σ s) :
    Keeps σ (formScales s ue o l) := by
  unfold formScales
  iterate 60 all_goals try first
    | with_reducible assumption | with_reducible apply devWrite_keeps | with_reducible apply raise_keeps | with_reducible apply raiseBit_keeps | with_reducible apply markRaised_keeps | with_reducible apply keeps_ite | with_reducible apply keeps_foldl | with_reducible apply keeps_foldl_fst | with_reducible apply keeps_foldl_snd
    | intro _ | split | dsimp only | (refine keeps_mk ?_ ?_ ?_ ?_ ?_ <;> first | exact id | skip)

theorem prodScales_keeps {σ : State} (s : State) (ue : List Nat) (c : ProdCmd) (sh : Share) (outs : List (Nat × Nat × Nat)) (hs : Keeps σ s) :
    Keeps σ (prodScales s ue c sh outs) := by
  unfold prodScales
  iterate 60 all_goals try first
    | with_reducible assumption | with_reducible apply formScales_keeps | with_reducible apply raise_keeps | with_reducible apply raiseBit_keeps | with_reducible apply markRaised_keeps | with_reducible apply keeps_ite | with_reducible apply keeps_foldl | with_reducible apply keeps_foldl_fst | with_reducible apply keeps_foldl_snd
    | intro _ | split | dsimp only | (refine keeps_mk ?_ ?_ ?_ ?_ ?_ <;> first | exact id | skip)

theorem runProd_keeps {σ : State} (s : State) (r : Nat) (ue : List Nat) (c : ProdCmd) (sh : Share) (outs : List (Nat × Nat × Nat)) (hs : Keeps σ s) :
    Keeps σ (runProd s r ue c sh outs) := by
  unfold runProd
  iterate 60 all_goals try first
    | with_reducible assumption | with_reducible apply prodScales_keeps | with_reducible apply chargeArith_keeps | with_reducible apply storeRuns_keeps | with_reducible apply raise_keeps | with_reducible apply raiseBit_keeps | with_reducible apply markRaised_keeps | with_reducible apply keeps_ite | with_reducible apply keeps_foldl | with_reducible apply keeps_foldl_fst | with_reducible apply keeps_foldl_snd
    | intro _ | split | dsimp only | (refine keeps_mk ?_ ?_ ?_ ?_ ?_ <;> first | exact id | skip)

theorem anvilProd_keeps {σ : State} (s : State) (r : Nat) (e : MemErrs) (pl : Place) (q : ProdPlan) (hs : Keeps σ s) :
    Keeps σ (anvilProd s r e pl q) := by
  unfold anvilProd
  iterate 60 all_goals try first
    | with_reducible assumption | with_reducible apply runProd_keeps | with_reducible apply jobFault_keeps | with_reducible apply modRegion_keeps | with_reducible apply tallyAdd_keeps | with_reducible apply retire_keeps | with_reducible apply chargeErrs_keeps | with_reducible apply raise_keeps | with_reducible apply raiseBit_keeps | with_reducible apply markRaised_keeps | with_reducible apply keeps_ite | with_reducible apply keeps_foldl | with_reducible apply keeps_foldl_fst | with_reducible apply keeps_foldl_snd
    | intro _ | split | dsimp only | (refine keeps_mk ?_ ?_ ?_ ?_ ?_ <;> first | exact id | skip)

theorem prodBlocks_keeps {σ : State} (s : State) (r : Nat) (ue : List Nat) (q : ProdPlan) (pl : Place) (hs : Keeps σ s) :
    Keeps σ (prodBlocks s r ue q pl) := by
  unfold prodBlocks
  iterate 60 all_goals try first
    | with_reducible assumption | with_reducible apply chargeBlocks_keeps | with_reducible apply raise_keeps | with_reducible apply raiseBit_keeps | with_reducible apply markRaised_keeps | with_reducible apply keeps_ite | with_reducible apply keeps_foldl | with_reducible apply keeps_foldl_fst | with_reducible apply keeps_foldl_snd
    | intro _ | split | dsimp only | (refine keeps_mk ?_ ?_ ?_ ?_ ?_ <;> first | exact id | skip)

theorem execMmul_keeps {σ : State} (r : Nat) (w : MacroW) (e : MemErrs) (s : State) (hs : Keeps σ s) :
    KeepsOut σ (execMmul r w e s) := by
  unfold execMmul
  iterate 60 all_goals try first
    | with_reducible assumption | with_reducible exact keepsOut_refused _ | with_reducible apply keepsOut_next | with_reducible apply anvilProd_keeps | with_reducible apply prodBlocks_keeps | with_reducible apply guardAddr_keeps | with_reducible apply macroDo_keeps | with_reducible apply raise_keeps | with_reducible apply raiseBit_keeps | with_reducible apply markRaised_keeps | with_reducible apply keeps_ite | with_reducible apply keepsOut_ite | with_reducible apply keeps_foldl | with_reducible apply keeps_foldl_fst | with_reducible apply keeps_foldl_snd
    | with_reducible intro _ | split | dsimp only | (refine keeps_mk ?_ ?_ ?_ ?_ ?_ <;> first | exact id | skip)

end Sys2Proof.Machine
end

