-- ==== Sys2Proof/Laws/KeepsTime.lean ====
section
/-! SUPPORT. What every operation of Machine/Time.lean keeps. -/

namespace Sys2Proof.Machine

theorem setTimeThirds_keeps {σ : State} (s : State) (t : Nat) (hs : Keeps σ s) :
    Keeps σ (setTimeThirds s t) := by
  unfold setTimeThirds
  iterate 60 all_goals try first
    | with_reducible assumption | with_reducible apply wr_keeps | with_reducible apply raise_keeps | with_reducible apply raiseBit_keeps | with_reducible apply markRaised_keeps | with_reducible apply keeps_ite | with_reducible apply keeps_foldl | with_reducible apply keeps_foldl_fst | with_reducible apply keeps_foldl_snd
    | intro _ | split | dsimp only | (refine keeps_mk ?_ ?_ ?_ ?_ ?_ <;> first | exact id | skip)

theorem advanceRegion_keeps {σ : State} (n : Nat) (s : State) (r : Nat) (hs : Keeps σ s) :
    Keeps σ (advanceRegion n s r) := by
  unfold advanceRegion
  iterate 60 all_goals try first
    | with_reducible assumption | with_reducible apply wr_keeps | with_reducible apply raise_keeps | with_reducible apply raiseBit_keeps | with_reducible apply markRaised_keeps | with_reducible apply keeps_ite | with_reducible apply keeps_foldl | with_reducible apply keeps_foldl_fst | with_reducible apply keeps_foldl_snd
    | intro _ | split | dsimp only | (refine keeps_mk ?_ ?_ ?_ ?_ ?_ <;> first | exact id | skip)

theorem advance_keeps {σ : State} (s : State) (n : Nat) (hs : Keeps σ s) :
    Keeps σ (advance s n) := by
  unfold advance
  iterate 60 all_goals try first
    | with_reducible assumption | with_reducible apply setTimeThirds_keeps | with_reducible apply wr_keeps | with_reducible apply advanceRegion_keeps | with_reducible apply raise_keeps | with_reducible apply raiseBit_keeps | with_reducible apply markRaised_keeps | with_reducible apply keeps_ite | with_reducible apply keeps_foldl | with_reducible apply keeps_foldl_fst | with_reducible apply keeps_foldl_snd
    | intro _ | split | dsimp only | (refine keeps_mk ?_ ?_ ?_ ?_ ?_ <;> first | exact id | skip)

theorem advanceTo_keeps {σ : State} (s : State) (t : Nat) (hs : Keeps σ s) :
    Keeps σ (advanceTo s t) := by
  unfold advanceTo
  iterate 60 all_goals try first
    | with_reducible assumption | with_reducible apply advance_keeps | with_reducible apply raise_keeps | with_reducible apply raiseBit_keeps | with_reducible apply markRaised_keeps | with_reducible apply keeps_ite | with_reducible apply keeps_foldl | with_reducible apply keeps_foldl_fst | with_reducible apply keeps_foldl_snd
    | intro _ | split | dsimp only | (refine keeps_mk ?_ ?_ ?_ ?_ ?_ <;> first | exact id | skip)

theorem tclk_keeps {σ : State} (s : State) (hs : Keeps σ s) :
    Keeps σ (tclk s) := by
  unfold tclk
  iterate 60 all_goals try first
    | with_reducible assumption | with_reducible apply advance_keeps | with_reducible apply raise_keeps | with_reducible apply raiseBit_keeps | with_reducible apply markRaised_keeps | with_reducible apply keeps_ite | with_reducible apply keeps_foldl | with_reducible apply keeps_foldl_fst | with_reducible apply keeps_foldl_snd
    | intro _ | split | dsimp only | (refine keeps_mk ?_ ?_ ?_ ?_ ?_ <;> first | exact id | skip)

end Sys2Proof.Machine
end

