-- ==== Sys2Proof/Laws/KeepsPower.lean ====
section
/-! SUPPORT. What every operation of Machine/Power.lean keeps. -/

namespace Sys2Proof.Machine

theorem lowerBallast_keeps {σ : State} (s : State) (p : PowerSample) (q : List Nat) (hs : Keeps σ s) :
    Keeps σ (lowerBallast s p q).1 := by
  unfold lowerBallast
  iterate 60 all_goals try first
    | with_reducible assumption | with_reducible apply modRegion_keeps | with_reducible apply raise_keeps | with_reducible apply raiseBit_keeps | with_reducible apply markRaised_keeps | with_reducible apply keeps_ite | with_reducible apply keeps_foldl | with_reducible apply keeps_foldl_fst | with_reducible apply keeps_foldl_snd
    | intro _ | split | dsimp only | (refine keeps_mk ?_ ?_ ?_ ?_ ?_ <;> first | exact id | skip)

theorem computePaces_keeps {σ : State} (s : State) (p : PowerSample) (hs : Keeps σ s) :
    Keeps σ (computePaces s p) := by
  unfold computePaces
  iterate 60 all_goals try first
    | with_reducible assumption | with_reducible refine keeps_fst (by assumption) (lowerBallast_keeps _ _ _ ?_) | with_reducible apply lowerBallast_keeps | with_reducible apply statusAlarm_keeps | with_reducible apply wr_keeps | with_reducible apply raise_keeps | with_reducible apply raiseBit_keeps | with_reducible apply markRaised_keeps | with_reducible apply keeps_ite | with_reducible apply keeps_foldl | with_reducible apply keeps_foldl_fst | with_reducible apply keeps_foldl_snd
    | intro _ | split | dsimp only | (refine keeps_mk ?_ ?_ ?_ ?_ ?_ <;> first | exact id | skip)

theorem noteStretch_keeps {σ : State} (s : State) (r : Nat) (hs : Keeps σ s) :
    Keeps σ (noteStretch s r) := by
  unfold noteStretch
  dsimp only
  split
  · exact modRegion_keeps _ _ _ hs
  · exact hs

theorem adoptPace_keeps {σ : State} (s : State) (r : Nat) (urgent : Bool) (hs : Keeps σ s) :
    Keeps σ (adoptPace s r urgent) := by
  unfold adoptPace
  iterate 60 all_goals try first
    | with_reducible assumption | with_reducible apply trace_keeps | with_reducible apply wr_keeps | with_reducible apply noteStretch_keeps | with_reducible apply raise_keeps | with_reducible apply raiseBit_keeps | with_reducible apply markRaised_keeps | with_reducible apply keeps_ite | with_reducible apply keeps_foldl | with_reducible apply keeps_foldl_fst | with_reducible apply keeps_foldl_snd
    | intro _ | split | dsimp only | (refine keeps_mk ?_ ?_ ?_ ?_ ?_ <;> first | exact id | skip)

theorem adoptNow_keeps {σ : State} (s : State) (r : Nat) (hs : Keeps σ s) :
    Keeps σ (adoptNow s r) := by
  unfold adoptNow
  iterate 60 all_goals try first
    | with_reducible assumption | with_reducible apply diverge_keeps | with_reducible apply adoptPace_keeps | with_reducible apply noteStretch_keeps | with_reducible apply raise_keeps | with_reducible apply raiseBit_keeps | with_reducible apply markRaised_keeps | with_reducible apply keeps_ite | with_reducible apply keeps_foldl | with_reducible apply keeps_foldl_fst | with_reducible apply keeps_foldl_snd
    | intro _ | split | dsimp only | (refine keeps_mk ?_ ?_ ?_ ?_ ?_ <;> first | exact id | skip)

theorem governorPoint_keeps {σ : State} (s : State) (r : Nat) (release : Bool) (hs : Keeps σ s) :
    Keeps σ (governorPoint s r release) := by
  unfold governorPoint
  iterate 60 all_goals try first
    | with_reducible assumption | with_reducible apply wr_keeps | with_reducible apply adoptPace_keeps | with_reducible apply diverge_keeps | with_reducible apply noteStretch_keeps | with_reducible apply raise_keeps | with_reducible apply raiseBit_keeps | with_reducible apply markRaised_keeps | with_reducible apply keeps_ite | with_reducible apply keeps_foldl | with_reducible apply keeps_foldl_fst | with_reducible apply keeps_foldl_snd
    | intro _ | split | dsimp only | (refine keeps_mk ?_ ?_ ?_ ?_ ?_ <;> first | exact id | skip)

theorem ballastStop_keeps {σ : State} (s : State) (r : Nat) (hs : Keeps σ s) :
    Keeps σ (ballastStop s r) := by
  unfold ballastStop
  iterate 60 all_goals try first
    | with_reducible assumption | with_reducible apply wr_keeps | with_reducible apply modRegion_keeps | with_reducible apply noteStretch_keeps | with_reducible apply raise_keeps | with_reducible apply raiseBit_keeps | with_reducible apply markRaised_keeps | with_reducible apply keeps_ite | with_reducible apply keeps_foldl | with_reducible apply keeps_foldl_fst | with_reducible apply keeps_foldl_snd
    | intro _ | split | dsimp only | (refine keeps_mk ?_ ?_ ?_ ?_ ?_ <;> first | exact id | skip)

theorem hotRegion_keeps {σ : State} (s : State) (r : Nat) (hs : Keeps σ s) :
    Keeps σ (hotRegion s r) := by
  unfold hotRegion
  iterate 60 all_goals try first
    | with_reducible assumption | with_reducible apply wr_keeps | with_reducible apply ballastStop_keeps | with_reducible apply adoptNow_keeps | with_reducible apply noteStretch_keeps | with_reducible apply raise_keeps | with_reducible apply raiseBit_keeps | with_reducible apply markRaised_keeps | with_reducible apply keeps_ite | with_reducible apply keeps_foldl | with_reducible apply keeps_foldl_fst | with_reducible apply keeps_foldl_snd
    | intro _ | split | dsimp only | (refine keeps_mk ?_ ?_ ?_ ?_ ?_ <;> first | exact id | skip)

theorem thermalTrip_keeps {σ : State} (s : State) (src : Nat) (level : Nat) (sensor : Nat) (t : Nat) (hs : Keeps σ s) :
    Keeps σ (thermalTrip s src level sensor t) := by
  unfold thermalTrip
  iterate 60 all_goals try first
    | with_reducible assumption | with_reducible apply partFault_keeps | with_reducible apply stopDrains_keeps | with_reducible apply emit_keeps | with_reducible apply noteStretch_keeps | with_reducible apply raise_keeps | with_reducible apply raiseBit_keeps | with_reducible apply markRaised_keeps | with_reducible apply keeps_ite | with_reducible apply keeps_foldl | with_reducible apply keeps_foldl_fst | with_reducible apply keeps_foldl_snd
    | intro _ | split | dsimp only | (refine keeps_mk ?_ ?_ ?_ ?_ ?_ <;> first | exact id | skip)

theorem thermalChange_keeps {σ : State} (s : State) (die : Nat) (isIo : Bool) (st : Nat) (sensor : Nat) (t : Nat) (regions : List Nat) (hs : Keeps σ s) :
    Keeps σ (thermalChange s die isIo st sensor t regions) := by
  unfold thermalChange
  iterate 60 all_goals try first
    | with_reducible assumption | with_reducible apply hwRecord_keeps | with_reducible apply statusAlarm_keeps | with_reducible apply hotRegion_keeps | with_reducible apply thermalTrip_keeps | with_reducible apply noteStretch_keeps | with_reducible apply raise_keeps | with_reducible apply raiseBit_keeps | with_reducible apply markRaised_keeps | with_reducible apply keeps_ite | with_reducible apply keeps_foldl | with_reducible apply keeps_foldl_fst | with_reducible apply keeps_foldl_snd
    | intro _ | split | dsimp only | (refine keeps_mk ?_ ?_ ?_ ?_ ?_ <;> first | exact id | skip)

theorem thermalRegion_keeps {σ : State} (s : State) (n : Nat) (x : Nat × Nat) (hs : Keeps σ s) :
    Keeps σ (thermalRegion s n x) := by
  unfold thermalRegion
  iterate 60 all_goals try first
    | with_reducible assumption | with_reducible apply wr_keeps | with_reducible apply thermalChange_keeps | with_reducible apply noteStretch_keeps | with_reducible apply raise_keeps | with_reducible apply raiseBit_keeps | with_reducible apply markRaised_keeps | with_reducible apply keeps_ite | with_reducible apply keeps_foldl | with_reducible apply keeps_foldl_fst | with_reducible apply keeps_foldl_snd
    | intro _ | split | dsimp only | (refine keeps_mk ?_ ?_ ?_ ?_ ?_ <;> first | exact id | skip)

theorem thermalIo_keeps {σ : State} (s : State) (d : Nat) (x : Nat × Nat) (hs : Keeps σ s) :
    Keeps σ (thermalIo s d x) := by
  unfold thermalIo
  iterate 60 all_goals try first
    | with_reducible assumption | with_reducible apply thermalChange_keeps | with_reducible apply noteStretch_keeps | with_reducible apply raise_keeps | with_reducible apply raiseBit_keeps | with_reducible apply markRaised_keeps | with_reducible apply keeps_ite | with_reducible apply keeps_foldl | with_reducible apply keeps_foldl_fst | with_reducible apply keeps_foldl_snd
    | intro _ | split | dsimp only | (refine keeps_mk ?_ ?_ ?_ ?_ ?_ <;> first | exact id | skip)

theorem ballastRamp_keeps {σ : State} (s : State) (r : Nat) (hs : Keeps σ s) :
    Keeps σ (ballastRamp s r) := by
  unfold ballastRamp
  iterate 60 all_goals try first
    | with_reducible assumption | with_reducible apply modRegion_keeps | with_reducible apply keeps_ite
    | intro _ | split | dsimp only

theorem execBellowsSample_keeps {σ : State} (d : List Nat) (u : Nat) (tj : List (Nat × Nat)) (io : List (Nat × Nat)) (s : State) (hs : Keeps σ s) :
    KeepsOut σ (execBellowsSample d u tj io s) := by
  unfold execBellowsSample
  iterate 60 all_goals try first
    | with_reducible assumption | with_reducible exact keepsOut_refused _ | with_reducible apply keepsOut_next | with_reducible apply wr_keeps | with_reducible apply ballastRamp_keeps | with_reducible apply thermalRegion_keeps | with_reducible apply thermalIo_keeps | with_reducible apply adoptNow_keeps | with_reducible apply computePaces_keeps | with_reducible apply statusAlarm_keeps | with_reducible apply noteStretch_keeps | with_reducible apply raise_keeps | with_reducible apply raiseBit_keeps | with_reducible apply markRaised_keeps | with_reducible apply keeps_ite | with_reducible apply keepsOut_ite | with_reducible apply keeps_foldl | with_reducible apply keeps_foldl_fst | with_reducible apply keeps_foldl_snd
    | with_reducible intro _ | split | dsimp only | (refine keeps_mk ?_ ?_ ?_ ?_ ?_ <;> first | exact id | skip)

theorem floorStep_keeps {σ : State} (s : State) (r : Nat) (hs : Keeps σ s) :
    Keeps σ (floorStep s r) := by
  unfold floorStep
  iterate 60 all_goals try first
    | with_reducible assumption | with_reducible apply wr_keeps | with_reducible apply noteStretch_keeps | with_reducible apply raise_keeps | with_reducible apply raiseBit_keeps | with_reducible apply markRaised_keeps | with_reducible apply keeps_ite | with_reducible apply keeps_foldl | with_reducible apply keeps_foldl_fst | with_reducible apply keeps_foldl_snd
    | intro _ | split | dsimp only | (refine keeps_mk ?_ ?_ ?_ ?_ ?_ <;> first | exact id | skip)

theorem execGovernorWindow_keeps {σ : State} (s : State) (hs : Keeps σ s) :
    KeepsOut σ (execGovernorWindow s) := by
  unfold execGovernorWindow
  iterate 60 all_goals try first
    | with_reducible assumption | with_reducible exact keepsOut_refused _ | with_reducible apply keepsOut_next | with_reducible apply wr_keeps | with_reducible apply computePaces_keeps | with_reducible apply floorStep_keeps | with_reducible apply noteStretch_keeps | with_reducible apply raise_keeps | with_reducible apply raiseBit_keeps | with_reducible apply markRaised_keeps | with_reducible apply keeps_ite | with_reducible apply keepsOut_ite | with_reducible apply keeps_foldl | with_reducible apply keeps_foldl_fst | with_reducible apply keeps_foldl_snd
    | with_reducible intro _ | split | dsimp only | (refine keeps_mk ?_ ?_ ?_ ?_ ?_ <;> first | exact id | skip)

theorem execDroopTrip_keeps {σ : State} (n : Nat) (s : State) (hs : Keeps σ s) :
    KeepsOut σ (execDroopTrip n s) := by
  unfold execDroopTrip
  iterate 60 all_goals try first
    | with_reducible assumption | with_reducible exact keepsOut_refused _ | with_reducible apply keepsOut_next | with_reducible apply modRegion_keeps | with_reducible apply diverge_keeps | with_reducible apply wr_keeps | with_reducible apply trace_keeps | with_reducible apply noteStretch_keeps | with_reducible apply raise_keeps | with_reducible apply raiseBit_keeps | with_reducible apply markRaised_keeps | with_reducible apply keeps_ite | with_reducible apply keepsOut_ite | with_reducible apply keeps_foldl | with_reducible apply keeps_foldl_fst | with_reducible apply keeps_foldl_snd
    | with_reducible intro _ | split | dsimp only | (refine keeps_mk ?_ ?_ ?_ ?_ ?_ <;> first | exact id | skip)

theorem execDroopClear_keeps {σ : State} (n : Nat) (s : State) (hs : Keeps σ s) :
    KeepsOut σ (execDroopClear n s) := by
  unfold execDroopClear
  iterate 60 all_goals try first
    | with_reducible assumption | with_reducible exact keepsOut_refused _ | with_reducible apply keepsOut_next | with_reducible apply advanceTo_keeps | with_reducible apply wr_keeps | with_reducible apply modRegion_keeps | with_reducible apply trace_keeps | with_reducible apply noteStretch_keeps | with_reducible apply raise_keeps | with_reducible apply raiseBit_keeps | with_reducible apply markRaised_keeps | with_reducible apply keeps_ite | with_reducible apply keepsOut_ite | with_reducible apply keeps_foldl | with_reducible apply keeps_foldl_fst | with_reducible apply keeps_foldl_snd
    | with_reducible intro _ | split | dsimp only | (refine keeps_mk ?_ ?_ ?_ ?_ ?_ <;> first | exact id | skip)

theorem ballastStart_keeps {σ : State} (s : State) (r : Nat) (w : Nat) (hs : Keeps σ s) :
    Keeps σ (ballastStart s r w) := by
  unfold ballastStart
  iterate 60 all_goals try first
    | with_reducible assumption | with_reducible apply wr_keeps | with_reducible apply modRegion_keeps | with_reducible apply noteStretch_keeps | with_reducible apply raise_keeps | with_reducible apply raiseBit_keeps | with_reducible apply markRaised_keeps | with_reducible apply keeps_ite | with_reducible apply keeps_foldl | with_reducible apply keeps_foldl_fst | with_reducible apply keeps_foldl_snd
    | intro _ | split | dsimp only | (refine keeps_mk ?_ ?_ ?_ ?_ ?_ <;> first | exact id | skip)

theorem ballastArrive_keeps {σ : State} (s : State) (r : Nat) (hs : Keeps σ s) :
    Keeps σ (ballastArrive s r) := by
  unfold ballastArrive
  iterate 60 all_goals try first
    | with_reducible assumption | with_reducible apply ballastStart_keeps | with_reducible apply noteStretch_keeps | with_reducible apply raise_keeps | with_reducible apply raiseBit_keeps | with_reducible apply markRaised_keeps | with_reducible apply keeps_ite | with_reducible apply keeps_foldl | with_reducible apply keeps_foldl_fst | with_reducible apply keeps_foldl_snd
    | intro _ | split | dsimp only | (refine keeps_mk ?_ ?_ ?_ ?_ ?_ <;> first | exact id | skip)

theorem execBallastRampDown_keeps {σ : State} (r : Nat) (s : State) (hs : Keeps σ s) :
    KeepsOut σ (execBallastRampDown r s) := by
  unfold execBallastRampDown
  iterate 60 all_goals try first
    | with_reducible assumption | with_reducible exact keepsOut_refused _ | with_reducible apply keepsOut_next | with_reducible apply advanceTo_keeps | with_reducible apply modRegion_keeps | with_reducible apply noteStretch_keeps | with_reducible apply raise_keeps | with_reducible apply raiseBit_keeps | with_reducible apply markRaised_keeps | with_reducible apply keeps_ite | with_reducible apply keepsOut_ite | with_reducible apply keeps_foldl | with_reducible apply keeps_foldl_fst | with_reducible apply keeps_foldl_snd
    | with_reducible intro _ | split | dsimp only | (refine keeps_mk ?_ ?_ ?_ ?_ ?_ <;> first | exact id | skip)

end Sys2Proof.Machine
end

