-- ==== Sys2Proof/Laws/KeepsControl.lean ====
section
/-! SUPPORT. What every operation of Machine/Control.lean keeps. -/

namespace Sys2Proof.Machine

theorem ctrlDo_keeps {σ : State} (s : State) (r : Nat) (w : MacroW) (refuse : Option String) (seg : Bool) (f : State → State) (hs : Keeps σ s) (hf : ∀ a0, Keeps σ a0 → Keeps σ (f a0)) :
    KeepsOut σ (ctrlDo s r w refuse seg f) := by
  unfold ctrlDo
  iterate 60 all_goals try first
    | with_reducible assumption | with_reducible exact keepsOut_refused _ | with_reducible apply keepsOut_next | with_reducible apply hf | with_reducible apply retire_keeps | with_reducible apply dispatch_keeps | with_reducible apply raise_keeps | with_reducible apply raiseBit_keeps | with_reducible apply markRaised_keeps | with_reducible apply keeps_ite | with_reducible apply keepsOut_ite | with_reducible apply keeps_foldl | with_reducible apply keeps_foldl_fst | with_reducible apply keeps_foldl_snd
    | with_reducible intro _ | split | dsimp only | (refine keeps_mk ?_ ?_ ?_ ?_ ?_ <;> first | exact id | skip)

theorem execNopMacro_keeps {σ : State} (r : Nat) (w : MacroW) (s : State) (hs : Keeps σ s) :
    KeepsOut σ (execNopMacro r w s) := by
  unfold execNopMacro
  iterate 60 all_goals try first
    | with_reducible assumption | with_reducible exact keepsOut_refused _ | with_reducible apply keepsOut_next | with_reducible apply ctrlDo_keeps | with_reducible apply retire_keeps | with_reducible apply raise_keeps | with_reducible apply raiseBit_keeps | with_reducible apply markRaised_keeps | with_reducible apply keeps_ite | with_reducible apply keepsOut_ite | with_reducible apply keeps_foldl | with_reducible apply keeps_foldl_fst | with_reducible apply keeps_foldl_snd
    | with_reducible intro _ | split | dsimp only | (refine keeps_mk ?_ ?_ ?_ ?_ ?_ <;> first | exact id | skip)

theorem noteOwn_keeps {σ : State} (s : State) (hs : Keeps σ s) :
    Keeps σ (noteOwn s) := by
  unfold noteOwn
  iterate 60 all_goals try first
    | with_reducible assumption | with_reducible apply wr_keeps | with_reducible apply raise_keeps | with_reducible apply raiseBit_keeps | with_reducible apply markRaised_keeps | with_reducible apply keeps_ite | with_reducible apply keeps_foldl | with_reducible apply keeps_foldl_fst | with_reducible apply keeps_foldl_snd
    | intro _ | split | dsimp only | (refine keeps_mk ?_ ?_ ?_ ?_ ?_ <;> first | exact id | skip)

theorem noteArrival_keeps {σ : State} (s : State) (hs : Keeps σ s) :
    Keeps σ (noteArrival s) := by
  unfold noteArrival
  iterate 60 all_goals try first
    | with_reducible assumption | with_reducible apply noteOwn_keeps | with_reducible apply raise_keeps | with_reducible apply raiseBit_keeps | with_reducible apply markRaised_keeps | with_reducible apply keeps_ite | with_reducible apply keeps_foldl | with_reducible apply keeps_foldl_fst | with_reducible apply keeps_foldl_snd
    | intro _ | split | dsimp only | (refine keeps_mk ?_ ?_ ?_ ?_ ?_ <;> first | exact id | skip)

theorem execBar_keeps {σ : State} (r : Nat) (w : MacroW) (s : State) (hs : Keeps σ s) :
    KeepsOut σ (execBar r w s) := by
  unfold execBar
  iterate 60 all_goals try first
    | with_reducible assumption | with_reducible exact keepsOut_refused _ | with_reducible apply keepsOut_next | with_reducible apply ctrlDo_keeps | with_reducible apply noteArrival_keeps | with_reducible apply ballastArrive_keeps | with_reducible apply modRegion_keeps | with_reducible apply raise_keeps | with_reducible apply raiseBit_keeps | with_reducible apply markRaised_keeps | with_reducible apply keeps_ite | with_reducible apply keepsOut_ite | with_reducible apply keeps_foldl | with_reducible apply keeps_foldl_fst | with_reducible apply keeps_foldl_snd
    | with_reducible intro _ | split | dsimp only | (refine keeps_mk ?_ ?_ ?_ ?_ ?_ <;> first | exact id | skip)

theorem execLayer_keeps {σ : State} (r : Nat) (w : MacroW) (s : State) (hs : Keeps σ s) :
    KeepsOut σ (execLayer r w s) := by
  unfold execLayer
  iterate 60 all_goals try first
    | with_reducible assumption | with_reducible exact keepsOut_refused _ | with_reducible apply keepsOut_next | with_reducible apply ctrlDo_keeps | with_reducible apply modRegion_keeps | with_reducible apply raise_keeps | with_reducible apply raiseBit_keeps | with_reducible apply markRaised_keeps | with_reducible apply keeps_ite | with_reducible apply keepsOut_ite | with_reducible apply keeps_foldl | with_reducible apply keeps_foldl_fst | with_reducible apply keeps_foldl_snd
    | with_reducible intro _ | split | dsimp only | (refine keeps_mk ?_ ?_ ?_ ?_ ?_ <;> first | exact id | skip)

theorem execLayerRetire_keeps {σ : State} (r : Nat) (s : State) (hs : Keeps σ s) :
    KeepsOut σ (execLayerRetire r s) := by
  unfold execLayerRetire
  iterate 60 all_goals try first
    | with_reducible assumption | with_reducible exact keepsOut_refused _ | with_reducible apply keepsOut_next | with_reducible apply governorPoint_keeps | with_reducible apply retire_keeps | with_reducible apply raise_keeps | with_reducible apply raiseBit_keeps | with_reducible apply markRaised_keeps | with_reducible apply keeps_ite | with_reducible apply keepsOut_ite | with_reducible apply keeps_foldl | with_reducible apply keeps_foldl_fst | with_reducible apply keeps_foldl_snd
    | with_reducible intro _ | split | dsimp only | (refine keeps_mk ?_ ?_ ?_ ?_ ?_ <;> first | exact id | skip)

theorem execTemperMark_keeps {σ : State} (r : Nat) (w : MacroW) (s : State) (hs : Keeps σ s) :
    KeepsOut σ (execTemperMark r w s) := by
  unfold execTemperMark
  iterate 60 all_goals try first
    | with_reducible assumption | with_reducible exact keepsOut_refused _ | with_reducible apply keepsOut_next | with_reducible apply ctrlDo_keeps | with_reducible apply retire_keeps | with_reducible apply setBit_keeps | with_reducible apply modRegion_keeps | with_reducible apply raise_keeps | with_reducible apply raiseBit_keeps | with_reducible apply markRaised_keeps | with_reducible apply keeps_ite | with_reducible apply keepsOut_ite | with_reducible apply keeps_foldl | with_reducible apply keeps_foldl_fst | with_reducible apply keeps_foldl_snd
    | with_reducible intro _ | split | dsimp only | (refine keeps_mk ?_ ?_ ?_ ?_ ?_ <;> first | exact id | skip)

theorem execPost_keeps {σ : State} (r : Nat) (w : MacroW) (s : State) (hs : Keeps σ s) :
    KeepsOut σ (execPost r w s) := by
  unfold execPost
  iterate 60 all_goals try first
    | with_reducible assumption | with_reducible exact keepsOut_refused _ | with_reducible apply keepsOut_next | with_reducible apply ctrlDo_keeps | with_reducible apply holdRegion_keeps | with_reducible apply retire_keeps | with_reducible apply modJob_keeps | with_reducible apply raise_keeps | with_reducible apply raiseBit_keeps | with_reducible apply markRaised_keeps | with_reducible apply keeps_ite | with_reducible apply keepsOut_ite | with_reducible apply keeps_foldl | with_reducible apply keeps_foldl_fst | with_reducible apply keeps_foldl_snd
    | with_reducible intro _ | split | dsimp only | (refine keeps_mk ?_ ?_ ?_ ?_ ?_ <;> first | exact id | skip)

theorem execPostWrite_keeps {σ : State} (s : State) (hs : Keeps σ s) :
    KeepsOut σ (execPostWrite s) := by
  unfold execPostWrite
  iterate 60 all_goals try first
    | with_reducible assumption | with_reducible exact keepsOut_refused _ | with_reducible apply keepsOut_next | with_reducible apply cqPost_keeps | with_reducible apply modJob_keeps | with_reducible apply raise_keeps | with_reducible apply raiseBit_keeps | with_reducible apply markRaised_keeps | with_reducible apply keeps_ite | with_reducible apply keepsOut_ite | with_reducible apply keeps_foldl | with_reducible apply keeps_foldl_fst | with_reducible apply keeps_foldl_snd
    | with_reducible intro _ | split | dsimp only | (refine keeps_mk ?_ ?_ ?_ ?_ ?_ <;> first | exact id | skip)

theorem ballastAllStop_keeps {σ : State} (s : State) (hs : Keeps σ s) :
    Keeps σ (ballastAllStop s) := by
  unfold ballastAllStop
  iterate 60 all_goals try first
    | with_reducible assumption | with_reducible apply ballastStop_keeps | with_reducible apply raise_keeps | with_reducible apply raiseBit_keeps | with_reducible apply markRaised_keeps | with_reducible apply keeps_ite | with_reducible apply keeps_foldl | with_reducible apply keeps_foldl_fst | with_reducible apply keeps_foldl_snd
    | intro _ | split | dsimp only | (refine keeps_mk ?_ ?_ ?_ ?_ ?_ <;> first | exact id | skip)

theorem endJob_keeps {σ : State} (s : State) (hs : Keeps σ s) :
    Keeps σ (endJob s) := by
  unfold endJob
  iterate 60 all_goals try first
    | with_reducible assumption | with_reducible apply wr_keeps | with_reducible apply ballastAllStop_keeps | with_reducible apply completeEntry_keeps | with_reducible apply modJob_keeps | with_reducible apply raise_keeps | with_reducible apply raiseBit_keeps | with_reducible apply markRaised_keeps | with_reducible apply keeps_ite | with_reducible apply keeps_foldl | with_reducible apply keeps_foldl_fst | with_reducible apply keeps_foldl_snd
    | intro _ | split | dsimp only | (refine keeps_mk ?_ ?_ ?_ ?_ ?_ <;> first | exact id | skip)

theorem execHalt_keeps {σ : State} (r : Nat) (w : MacroW) (s : State) (hs : Keeps σ s) :
    KeepsOut σ (execHalt r w s) := by
  unfold execHalt
  iterate 60 all_goals try first
    | with_reducible assumption | with_reducible exact keepsOut_refused _ | with_reducible apply keepsOut_next | with_reducible apply ctrlDo_keeps | with_reducible apply trace_keeps | with_reducible apply modRegion_keeps | with_reducible apply noteArrival_keeps | with_reducible apply endJob_keeps | with_reducible apply raise_keeps | with_reducible apply raiseBit_keeps | with_reducible apply markRaised_keeps | with_reducible apply keeps_ite | with_reducible apply keepsOut_ite | with_reducible apply keeps_foldl | with_reducible apply keeps_foldl_fst | with_reducible apply keeps_foldl_snd
    | with_reducible intro _ | split | dsimp only | (refine keeps_mk ?_ ?_ ?_ ?_ ?_ <;> first | exact id | skip)

theorem execBurin_keeps {σ : State} (r : Nat) (w : MacroW) (s : State) (hs : Keeps σ s) :
    KeepsOut σ (execBurin r w s) := by
  unfold execBurin
  iterate 60 all_goals try first
    | with_reducible assumption | with_reducible exact keepsOut_refused _ | with_reducible apply keepsOut_next | with_reducible apply ctrlDo_keeps | with_reducible apply modRegion_keeps | with_reducible apply putBurin_keeps | with_reducible apply retire_keeps | with_reducible apply raise_keeps | with_reducible apply raiseBit_keeps | with_reducible apply markRaised_keeps | with_reducible apply keeps_ite | with_reducible apply keepsOut_ite | with_reducible apply keeps_foldl | with_reducible apply keeps_foldl_fst | with_reducible apply keeps_foldl_snd
    | with_reducible intro _ | split | dsimp only | (refine keeps_mk ?_ ?_ ?_ ?_ ?_ <;> first | exact id | skip)

end Sys2Proof.Machine
end

