-- ==== Sys2Proof/Laws/KeepsIngot.lean ====
section
/-! SUPPORT. What every operation of Machine/Ingot.lean keeps. -/

namespace Sys2Proof.Machine

theorem modS_keeps {σ : State} (s : State) (c : Nat) (a : Bool) (f : Stream → Stream) (hs : Keeps σ s) :
    Keeps σ (modS s c a f) := by
  unfold modS
  iterate 60 all_goals try first
    | with_reducible assumption | with_reducible apply modCtx_keeps | with_reducible apply raise_keeps | with_reducible apply raiseBit_keeps | with_reducible apply markRaised_keeps | with_reducible apply keeps_ite | with_reducible apply keeps_foldl | with_reducible apply keeps_foldl_fst | with_reducible apply keeps_foldl_snd
    | intro _ | split | dsimp only | (refine keeps_mk ?_ ?_ ?_ ?_ ?_ <;> first | exact id | skip)

theorem conceal_keeps {σ : State} (s : State) (c : Nat) (a : Bool) (hs : Keeps σ s) :
    Keeps σ (conceal s c a) := by
  unfold conceal
  iterate 60 all_goals try first
    | with_reducible assumption | with_reducible apply alarmEvent_keeps | with_reducible apply setStickies_keeps | with_reducible apply bump_keeps | with_reducible apply modS_keeps | with_reducible apply raise_keeps | with_reducible apply raiseBit_keeps | with_reducible apply markRaised_keeps | with_reducible apply keeps_ite | with_reducible apply keeps_foldl | with_reducible apply keeps_foldl_fst | with_reducible apply keeps_foldl_snd
    | intro _ | split | dsimp only | (refine keeps_mk ?_ ?_ ?_ ?_ ?_ <;> first | exact id | skip)

end Sys2Proof.Machine
end

