-- ==== Sys2Proof/Laws/KeepsPool.lean ====
section
/-! SUPPORT. What every operation of Machine/Pool.lean keeps. -/

namespace Sys2Proof.Machine

theorem writeQp_keeps {σ : State} (s : State) (c : Nat) (hs : Keeps σ s) :
    Keeps σ (writeQp s c) := by
  unfold writeQp
  iterate 60 all_goals try first
    | with_reducible assumption | with_reducible apply devPut_keeps | with_reducible apply raise_keeps | with_reducible apply raiseBit_keeps | with_reducible apply markRaised_keeps | with_reducible apply keeps_ite | with_reducible apply keeps_foldl | with_reducible apply keeps_foldl_fst | with_reducible apply keeps_foldl_snd
    | intro _ | split | dsimp only | (refine keeps_mk ?_ ?_ ?_ ?_ ?_ <;> first | exact id | skip)

theorem writeMarked_keeps {σ : State} (s : State) (a : Nat) (l : List (Byte × Bool)) (hs : Keeps σ s) :
    Keeps σ (writeMarked s a l) := by
  unfold writeMarked
  iterate 60 all_goals try first
    | with_reducible assumption | with_reducible apply devWrite_keeps | with_reducible apply raise_keeps | with_reducible apply raiseBit_keeps | with_reducible apply markRaised_keeps | with_reducible apply keeps_ite | with_reducible apply keeps_foldl | with_reducible apply keeps_foldl_fst | with_reducible apply keeps_foldl_snd
    | intro _ | split | dsimp only | (refine keeps_mk ?_ ?_ ?_ ?_ ?_ <;> first | exact id | skip)

theorem copyWeights_keeps {σ : State} (s : State) (c : Nat) (of : Nat) (dst : Nat) (hs : Keeps σ s) :
    Keeps σ (copyWeights s c of dst) := by
  unfold copyWeights
  iterate 60 all_goals try first
    | with_reducible assumption | with_reducible apply writeMarked_keeps | with_reducible apply raise_keeps | with_reducible apply raiseBit_keeps | with_reducible apply markRaised_keeps | with_reducible apply keeps_ite | with_reducible apply keeps_foldl | with_reducible apply keeps_foldl_fst | with_reducible apply keeps_foldl_snd
    | intro _ | split | dsimp only | (refine keeps_mk ?_ ?_ ?_ ?_ ?_ <;> first | exact id | skip)

theorem settleRefs_keeps {σ : State} (s : State) (c : Nat) (hs : Keeps σ s) :
    Keeps σ (settleRefs s c) := by
  unfold settleRefs
  iterate 60 all_goals try first
    | with_reducible assumption | with_reducible apply modS_keeps | with_reducible apply writeMarked_keeps | with_reducible apply raise_keeps | with_reducible apply raiseBit_keeps | with_reducible apply markRaised_keeps | with_reducible apply keeps_ite | with_reducible apply keeps_foldl | with_reducible apply keeps_foldl_fst | with_reducible apply keeps_foldl_snd
    | intro _ | split | dsimp only | (refine keeps_mk ?_ ?_ ?_ ?_ ?_ <;> first | exact id | skip)

theorem supplyRefs_keeps {σ : State} (s : State) (c : Nat) (p : Pkg) (l : List Nat) (first : Bool) (e : Nat) (hs : Keeps σ s) :
    Keeps σ (supplyRefs s c p l first e) := by
  unfold supplyRefs
  iterate 60 all_goals try first
    | with_reducible assumption | with_reducible apply writeMarked_keeps | with_reducible apply raise_keeps | with_reducible apply raiseBit_keeps | with_reducible apply markRaised_keeps | with_reducible apply keeps_ite | with_reducible apply keeps_foldl | with_reducible apply keeps_foldl_fst | with_reducible apply keeps_foldl_snd
    | intro _ | split | dsimp only | (refine keeps_mk ?_ ?_ ?_ ?_ ?_ <;> first | exact id | skip)

theorem supplyPrior_keeps {σ : State} (s : State) (c : Nat) (p : Pkg) (marker : Bool) (hs : Keeps σ s) :
    Keeps σ (supplyPrior s c p marker) := by
  unfold supplyPrior
  iterate 60 all_goals try first
    | with_reducible assumption | with_reducible apply modS_keeps | with_reducible apply writeMarked_keeps | with_reducible apply raise_keeps | with_reducible apply raiseBit_keeps | with_reducible apply markRaised_keeps | with_reducible apply keeps_ite | with_reducible apply keeps_foldl | with_reducible apply keeps_foldl_fst | with_reducible apply keeps_foldl_snd
    | intro _ | split | dsimp only | (refine keeps_mk ?_ ?_ ?_ ?_ ?_ <;> first | exact id | skip)

end Sys2Proof.Machine
end

