-- ==== Sys2Proof/Laws/KeepsEncode.lean ====
section
/-! SUPPORT. What every operation of Machine/Encode.lean keeps. -/

namespace Sys2Proof.Machine

theorem fillRecs_keeps {σ : State} (c : Nat) (l : List DrainRec) (s : State) (hs : Keeps σ s) :
    Keeps σ (fillRecs c l s) := by
  induction l generalizing s with
  | nil => exact hs
  | cons r l ih =>
    unfold fillRecs
    iterate 20 all_goals try first
      | with_reducible assumption | with_reducible apply ih | with_reducible apply putRecords_keeps | with_reducible apply modCtx_keeps
      | split | dsimp only

theorem drainFill_keeps {σ : State} (s : State) (c : Nat) (hs : Keeps σ s) :
    Keeps σ (drainFill s c) := by
  unfold drainFill
  iterate 60 all_goals try first
    | with_reducible assumption | with_reducible apply fillRecs_keeps | with_reducible apply raise_keeps | with_reducible apply raiseBit_keeps | with_reducible apply markRaised_keeps | with_reducible apply keeps_ite | with_reducible apply keeps_foldl | with_reducible apply keeps_foldl_fst | with_reducible apply keeps_foldl_snd
    | intro _ | split | dsimp only | (refine keeps_mk ?_ ?_ ?_ ?_ ?_ <;> first | exact id | skip)

theorem drainPut_keeps {σ : State} (s : State) (c : Nat) (r : DrainRec) (hs : Keeps σ s) :
    Keeps σ (drainPut s c r) := by
  unfold drainPut
  iterate 60 all_goals try first
    | with_reducible assumption | with_reducible apply drainFill_keeps | with_reducible apply modCtx_keeps | with_reducible apply raise_keeps | with_reducible apply raiseBit_keeps | with_reducible apply markRaised_keeps | with_reducible apply keeps_ite | with_reducible apply keeps_foldl | with_reducible apply keeps_foldl_fst | with_reducible apply keeps_foldl_snd
    | intro _ | split | dsimp only | (refine keeps_mk ?_ ?_ ?_ ?_ ?_ <;> first | exact id | skip)

theorem recsLeave_keeps {σ : State} (s : State) (c : Nat) (out : DrainRec → Bool) (hs : Keeps σ s) :
    Keeps σ (recsLeave s c out) := by
  unfold recsLeave
  iterate 60 all_goals try first
    | with_reducible assumption | with_reducible apply drainFill_keeps | with_reducible apply modCtx_keeps | with_reducible apply hoopPops_keeps | with_reducible apply raise_keeps | with_reducible apply raiseBit_keeps | with_reducible apply markRaised_keeps | with_reducible apply keeps_ite | with_reducible apply keeps_foldl | with_reducible apply keeps_foldl_fst | with_reducible apply keeps_foldl_snd
    | intro _ | split | dsimp only | (refine keeps_mk ?_ ?_ ?_ ?_ ?_ <;> first | exact id | skip)

theorem encSupply_keeps {σ : State} (s : State) (c : Nat) (a : Bool) (p : Pkg) (e : EncPic) (starts : Bool) (hs : Keeps σ s) :
    Keeps σ (encSupply s c a p e starts) := by
  unfold encSupply
  iterate 60 all_goals try first
    | with_reducible assumption | with_reducible apply writeQp_keeps | with_reducible apply settleRefs_keeps | with_reducible apply supplyRefs_keeps | with_reducible apply supplyPrior_keeps | with_reducible apply raise_keeps | with_reducible apply raiseBit_keeps | with_reducible apply markRaised_keeps | with_reducible apply keeps_ite | with_reducible apply keeps_foldl | with_reducible apply keeps_foldl_fst | with_reducible apply keeps_foldl_snd
    | intro _ | split | dsimp only | (refine keeps_mk ?_ ?_ ?_ ?_ ?_ <;> first | exact id | skip)

theorem encPre_keeps {σ : State} (s : State) (c : Nat) (a : Bool) (p : Pkg) (e : EncPic) (first : Bool) (hs : Keeps σ s) :
    Keeps σ (encPre s c a p e first) := by
  unfold encPre
  iterate 60 all_goals try first
    | with_reducible assumption | with_reducible apply copyWeights_keeps | with_reducible apply drainPut_keeps | with_reducible apply encSupply_keeps | with_reducible apply modS_keeps | with_reducible apply raise_keeps | with_reducible apply raiseBit_keeps | with_reducible apply markRaised_keeps | with_reducible apply keeps_ite | with_reducible apply keeps_foldl | with_reducible apply keeps_foldl_fst | with_reducible apply keeps_foldl_snd
    | intro _ | split | dsimp only | (refine keeps_mk ?_ ?_ ?_ ?_ ?_ <;> first | exact id | skip)

theorem encOpen_keeps {σ : State} (s : State) (c : Nat) (a : Bool) (slot : Nat) (boxes : List Byte) (bad : Bool) (hs : Keeps σ s) :
    Keeps σ (encOpen s c a slot boxes bad) := by
  unfold encOpen
  iterate 60 all_goals try first
    | with_reducible assumption | with_reducible apply encSupply_keeps | with_reducible apply encPre_keeps | with_reducible apply modS_keeps | with_reducible apply raise_keeps | with_reducible apply raiseBit_keeps | with_reducible apply markRaised_keeps | with_reducible apply keeps_ite | with_reducible apply keeps_foldl | with_reducible apply keeps_foldl_fst | with_reducible apply keeps_foldl_snd
    | intro _ | split | dsimp only | (refine keeps_mk ?_ ?_ ?_ ?_ ?_ <;> first | exact id | skip)

theorem lastSlotEnd_keeps {σ : State} (s : State) (c : Nat) (a : Bool) (slot : Nat) (hs : Keeps σ s) :
    Keeps σ (lastSlotEnd s c a slot) := by
  unfold lastSlotEnd
  iterate 60 all_goals try first
    | with_reducible assumption | with_reducible apply modCtx_keeps | with_reducible apply raise_keeps | with_reducible apply raiseBit_keeps | with_reducible apply markRaised_keeps | with_reducible apply keeps_ite | with_reducible apply keeps_foldl | with_reducible apply keeps_foldl_fst | with_reducible apply keeps_foldl_snd
    | intro _ | split | dsimp only | (refine keeps_mk ?_ ?_ ?_ ?_ ?_ <;> first | exact id | skip)

theorem encHold_keeps {σ : State} (s : State) (c : Nat) (a : Bool) (e : EncPic) (reason : Nat) (hs : Keeps σ s) :
    Keeps σ (encHold s c a e reason) := by
  unfold encHold
  iterate 60 all_goals try first
    | with_reducible assumption | with_reducible apply drainPut_keeps | with_reducible apply lastSlotEnd_keeps | with_reducible apply modS_keeps | with_reducible apply raise_keeps | with_reducible apply raiseBit_keeps | with_reducible apply markRaised_keeps | with_reducible apply keeps_ite | with_reducible apply keeps_foldl | with_reducible apply keeps_foldl_fst | with_reducible apply keeps_foldl_snd
    | intro _ | split | dsimp only | (refine keeps_mk ?_ ?_ ?_ ?_ ?_ <;> first | exact id | skip)

theorem encWrite_keeps {σ : State} (s : State) (c : Nat) (a : Bool) (e : EncPic) (u : List Byte) (bad : Bool) (hs : Keeps σ s) :
    Keeps σ (encWrite s c a e u bad) := by
  unfold encWrite
  iterate 60 all_goals try first
    | with_reducible assumption | with_reducible apply copyWeights_keeps | with_reducible apply drainPut_keeps | with_reducible apply lastSlotEnd_keeps | with_reducible apply modS_keeps | with_reducible apply wr_keeps | with_reducible apply raise_keeps | with_reducible apply raiseBit_keeps | with_reducible apply markRaised_keeps | with_reducible apply keeps_ite | with_reducible apply keeps_foldl | with_reducible apply keeps_foldl_fst | with_reducible apply keeps_foldl_snd
    | intro _ | split | dsimp only | (refine keeps_mk ?_ ?_ ?_ ?_ ?_ <;> first | exact id | skip)

theorem encAgain_keeps {σ : State} (s : State) (c : Nat) (a : Bool) (e : EncPic) (f : Stream → Stream) (hs : Keeps σ s) :
    Keeps σ (encAgain s c a e f) := by
  unfold encAgain
  iterate 60 all_goals try first
    | with_reducible assumption | with_reducible apply writeQp_keeps | with_reducible apply modS_keeps | with_reducible apply raise_keeps | with_reducible apply raiseBit_keeps | with_reducible apply markRaised_keeps | with_reducible apply keeps_ite | with_reducible apply keeps_foldl | with_reducible apply keeps_foldl_fst | with_reducible apply keeps_foldl_snd
    | intro _ | split | dsimp only | (refine keeps_mk ?_ ?_ ?_ ?_ ?_ <;> first | exact id | skip)

theorem encFinish_keeps {σ : State} (s : State) (c : Nat) (a : Bool) (e : EncPic) (hs : Keeps σ s) :
    Keeps σ (encFinish s c a e) := by
  unfold encFinish
  iterate 60 all_goals try first
    | with_reducible assumption | with_reducible apply modS_keeps | with_reducible apply bump_keeps | with_reducible apply encAgain_keeps | with_reducible apply encHold_keeps | with_reducible apply encWrite_keeps | with_reducible apply raise_keeps | with_reducible apply raiseBit_keeps | with_reducible apply markRaised_keeps | with_reducible apply keeps_ite | with_reducible apply keeps_foldl | with_reducible apply keeps_foldl_fst | with_reducible apply keeps_foldl_snd
    | intro _ | split | dsimp only | (refine keeps_mk ?_ ?_ ?_ ?_ ?_ <;> first | exact id | skip)

theorem encStep_keeps {σ : State} (s : State) (c : Nat) (a : Bool) (r : List Byte) (tally : List Nat) (bad : Bool) (hs : Keeps σ s) :
    Keeps σ (encStep s c a r tally bad) := by
  unfold encStep
  iterate 60 all_goals try first
    | with_reducible assumption | with_reducible apply encPre_keeps | with_reducible apply encFinish_keeps | with_reducible apply modS_keeps | with_reducible apply raise_keeps | with_reducible apply raiseBit_keeps | with_reducible apply markRaised_keeps | with_reducible apply keeps_ite | with_reducible apply keeps_foldl | with_reducible apply keeps_foldl_fst | with_reducible apply keeps_foldl_snd
    | intro _ | split | dsimp only | (refine keeps_mk ?_ ?_ ?_ ?_ ?_ <;> first | exact id | skip)

theorem encBoxes_keeps {σ : State} (s : State) (c : Nat) (boxes : List Byte) (bad : Bool) (hs : Keeps σ s) :
    Keeps σ (encBoxes s c boxes bad) := by
  unfold encBoxes
  iterate 60 all_goals try first
    | with_reducible assumption | with_reducible apply modS_keeps | with_reducible apply writeQp_keeps | with_reducible apply raise_keeps | with_reducible apply raiseBit_keeps | with_reducible apply markRaised_keeps | with_reducible apply keeps_ite | with_reducible apply keeps_foldl | with_reducible apply keeps_foldl_fst | with_reducible apply keeps_foldl_snd
    | intro _ | split | dsimp only | (refine keeps_mk ?_ ?_ ?_ ?_ ?_ <;> first | exact id | skip)

end Sys2Proof.Machine
end

