-- ==== Sys2Proof/Laws/KeepsConv.lean ====
section
/-! SUPPORT. What every operation of Machine/Conv.lean keeps. -/

namespace Sys2Proof.Machine

theorem execConv_keeps {σ : State} (r : Nat) (sub : Nat) (w : MacroW) (e : MemErrs) (s : State) (hs : Keeps σ s) :
    KeepsOut σ (execConv r sub w e s) := by
  unfold execConv
  iterate 60 all_goals try first
    | with_reducible assumption | with_reducible exact keepsOut_refused _ | with_reducible apply keepsOut_next | with_reducible apply anvilProd_keeps | with_reducible apply prodBlocks_keeps | with_reducible apply guardAddr_keeps | with_reducible apply macroDo_keeps | with_reducible apply raise_keeps | with_reducible apply raiseBit_keeps | with_reducible apply markRaised_keeps | with_reducible apply keeps_ite | with_reducible apply keepsOut_ite | with_reducible apply keeps_foldl | with_reducible apply keeps_foldl_fst | with_reducible apply keeps_foldl_snd
    | with_reducible intro _ | split | dsimp only | (refine keeps_mk ?_ ?_ ?_ ?_ ?_ <;> first | exact id | skip)

theorem stemProd_keeps {σ : State} (s : State) (r : Nat) (e : MemErrs) (pl : Place) (q : ProdPlan) (hs : Keeps σ s) :
    Keeps σ (stemProd s r e pl q) := by
  unfold stemProd
  iterate 60 all_goals try first
    | with_reducible assumption | with_reducible apply runProd_keeps | with_reducible apply jobFault_keeps | with_reducible apply retire_keeps | with_reducible apply chargeErrs_keeps | with_reducible apply raise_keeps | with_reducible apply raiseBit_keeps | with_reducible apply markRaised_keeps | with_reducible apply keeps_ite | with_reducible apply keeps_foldl | with_reducible apply keeps_foldl_fst | with_reducible apply keeps_foldl_snd
    | intro _ | split | dsimp only | (refine keeps_mk ?_ ?_ ?_ ?_ ?_ <;> first | exact id | skip)

theorem execStem_keeps {σ : State} (r : Nat) (sub : Nat) (w : MacroW) (e : MemErrs) (s : State) (hs : Keeps σ s) :
    KeepsOut σ (execStem r sub w e s) := by
  unfold execStem
  iterate 60 all_goals try first
    | with_reducible assumption | with_reducible exact keepsOut_refused _ | with_reducible apply keepsOut_next | with_reducible apply stemProd_keeps | with_reducible apply guardAddr_keeps | with_reducible apply macroDo_keeps | with_reducible apply raise_keeps | with_reducible apply raiseBit_keeps | with_reducible apply markRaised_keeps | with_reducible apply keeps_ite | with_reducible apply keepsOut_ite | with_reducible apply keeps_foldl | with_reducible apply keeps_foldl_fst | with_reducible apply keeps_foldl_snd
    | with_reducible intro _ | split | dsimp only | (refine keeps_mk ?_ ?_ ?_ ?_ ?_ <;> first | exact id | skip)

theorem poolBlocks_keeps {σ : State} (s : State) (r : Nat) (w : MacroW) (e : MemErrs) (a o : Opd) (outs : List (Nat × Nat × Nat)) (hs : Keeps σ s) :
    Keeps σ (poolBlocks s r w e a o outs) := by
  unfold poolBlocks
  split
  · exact chargeBlocks_keeps _ _ _ _ _ hs
  · exact hs

theorem poolDo_keeps {σ : State} (s : State) (r : Nat) (w : MacroW) (e : MemErrs) (mx : Bool) (refuse : Option String) (f : PoolFn) (hs : Keeps σ s) :
    KeepsOut σ (poolDo s r w e mx refuse f) := by
  unfold poolDo
  iterate 60 all_goals try first
    | with_reducible assumption | with_reducible exact keepsOut_refused _ | with_reducible apply keepsOut_next | with_reducible apply poolBlocks_keeps | with_reducible apply overFault_keeps | with_reducible apply chargeArith_keeps | with_reducible apply storeRuns_keeps | with_reducible apply guardAddr_keeps | with_reducible apply tallyAdd_keeps | with_reducible apply retire_keeps | with_reducible apply chargeErrs_keeps | with_reducible apply macroDo_keeps | with_reducible apply raise_keeps | with_reducible apply raiseBit_keeps | with_reducible apply markRaised_keeps | with_reducible apply keeps_ite | with_reducible apply keepsOut_ite | with_reducible apply keeps_foldl | with_reducible apply keeps_foldl_fst | with_reducible apply keeps_foldl_snd
    | with_reducible intro _ | split | dsimp only | (refine keeps_mk ?_ ?_ ?_ ?_ ?_ <;> first | exact id | skip)

theorem execPoolMax_keeps {σ : State} (r : Nat) (w : MacroW) (e : MemErrs) (s : State) (hs : Keeps σ s) :
    KeepsOut σ (execPoolMax r w e s) := by
  unfold execPoolMax
  iterate 60 all_goals try first
    | with_reducible assumption | with_reducible exact keepsOut_refused _ | with_reducible apply keepsOut_next | with_reducible apply poolDo_keeps | with_reducible apply raise_keeps | with_reducible apply raiseBit_keeps | with_reducible apply markRaised_keeps | with_reducible apply keeps_ite | with_reducible apply keepsOut_ite | with_reducible apply keeps_foldl | with_reducible apply keeps_foldl_fst | with_reducible apply keeps_foldl_snd
    | with_reducible intro _ | split | dsimp only | (refine keeps_mk ?_ ?_ ?_ ?_ ?_ <;> first | exact id | skip)

theorem execPoolAverage_keeps {σ : State} (r : Nat) (w : MacroW) (e : MemErrs) (s : State) (hs : Keeps σ s) :
    KeepsOut σ (execPoolAverage r w e s) := by
  unfold execPoolAverage
  iterate 60 all_goals try first
    | with_reducible assumption | with_reducible exact keepsOut_refused _ | with_reducible apply keepsOut_next | with_reducible apply poolDo_keeps | with_reducible apply raise_keeps | with_reducible apply raiseBit_keeps | with_reducible apply markRaised_keeps | with_reducible apply keeps_ite | with_reducible apply keepsOut_ite | with_reducible apply keeps_foldl | with_reducible apply keeps_foldl_fst | with_reducible apply keeps_foldl_snd
    | with_reducible intro _ | split | dsimp only | (refine keeps_mk ?_ ?_ ?_ ?_ ?_ <;> first | exact id | skip)

theorem execPoolSum_keeps {σ : State} (r : Nat) (w : MacroW) (e : MemErrs) (s : State) (hs : Keeps σ s) :
    KeepsOut σ (execPoolSum r w e s) := by
  unfold execPoolSum
  iterate 60 all_goals try first
    | with_reducible assumption | with_reducible exact keepsOut_refused _ | with_reducible apply keepsOut_next | with_reducible apply poolDo_keeps | with_reducible apply raise_keeps | with_reducible apply raiseBit_keeps | with_reducible apply markRaised_keeps | with_reducible apply keeps_ite | with_reducible apply keepsOut_ite | with_reducible apply keeps_foldl | with_reducible apply keeps_foldl_fst | with_reducible apply keeps_foldl_snd
    | with_reducible intro _ | split | dsimp only | (refine keeps_mk ?_ ?_ ?_ ?_ ?_ <;> first | exact id | skip)

end Sys2Proof.Machine
end

