-- ==== Sys2Proof/Laws/KeepsPointwise.lean ====
section
/-! SUPPORT. What every operation of Machine/Pointwise.lean keeps. -/

namespace Sys2Proof.Machine

theorem pointBlocks_keeps {σ : State} (s : State) (r : Nat) (e : MemErrs) (c : PointCmd) (ins : List Opd) (o : Opd)
    (outs : List (Nat × Nat × Nat × Nat)) (hs : Keeps σ s) : Keeps σ (pointBlocks s r e c ins o outs) := by
  unfold pointBlocks
  apply keeps_foldl
  · intro _ _ h
    split
    · split
      · exact chargeBlocks_keeps _ _ _ _ _ h
      · exact h
    · exact h
  · exact hs

theorem pointScales_keeps {σ : State} (s : State) (t : State) (e : MemErrs) (c : PointCmd) (ins : List Opd) (o : Opd) (outs : List (Nat × Nat × Nat × Nat)) (hs : Keeps σ t) :
    Keeps σ (pointScales s t e c ins o outs) := by
  unfold pointScales
  iterate 60 all_goals try first
    | with_reducible assumption | with_reducible apply formScales_keeps | with_reducible apply raise_keeps | with_reducible apply raiseBit_keeps | with_reducible apply markRaised_keeps | with_reducible apply keeps_ite | with_reducible apply keeps_foldl | with_reducible apply keeps_foldl_fst | with_reducible apply keeps_foldl_snd
    | intro _ | split | dsimp only | (refine keeps_mk ?_ ?_ ?_ ?_ ?_ <;> first | exact id | skip)

theorem pointDo_keeps {σ : State} (s : State) (r : Nat) (op : Nat) (w : MacroW) (e : MemErrs) (c : PointCmd) (hs : Keeps σ s) :
    KeepsOut σ (pointDo s r op w e c) := by
  unfold pointDo
  iterate 60 all_goals try first
    | with_reducible assumption | with_reducible exact keepsOut_refused _ | with_reducible apply keepsOut_next | with_reducible apply overFault_keeps | with_reducible apply pointBlocks_keeps | with_reducible apply pointScales_keeps | with_reducible apply chargeArith_keeps | with_reducible apply storeRuns_keeps | with_reducible apply guardAddr_keeps | with_reducible apply tallyAdd_keeps | with_reducible apply retire_keeps | with_reducible apply chargeErrs_keeps | with_reducible apply macroDo_keeps | with_reducible apply raise_keeps | with_reducible apply raiseBit_keeps | with_reducible apply markRaised_keeps | with_reducible apply keeps_ite | with_reducible apply keepsOut_ite | with_reducible apply keeps_foldl | with_reducible apply keeps_foldl_fst | with_reducible apply keeps_foldl_snd
    | with_reducible intro _ | split | dsimp only | (refine keeps_mk ?_ ?_ ?_ ?_ ?_ <;> first | exact id | skip)

theorem execEltAdd_keeps {σ : State} (r : Nat) (w : MacroW) (e : MemErrs) (s : State) (hs : Keeps σ s) :
    KeepsOut σ (execEltAdd r w e s) := by
  unfold execEltAdd
  iterate 60 all_goals try first
    | with_reducible assumption | with_reducible exact keepsOut_refused _ | with_reducible apply keepsOut_next | with_reducible apply pointDo_keeps | with_reducible apply raise_keeps | with_reducible apply raiseBit_keeps | with_reducible apply markRaised_keeps | with_reducible apply keeps_ite | with_reducible apply keepsOut_ite | with_reducible apply keeps_foldl | with_reducible apply keeps_foldl_fst | with_reducible apply keeps_foldl_snd
    | with_reducible intro _ | split | dsimp only | (refine keeps_mk ?_ ?_ ?_ ?_ ?_ <;> first | exact id | skip)

theorem execEltMultiply_keeps {σ : State} (r : Nat) (w : MacroW) (e : MemErrs) (s : State) (hs : Keeps σ s) :
    KeepsOut σ (execEltMultiply r w e s) := by
  unfold execEltMultiply
  iterate 60 all_goals try first
    | with_reducible assumption | with_reducible exact keepsOut_refused _ | with_reducible apply keepsOut_next | with_reducible apply pointDo_keeps | with_reducible apply raise_keeps | with_reducible apply raiseBit_keeps | with_reducible apply markRaised_keeps | with_reducible apply keeps_ite | with_reducible apply keepsOut_ite | with_reducible apply keeps_foldl | with_reducible apply keeps_foldl_fst | with_reducible apply keeps_foldl_snd
    | with_reducible intro _ | split | dsimp only | (refine keeps_mk ?_ ?_ ?_ ?_ ?_ <;> first | exact id | skip)

theorem execEltSubtract_keeps {σ : State} (r : Nat) (w : MacroW) (e : MemErrs) (s : State) (hs : Keeps σ s) :
    KeepsOut σ (execEltSubtract r w e s) := by
  unfold execEltSubtract
  iterate 60 all_goals try first
    | with_reducible assumption | with_reducible exact keepsOut_refused _ | with_reducible apply keepsOut_next | with_reducible apply pointDo_keeps | with_reducible apply raise_keeps | with_reducible apply raiseBit_keeps | with_reducible apply markRaised_keeps | with_reducible apply keeps_ite | with_reducible apply keepsOut_ite | with_reducible apply keeps_foldl | with_reducible apply keeps_foldl_fst | with_reducible apply keeps_foldl_snd
    | with_reducible intro _ | split | dsimp only | (refine keeps_mk ?_ ?_ ?_ ?_ ?_ <;> first | exact id | skip)

theorem execEltMax_keeps {σ : State} (r : Nat) (w : MacroW) (e : MemErrs) (s : State) (hs : Keeps σ s) :
    KeepsOut σ (execEltMax r w e s) := by
  unfold execEltMax
  iterate 60 all_goals try first
    | with_reducible assumption | with_reducible exact keepsOut_refused _ | with_reducible apply keepsOut_next | with_reducible apply pointDo_keeps | with_reducible apply raise_keeps | with_reducible apply raiseBit_keeps | with_reducible apply markRaised_keeps | with_reducible apply keeps_ite | with_reducible apply keepsOut_ite | with_reducible apply keeps_foldl | with_reducible apply keeps_foldl_fst | with_reducible apply keeps_foldl_snd
    | with_reducible intro _ | split | dsimp only | (refine keeps_mk ?_ ?_ ?_ ?_ ?_ <;> first | exact id | skip)

theorem execEltMin_keeps {σ : State} (r : Nat) (w : MacroW) (e : MemErrs) (s : State) (hs : Keeps σ s) :
    KeepsOut σ (execEltMin r w e s) := by
  unfold execEltMin
  iterate 60 all_goals try first
    | with_reducible assumption | with_reducible exact keepsOut_refused _ | with_reducible apply keepsOut_next | with_reducible apply pointDo_keeps | with_reducible apply raise_keeps | with_reducible apply raiseBit_keeps | with_reducible apply markRaised_keeps | with_reducible apply keeps_ite | with_reducible apply keepsOut_ite | with_reducible apply keeps_foldl | with_reducible apply keeps_foldl_fst | with_reducible apply keeps_foldl_snd
    | with_reducible intro _ | split | dsimp only | (refine keeps_mk ?_ ?_ ?_ ?_ ?_ <;> first | exact id | skip)

theorem execLut_keeps {σ : State} (r : Nat) (w : MacroW) (e : MemErrs) (s : State) (hs : Keeps σ s) :
    KeepsOut σ (execLut r w e s) := by
  unfold execLut
  iterate 60 all_goals try first
    | with_reducible assumption | with_reducible exact keepsOut_refused _ | with_reducible apply keepsOut_next | with_reducible apply pointDo_keeps | with_reducible apply raise_keeps | with_reducible apply raiseBit_keeps | with_reducible apply markRaised_keeps | with_reducible apply keeps_ite | with_reducible apply keepsOut_ite | with_reducible apply keeps_foldl | with_reducible apply keeps_foldl_fst | with_reducible apply keeps_foldl_snd
    | with_reducible intro _ | split | dsimp only | (refine keeps_mk ?_ ?_ ?_ ?_ ?_ <;> first | exact id | skip)

theorem execRedSum_keeps {σ : State} (r : Nat) (w : MacroW) (e : MemErrs) (s : State) (hs : Keeps σ s) :
    KeepsOut σ (execRedSum r w e s) := by
  unfold execRedSum
  iterate 60 all_goals try first
    | with_reducible assumption | with_reducible exact keepsOut_refused _ | with_reducible apply keepsOut_next | with_reducible apply pointDo_keeps | with_reducible apply raise_keeps | with_reducible apply raiseBit_keeps | with_reducible apply markRaised_keeps | with_reducible apply keeps_ite | with_reducible apply keepsOut_ite | with_reducible apply keeps_foldl | with_reducible apply keeps_foldl_fst | with_reducible apply keeps_foldl_snd
    | with_reducible intro _ | split | dsimp only | (refine keeps_mk ?_ ?_ ?_ ?_ ?_ <;> first | exact id | skip)

theorem execRedMax_keeps {σ : State} (r : Nat) (w : MacroW) (e : MemErrs) (s : State) (hs : Keeps σ s) :
    KeepsOut σ (execRedMax r w e s) := by
  unfold execRedMax
  iterate 60 all_goals try first
    | with_reducible assumption | with_reducible exact keepsOut_refused _ | with_reducible apply keepsOut_next | with_reducible apply pointDo_keeps | with_reducible apply raise_keeps | with_reducible apply raiseBit_keeps | with_reducible apply markRaised_keeps | with_reducible apply keeps_ite | with_reducible apply keepsOut_ite | with_reducible apply keeps_foldl | with_reducible apply keeps_foldl_fst | with_reducible apply keeps_foldl_snd
    | with_reducible intro _ | split | dsimp only | (refine keeps_mk ?_ ?_ ?_ ?_ ?_ <;> first | exact id | skip)

theorem execRedMin_keeps {σ : State} (r : Nat) (w : MacroW) (e : MemErrs) (s : State) (hs : Keeps σ s) :
    KeepsOut σ (execRedMin r w e s) := by
  unfold execRedMin
  iterate 60 all_goals try first
    | with_reducible assumption | with_reducible exact keepsOut_refused _ | with_reducible apply keepsOut_next | with_reducible apply pointDo_keeps | with_reducible apply raise_keeps | with_reducible apply raiseBit_keeps | with_reducible apply markRaised_keeps | with_reducible apply keeps_ite | with_reducible apply keepsOut_ite | with_reducible apply keeps_foldl | with_reducible apply keeps_foldl_fst | with_reducible apply keeps_foldl_snd
    | with_reducible intro _ | split | dsimp only | (refine keeps_mk ?_ ?_ ?_ ?_ ?_ <;> first | exact id | skip)

theorem execRedSumOfSquares_keeps {σ : State} (r : Nat) (w : MacroW) (e : MemErrs) (s : State) (hs : Keeps σ s) :
    KeepsOut σ (execRedSumOfSquares r w e s) := by
  unfold execRedSumOfSquares
  iterate 60 all_goals try first
    | with_reducible assumption | with_reducible exact keepsOut_refused _ | with_reducible apply keepsOut_next | with_reducible apply pointDo_keeps | with_reducible apply raise_keeps | with_reducible apply raiseBit_keeps | with_reducible apply markRaised_keeps | with_reducible apply keeps_ite | with_reducible apply keepsOut_ite | with_reducible apply keeps_foldl | with_reducible apply keeps_foldl_fst | with_reducible apply keeps_foldl_snd
    | with_reducible intro _ | split | dsimp only | (refine keeps_mk ?_ ?_ ?_ ?_ ?_ <;> first | exact id | skip)

theorem execFunc_keeps {σ : State} (r : Nat) (w : MacroW) (e : MemErrs) (s : State) (hs : Keeps σ s) :
    KeepsOut σ (execFunc r w e s) := by
  unfold execFunc
  iterate 60 all_goals try first
    | with_reducible assumption | with_reducible exact keepsOut_refused _ | with_reducible apply keepsOut_next | with_reducible apply pointDo_keeps | with_reducible apply raise_keeps | with_reducible apply raiseBit_keeps | with_reducible apply markRaised_keeps | with_reducible apply keeps_ite | with_reducible apply keepsOut_ite | with_reducible apply keeps_foldl | with_reducible apply keeps_foldl_fst | with_reducible apply keeps_foldl_snd
    | with_reducible intro _ | split | dsimp only | (refine keeps_mk ?_ ?_ ?_ ?_ ?_ <;> first | exact id | skip)

theorem execCvt_keeps {σ : State} (r : Nat) (w : MacroW) (e : MemErrs) (s : State) (hs : Keeps σ s) :
    KeepsOut σ (execCvt r w e s) := by
  unfold execCvt
  iterate 60 all_goals try first
    | with_reducible assumption | with_reducible exact keepsOut_refused _ | with_reducible apply keepsOut_next | with_reducible apply pointDo_keeps | with_reducible apply raise_keeps | with_reducible apply raiseBit_keeps | with_reducible apply markRaised_keeps | with_reducible apply keeps_ite | with_reducible apply keepsOut_ite | with_reducible apply keeps_foldl | with_reducible apply keeps_foldl_fst | with_reducible apply keeps_foldl_snd
    | with_reducible intro _ | split | dsimp only | (refine keeps_mk ?_ ?_ ?_ ?_ ?_ <;> first | exact id | skip)

end Sys2Proof.Machine
end

