-- ==== Sys2Proof/Laws/KeepsStreams.lean ====
section
/-! SUPPORT. What every operation of Machine/Streams.lean keeps. -/

namespace Sys2Proof.Machine

theorem execCopy_keeps {σ : State} (r : Nat) (w : MacroW) (e : MemErrs) (s : State) (hs : Keeps σ s) :
    KeepsOut σ (execCopy r w e s) := by
  unfold execCopy
  iterate 60 all_goals try first
    | with_reducible assumption | with_reducible apply chargeErrs_keeps | with_reducible exact keepsOut_refused _ | with_reducible apply keepsOut_next | with_reducible apply pointDo_keeps | with_reducible apply raise_keeps | with_reducible apply raiseBit_keeps | with_reducible apply markRaised_keeps | with_reducible apply keeps_ite | with_reducible apply keepsOut_ite | with_reducible apply keeps_foldl | with_reducible apply keeps_foldl_fst | with_reducible apply keeps_foldl_snd
    | with_reducible intro _ | split | dsimp only | (refine keeps_mk ?_ ?_ ?_ ?_ ?_ <;> first | exact id | skip)

theorem execTranspose_keeps {σ : State} (r : Nat) (w : MacroW) (e : MemErrs) (s : State) (hs : Keeps σ s) :
    KeepsOut σ (execTranspose r w e s) := by
  unfold execTranspose
  iterate 60 all_goals try first
    | with_reducible assumption | with_reducible apply chargeErrs_keeps | with_reducible exact keepsOut_refused _ | with_reducible apply keepsOut_next | with_reducible apply pointDo_keeps | with_reducible apply raise_keeps | with_reducible apply raiseBit_keeps | with_reducible apply markRaised_keeps | with_reducible apply keeps_ite | with_reducible apply keepsOut_ite | with_reducible apply keeps_foldl | with_reducible apply keeps_foldl_fst | with_reducible apply keeps_foldl_snd
    | with_reducible intro _ | split | dsimp only | (refine keeps_mk ?_ ?_ ?_ ?_ ?_ <;> first | exact id | skip)

theorem execFill_keeps {σ : State} (r : Nat) (w : MacroW) (e : MemErrs) (s : State) (hs : Keeps σ s) :
    KeepsOut σ (execFill r w e s) := by
  unfold execFill
  iterate 60 all_goals try first
    | with_reducible assumption | with_reducible apply chargeErrs_keeps | with_reducible exact keepsOut_refused _ | with_reducible apply keepsOut_next | with_reducible apply pointDo_keeps | with_reducible apply raise_keeps | with_reducible apply raiseBit_keeps | with_reducible apply markRaised_keeps | with_reducible apply keeps_ite | with_reducible apply keepsOut_ite | with_reducible apply keeps_foldl | with_reducible apply keeps_foldl_fst | with_reducible apply keeps_foldl_snd
    | with_reducible intro _ | split | dsimp only | (refine keeps_mk ?_ ?_ ?_ ?_ ?_ <;> first | exact id | skip)

theorem streamPut_keeps {σ : State} (s : State) (ue : List Nat) (o : Opd) (p : Nat) (k : Nat) (l : List (Byte × Bool)) (hs : Keeps σ s) :
    Keeps σ (streamPut s ue o p k l) := by
  unfold streamPut
  iterate 60 all_goals try first
    | with_reducible assumption | with_reducible apply chargeErrs_keeps | with_reducible apply putBytes_keeps | with_reducible apply raise_keeps | with_reducible apply raiseBit_keeps | with_reducible apply markRaised_keeps | with_reducible apply keeps_ite | with_reducible apply keeps_foldl | with_reducible apply keeps_foldl_fst | with_reducible apply keeps_foldl_snd
    | intro _ | split | dsimp only | (refine keeps_mk ?_ ?_ ?_ ?_ ?_ <;> first | exact id | skip)

theorem openExchange_keeps {σ : State} (s : State) (r : Nat) (hs : Keeps σ s) :
    Keeps σ (openExchange s r) := by
  unfold openExchange
  iterate 60 all_goals try first
    | with_reducible assumption | with_reducible apply chargeErrs_keeps | with_reducible apply modRegion_keeps | with_reducible apply raise_keeps | with_reducible apply raiseBit_keeps | with_reducible apply markRaised_keeps | with_reducible apply keeps_ite | with_reducible apply keeps_foldl | with_reducible apply keeps_foldl_fst | with_reducible apply keeps_foldl_snd
    | intro _ | split | dsimp only | (refine keeps_mk ?_ ?_ ?_ ?_ ?_ <;> first | exact id | skip)

theorem execSend_keeps {σ : State} (r : Nat) (w : MacroW) (e : MemErrs) (s : State) (hs : Keeps σ s) :
    KeepsOut σ (execSend r w e s) := by
  unfold execSend
  iterate 60 all_goals try first
    | with_reducible assumption | with_reducible exact keepsOut_refused _ | with_reducible apply keepsOut_next | with_reducible apply macroDo_keeps | with_reducible apply retire_keeps | with_reducible apply chargeErrs_keeps | with_reducible apply holdRegion_keeps | with_reducible apply pump_keeps | with_reducible apply guardAddr_keeps | with_reducible apply modPort_keeps | with_reducible apply openExchange_keeps | with_reducible apply raise_keeps | with_reducible apply raiseBit_keeps | with_reducible apply markRaised_keeps | with_reducible apply keeps_ite | with_reducible apply keepsOut_ite | with_reducible apply keeps_foldl | with_reducible apply keeps_foldl_fst | with_reducible apply keeps_foldl_snd
    | with_reducible intro _ | split | dsimp only | (refine keeps_mk ?_ ?_ ?_ ?_ ?_ <;> first | exact id | skip)

theorem slotFaultDo_keeps {σ : State} (s : State) (r : Nat) (hh : Nat) (i : Nat) (di : Nat) (hs : Keeps σ s) :
    Keeps σ (slotFaultDo s r hh i di) := by
  unfold slotFaultDo
  iterate 60 all_goals try first
    | with_reducible assumption | with_reducible apply addrFaultAt_keeps | with_reducible apply raise_keeps | with_reducible apply raiseBit_keeps | with_reducible apply markRaised_keeps | with_reducible apply keeps_ite | with_reducible apply keeps_foldl | with_reducible apply keeps_foldl_fst | with_reducible apply keeps_foldl_snd
    | intro _ | split | dsimp only | (refine keeps_mk ?_ ?_ ?_ ?_ ?_ <;> first | exact id | skip)

theorem putLoop_keeps {σ : State} (w : MacroW) (e : MemErrs) (r : Nat) (hh : Nat) (o : Opd) (y5 : Nat) (y6 : Nat) (y7 : State) (hy7 : Keeps σ y7) :
    Keeps σ (putLoop w e r hh o y5 y6 y7) := by
  induction y5 generalizing y6 y7 with
  | zero =>
    unfold putLoop
    iterate 60 all_goals try first
      | with_reducible assumption | with_reducible apply retire_keeps | with_reducible apply chargeErrs_keeps | with_reducible apply hoopWait_keeps | with_reducible apply regionFault_keeps | with_reducible apply hoopPutSlot_keeps | with_reducible apply slotFaultDo_keeps | with_reducible apply raise_keeps | with_reducible apply raiseBit_keeps | with_reducible apply markRaised_keeps | with_reducible apply keeps_ite | with_reducible apply keeps_foldl | with_reducible apply keeps_foldl_fst | with_reducible apply keeps_foldl_snd
      | intro _ | split | dsimp only | (refine keeps_mk ?_ ?_ ?_ ?_ ?_ <;> first | exact id | skip)
  | succ k ih =>
    unfold putLoop
    iterate 60 all_goals try first
      | with_reducible assumption | with_reducible apply retire_keeps | with_reducible apply chargeErrs_keeps | with_reducible apply hoopWait_keeps | with_reducible apply regionFault_keeps | with_reducible apply hoopPutSlot_keeps | with_reducible apply ih | with_reducible apply slotFaultDo_keeps | with_reducible apply raise_keeps | with_reducible apply raiseBit_keeps | with_reducible apply markRaised_keeps | with_reducible apply keeps_ite | with_reducible apply keeps_foldl | with_reducible apply keeps_foldl_fst | with_reducible apply keeps_foldl_snd
      | intro _ | split | dsimp only | (refine keeps_mk ?_ ?_ ?_ ?_ ?_ <;> first | exact id | skip)

theorem execPut_keeps {σ : State} (r : Nat) (w : MacroW) (e : MemErrs) (s : State) (hs : Keeps σ s) :
    KeepsOut σ (execPut r w e s) := by
  unfold execPut
  iterate 60 all_goals try first
    | with_reducible assumption | with_reducible apply chargeErrs_keeps | with_reducible exact keepsOut_refused _ | with_reducible apply keepsOut_next | with_reducible apply macroDo_keeps | with_reducible apply guardAddr_keeps | with_reducible apply putLoop_keeps | with_reducible apply raise_keeps | with_reducible apply raiseBit_keeps | with_reducible apply markRaised_keeps | with_reducible apply keeps_ite | with_reducible apply keepsOut_ite | with_reducible apply keeps_foldl | with_reducible apply keeps_foldl_fst | with_reducible apply keeps_foldl_snd
    | with_reducible intro _ | split | dsimp only | (refine keeps_mk ?_ ?_ ?_ ?_ ?_ <;> first | exact id | skip)

theorem takeLoop_keeps {σ : State} (w : MacroW) (e : MemErrs) (r : Nat) (hh : Nat) (o : Opd) (y5 : Nat) (y6 : Nat) (y7 : State) (hy7 : Keeps σ y7) :
    Keeps σ (takeLoop w e r hh o y5 y6 y7) := by
  induction y5 generalizing y6 y7 with
  | zero =>
    unfold takeLoop
    iterate 60 all_goals try first
      | with_reducible assumption | with_reducible apply retire_keeps | with_reducible apply chargeErrs_keeps | with_reducible apply hoopWait_keeps | with_reducible apply regionFault_keeps | with_reducible apply hoopPop_keeps | with_reducible apply streamPut_keeps | with_reducible apply slotFaultDo_keeps | with_reducible apply raise_keeps | with_reducible apply raiseBit_keeps | with_reducible apply markRaised_keeps | with_reducible apply keeps_ite | with_reducible apply keeps_foldl | with_reducible apply keeps_foldl_fst | with_reducible apply keeps_foldl_snd
      | intro _ | split | dsimp only | (refine keeps_mk ?_ ?_ ?_ ?_ ?_ <;> first | exact id | skip)
  | succ k ih =>
    unfold takeLoop
    iterate 60 all_goals try first
      | with_reducible assumption | with_reducible apply retire_keeps | with_reducible apply chargeErrs_keeps | with_reducible apply hoopWait_keeps | with_reducible apply regionFault_keeps | with_reducible apply hoopPop_keeps | with_reducible apply streamPut_keeps | with_reducible apply ih | with_reducible apply slotFaultDo_keeps | with_reducible apply raise_keeps | with_reducible apply raiseBit_keeps | with_reducible apply markRaised_keeps | with_reducible apply keeps_ite | with_reducible apply keeps_foldl | with_reducible apply keeps_foldl_fst | with_reducible apply keeps_foldl_snd
      | intro _ | split | dsimp only | (refine keeps_mk ?_ ?_ ?_ ?_ ?_ <;> first | exact id | skip)

theorem execTake_keeps {σ : State} (r : Nat) (w : MacroW) (e : MemErrs) (s : State) (hs : Keeps σ s) :
    KeepsOut σ (execTake r w e s) := by
  unfold execTake
  iterate 60 all_goals try first
    | with_reducible assumption | with_reducible apply chargeErrs_keeps | with_reducible exact keepsOut_refused _ | with_reducible apply keepsOut_next | with_reducible apply macroDo_keeps | with_reducible apply openExchange_keeps | with_reducible apply guardAddr_keeps | with_reducible apply takeLoop_keeps | with_reducible apply raise_keeps | with_reducible apply raiseBit_keeps | with_reducible apply markRaised_keeps | with_reducible apply keeps_ite | with_reducible apply keepsOut_ite | with_reducible apply keeps_foldl | with_reducible apply keeps_foldl_fst | with_reducible apply keeps_foldl_snd
    | with_reducible intro _ | split | dsimp only | (refine keeps_mk ?_ ?_ ?_ ?_ ?_ <;> first | exact id | skip)

theorem chainFault_keeps {σ : State} (s : State) (r : Nat) (ea : Nat) (done : Nat) (hs : Keeps σ s) :
    Keeps σ (chainFault s r ea done) := by
  unfold chainFault
  iterate 60 all_goals try first
    | with_reducible assumption | with_reducible apply chargeErrs_keeps | with_reducible apply regionFault_keeps | with_reducible apply wr_keeps | with_reducible apply raise_keeps | with_reducible apply raiseBit_keeps | with_reducible apply markRaised_keeps | with_reducible apply keeps_ite | with_reducible apply keeps_foldl | with_reducible apply keeps_foldl_fst | with_reducible apply keeps_foldl_snd
    | intro _ | split | dsimp only | (refine keeps_mk ?_ ?_ ?_ ?_ ?_ <;> first | exact id | skip)

theorem chainTensor_keeps {σ : State} (s : State) (r : Nat) (e : MemErrs) (c : ChainCmd) (q : ChainPos) (addr : Nat) (n : Nat) (hs : Keeps σ s) :
    KeepsSum σ (chainTensor s r e c q addr n) := by
  unfold chainTensor
  iterate 60 all_goals try first
    | with_reducible assumption | with_reducible apply chargeErrs_keeps | with_reducible apply keepsSum_inl | with_reducible apply keepsSum_inr | with_reducible apply schedMiss_keeps | with_reducible apply regionFault_keeps | with_reducible apply streamPut_keeps | with_reducible apply spanPut_keeps | with_reducible apply raise_keeps | with_reducible apply raiseBit_keeps | with_reducible apply markRaised_keeps | with_reducible apply keeps_ite | with_reducible apply keepsSum_ite | with_reducible apply keeps_foldl | with_reducible apply keeps_foldl_fst | with_reducible apply keeps_foldl_snd
    | with_reducible intro _ | split | dsimp only | (refine keeps_mk ?_ ?_ ?_ ?_ ?_ <;> first | exact id | skip)

theorem chainHoop_keeps {σ : State} (s : State) (r : Nat) (hh : Nat) (e : MemErrs) (c : ChainCmd) (q : ChainPos) (addr : Nat) (n : Nat) (mark : Bool) (y9 : Nat) (y10 : Nat) (hs : Keeps σ s) :
    KeepsSum σ (chainHoop s r hh e c q addr n mark y9 y10) := by
  induction y9 generalizing y10 s with
  | zero =>
    unfold chainHoop
    iterate 60 all_goals try first
      | with_reducible assumption | with_reducible apply chargeErrs_keeps | with_reducible apply keepsSum_inl | with_reducible apply keepsSum_inr | with_reducible apply hoopWait_keeps | with_reducible apply hoopPutSlot_keeps | with_reducible apply hoopPop_keeps | with_reducible apply spanPut_keeps | with_reducible apply slotFaultDo_keeps | with_reducible apply raise_keeps | with_reducible apply raiseBit_keeps | with_reducible apply markRaised_keeps | with_reducible apply keeps_ite | with_reducible apply keepsSum_ite | with_reducible apply keeps_foldl | with_reducible apply keeps_foldl_fst | with_reducible apply keeps_foldl_snd
      | with_reducible intro _ | split | dsimp only | (refine keeps_mk ?_ ?_ ?_ ?_ ?_ <;> first | exact id | skip)
  | succ k ih =>
    unfold chainHoop
    iterate 60 all_goals try first
      | with_reducible assumption | with_reducible apply chargeErrs_keeps | with_reducible apply keepsSum_inl | with_reducible apply keepsSum_inr | with_reducible apply hoopWait_keeps | with_reducible apply hoopPutSlot_keeps | with_reducible apply hoopPop_keeps | with_reducible apply spanPut_keeps | with_reducible apply ih | with_reducible apply slotFaultDo_keeps | with_reducible apply raise_keeps | with_reducible apply raiseBit_keeps | with_reducible apply markRaised_keeps | with_reducible apply keeps_ite | with_reducible apply keepsSum_ite | with_reducible apply keeps_foldl | with_reducible apply keeps_foldl_fst | with_reducible apply keeps_foldl_snd
      | with_reducible intro _ | split | dsimp only | (refine keeps_mk ?_ ?_ ?_ ?_ ?_ <;> first | exact id | skip)

theorem chainEntry_keeps {σ : State} (s : State) (r : Nat) (e : MemErrs) (c : ChainCmd) (q : ChainPos) (addr : Nat) (n : Nat) (mark : Bool) (hs : Keeps σ s) :
    KeepsSum σ (chainEntry s r e c q addr n mark) := by
  unfold chainEntry
  iterate 60 all_goals try first
    | with_reducible assumption | with_reducible apply chargeErrs_keeps | with_reducible apply keepsSum_inl | with_reducible apply keepsSum_inr | with_reducible refine keepsSum_left (chainTensor_keeps _ _ _ _ _ _ _ ?_) (by assumption) | with_reducible refine keepsSum_right (chainTensor_keeps _ _ _ _ _ _ _ ?_) (by assumption) | with_reducible apply chainTensor_keeps | with_reducible refine keepsSum_left (chainHoop_keeps _ _ _ _ _ _ _ _ _ _ _ ?_) (by assumption) | with_reducible refine keepsSum_right (chainHoop_keeps _ _ _ _ _ _ _ _ _ _ _ ?_) (by assumption) | with_reducible apply chainHoop_keeps | with_reducible apply raise_keeps | with_reducible apply raiseBit_keeps | with_reducible apply markRaised_keeps | with_reducible apply keeps_ite | with_reducible apply keepsSum_ite | with_reducible apply keeps_foldl | with_reducible apply keeps_foldl_fst | with_reducible apply keeps_foldl_snd
    | with_reducible intro _ | split | dsimp only | (refine keeps_mk ?_ ?_ ?_ ?_ ?_ <;> first | exact id | skip)

theorem chainLoop_keeps {σ : State} (w : MacroW) (e : MemErrs) (r : Nat) (c : ChainCmd) (y4 : Nat) (y5 : ChainPos) (y6 : State) (hy6 : Keeps σ y6) :
    Keeps σ (chainLoop w e r c y4 y5 y6) := by
  induction y4 generalizing y5 y6 with
  | zero =>
    unfold chainLoop
    iterate 60 all_goals try first
      | with_reducible assumption | with_reducible apply retire_keeps | with_reducible apply chargeErrs_keeps | with_reducible apply chainFault_keeps | with_reducible apply addrFaultAt_keeps | with_reducible apply regionPoison_keeps | with_reducible refine keepsSum_left (chainEntry_keeps _ _ _ _ _ _ _ _ ?_) (by assumption) | with_reducible refine keepsSum_right (chainEntry_keeps _ _ _ _ _ _ _ _ ?_) (by assumption) | with_reducible apply chainEntry_keeps | with_reducible apply raise_keeps | with_reducible apply raiseBit_keeps | with_reducible apply markRaised_keeps | with_reducible apply keeps_ite | with_reducible apply keeps_foldl | with_reducible apply keeps_foldl_fst | with_reducible apply keeps_foldl_snd
      | intro _ | split | dsimp only | (refine keeps_mk ?_ ?_ ?_ ?_ ?_ <;> first | exact id | skip)
  | succ k ih =>
    unfold chainLoop
    iterate 60 all_goals try first
      | with_reducible assumption | with_reducible apply retire_keeps | with_reducible apply chargeErrs_keeps | with_reducible apply chainFault_keeps | with_reducible apply addrFaultAt_keeps | with_reducible apply regionPoison_keeps | with_reducible refine keepsSum_left (chainEntry_keeps _ _ _ _ _ _ _ _ ?_) (by assumption) | with_reducible refine keepsSum_right (chainEntry_keeps _ _ _ _ _ _ _ _ ?_) (by assumption) | with_reducible apply chainEntry_keeps | with_reducible apply ih | with_reducible apply raise_keeps | with_reducible apply raiseBit_keeps | with_reducible apply markRaised_keeps | with_reducible apply keeps_ite | with_reducible apply keeps_foldl | with_reducible apply keeps_foldl_fst | with_reducible apply keeps_foldl_snd
      | intro _ | split | dsimp only | (refine keeps_mk ?_ ?_ ?_ ?_ ?_ <;> first | exact id | skip)

theorem chainDo_keeps {σ : State} (s : State) (r : Nat) (w : MacroW) (e : MemErrs) (read : Bool) (ci : Nat) (oi : Nat) (hs : Keeps σ s) :
    KeepsOut σ (chainDo s r w e read ci oi) := by
  unfold chainDo
  iterate 60 all_goals try first
    | with_reducible assumption | with_reducible apply chargeErrs_keeps | with_reducible exact keepsOut_refused _ | with_reducible apply keepsOut_next | with_reducible apply macroDo_keeps | with_reducible apply guardAddr_keeps | with_reducible apply chainLoop_keeps | with_reducible apply raise_keeps | with_reducible apply raiseBit_keeps | with_reducible apply markRaised_keeps | with_reducible apply keeps_ite | with_reducible apply keepsOut_ite | with_reducible apply keeps_foldl | with_reducible apply keeps_foldl_fst | with_reducible apply keeps_foldl_snd
    | with_reducible intro _ | split | dsimp only | (refine keeps_mk ?_ ?_ ?_ ?_ ?_ <;> first | exact id | skip)

theorem execChainRead_keeps {σ : State} (r : Nat) (w : MacroW) (e : MemErrs) (s : State) (hs : Keeps σ s) :
    KeepsOut σ (execChainRead r w e s) := by
  unfold execChainRead
  iterate 60 all_goals try first
    | with_reducible assumption | with_reducible apply chargeErrs_keeps | with_reducible exact keepsOut_refused _ | with_reducible apply keepsOut_next | with_reducible apply chainDo_keeps | with_reducible apply raise_keeps | with_reducible apply raiseBit_keeps | with_reducible apply markRaised_keeps | with_reducible apply keeps_ite | with_reducible apply keepsOut_ite | with_reducible apply keeps_foldl | with_reducible apply keeps_foldl_fst | with_reducible apply keeps_foldl_snd
    | with_reducible intro _ | split | dsimp only | (refine keeps_mk ?_ ?_ ?_ ?_ ?_ <;> first | exact id | skip)

theorem execChainWrite_keeps {σ : State} (r : Nat) (w : MacroW) (e : MemErrs) (s : State) (hs : Keeps σ s) :
    KeepsOut σ (execChainWrite r w e s) := by
  unfold execChainWrite
  iterate 60 all_goals try first
    | with_reducible assumption | with_reducible apply chargeErrs_keeps | with_reducible exact keepsOut_refused _ | with_reducible apply keepsOut_next | with_reducible apply chainDo_keeps | with_reducible apply raise_keeps | with_reducible apply raiseBit_keeps | with_reducible apply markRaised_keeps | with_reducible apply keeps_ite | with_reducible apply keepsOut_ite | with_reducible apply keeps_foldl | with_reducible apply keeps_foldl_fst | with_reducible apply keeps_foldl_snd
    | with_reducible intro _ | split | dsimp only | (refine keeps_mk ?_ ?_ ?_ ?_ ?_ <;> first | exact id | skip)

theorem execMcast_keeps {σ : State} (r : Nat) (w : MacroW) (e : MemErrs) (s : State) (hs : Keeps σ s) :
    KeepsOut σ (execMcast r w e s) := by
  unfold execMcast
  iterate 60 all_goals try first
    | with_reducible assumption | with_reducible exact keepsOut_refused _ | with_reducible apply keepsOut_next | with_reducible apply macroDo_keeps | with_reducible apply addrFaultAt_keeps | with_reducible apply regionPoison_keeps | with_reducible apply streamPut_keeps | with_reducible apply guardAddr_keeps | with_reducible apply retire_keeps | with_reducible apply chargeErrs_keeps | with_reducible apply raise_keeps | with_reducible apply raiseBit_keeps | with_reducible apply markRaised_keeps | with_reducible apply keeps_ite | with_reducible apply keepsOut_ite | with_reducible apply keeps_foldl | with_reducible apply keeps_foldl_fst | with_reducible apply keeps_foldl_snd
    | with_reducible intro _ | split | dsimp only | (refine keeps_mk ?_ ?_ ?_ ?_ ?_ <;> first | exact id | skip)

theorem execRotate_keeps {σ : State} (r : Nat) (w : MacroW) (e : MemErrs) (s : State) (hs : Keeps σ s) :
    KeepsOut σ (execRotate r w e s) := by
  unfold execRotate
  iterate 60 all_goals try first
    | with_reducible assumption | with_reducible exact keepsOut_refused _ | with_reducible apply keepsOut_next | with_reducible apply macroDo_keeps | with_reducible apply retire_keeps | with_reducible apply chargeErrs_keeps | with_reducible apply guardAddr_keeps | with_reducible apply streamPut_keeps | with_reducible apply raise_keeps | with_reducible apply raiseBit_keeps | with_reducible apply markRaised_keeps | with_reducible apply keeps_ite | with_reducible apply keepsOut_ite | with_reducible apply keeps_foldl | with_reducible apply keeps_foldl_fst | with_reducible apply keeps_foldl_snd
    | with_reducible intro _ | split | dsimp only | (refine keeps_mk ?_ ?_ ?_ ?_ ?_ <;> first | exact id | skip)

end Sys2Proof.Machine
end

