-- ==== Sys2Proof/Laws/KeepsCodecOps.lean ====
section
/-! SUPPORT. What every operation of Machine/CodecOps.lean keeps. -/

namespace Sys2Proof.Machine

theorem putRecord_keeps {σ : State} (s : State) (r : Nat) (hh : Nat) (ue : List Nat) (prog : Nat → List Nat) (y5 : Nat) (y6 : List (List (Byte × Bool))) (hs : Keeps σ s) :
    KeepsSum σ (putRecord s r hh ue prog y5 y6) := by
  induction y6 generalizing y5 s with
  | nil =>
    unfold putRecord
    iterate 60 all_goals try first
      | with_reducible assumption | with_reducible apply chargeErrs_keeps | with_reducible apply keepsSum_inl | with_reducible apply keepsSum_inr | with_reducible apply hoopWait_keeps | with_reducible apply hoopPutSlot_keeps | with_reducible apply raise_keeps | with_reducible apply raiseBit_keeps | with_reducible apply markRaised_keeps | with_reducible apply keeps_ite | with_reducible apply keepsSum_ite | with_reducible apply keeps_foldl | with_reducible apply keeps_foldl_fst | with_reducible apply keeps_foldl_snd
      | with_reducible intro _ | split | dsimp only | (refine keeps_mk ?_ ?_ ?_ ?_ ?_ <;> first | exact id | skip)
  | cons x l ih =>
    unfold putRecord
    iterate 60 all_goals try first
      | with_reducible assumption | with_reducible apply chargeErrs_keeps | with_reducible apply keepsSum_inl | with_reducible apply keepsSum_inr | with_reducible apply hoopWait_keeps | with_reducible apply hoopPutSlot_keeps | with_reducible apply ih | with_reducible apply raise_keeps | with_reducible apply raiseBit_keeps | with_reducible apply markRaised_keeps | with_reducible apply keeps_ite | with_reducible apply keepsSum_ite | with_reducible apply keeps_foldl | with_reducible apply keeps_foldl_fst | with_reducible apply keeps_foldl_snd
      | with_reducible intro _ | split | dsimp only | (refine keeps_mk ?_ ?_ ?_ ?_ ?_ <;> first | exact id | skip)

theorem drawKeep_keeps {σ : State} (s : State) (r : Nat) (sk : List Nat) (n0 : Nat) (q : Option (List Byte × Nat × List Nat × Bool)) (hs : Keeps σ s) :
    Keeps σ (drawKeep s r sk n0 q) := by
  unfold drawKeep
  exact modRegion_keeps _ _ _ hs

theorem stageWords_keeps {σ : State} (s : State) (ue : List Nat) (ni : Nat) (ar : Nat → Option AreaIn) (l : List Byte) (hs : Keeps σ s) :
    Keeps σ (stageWords s ue ni ar l) := by
  unfold stageWords
  iterate 60 all_goals try first
    | with_reducible assumption | with_reducible apply devWrite_keeps | with_reducible apply raise_keeps | with_reducible apply raiseBit_keeps | with_reducible apply markRaised_keeps | with_reducible apply keeps_ite | with_reducible apply keeps_foldl | with_reducible apply keeps_foldl_fst | with_reducible apply keeps_foldl_snd
    | intro _ | split | dsimp only | (refine keeps_mk ?_ ?_ ?_ ?_ ?_ <;> first | exact id | skip)

theorem skipMeans_keeps {σ : State} (s : State) (ue : List Nat) (r : Nat) (sk : List Nat) (w : MacroW) (u : Opd) (m : Opd) (p : Nat) (hs : Keeps σ s) :
    Keeps σ (skipMeans s ue r sk w u m p) := by
  unfold skipMeans
  iterate 60 all_goals try first
    | with_reducible assumption | with_reducible apply storeRuns_keeps | with_reducible apply raise_keeps | with_reducible apply raiseBit_keeps | with_reducible apply markRaised_keeps | with_reducible apply keeps_ite | with_reducible apply keeps_foldl | with_reducible apply keeps_foldl_fst | with_reducible apply keeps_foldl_snd
    | intro _ | split | dsimp only | (refine keeps_mk ?_ ?_ ?_ ?_ ?_ <;> first | exact id | skip)

theorem encDrawTry_keeps {σ : State} (w : MacroW) (e : MemErrs) (r : Nat) (hh : Nat) (sk : List Nat) (st : Nat → Nat) (ar : Nat → Option AreaIn) (u : Opd) (m : Opd) (k : Opd) (d4 : Desc)
    (p i : Nat) (q : Option (List Byte × Nat × List Nat × Bool)) (s : State) (hs : Keeps σ s) : KeepsSum σ (encDrawTry w e r hh sk st ar u m k d4 p i q s) := by
  unfold encDrawTry
  iterate 60 all_goals try first
    | with_reducible assumption | with_reducible apply keepsSum_inl | with_reducible apply keepsSum_inr | with_reducible refine keepsSum_left (putRecord_keeps _ _ _ _ _ _ _ ?_) (by assumption) | with_reducible refine keepsSum_right (putRecord_keeps _ _ _ _ _ _ _ ?_) (by assumption) | with_reducible apply stageWords_keeps | with_reducible apply skipMeans_keeps | with_reducible apply setStickies_keeps | with_reducible apply tallyAdd_keeps | with_reducible apply drawKeep_keeps | with_reducible apply encStep_keeps | with_reducible apply keepsSum_ite
    | with_reducible intro _ | split | dsimp only | (refine keeps_mk ?_ ?_ ?_ ?_ ?_ <;> first | exact id | skip)

theorem encLoop_keeps {σ : State} (w : MacroW) (e : MemErrs) (r : Nat) (hh : Nat) (sk : List Nat) (st : Nat → Nat) (ar : Nat → Option AreaIn) (u : Opd) (m : Opd) (k : Opd) (d4 : Desc)
    (j p i : Nat) (q : Option (List Byte × Nat × List Nat × Bool)) (s : State) (hs : Keeps σ s) : Keeps σ (encLoop w e r hh sk st ar u m k d4 j p i q s) := by
  induction j generalizing p i q s with
  | zero => exact retire_keeps _ _ (chargeErrs_keeps _ _ hs)
  | succ j ih =>
    unfold encLoop
    split
    · exact chargeErrs_keeps _ _ (keepsSum_left (encDrawTry_keeps _ _ _ _ _ _ _ _ _ _ _ _ _ _ _ hs) (by assumption))
    · exact ih _ _ _ _ (keepsSum_right (encDrawTry_keeps _ _ _ _ _ _ _ _ _ _ _ _ _ _ _ hs) (by assumption))

theorem encRewind_keeps {σ : State} (s : State) (g : Nat) (i : Nat) (hs : Keeps σ s) :
    Keeps σ (encRewind s g i) := by
  unfold encRewind
  iterate 60 all_goals try first
    | with_reducible assumption | with_reducible apply modRegion_keeps | with_reducible apply raise_keeps | with_reducible apply raiseBit_keeps | with_reducible apply markRaised_keeps | with_reducible apply keeps_ite | with_reducible apply keeps_foldl | with_reducible apply keeps_foldl_fst | with_reducible apply keeps_foldl_snd
    | intro _ | split | dsimp only | (refine keeps_mk ?_ ?_ ?_ ?_ ?_ <;> first | exact id | skip)

theorem execDrawEnc_keeps {σ : State} (r : Nat) (w : MacroW) (e : MemErrs) (s : State) (hs : Keeps σ s) :
    KeepsOut σ (execDrawEnc r w e s) := by
  unfold execDrawEnc
  iterate 60 all_goals try first
    | with_reducible assumption | with_reducible apply chargeErrs_keeps | with_reducible exact keepsOut_refused _ | with_reducible apply keepsOut_next | with_reducible apply macroDo_keeps | with_reducible apply guardAddr_keeps | with_reducible apply encRewind_keeps | with_reducible apply encLoop_keeps | with_reducible apply raise_keeps | with_reducible apply raiseBit_keeps | with_reducible apply markRaised_keeps | with_reducible apply keeps_ite | with_reducible apply keepsOut_ite | with_reducible apply keeps_foldl | with_reducible apply keeps_foldl_fst | with_reducible apply keeps_foldl_snd
    | with_reducible intro _ | split | dsimp only | (refine keeps_mk ?_ ?_ ?_ ?_ ?_ <;> first | exact id | skip)

theorem decDrawOne_keeps {σ : State} (w : MacroW) (e : MemErrs) (r : Nat) (hh : Nat) (sk : List Nat) (st : Nat → Nat) (o : Opd) (m : Opd) (k : Opd) (d4 : Desc) (slots : Nat) (p : Nat) (s : State) (hs : Keeps σ s) :
    Keeps σ (decDrawOne w e r hh sk st o m k d4 slots p s) := by
  unfold decDrawOne
  iterate 60 all_goals try first
    | with_reducible assumption | with_reducible apply chargeErrs_keeps | with_reducible apply storeRuns_keeps | with_reducible apply tallyAdd_keeps | with_reducible apply setStickies_keeps | with_reducible apply hoopPops_keeps | with_reducible apply conceal_keeps | with_reducible apply modS_keeps | with_reducible apply raise_keeps | with_reducible apply raiseBit_keeps | with_reducible apply markRaised_keeps | with_reducible apply keeps_ite | with_reducible apply keeps_foldl | with_reducible apply keeps_foldl_fst | with_reducible apply keeps_foldl_snd
    | intro _ | split | dsimp only | (refine keeps_mk ?_ ?_ ?_ ?_ ?_ <;> first | exact id | skip)

theorem decDrawTry_keeps {σ : State} (w : MacroW) (e : MemErrs) (r : Nat) (hh : Nat) (sk : List Nat) (st : Nat → Nat) (o : Opd) (m : Opd) (k : Opd) (d4 : Desc) (p : Nat) (s : State) (hs : Keeps σ s) :
    KeepsSum σ (decDrawTry w e r hh sk st o m k d4 p s) := by
  unfold decDrawTry
  iterate 60 all_goals try first
    | with_reducible assumption | with_reducible apply chargeErrs_keeps | with_reducible apply keepsSum_inl | with_reducible apply keepsSum_inr | with_reducible apply hoopWait_keeps | with_reducible apply drawKeep_keeps | with_reducible apply decDrawOne_keeps | with_reducible apply raise_keeps | with_reducible apply raiseBit_keeps | with_reducible apply markRaised_keeps | with_reducible apply keeps_ite | with_reducible apply keepsSum_ite | with_reducible apply keeps_foldl | with_reducible apply keeps_foldl_fst | with_reducible apply keeps_foldl_snd
    | with_reducible intro _ | split | dsimp only | (refine keeps_mk ?_ ?_ ?_ ?_ ?_ <;> first | exact id | skip)

theorem decDrawLoop_keeps {σ : State} (w : MacroW) (e : MemErrs) (r : Nat) (hh : Nat) (sk : List Nat) (st : Nat → Nat) (o : Opd) (m : Opd) (k : Opd) (d4 : Desc) (y8 : Nat) (y9 : Nat) (y10 : State) (hy10 : Keeps σ y10) :
    Keeps σ (decDrawLoop w e r hh sk st o m k d4 y8 y9 y10) := by
  induction y8 generalizing y9 y10 with
  | zero =>
    unfold decDrawLoop
    iterate 60 all_goals try first
      | with_reducible assumption | with_reducible apply retire_keeps | with_reducible apply chargeErrs_keeps | with_reducible refine keepsSum_left (decDrawTry_keeps _ _ _ _ _ _ _ _ _ _ _ _ ?_) (by assumption) | with_reducible refine keepsSum_right (decDrawTry_keeps _ _ _ _ _ _ _ _ _ _ _ _ ?_) (by assumption) | with_reducible apply decDrawTry_keeps | with_reducible apply raise_keeps | with_reducible apply raiseBit_keeps | with_reducible apply markRaised_keeps | with_reducible apply keeps_ite | with_reducible apply keeps_foldl | with_reducible apply keeps_foldl_fst | with_reducible apply keeps_foldl_snd
      | intro _ | split | dsimp only | (refine keeps_mk ?_ ?_ ?_ ?_ ?_ <;> first | exact id | skip)
  | succ k ih =>
    unfold decDrawLoop
    iterate 60 all_goals try first
      | with_reducible assumption | with_reducible apply retire_keeps | with_reducible apply chargeErrs_keeps | with_reducible refine keepsSum_left (decDrawTry_keeps _ _ _ _ _ _ _ _ _ _ _ _ ?_) (by assumption) | with_reducible refine keepsSum_right (decDrawTry_keeps _ _ _ _ _ _ _ _ _ _ _ _ ?_) (by assumption) | with_reducible apply decDrawTry_keeps | with_reducible apply ih | with_reducible apply raise_keeps | with_reducible apply raiseBit_keeps | with_reducible apply markRaised_keeps | with_reducible apply keeps_ite | with_reducible apply keeps_foldl | with_reducible apply keeps_foldl_fst | with_reducible apply keeps_foldl_snd
      | intro _ | split | dsimp only | (refine keeps_mk ?_ ?_ ?_ ?_ ?_ <;> first | exact id | skip)

theorem execDrawDec_keeps {σ : State} (r : Nat) (w : MacroW) (e : MemErrs) (s : State) (hs : Keeps σ s) :
    KeepsOut σ (execDrawDec r w e s) := by
  unfold execDrawDec
  iterate 60 all_goals try first
    | with_reducible assumption | with_reducible apply chargeErrs_keeps | with_reducible exact keepsOut_refused _ | with_reducible apply keepsOut_next | with_reducible apply macroDo_keeps | with_reducible apply guardAddr_keeps | with_reducible apply decDrawLoop_keeps | with_reducible apply raise_keeps | with_reducible apply raiseBit_keeps | with_reducible apply markRaised_keeps | with_reducible apply keeps_ite | with_reducible apply keepsOut_ite | with_reducible apply keeps_foldl | with_reducible apply keeps_foldl_fst | with_reducible apply keeps_foldl_snd
    | with_reducible intro _ | split | dsimp only | (refine keeps_mk ?_ ?_ ?_ ?_ ?_ <;> first | exact id | skip)

theorem execLanePark_keeps {σ : State} (r : Nat) (lane : Nat) (gout : Nat) (gin : Nat) (state : ParkIn) (s : State) (hs : Keeps σ s) :
    KeepsOut σ (execLanePark r lane gout gin state s) := by
  unfold execLanePark
  iterate 60 all_goals try first
    | with_reducible assumption | with_reducible exact keepsOut_refused _ | with_reducible apply keepsOut_next | with_reducible apply ceAt_keeps | with_reducible apply ueAt_keeps | with_reducible apply modRegion_keeps | with_reducible apply takeFree_keeps | with_reducible apply raise_keeps | with_reducible apply raiseBit_keeps | with_reducible apply markRaised_keeps | with_reducible apply keeps_ite | with_reducible apply keepsOut_ite | with_reducible apply keeps_foldl | with_reducible apply keeps_foldl_fst | with_reducible apply keeps_foldl_snd
    | with_reducible intro _ | split | dsimp only | (refine keeps_mk ?_ ?_ ?_ ?_ ?_ <;> first | exact id | skip)

theorem execPrune_keeps {σ : State} (r : Nat) (w : MacroW) (e : MemErrs) (s : State) (hs : Keeps σ s) :
    KeepsOut σ (execPrune r w e s) := by
  unfold execPrune
  iterate 60 all_goals try first
    | with_reducible assumption | with_reducible exact keepsOut_refused _ | with_reducible apply keepsOut_next | with_reducible apply macroDo_keeps | with_reducible apply addrFaultAt_keeps | with_reducible apply devWrite_keeps | with_reducible apply encBoxes_keeps | with_reducible apply guardAddr_keeps | with_reducible apply retire_keeps | with_reducible apply chargeErrs_keeps | with_reducible apply raise_keeps | with_reducible apply raiseBit_keeps | with_reducible apply markRaised_keeps | with_reducible apply keeps_ite | with_reducible apply keepsOut_ite | with_reducible apply keeps_foldl | with_reducible apply keeps_foldl_fst | with_reducible apply keeps_foldl_snd
    | with_reducible intro _ | split | dsimp only | (refine keeps_mk ?_ ?_ ?_ ?_ ?_ <;> first | exact id | skip)

theorem execGmerge_keeps {σ : State} (r : Nat) (w : MacroW) (e : MemErrs) (s : State) (hs : Keeps σ s) :
    KeepsOut σ (execGmerge r w e s) := by
  unfold execGmerge
  iterate 60 all_goals try first
    | with_reducible assumption | with_reducible apply chargeErrs_keeps | with_reducible exact keepsOut_refused _ | with_reducible apply keepsOut_next | with_reducible apply pointDo_keeps | with_reducible apply raise_keeps | with_reducible apply raiseBit_keeps | with_reducible apply markRaised_keeps | with_reducible apply keeps_ite | with_reducible apply keepsOut_ite | with_reducible apply keeps_foldl | with_reducible apply keeps_foldl_fst | with_reducible apply keeps_foldl_snd
    | with_reducible intro _ | split | dsimp only | (refine keeps_mk ?_ ?_ ?_ ?_ ?_ <;> first | exact id | skip)

theorem execGraftMerge_keeps {σ : State} (c : Nat) (s : State) (hs : Keeps σ s) :
    KeepsOut σ (execGraftMerge c s) := by
  unfold execGraftMerge
  iterate 60 all_goals try first
    | with_reducible assumption | with_reducible apply chargeErrs_keeps | with_reducible exact keepsOut_refused _ | with_reducible apply keepsOut_next | with_reducible apply modS_keeps | with_reducible apply raise_keeps | with_reducible apply raiseBit_keeps | with_reducible apply markRaised_keeps | with_reducible apply keeps_ite | with_reducible apply keepsOut_ite | with_reducible apply keeps_foldl | with_reducible apply keeps_foldl_fst | with_reducible apply keeps_foldl_snd
    | with_reducible intro _ | split | dsimp only | (refine keeps_mk ?_ ?_ ?_ ?_ ?_ <;> first | exact id | skip)

end Sys2Proof.Machine
end

