-- ==== Sys2Proof/Laws/KeepsUnits.lean ====
section
/-! SUPPORT. What every operation of Machine/Units.lean keeps. -/

namespace Sys2Proof.Machine

theorem unitDo_keeps {σ : State} (s : State) (c : Nat) (f : State → State) (hs : Keeps σ s) (hf : ∀ a0, Keeps σ a0 → Keeps σ (f a0)) :
    KeepsOut σ (unitDo s c f) := by
  unfold unitDo
  iterate 60 all_goals try first
    | with_reducible assumption | with_reducible exact keepsOut_refused _ | with_reducible apply keepsOut_next | with_reducible apply hf | with_reducible apply raise_keeps | with_reducible apply raiseBit_keeps | with_reducible apply markRaised_keeps | with_reducible apply keeps_ite | with_reducible apply keepsOut_ite | with_reducible apply keeps_foldl | with_reducible apply keeps_foldl_fst | with_reducible apply keeps_foldl_snd
    | with_reducible intro _ | split | dsimp only | (refine keeps_mk ?_ ?_ ?_ ?_ ?_ <;> first | exact id | skip)

theorem flag_keeps {σ : State} (s : State) (c : Nat) (f : Nat) (hs : Keeps σ s) :
    Keeps σ (flag s c f) := by
  unfold flag
  iterate 60 all_goals try first
    | with_reducible assumption | with_reducible apply setStickies_keeps | with_reducible apply raise_keeps | with_reducible apply raiseBit_keeps | with_reducible apply markRaised_keeps | with_reducible apply keeps_ite | with_reducible apply keeps_foldl | with_reducible apply keeps_foldl_fst | with_reducible apply keeps_foldl_snd
    | intro _ | split | dsimp only | (refine keeps_mk ?_ ?_ ?_ ?_ ?_ <;> first | exact id | skip)

theorem lostSlot_keeps {σ : State} (s : State) (c : Nat) (a : Bool) (slot : Nat) (hs : Keeps σ s) :
    Keeps σ (lostSlot s c a slot) := by
  unfold lostSlot
  iterate 60 all_goals try first
    | with_reducible assumption | with_reducible apply conceal_keeps | with_reducible apply modS_keeps | with_reducible apply emit_keeps | with_reducible apply raise_keeps | with_reducible apply raiseBit_keeps | with_reducible apply markRaised_keeps | with_reducible apply keeps_ite | with_reducible apply keeps_foldl | with_reducible apply keeps_foldl_fst | with_reducible apply keeps_foldl_snd
    | intro _ | split | dsimp only | (refine keeps_mk ?_ ?_ ?_ ?_ ?_ <;> first | exact id | skip)

theorem lostBlind_keeps {σ : State} (s : State) (c : Nat) (a : Bool) (hs : Keeps σ s) :
    Keeps σ (lostBlind s c a) := by
  unfold lostBlind
  iterate 60 all_goals try first
    | with_reducible assumption | with_reducible apply modS_keeps | with_reducible apply conceal_keeps | with_reducible apply raise_keeps | with_reducible apply raiseBit_keeps | with_reducible apply markRaised_keeps | with_reducible apply keeps_ite | with_reducible apply keeps_foldl | with_reducible apply keeps_foldl_fst | with_reducible apply keeps_foldl_snd
    | intro _ | split | dsimp only | (refine keeps_mk ?_ ?_ ?_ ?_ ?_ <;> first | exact id | skip)

theorem slotRead_keeps {σ : State} (s : State) (c : Nat) (a : Bool) (slot : Nat) (hs : Keeps σ s) :
    Keeps σ (slotRead s c a slot) := by
  unfold slotRead
  iterate 60 all_goals try first
    | with_reducible assumption | with_reducible apply lostSlot_keeps | with_reducible apply modS_keeps | with_reducible apply raise_keeps | with_reducible apply raiseBit_keeps | with_reducible apply markRaised_keeps | with_reducible apply keeps_ite | with_reducible apply keeps_foldl | with_reducible apply keeps_foldl_fst | with_reducible apply keeps_foldl_snd
    | intro _ | split | dsimp only | (refine keeps_mk ?_ ?_ ?_ ?_ ?_ <;> first | exact id | skip)

theorem lostAt_keeps {σ : State} (s : State) (c : Nat) (a : Bool) (slot : Nat) (hs : Keeps σ s) :
    Keeps σ (lostAt s c a slot) := by
  unfold lostAt
  iterate 60 all_goals try first
    | with_reducible assumption | with_reducible apply modS_keeps | with_reducible apply lostSlot_keeps | with_reducible apply slotRead_keeps | with_reducible apply raise_keeps | with_reducible apply raiseBit_keeps | with_reducible apply markRaised_keeps | with_reducible apply keeps_ite | with_reducible apply keeps_foldl | with_reducible apply keeps_foldl_fst | with_reducible apply keeps_foldl_snd
    | intro _ | split | dsimp only | (refine keeps_mk ?_ ?_ ?_ ?_ ?_ <;> first | exact id | skip)

theorem newStream_keeps {σ : State} (s : State) (c : Nat) (a : Bool) (hs : Keeps σ s) :
    Keeps σ (newStream s c a) := by
  unfold newStream
  iterate 60 all_goals try first
    | with_reducible assumption | with_reducible apply modCtx_keeps | with_reducible apply modS_keeps | with_reducible apply raise_keeps | with_reducible apply raiseBit_keeps | with_reducible apply markRaised_keeps | with_reducible apply keeps_ite | with_reducible apply keeps_foldl | with_reducible apply keeps_foldl_fst | with_reducible apply keeps_foldl_snd
    | intro _ | split | dsimp only | (refine keeps_mk ?_ ?_ ?_ ?_ ?_ <;> first | exact id | skip)

theorem execStreamHeader_keeps {σ : State} (c : Nat) (a : Bool) (body : List Byte) (s : State) (hs : Keeps σ s) :
    KeepsOut σ (execStreamHeader c a body s) := by
  unfold execStreamHeader
  iterate 60 all_goals try first
    | with_reducible assumption | with_reducible exact keepsOut_refused _ | with_reducible apply keepsOut_next | with_reducible apply unitDo_keeps | with_reducible apply flag_keeps | with_reducible apply modS_keeps | with_reducible apply newStream_keeps | with_reducible apply raise_keeps | with_reducible apply raiseBit_keeps | with_reducible apply markRaised_keeps | with_reducible apply keeps_ite | with_reducible apply keepsOut_ite | with_reducible apply keeps_foldl | with_reducible apply keeps_foldl_fst | with_reducible apply keeps_foldl_snd
    | with_reducible intro _ | split | dsimp only | (refine keeps_mk ?_ ?_ ?_ ?_ ?_ <;> first | exact id | skip)

theorem execModelUnit_keeps {σ : State} (c : Nat) (a : Bool) (body : List Byte) (s : State) (hs : Keeps σ s) :
    KeepsOut σ (execModelUnit c a body s) := by
  unfold execModelUnit
  iterate 60 all_goals try first
    | with_reducible assumption | with_reducible exact keepsOut_refused _ | with_reducible apply keepsOut_next | with_reducible apply unitDo_keeps | with_reducible apply flag_keeps | with_reducible apply modS_keeps | with_reducible apply newStream_keeps | with_reducible apply raise_keeps | with_reducible apply raiseBit_keeps | with_reducible apply markRaised_keeps | with_reducible apply keeps_ite | with_reducible apply keepsOut_ite | with_reducible apply keeps_foldl | with_reducible apply keeps_foldl_fst | with_reducible apply keeps_foldl_snd
    | with_reducible intro _ | split | dsimp only | (refine keeps_mk ?_ ?_ ?_ ?_ ?_ <;> first | exact id | skip)

theorem putFactor_keeps {σ : State} (s : State) (c role layer : Nat) (body : List Byte) (o rows n : Nat) (hs : Keeps σ s) :
    Keeps σ (putFactor s c role layer body o rows n) := by
  unfold putFactor
  split
  · exact hs
  · exact keeps_foldl (fun _ _ h => devPut_keeps _ _ _ h) hs

theorem placeGraft_keeps {σ : State} (s : State) (c : Nat) (body : List Byte) (hs : Keeps σ s) :
    Keeps σ (placeGraft s c body) := by
  unfold placeGraft
  refine keeps_foldl (fun s x h => ?_) hs
  dsimp only
  split
  · exact putFactor_keeps _ _ _ _ _ _ _ _ (putFactor_keeps _ _ _ _ _ _ _ _ h)
  · exact devPut_keeps _ _ _ (putFactor_keeps _ _ _ _ _ _ _ _ (putFactor_keeps _ _ _ _ _ _ _ _ h))

theorem graftTake_keeps {σ : State} (s : State) (c minor : Nat) (body : List Byte) (bad : Bool) (hs : Keeps σ s) :
    Keeps σ (graftTake s c minor body bad) := by
  unfold graftTake
  iterate 60 all_goals try first
    | with_reducible assumption | with_reducible apply placeGraft_keeps | with_reducible apply flag_keeps | with_reducible apply modS_keeps | with_reducible apply raise_keeps | with_reducible apply raiseBit_keeps | with_reducible apply markRaised_keeps | with_reducible apply keeps_ite | with_reducible apply keeps_foldl | with_reducible apply keeps_foldl_fst | with_reducible apply keeps_foldl_snd
    | intro _ | split | dsimp only | (refine keeps_mk ?_ ?_ ?_ ?_ ?_ <;> first | exact id | skip)

theorem execGraftUnit_keeps {σ : State} (c : Nat) (body : List Byte) (bad : Bool) (s : State) (hs : Keeps σ s) :
    KeepsOut σ (execGraftUnit c body bad s) := by
  unfold execGraftUnit
  iterate 60 all_goals try first
    | with_reducible assumption | with_reducible exact keepsOut_refused _ | with_reducible apply keepsOut_next | with_reducible apply modS_keeps | with_reducible apply flag_keeps | with_reducible apply graftTake_keeps | with_reducible apply raise_keeps | with_reducible apply raiseBit_keeps | with_reducible apply markRaised_keeps | with_reducible apply keeps_ite | with_reducible apply keepsOut_ite | with_reducible apply keeps_foldl | with_reducible apply keeps_foldl_fst | with_reducible apply keeps_foldl_snd
    | with_reducible intro _ | split | dsimp only | (refine keeps_mk ?_ ?_ ?_ ?_ ?_ <;> first | exact id | skip)

theorem execRefreshUnit_keeps {σ : State} (c : Nat) (a : Bool) (body : List Byte) (s : State) (hs : Keeps σ s) :
    KeepsOut σ (execRefreshUnit c a body s) := by
  unfold execRefreshUnit
  iterate 60 all_goals try first
    | with_reducible assumption | with_reducible exact keepsOut_refused _ | with_reducible apply keepsOut_next | with_reducible apply unitDo_keeps | with_reducible apply flag_keeps | with_reducible apply modS_keeps | with_reducible apply raise_keeps | with_reducible apply raiseBit_keeps | with_reducible apply markRaised_keeps | with_reducible apply keeps_ite | with_reducible apply keepsOut_ite | with_reducible apply keeps_foldl | with_reducible apply keeps_foldl_fst | with_reducible apply keeps_foldl_snd
    | with_reducible intro _ | split | dsimp only | (refine keeps_mk ?_ ?_ ?_ ?_ ?_ <;> first | exact id | skip)

theorem execHoldIngot_keeps {σ : State} (c : Nat) (a : Bool) (body : List Byte) (s : State) (hs : Keeps σ s) :
    KeepsOut σ (execHoldIngot c a body s) := by
  unfold execHoldIngot
  iterate 60 all_goals try first
    | with_reducible assumption | with_reducible exact keepsOut_refused _ | with_reducible apply keepsOut_next | with_reducible apply unitDo_keeps | with_reducible apply lostBlind_keeps | with_reducible apply flag_keeps | with_reducible apply slotRead_keeps | with_reducible apply emit_keeps | with_reducible apply lostSlot_keeps | with_reducible apply modS_keeps | with_reducible apply raise_keeps | with_reducible apply raiseBit_keeps | with_reducible apply markRaised_keeps | with_reducible apply keeps_ite | with_reducible apply keepsOut_ite | with_reducible apply keeps_foldl | with_reducible apply keeps_foldl_fst | with_reducible apply keeps_foldl_snd
    | with_reducible intro _ | split | dsimp only | (refine keeps_mk ?_ ?_ ?_ ?_ ?_ <;> first | exact id | skip)

theorem execEndUnit_keeps {σ : State} (c : Nat) (a : Bool) (body : List Byte) (s : State) (hs : Keeps σ s) :
    KeepsOut σ (execEndUnit c a body s) := by
  unfold execEndUnit
  iterate 60 all_goals try first
    | with_reducible assumption | with_reducible exact keepsOut_refused _ | with_reducible apply keepsOut_next | with_reducible apply unitDo_keeps | with_reducible apply flag_keeps | with_reducible apply modS_keeps | with_reducible apply raise_keeps | with_reducible apply raiseBit_keeps | with_reducible apply markRaised_keeps | with_reducible apply keeps_ite | with_reducible apply keepsOut_ite | with_reducible apply keeps_foldl | with_reducible apply keeps_foldl_fst | with_reducible apply keeps_foldl_snd
    | with_reducible intro _ | split | dsimp only | (refine keeps_mk ?_ ?_ ?_ ?_ ?_ <;> first | exact id | skip)

theorem execExtensionUnit_keeps {σ : State} (c : Nat) (a : Bool) (s : State) (hs : Keeps σ s) :
    KeepsOut σ (execExtensionUnit c a s) := by
  unfold execExtensionUnit
  iterate 60 all_goals try first
    | with_reducible assumption | with_reducible exact keepsOut_refused _ | with_reducible apply keepsOut_next | with_reducible apply unitDo_keeps | with_reducible apply modS_keeps | with_reducible apply raise_keeps | with_reducible apply raiseBit_keeps | with_reducible apply markRaised_keeps | with_reducible apply keeps_ite | with_reducible apply keepsOut_ite | with_reducible apply keeps_foldl | with_reducible apply keeps_foldl_fst | with_reducible apply keeps_foldl_snd
    | with_reducible intro _ | split | dsimp only | (refine keeps_mk ?_ ?_ ?_ ?_ ?_ <;> first | exact id | skip)

theorem execUnassignedUnit_keeps {σ : State} (c : Nat) (a : Bool) (s : State) (hs : Keeps σ s) :
    KeepsOut σ (execUnassignedUnit c a s) := by
  unfold execUnassignedUnit
  iterate 60 all_goals try first
    | with_reducible assumption | with_reducible exact keepsOut_refused _ | with_reducible apply keepsOut_next | with_reducible apply unitDo_keeps | with_reducible apply flag_keeps | with_reducible apply modS_keeps | with_reducible apply raise_keeps | with_reducible apply raiseBit_keeps | with_reducible apply markRaised_keeps | with_reducible apply keeps_ite | with_reducible apply keepsOut_ite | with_reducible apply keeps_foldl | with_reducible apply keeps_foldl_fst | with_reducible apply keeps_foldl_snd
    | with_reducible intro _ | split | dsimp only | (refine keeps_mk ?_ ?_ ?_ ?_ ?_ <;> first | exact id | skip)

theorem execUnitSyncLoss_keeps {σ : State} (c : Nat) (a : Bool) (ts : Bool) (s : State) (hs : Keeps σ s) :
    KeepsOut σ (execUnitSyncLoss c a ts s) := by
  unfold execUnitSyncLoss
  iterate 60 all_goals try first
    | with_reducible assumption | with_reducible exact keepsOut_refused _ | with_reducible apply keepsOut_next | with_reducible apply unitDo_keeps | with_reducible apply flag_keeps | with_reducible apply modS_keeps | with_reducible apply lostBlind_keeps | with_reducible apply raise_keeps | with_reducible apply raiseBit_keeps | with_reducible apply markRaised_keeps | with_reducible apply keeps_ite | with_reducible apply keepsOut_ite | with_reducible apply keeps_foldl | with_reducible apply keeps_foldl_fst | with_reducible apply keeps_foldl_snd
    | with_reducible intro _ | split | dsimp only | (refine keeps_mk ?_ ?_ ?_ ?_ ?_ <;> first | exact id | skip)

theorem delivered_keeps {σ : State} (s : State) (c : Nat) (a : Bool) (slot : Nat) (hm : Option (List Byte)) (hs : Keeps σ s) :
    Keeps σ (delivered s c a slot hm) := by
  unfold delivered
  iterate 60 all_goals try first
    | with_reducible assumption | with_reducible apply wr_keeps | with_reducible apply modS_keeps | with_reducible apply emit_keeps | with_reducible apply raise_keeps | with_reducible apply raiseBit_keeps | with_reducible apply markRaised_keeps | with_reducible apply keeps_ite | with_reducible apply keeps_foldl | with_reducible apply keeps_foldl_fst | with_reducible apply keeps_foldl_snd
    | intro _ | split | dsimp only | (refine keeps_mk ?_ ?_ ?_ ?_ ?_ <;> first | exact id | skip)

theorem useSet_keeps {σ : State} (s : State) (c : Nat) (g : Option GraftSet) (role : Nat) (hs : Keeps σ s) :
    Keeps σ (useSet s c g role) := by
  unfold useSet
  iterate 60 all_goals try first
    | with_reducible assumption | with_reducible apply copyWeights_keeps | with_reducible apply modS_keeps | with_reducible apply raise_keeps | with_reducible apply raiseBit_keeps | with_reducible apply markRaised_keeps | with_reducible apply keeps_ite | with_reducible apply keeps_foldl | with_reducible apply keeps_foldl_fst | with_reducible apply keeps_foldl_snd
    | intro _ | split | dsimp only | (refine keeps_mk ?_ ?_ ?_ ?_ ?_ <;> first | exact id | skip)

theorem graftUse_keeps {σ : State} (s : State) (c : Nat) (id : Nat) (hs : Keeps σ s) :
    Keeps σ (graftUse s c id).1 := by
  unfold graftUse
  iterate 60 all_goals try first
    | with_reducible assumption | with_reducible apply copyWeights_keeps | with_reducible apply modS_keeps | with_reducible apply useSet_keeps | with_reducible apply raise_keeps | with_reducible apply raiseBit_keeps | with_reducible apply markRaised_keeps | with_reducible apply keeps_ite | with_reducible apply keeps_foldl | with_reducible apply keeps_foldl_fst | with_reducible apply keeps_foldl_snd
    | intro _ | split | dsimp only | (refine keeps_mk ?_ ?_ ?_ ?_ ?_ <;> first | exact id | skip)

theorem ingotDo_keeps {σ : State} (s : State) (c : Nat) (a : Bool) (body : List Byte) (f : Nat → State → State) (hs : Keeps σ s) (hf : ∀ a0 a1, Keeps σ a1 → Keeps σ (f a0 a1)) :
    KeepsOut σ (ingotDo s c a body f) := by
  unfold ingotDo
  iterate 60 all_goals try first
    | with_reducible assumption | with_reducible exact keepsOut_refused _ | with_reducible apply keepsOut_next | with_reducible apply hf | with_reducible apply unitDo_keeps | with_reducible apply lostBlind_keeps | with_reducible apply flag_keeps | with_reducible apply raise_keeps | with_reducible apply raiseBit_keeps | with_reducible apply markRaised_keeps | with_reducible apply keeps_ite | with_reducible apply keepsOut_ite | with_reducible apply keeps_foldl | with_reducible apply keeps_foldl_fst | with_reducible apply keeps_foldl_snd
    | with_reducible intro _ | split | dsimp only | (refine keeps_mk ?_ ?_ ?_ ?_ ?_ <;> first | exact id | skip)

theorem flagRefresh_keeps {σ : State} (s : State) (c : Nat) (a : Bool) (num : Nat) (hs : Keeps σ s) :
    Keeps σ (flagRefresh s c a num) := by
  unfold flagRefresh
  iterate 60 all_goals try first
    | with_reducible assumption | with_reducible apply flag_keeps | with_reducible apply raise_keeps | with_reducible apply raiseBit_keeps | with_reducible apply markRaised_keeps | with_reducible apply keeps_ite | with_reducible apply keeps_foldl | with_reducible apply keeps_foldl_fst | with_reducible apply keeps_foldl_snd
    | intro _ | split | dsimp only | (refine keeps_mk ?_ ?_ ?_ ?_ ?_ <;> first | exact id | skip)

theorem lostUnjoined_keeps {σ : State} (s : State) (c : Nat) (a : Bool) (slot num : Nat) (joins : Bool) (hs : Keeps σ s) :
    Keeps σ (lostUnjoined s c a slot num joins) := by
  unfold lostUnjoined
  iterate 60 all_goals try first
    | with_reducible assumption | with_reducible apply modS_keeps | with_reducible apply lostAt_keeps | with_reducible apply flagRefresh_keeps | with_reducible apply raise_keeps | with_reducible apply raiseBit_keeps | with_reducible apply markRaised_keeps | with_reducible apply keeps_ite | with_reducible apply keeps_foldl | with_reducible apply keeps_foldl_fst | with_reducible apply keeps_foldl_snd
    | intro _ | split | dsimp only | (refine keeps_mk ?_ ?_ ?_ ?_ ?_ <;> first | exact id | skip)

theorem videoTake_keeps {σ : State} (s : State) (c : Nat) (p : Pkg) (hd : List Byte) (slot : Nat) (v : VideoIn) (hs : Keeps σ s) :
    Keeps σ (videoTake s c p hd slot v) := by
  unfold videoTake
  iterate 60 all_goals try first
    | with_reducible assumption | with_reducible refine keeps_fst (by assumption) (graftUse_keeps _ _ _ ?_) | with_reducible apply graftUse_keeps | with_reducible apply writeQp_keeps | with_reducible apply conceal_keeps | with_reducible apply modS_keeps | with_reducible apply supplyRefs_keeps | with_reducible apply settleRefs_keeps | with_reducible apply slotRead_keeps | with_reducible apply flagRefresh_keeps | with_reducible apply raise_keeps | with_reducible apply raiseBit_keeps | with_reducible apply markRaised_keeps | with_reducible apply keeps_ite | with_reducible apply keeps_foldl | with_reducible apply keeps_foldl_fst | with_reducible apply keeps_foldl_snd
    | intro _ | split | dsimp only | (refine keeps_mk ?_ ?_ ?_ ?_ ?_ <;> first | exact id | skip)

theorem audioTake_keeps {σ : State} (s : State) (c : Nat) (p : Pkg) (slot num ns : Nat) (hs : Keeps σ s) :
    Keeps σ (audioTake s c p slot num ns) := by
  unfold audioTake
  iterate 60 all_goals try first
    | with_reducible assumption | with_reducible apply conceal_keeps | with_reducible apply modS_keeps | with_reducible apply supplyPrior_keeps | with_reducible apply slotRead_keeps | with_reducible apply flagRefresh_keeps | with_reducible apply raise_keeps | with_reducible apply raiseBit_keeps | with_reducible apply markRaised_keeps | with_reducible apply keeps_ite | with_reducible apply keeps_foldl | with_reducible apply keeps_foldl_fst | with_reducible apply keeps_foldl_snd
    | intro _ | split | dsimp only | (refine keeps_mk ?_ ?_ ?_ ?_ ?_ <;> first | exact id | skip)

theorem execVideoIngot_keeps {σ : State} (c : Nat) (hh : Nat) (body : List Byte) (poison : List Nat) (s : State) (hs : Keeps σ s) :
    KeepsOut σ (execVideoIngot c hh body poison s) := by
  unfold execVideoIngot
  iterate 60 all_goals try first
    | with_reducible assumption | with_reducible exact keepsOut_refused _ | with_reducible apply keepsOut_next | with_reducible apply ingotDo_keeps | with_reducible apply flag_keeps | with_reducible apply lostAt_keeps | with_reducible apply lostUnjoined_keeps | with_reducible apply videoTake_keeps | with_reducible apply audioTake_keeps | with_reducible apply slotRead_keeps | with_reducible refine keeps_fst (by assumption) (graftUse_keeps _ _ _ ?_) | with_reducible apply graftUse_keeps | with_reducible apply modS_keeps | with_reducible apply conceal_keeps | with_reducible apply delivered_keeps | with_reducible apply putRecords_keeps | with_reducible apply raise_keeps | with_reducible apply raiseBit_keeps | with_reducible apply markRaised_keeps | with_reducible apply keeps_ite | with_reducible apply keepsOut_ite | with_reducible apply keeps_foldl | with_reducible apply keeps_foldl_fst | with_reducible apply keeps_foldl_snd
    | with_reducible intro _ | split | dsimp only | (refine keeps_mk ?_ ?_ ?_ ?_ ?_ <;> first | exact id | skip)

theorem execAudioIngot_keeps {σ : State} (c : Nat) (hh : Nat) (body : List Byte) (poison : List Nat) (s : State) (hs : Keeps σ s) :
    KeepsOut σ (execAudioIngot c hh body poison s) := by
  unfold execAudioIngot
  iterate 60 all_goals try first
    | with_reducible assumption | with_reducible exact keepsOut_refused _ | with_reducible apply keepsOut_next | with_reducible apply ingotDo_keeps | with_reducible apply flag_keeps | with_reducible apply lostAt_keeps | with_reducible apply lostUnjoined_keeps | with_reducible apply videoTake_keeps | with_reducible apply audioTake_keeps | with_reducible apply slotRead_keeps | with_reducible apply modS_keeps | with_reducible apply conceal_keeps | with_reducible apply delivered_keeps | with_reducible apply putRecords_keeps | with_reducible apply raise_keeps | with_reducible apply raiseBit_keeps | with_reducible apply markRaised_keeps | with_reducible apply keeps_ite | with_reducible apply keepsOut_ite | with_reducible apply keeps_foldl | with_reducible apply keeps_foldl_fst | with_reducible apply keeps_foldl_snd
    | with_reducible intro _ | split | dsimp only | (refine keeps_mk ?_ ?_ ?_ ?_ ?_ <;> first | exact id | skip)

end Sys2Proof.Machine
end

