-- ==== Sys2Proof/Laws/KeepsMedia.lean ====
section
/-! SUPPORT. What every operation of Machine/Media.lean keeps. -/

namespace Sys2Proof.Machine

theorem modIn_keeps {σ : State} (s : State) (c : Nat) (a : Bool) (f : Ingress → Ingress) (hs : Keeps σ s) :
    Keeps σ (modIn s c a f) := by
  unfold modIn
  iterate 60 all_goals try first
    | with_reducible assumption | with_reducible apply modCtx_keeps | with_reducible apply raise_keeps | with_reducible apply raiseBit_keeps | with_reducible apply markRaised_keeps | with_reducible apply keeps_ite | with_reducible apply keeps_foldl | with_reducible apply keeps_foldl_fst | with_reducible apply keeps_foldl_snd
    | intro _ | split | dsimp only | (refine keeps_mk ?_ ?_ ?_ ?_ ?_ <;> first | exact id | skip)

theorem unitClose_keeps {σ : State} (s : State) (c : Nat) (a : Bool) (hs : Keeps σ s) :
    Keeps σ (unitClose s c a) := by
  unfold unitClose
  iterate 60 all_goals try first
    | with_reducible assumption | with_reducible apply modIn_keeps | with_reducible apply bump_keeps | with_reducible apply putRecords_keeps | with_reducible apply raise_keeps | with_reducible apply raiseBit_keeps | with_reducible apply markRaised_keeps | with_reducible apply keeps_ite | with_reducible apply keeps_foldl | with_reducible apply keeps_foldl_fst | with_reducible apply keeps_foldl_snd
    | intro _ | split | dsimp only | (refine keeps_mk ?_ ?_ ?_ ?_ ?_ <;> first | exact id | skip)

theorem unitOpen_keeps {σ : State} (s : State) (c : Nat) (a : Bool) (ts : Nat) (hs : Keeps σ s) :
    Keeps σ (unitOpen s c a ts) := by
  unfold unitOpen
  iterate 60 all_goals try first
    | with_reducible assumption | with_reducible apply bump_keeps | with_reducible apply modIn_keeps | with_reducible apply raise_keeps | with_reducible apply raiseBit_keeps | with_reducible apply markRaised_keeps | with_reducible apply keeps_ite | with_reducible apply keeps_foldl | with_reducible apply keeps_foldl_fst | with_reducible apply keeps_foldl_snd
    | intro _ | split | dsimp only | (refine keeps_mk ?_ ?_ ?_ ?_ ?_ <;> first | exact id | skip)

theorem seqNote_keeps {σ : State} (s : State) (c : Nat) (a : Bool) (seq : Nat) (w : Nat) (hs : Keeps σ s) :
    Keeps σ (seqNote s c a seq w) := by
  unfold seqNote
  iterate 60 all_goals try first
    | with_reducible assumption | with_reducible apply wr_keeps | with_reducible apply modIn_keeps | with_reducible apply raise_keeps | with_reducible apply raiseBit_keeps | with_reducible apply markRaised_keeps | with_reducible apply keeps_ite | with_reducible apply keeps_foldl | with_reducible apply keeps_foldl_fst | with_reducible apply keeps_foldl_snd
    | intro _ | split | dsimp only | (refine keeps_mk ?_ ?_ ?_ ?_ ?_ <;> first | exact id | skip)

theorem rxCount_keeps {σ : State} (s : State) (c : Nat) (a : Bool) (p : Nat) (hs : Keeps σ s) :
    Keeps σ (rxCount s c a p) := by
  unfold rxCount
  iterate 60 all_goals try first
    | with_reducible assumption | with_reducible apply bump_keeps | with_reducible apply raise_keeps | with_reducible apply raiseBit_keeps | with_reducible apply markRaised_keeps | with_reducible apply keeps_ite | with_reducible apply keeps_foldl | with_reducible apply keeps_foldl_fst | with_reducible apply keeps_foldl_snd
    | intro _ | split | dsimp only | (refine keeps_mk ?_ ?_ ?_ ?_ ?_ <;> first | exact id | skip)

theorem flowDo_keeps {σ : State} (s : State) (p : Nat) (en : Nat) (ok : Bool) (c : Nat) (f : State → State) (hs : Keeps σ s) (hf : ∀ a0, Keeps σ a0 → Keeps σ (f a0)) :
    KeepsOut σ (flowDo s p en ok c f) := by
  unfold flowDo
  iterate 60 all_goals try first
    | with_reducible assumption | with_reducible exact keepsOut_refused _ | with_reducible apply keepsOut_next | with_reducible apply hf | with_reducible apply bump_keeps | with_reducible apply raise_keeps | with_reducible apply raiseBit_keeps | with_reducible apply markRaised_keeps | with_reducible apply keeps_ite | with_reducible apply keepsOut_ite | with_reducible apply keeps_foldl | with_reducible apply keeps_foldl_fst | with_reducible apply keeps_foldl_snd
    | with_reducible intro _ | split | dsimp only | (refine keeps_mk ?_ ?_ ?_ ?_ ?_ <;> first | exact id | skip)

theorem execMediaVideoPacket_keeps {σ : State} (c : Nat) (v : VideoPkt) (s : State) (hs : Keeps σ s) :
    KeepsOut σ (execMediaVideoPacket c v s) := by
  unfold execMediaVideoPacket
  iterate 60 all_goals try first
    | with_reducible assumption | with_reducible exact keepsOut_refused _ | with_reducible apply keepsOut_next | with_reducible apply flowDo_keeps | with_reducible apply unitOpen_keeps | with_reducible apply unitClose_keeps | with_reducible apply rxCount_keeps | with_reducible apply seqNote_keeps | with_reducible apply modIn_keeps | with_reducible apply raise_keeps | with_reducible apply raiseBit_keeps | with_reducible apply markRaised_keeps | with_reducible apply keeps_ite | with_reducible apply keepsOut_ite | with_reducible apply keeps_foldl | with_reducible apply keeps_foldl_fst | with_reducible apply keeps_foldl_snd
    | with_reducible intro _ | split | dsimp only | (refine keeps_mk ?_ ?_ ?_ ?_ ?_ <;> first | exact id | skip)

theorem audioSample_keeps {σ : State} (c : Nat) (x : AudioPkt) (s : State) (i : Nat) (hs : Keeps σ s) :
    Keeps σ (audioSample c x s i) := by
  unfold audioSample
  iterate 60 all_goals try first
    | with_reducible assumption | with_reducible apply unitOpen_keeps | with_reducible apply unitClose_keeps | with_reducible apply modIn_keeps | with_reducible apply raise_keeps | with_reducible apply raiseBit_keeps | with_reducible apply markRaised_keeps | with_reducible apply keeps_ite | with_reducible apply keeps_foldl | with_reducible apply keeps_foldl_fst | with_reducible apply keeps_foldl_snd
    | intro _ | split | dsimp only | (refine keeps_mk ?_ ?_ ?_ ?_ ?_ <;> first | exact id | skip)

theorem execMediaAudioPacket_keeps {σ : State} (c : Nat) (x : AudioPkt) (s : State) (hs : Keeps σ s) :
    KeepsOut σ (execMediaAudioPacket c x s) := by
  unfold execMediaAudioPacket
  iterate 60 all_goals try first
    | with_reducible assumption | with_reducible exact keepsOut_refused _ | with_reducible apply keepsOut_next | with_reducible apply flowDo_keeps | with_reducible apply audioSample_keeps | with_reducible apply rxCount_keeps | with_reducible apply seqNote_keeps | with_reducible apply raise_keeps | with_reducible apply raiseBit_keeps | with_reducible apply markRaised_keeps | with_reducible apply keeps_ite | with_reducible apply keepsOut_ite | with_reducible apply keeps_foldl | with_reducible apply keeps_foldl_fst | with_reducible apply keeps_foldl_snd
    | with_reducible intro _ | split | dsimp only | (refine keeps_mk ?_ ?_ ?_ ?_ ?_ <;> first | exact id | skip)

theorem execMediaFrameDiscard_keeps {σ : State} (p : Nat) (s : State) (hs : Keeps σ s) :
    KeepsOut σ (execMediaFrameDiscard p s) := by
  unfold execMediaFrameDiscard
  iterate 60 all_goals try first
    | with_reducible assumption | with_reducible exact keepsOut_refused _ | with_reducible apply keepsOut_next | with_reducible apply bump_keeps | with_reducible apply raise_keeps | with_reducible apply raiseBit_keeps | with_reducible apply markRaised_keeps | with_reducible apply keeps_ite | with_reducible apply keepsOut_ite | with_reducible apply keeps_foldl | with_reducible apply keeps_foldl_fst | with_reducible apply keeps_foldl_snd
    | with_reducible intro _ | split | dsimp only | (refine keeps_mk ?_ ?_ ?_ ?_ ?_ <;> first | exact id | skip)

theorem ptpUnlock_keeps {σ : State} (s : State) (p : Nat) (hs : Keeps σ s) :
    Keeps σ (ptpUnlock s p) := by
  unfold ptpUnlock
  iterate 60 all_goals try first
    | with_reducible assumption | with_reducible apply wr_keeps | with_reducible apply holdover_keeps | with_reducible apply raise_keeps | with_reducible apply raiseBit_keeps | with_reducible apply markRaised_keeps | with_reducible apply keeps_ite | with_reducible apply keeps_foldl | with_reducible apply keeps_foldl_fst | with_reducible apply keeps_foldl_snd
    | intro _ | split | dsimp only | (refine keeps_mk ?_ ?_ ?_ ?_ ?_ <;> first | exact id | skip)

theorem execPtpSync_keeps {σ : State} (p : Nat) (offset : Int) (s : State) (hs : Keeps σ s) :
    KeepsOut σ (execPtpSync p offset s) := by
  unfold execPtpSync
  iterate 60 all_goals try first
    | with_reducible assumption | with_reducible exact keepsOut_refused _ | with_reducible apply keepsOut_next | with_reducible apply wr_keeps | with_reducible apply ptpUnlock_keeps | with_reducible apply setTimeThirds_keeps | with_reducible apply raise_keeps | with_reducible apply raiseBit_keeps | with_reducible apply markRaised_keeps | with_reducible apply keeps_ite | with_reducible apply keepsOut_ite | with_reducible apply keeps_foldl | with_reducible apply keeps_foldl_fst | with_reducible apply keeps_foldl_snd
    | with_reducible intro _ | split | dsimp only | (refine keeps_mk ?_ ?_ ?_ ?_ ?_ <;> first | exact id | skip)

theorem execPtpAnnounceTimeout_keeps {σ : State} (p : Nat) (s : State) (hs : Keeps σ s) :
    KeepsOut σ (execPtpAnnounceTimeout p s) := by
  unfold execPtpAnnounceTimeout
  iterate 60 all_goals try first
    | with_reducible assumption | with_reducible exact keepsOut_refused _ | with_reducible apply keepsOut_next | with_reducible apply ptpUnlock_keeps | with_reducible apply raise_keeps | with_reducible apply raiseBit_keeps | with_reducible apply markRaised_keeps | with_reducible apply keeps_ite | with_reducible apply keepsOut_ite | with_reducible apply keeps_foldl | with_reducible apply keeps_foldl_fst | with_reducible apply keeps_foldl_snd
    | with_reducible intro _ | split | dsimp only | (refine keeps_mk ?_ ?_ ?_ ?_ ?_ <;> first | exact id | skip)

theorem mediaLinkEntry_keeps {σ : State} (s : State) (p : Nat) (up : Nat) (hs : Keeps σ s) :
    Keeps σ (mediaLinkEntry s p up) := by
  unfold mediaLinkEntry
  iterate 60 all_goals try first
    | with_reducible assumption | with_reducible apply alarmEvent_keeps | with_reducible apply hwRecord_keeps | with_reducible apply raise_keeps | with_reducible apply raiseBit_keeps | with_reducible apply markRaised_keeps | with_reducible apply keeps_ite | with_reducible apply keeps_foldl | with_reducible apply keeps_foldl_fst | with_reducible apply keeps_foldl_snd
    | intro _ | split | dsimp only | (refine keeps_mk ?_ ?_ ?_ ?_ ?_ <;> first | exact id | skip)

theorem mediaDown_keeps {σ : State} (s : State) (p : Nat) (hs : Keeps σ s) :
    Keeps σ (mediaDown s p) := by
  unfold mediaDown
  iterate 60 all_goals try first
    | with_reducible assumption | with_reducible apply mediaLinkEntry_keeps | with_reducible apply wr_keeps | with_reducible apply unitClose_keeps | with_reducible apply ptpUnlock_keeps | with_reducible apply raise_keeps | with_reducible apply raiseBit_keeps | with_reducible apply markRaised_keeps | with_reducible apply keeps_ite | with_reducible apply keeps_foldl | with_reducible apply keeps_foldl_fst | with_reducible apply keeps_foldl_snd
    | intro _ | split | dsimp only | (refine keeps_mk ?_ ?_ ?_ ?_ ?_ <;> first | exact id | skip)

theorem execMediaLinkDown_keeps {σ : State} (p : Nat) (s : State) (hs : Keeps σ s) :
    KeepsOut σ (execMediaLinkDown p s) := by
  unfold execMediaLinkDown
  iterate 60 all_goals try first
    | with_reducible assumption | with_reducible exact keepsOut_refused _ | with_reducible apply keepsOut_next | with_reducible apply mediaDown_keeps | with_reducible apply raise_keeps | with_reducible apply raiseBit_keeps | with_reducible apply markRaised_keeps | with_reducible apply keeps_ite | with_reducible apply keepsOut_ite | with_reducible apply keeps_foldl | with_reducible apply keeps_foldl_fst | with_reducible apply keeps_foldl_snd
    | with_reducible intro _ | split | dsimp only | (refine keeps_mk ?_ ?_ ?_ ?_ ?_ <;> first | exact id | skip)

theorem execMediaLinkUp_keeps {σ : State} (p : Nat) (s : State) (hs : Keeps σ s) :
    KeepsOut σ (execMediaLinkUp p s) := by
  unfold execMediaLinkUp
  iterate 60 all_goals try first
    | with_reducible assumption | with_reducible exact keepsOut_refused _ | with_reducible apply keepsOut_next | with_reducible apply mediaLinkEntry_keeps | with_reducible apply wr_keeps | with_reducible apply raise_keeps | with_reducible apply raiseBit_keeps | with_reducible apply markRaised_keeps | with_reducible apply keeps_ite | with_reducible apply keepsOut_ite | with_reducible apply keeps_foldl | with_reducible apply keeps_foldl_fst | with_reducible apply keeps_foldl_snd
    | with_reducible intro _ | split | dsimp only | (refine keeps_mk ?_ ?_ ?_ ?_ ?_ <;> first | exact id | skip)

end Sys2Proof.Machine
end

