-- ==== Sys2Proof/Laws/KeepsTemperCheck.lean ====
section
/-! SUPPORT. What every operation of Machine/TemperCheck.lean keeps. -/

namespace Sys2Proof.Machine

theorem overlay_keeps {σ : State} (s : State) (t : TSet) (hs : Keeps σ s) :
    Keeps σ (overlay s t) := by
  unfold overlay
  iterate 60 all_goals try first
    | with_reducible assumption | with_reducible apply wr_keeps | with_reducible apply raise_keeps | with_reducible apply raiseBit_keeps | with_reducible apply markRaised_keeps | with_reducible apply keeps_ite | with_reducible apply keeps_foldl | with_reducible apply keeps_foldl_fst | with_reducible apply keeps_foldl_snd
    | intro _ | split | dsimp only | (refine keeps_mk ?_ ?_ ?_ ?_ ?_ <;> first | exact id | skip)

end Sys2Proof.Machine
end

