-- ==== Sys2Proof/Laws/KeepsTemper.lean ====
section
/-! SUPPORT. What every operation of Machine/Temper.lean keeps. -/

namespace Sys2Proof.Machine

theorem setDigest_keeps {σ : State} (s : State) (hs : Keeps σ s) :
    Keeps σ (setDigest s) := by
  unfold setDigest
  iterate 60 all_goals try first
    | with_reducible assumption | with_reducible apply wr_keeps | with_reducible apply raise_keeps | with_reducible apply raiseBit_keeps | with_reducible apply markRaised_keeps | with_reducible apply keeps_ite | with_reducible apply keeps_foldl | with_reducible apply keeps_foldl_fst | with_reducible apply keeps_foldl_snd
    | intro _ | split | dsimp only | (refine keeps_mk ?_ ?_ ?_ ?_ ?_ <;> first | exact id | skip)

theorem hoopRestart_keeps {σ : State} (s : State) (n : Nat) (hh : Nat) (hs : Keeps σ s) :
    Keeps σ (hoopRestart s n hh) := by
  unfold hoopRestart
  iterate 60 all_goals try first
    | with_reducible assumption | with_reducible apply wr_keeps | with_reducible apply modRegion_keeps | with_reducible apply raise_keeps | with_reducible apply raiseBit_keeps | with_reducible apply markRaised_keeps | with_reducible apply keeps_ite | with_reducible apply keeps_foldl | with_reducible apply keeps_foldl_fst | with_reducible apply keeps_foldl_snd
    | intro _ | split | dsimp only | (refine keeps_mk ?_ ?_ ?_ ?_ ?_ <;> first | exact id | skip)

theorem appliedHoop_keeps {σ : State} (s : State) (o : Nat) (hs : Keeps σ s) :
    Keeps σ (appliedHoop s o) := by
  unfold appliedHoop
  iterate 60 all_goals try first
    | with_reducible assumption | with_reducible apply hoopRestart_keeps | with_reducible apply raise_keeps | with_reducible apply raiseBit_keeps | with_reducible apply markRaised_keeps | with_reducible apply keeps_ite | with_reducible apply keeps_foldl | with_reducible apply keeps_foldl_fst | with_reducible apply keeps_foldl_snd
    | intro _ | split | dsimp only | (refine keeps_mk ?_ ?_ ?_ ?_ ?_ <;> first | exact id | skip)

theorem appliedHoops_keeps {σ : State} (s : State) (w : List Nat) (hs : Keeps σ s) :
    Keeps σ (appliedHoops s w) := by
  unfold appliedHoops
  iterate 60 all_goals try first
    | with_reducible assumption | with_reducible apply appliedHoop_keeps | with_reducible apply raise_keeps | with_reducible apply raiseBit_keeps | with_reducible apply markRaised_keeps | with_reducible apply keeps_ite | with_reducible apply keeps_foldl | with_reducible apply keeps_foldl_fst | with_reducible apply keeps_foldl_snd
    | intro _ | split | dsimp only | (refine keeps_mk ?_ ?_ ?_ ?_ ?_ <;> first | exact id | skip)

theorem appliedLive_keeps {σ : State} (s0 : State) (s : State) (w : List Nat) (hs0 : Keeps σ s0) (hs : Keeps σ s) :
    Keeps σ (appliedLive s0 s w) := by
  unfold appliedLive
  iterate 60 all_goals try first
    | with_reducible assumption | with_reducible apply wr_keeps | with_reducible apply raise_keeps | with_reducible apply raiseBit_keeps | with_reducible apply markRaised_keeps | with_reducible apply keeps_ite | with_reducible apply keeps_foldl | with_reducible apply keeps_foldl_fst | with_reducible apply keeps_foldl_snd
    | intro _ | split | dsimp only | (refine keeps_mk ?_ ?_ ?_ ?_ ?_ <;> first | exact id | skip)

theorem appliedDrain_keeps {σ : State} (s0 : State) (s : State) (c : Nat) (hs : Keeps σ s) :
    Keeps σ (appliedDrain s0 s c) := by
  unfold appliedDrain
  iterate 60 all_goals try first
    | with_reducible assumption | with_reducible apply recsLeave_keeps | with_reducible apply wr_keeps | with_reducible apply modCtx_keeps | with_reducible apply raise_keeps | with_reducible apply raiseBit_keeps | with_reducible apply markRaised_keeps | with_reducible apply keeps_ite | with_reducible apply keeps_foldl | with_reducible apply keeps_foldl_fst | with_reducible apply keeps_foldl_snd
    | intro _ | split | dsimp only | (refine keeps_mk ?_ ?_ ?_ ?_ ?_ <;> first | exact id | skip)

theorem appliedDrains_keeps {σ : State} (s0 : State) (s : State) (w : List Nat) (hs : Keeps σ s) :
    Keeps σ (appliedDrains s0 s w) := by
  unfold appliedDrains
  iterate 60 all_goals try first
    | with_reducible assumption | with_reducible apply appliedDrain_keeps | with_reducible apply raise_keeps | with_reducible apply raiseBit_keeps | with_reducible apply markRaised_keeps | with_reducible apply keeps_ite | with_reducible apply keeps_foldl | with_reducible apply keeps_foldl_fst | with_reducible apply keeps_foldl_snd
    | intro _ | split | dsimp only | (refine keeps_mk ?_ ?_ ?_ ?_ ?_ <;> first | exact id | skip)

theorem appliedPort_keeps {σ : State} (w : List Nat) (s : State) (p : Nat) (hs : Keeps σ s) :
    Keeps σ (appliedPort w s p) := by
  unfold appliedPort
  iterate 60 all_goals try first
    | with_reducible assumption | with_reducible apply portEnter_keeps | with_reducible apply raise_keeps | with_reducible apply raiseBit_keeps | with_reducible apply markRaised_keeps | with_reducible apply keeps_ite | with_reducible apply keeps_foldl | with_reducible apply keeps_foldl_fst | with_reducible apply keeps_foldl_snd
    | intro _ | split | dsimp only | (refine keeps_mk ?_ ?_ ?_ ?_ ?_ <;> first | exact id | skip)

theorem appliedEpoch_keeps {σ : State} (s0 : State) (s : State) (w : List Nat) (hs0 : Keeps σ s0) (hs : Keeps σ s) :
    Keeps σ (appliedEpoch s0 s w) := by
  unfold appliedEpoch
  iterate 60 all_goals try first
    | with_reducible assumption | with_reducible apply wr_keeps | with_reducible apply raise_keeps | with_reducible apply raiseBit_keeps | with_reducible apply markRaised_keeps | with_reducible apply keeps_ite | with_reducible apply keeps_foldl | with_reducible apply keeps_foldl_fst | with_reducible apply keeps_foldl_snd
    | intro _ | split | dsimp only | (refine keeps_mk ?_ ?_ ?_ ?_ ?_ <;> first | exact id | skip)

theorem appliedTally_keeps {σ : State} (s0 : State) (s : State) (hs0 : Keeps σ s0) (hs : Keeps σ s) :
    Keeps σ (appliedTally s0 s) := by
  unfold appliedTally
  iterate 60 all_goals try first
    | with_reducible assumption | with_reducible apply wr_keeps | with_reducible apply raise_keeps | with_reducible apply raiseBit_keeps | with_reducible apply markRaised_keeps | with_reducible apply keeps_ite | with_reducible apply keeps_foldl | with_reducible apply keeps_foldl_fst | with_reducible apply keeps_foldl_snd
    | intro _ | split | dsimp only | (refine keeps_mk ?_ ?_ ?_ ?_ ?_ <;> first | exact id | skip)

theorem appliedFlow_keeps {σ : State} (s0 : State) (s : State) (c : Nat) (hs0 : Keeps σ s0) (hs : Keeps σ s) :
    Keeps σ (appliedFlow s0 s c) := by
  unfold appliedFlow
  iterate 60 all_goals try first
    | with_reducible assumption | with_reducible apply wr_keeps | with_reducible apply modIn_keeps | with_reducible apply raise_keeps | with_reducible apply raiseBit_keeps | with_reducible apply markRaised_keeps | with_reducible apply keeps_ite | with_reducible apply keeps_foldl | with_reducible apply keeps_foldl_fst | with_reducible apply keeps_foldl_snd
    | intro _ | split | dsimp only | (refine keeps_mk ?_ ?_ ?_ ?_ ?_ <;> first | exact id | skip)

theorem appliedMedia_keeps {σ : State} (s0 : State) (s : State) (w : List Nat) (hs0 : Keeps σ s0) (hs : Keeps σ s) :
    Keeps σ (appliedMedia s0 s w) := by
  unfold appliedMedia
  iterate 60 all_goals try first
    | with_reducible assumption | with_reducible apply wr_keeps | with_reducible apply mediaDown_keeps | with_reducible apply appliedFlow_keeps | with_reducible apply raise_keeps | with_reducible apply raiseBit_keeps | with_reducible apply markRaised_keeps | with_reducible apply keeps_ite | with_reducible apply keeps_foldl | with_reducible apply keeps_foldl_fst | with_reducible apply keeps_foldl_snd
    | intro _ | split | dsimp only | (refine keeps_mk ?_ ?_ ?_ ?_ ?_ <;> first | exact id | skip)

theorem appliedWq_keeps {σ : State} (w : List Nat) (s : State) (q : Nat) (hs : Keeps σ s) :
    Keeps σ (appliedWq w s q) := by
  unfold appliedWq
  iterate 60 all_goals try first
    | with_reducible assumption | with_reducible apply wr_keeps | with_reducible apply modWq_keeps | with_reducible apply raise_keeps | with_reducible apply raiseBit_keeps | with_reducible apply markRaised_keeps | with_reducible apply keeps_ite | with_reducible apply keeps_foldl | with_reducible apply keeps_foldl_fst | with_reducible apply keeps_foldl_snd
    | intro _ | split | dsimp only | (refine keeps_mk ?_ ?_ ?_ ?_ ?_ <;> first | exact id | skip)

theorem appliedWqs_keeps {σ : State} (s : State) (w : List Nat) (hs : Keeps σ s) :
    Keeps σ (appliedWqs s w) := by
  unfold appliedWqs
  iterate 60 all_goals try first
    | with_reducible assumption | with_reducible apply appliedWq_keeps | with_reducible apply raise_keeps | with_reducible apply raiseBit_keeps | with_reducible apply markRaised_keeps | with_reducible apply keeps_ite | with_reducible apply keeps_foldl | with_reducible apply keeps_foldl_fst | with_reducible apply keeps_foldl_snd
    | intro _ | split | dsimp only | (refine keeps_mk ?_ ?_ ?_ ?_ ?_ <;> first | exact id | skip)

theorem appliedAudit_keeps {σ : State} (s : State) (w : List Nat) (hs : Keeps σ s) :
    Keeps σ (appliedAudit s w) := by
  unfold appliedAudit
  iterate 60 all_goals try first
    | with_reducible assumption | with_reducible apply wr_keeps | with_reducible apply setDigest_keeps | with_reducible apply raise_keeps | with_reducible apply raiseBit_keeps | with_reducible apply markRaised_keeps | with_reducible apply keeps_ite | with_reducible apply keeps_foldl | with_reducible apply keeps_foldl_fst | with_reducible apply keeps_foldl_snd
    | intro _ | split | dsimp only | (refine keeps_mk ?_ ?_ ?_ ?_ ?_ <;> first | exact id | skip)

theorem appliedRing_keeps {σ : State} (s0 : State) (s : State) (hs0 : Keeps σ s0) (hs : Keeps σ s) :
    Keeps σ (appliedRing s0 s) := by
  unfold appliedRing
  iterate 60 all_goals try first
    | with_reducible assumption | with_reducible apply raise_keeps | with_reducible apply raiseBit_keeps | with_reducible apply markRaised_keeps | with_reducible apply keeps_ite | with_reducible apply keeps_foldl | with_reducible apply keeps_foldl_fst | with_reducible apply keeps_foldl_snd
    | intro _ | split | dsimp only | (refine keeps_mk ?_ ?_ ?_ ?_ ?_ <;> first | exact id | skip)

theorem appliedPause_keeps {σ : State} (s : State) (w : List Nat) (hs : Keeps σ s) :
    Keeps σ (appliedPause s w) := by
  unfold appliedPause
  iterate 60 all_goals try first
    | with_reducible assumption | with_reducible apply modJob_keeps | with_reducible apply wr_keeps | with_reducible apply raise_keeps | with_reducible apply raiseBit_keeps | with_reducible apply markRaised_keeps | with_reducible apply keeps_ite | with_reducible apply keeps_foldl | with_reducible apply keeps_foldl_fst | with_reducible apply keeps_foldl_snd
    | intro _ | split | dsimp only | (refine keeps_mk ?_ ?_ ?_ ?_ ?_ <;> first | exact id | skip)

theorem applied_keeps {σ : State} (s0 : State) (s : State) (w : List Nat) (hs0 : Keeps σ s0) (hs : Keeps σ s) :
    Keeps σ (applied s0 s w) := by
  unfold applied
  iterate 60 all_goals try first
    | with_reducible assumption | with_reducible apply appliedHoops_keeps | with_reducible apply appliedLive_keeps | with_reducible apply appliedDrains_keeps | with_reducible apply appliedPort_keeps | with_reducible apply appliedEpoch_keeps | with_reducible apply appliedTally_keeps | with_reducible apply appliedMedia_keeps | with_reducible apply appliedWqs_keeps | with_reducible apply appliedPause_keeps | with_reducible apply appliedAudit_keeps | with_reducible apply appliedRing_keeps | with_reducible apply raise_keeps | with_reducible apply raiseBit_keeps | with_reducible apply markRaised_keeps | with_reducible apply keeps_ite | with_reducible apply keeps_foldl | with_reducible apply keeps_foldl_fst | with_reducible apply keeps_foldl_snd
    | intro _ | split | dsimp only | (refine keeps_mk ?_ ?_ ?_ ?_ ?_ <;> first | exact id | skip)

theorem temperTrace_keeps {σ : State} (s : State) (event : Nat) (n : Nat) (field : Nat) (hs : Keeps σ s) :
    Keeps σ (temperTrace s event n field) := by
  unfold temperTrace
  iterate 60 all_goals try first
    | with_reducible assumption | with_reducible apply trace_keeps | with_reducible apply raise_keeps | with_reducible apply raiseBit_keeps | with_reducible apply markRaised_keeps | with_reducible apply keeps_ite | with_reducible apply keeps_foldl | with_reducible apply keeps_foldl_fst | with_reducible apply keeps_foldl_snd
    | intro _ | split | dsimp only | (refine keeps_mk ?_ ?_ ?_ ?_ ?_ <;> first | exact id | skip)

theorem applySet_keeps {σ : State} (s : State) (n : Nat) (hs : Keeps σ s) :
    Keeps σ (applySet s n).1 := by
  unfold applySet
  iterate 60 all_goals try first
    | with_reducible assumption | with_reducible apply temperTrace_keeps | with_reducible apply wr_keeps | with_reducible apply overlay_keeps | with_reducible apply applied_keeps | with_reducible apply bump_keeps | with_reducible apply raise_keeps | with_reducible apply raiseBit_keeps | with_reducible apply markRaised_keeps | with_reducible apply keeps_ite | with_reducible apply keeps_foldl | with_reducible apply keeps_foldl_fst | with_reducible apply keeps_foldl_snd
    | intro _ | split | dsimp only | (refine keeps_mk ?_ ?_ ?_ ?_ ?_ <;> first | exact id | skip)

theorem applySets_keeps {σ : State} (s : State) (l : List Nat) (hs : Keeps σ s) :
    Keeps σ (applySets s l) := by
  unfold applySets
  iterate 60 all_goals try first
    | with_reducible assumption | with_reducible refine keeps_fst (by assumption) (applySet_keeps _ _ ?_) | with_reducible apply applySet_keeps | with_reducible apply raise_keeps | with_reducible apply raiseBit_keeps | with_reducible apply markRaised_keeps | with_reducible apply keeps_ite | with_reducible apply keeps_foldl | with_reducible apply keeps_foldl_fst | with_reducible apply keeps_foldl_snd
    | intro _ | split | dsimp only | (refine keeps_mk ?_ ?_ ?_ ?_ ?_ <;> first | exact id | skip)

theorem applyPending_keeps {σ : State} (s : State) (hs : Keeps σ s) :
    Keeps σ (applyPending s) := by
  unfold applyPending
  iterate 60 all_goals try first
    | with_reducible assumption | with_reducible apply wr_keeps | with_reducible apply applySets_keeps | with_reducible apply raise_keeps | with_reducible apply raiseBit_keeps | with_reducible apply markRaised_keeps | with_reducible apply keeps_ite | with_reducible apply keeps_foldl | with_reducible apply keeps_foldl_fst | with_reducible apply keeps_foldl_snd
    | intro _ | split | dsimp only | (refine keeps_mk ?_ ?_ ?_ ?_ ?_ <;> first | exact id | skip)

theorem temperStatus_keeps {σ : State} (s : State) (n : Nat) (result : Nat) (hs : Keeps σ s) :
    Keeps σ (temperStatus s n result) := by
  unfold temperStatus
  iterate 60 all_goals try first
    | with_reducible assumption | with_reducible apply wr_keeps | with_reducible apply raise_keeps | with_reducible apply raiseBit_keeps | with_reducible apply markRaised_keeps | with_reducible apply keeps_ite | with_reducible apply keeps_foldl | with_reducible apply keeps_foldl_fst | with_reducible apply keeps_foldl_snd
    | intro _ | split | dsimp only | (refine keeps_mk ?_ ?_ ?_ ?_ ?_ <;> first | exact id | skip)

theorem temperStage_keeps {σ : State} (s : State) (n : Nat) (hs : Keeps σ s) :
    Keeps σ (temperStage s n) := by
  unfold temperStage
  iterate 60 all_goals try first
    | with_reducible assumption | with_reducible apply temperStatus_keeps | with_reducible apply clearBit_keeps | with_reducible apply raise_keeps | with_reducible apply raiseBit_keeps | with_reducible apply markRaised_keeps | with_reducible apply keeps_ite | with_reducible apply keeps_foldl | with_reducible apply keeps_foldl_fst | with_reducible apply keeps_foldl_snd
    | intro _ | split | dsimp only | (refine keeps_mk ?_ ?_ ?_ ?_ ?_ <;> first | exact id | skip)

theorem temperApply_keeps {σ : State} (s : State) (n : Nat) (hs : Keeps σ s) :
    Keeps σ (temperApply s n) := by
  unfold temperApply
  iterate 60 all_goals try first
    | with_reducible assumption | with_reducible apply temperStatus_keeps | with_reducible apply setBit_keeps | with_reducible apply raise_keeps | with_reducible apply raiseBit_keeps | with_reducible apply markRaised_keeps | with_reducible apply keeps_ite | with_reducible apply keeps_foldl | with_reducible apply keeps_foldl_fst | with_reducible apply keeps_foldl_snd
    | intro _ | split | dsimp only | (refine keeps_mk ?_ ?_ ?_ ?_ ?_ <;> first | exact id | skip)

theorem temperDiscard_keeps {σ : State} (s : State) (n : Nat) (hs : Keeps σ s) :
    Keeps σ (temperDiscard s n) := by
  unfold temperDiscard
  iterate 60 all_goals try first
    | with_reducible assumption | with_reducible apply temperStatus_keeps | with_reducible apply raise_keeps | with_reducible apply raiseBit_keeps | with_reducible apply markRaised_keeps | with_reducible apply keeps_ite | with_reducible apply keeps_foldl | with_reducible apply keeps_foldl_fst | with_reducible apply keeps_foldl_snd
    | intro _ | split | dsimp only | (refine keeps_mk ?_ ?_ ?_ ?_ ?_ <;> first | exact id | skip)

theorem temperFree_keeps {σ : State} (s : State) (n : Nat) (hs : Keeps σ s) :
    Keeps σ (temperFree s n) := by
  unfold temperFree
  iterate 60 all_goals try first
    | with_reducible assumption | with_reducible apply temperStatus_keeps | with_reducible apply clearBit_keeps | with_reducible apply raise_keeps | with_reducible apply raiseBit_keeps | with_reducible apply markRaised_keeps | with_reducible apply keeps_ite | with_reducible apply keeps_foldl | with_reducible apply keeps_foldl_fst | with_reducible apply keeps_foldl_snd
    | intro _ | split | dsimp only | (refine keeps_mk ?_ ?_ ?_ ?_ ?_ <;> first | exact id | skip)

theorem temperCmd_keeps {σ : State} (s : State) (n : Nat) (op : Nat) (f : State → Nat → State) (hs : Keeps σ s) (hf : ∀ a0 a1, Keeps σ a0 → Keeps σ (f a0 a1)) :
    Keeps σ (temperCmd s n op f) := by
  unfold temperCmd
  iterate 60 all_goals try first
    | with_reducible assumption | with_reducible apply hf | with_reducible apply wr_keeps | with_reducible apply raise_keeps | with_reducible apply raiseBit_keeps | with_reducible apply markRaised_keeps | with_reducible apply keeps_ite | with_reducible apply keeps_foldl | with_reducible apply keeps_foldl_fst | with_reducible apply keeps_foldl_snd
    | intro _ | split | dsimp only | (refine keeps_mk ?_ ?_ ?_ ?_ ?_ <;> first | exact id | skip)

theorem execTemperStage_keeps {σ : State} (n : Nat) (s : State) (hs : Keeps σ s) :
    KeepsOut σ (execTemperStage n s) := by
  unfold execTemperStage
  iterate 60 all_goals try first
    | with_reducible assumption | with_reducible exact keepsOut_refused _ | with_reducible apply keepsOut_next | with_reducible apply temperCmd_keeps | with_reducible apply temperStage_keeps | with_reducible apply raise_keeps | with_reducible apply raiseBit_keeps | with_reducible apply markRaised_keeps | with_reducible apply keeps_ite | with_reducible apply keepsOut_ite | with_reducible apply keeps_foldl | with_reducible apply keeps_foldl_fst | with_reducible apply keeps_foldl_snd
    | with_reducible intro _ | split | dsimp only | (refine keeps_mk ?_ ?_ ?_ ?_ ?_ <;> first | exact id | skip)

theorem execTemperApply_keeps {σ : State} (n : Nat) (s : State) (hs : Keeps σ s) :
    KeepsOut σ (execTemperApply n s) := by
  unfold execTemperApply
  iterate 60 all_goals try first
    | with_reducible assumption | with_reducible exact keepsOut_refused _ | with_reducible apply keepsOut_next | with_reducible apply temperCmd_keeps | with_reducible apply temperApply_keeps | with_reducible apply raise_keeps | with_reducible apply raiseBit_keeps | with_reducible apply markRaised_keeps | with_reducible apply keeps_ite | with_reducible apply keepsOut_ite | with_reducible apply keeps_foldl | with_reducible apply keeps_foldl_fst | with_reducible apply keeps_foldl_snd
    | with_reducible intro _ | split | dsimp only | (refine keeps_mk ?_ ?_ ?_ ?_ ?_ <;> first | exact id | skip)

theorem execTemperDiscard_keeps {σ : State} (n : Nat) (s : State) (hs : Keeps σ s) :
    KeepsOut σ (execTemperDiscard n s) := by
  unfold execTemperDiscard
  iterate 60 all_goals try first
    | with_reducible assumption | with_reducible exact keepsOut_refused _ | with_reducible apply keepsOut_next | with_reducible apply temperCmd_keeps | with_reducible apply temperDiscard_keeps | with_reducible apply raise_keeps | with_reducible apply raiseBit_keeps | with_reducible apply markRaised_keeps | with_reducible apply keeps_ite | with_reducible apply keepsOut_ite | with_reducible apply keeps_foldl | with_reducible apply keeps_foldl_fst | with_reducible apply keeps_foldl_snd
    | with_reducible intro _ | split | dsimp only | (refine keeps_mk ?_ ?_ ?_ ?_ ?_ <;> first | exact id | skip)

theorem execTemperFree_keeps {σ : State} (n : Nat) (s : State) (hs : Keeps σ s) :
    KeepsOut σ (execTemperFree n s) := by
  unfold execTemperFree
  iterate 60 all_goals try first
    | with_reducible assumption | with_reducible exact keepsOut_refused _ | with_reducible apply keepsOut_next | with_reducible apply temperCmd_keeps | with_reducible apply temperFree_keeps | with_reducible apply raise_keeps | with_reducible apply raiseBit_keeps | with_reducible apply markRaised_keeps | with_reducible apply keeps_ite | with_reducible apply keepsOut_ite | with_reducible apply keeps_foldl | with_reducible apply keeps_foldl_fst | with_reducible apply keeps_foldl_snd
    | with_reducible intro _ | split | dsimp only | (refine keeps_mk ?_ ?_ ?_ ?_ ?_ <;> first | exact id | skip)

theorem execStageCheckDone_keeps {σ : State} (s : State) (hs : Keeps σ s) :
    KeepsOut σ (execStageCheckDone s) := by
  unfold execStageCheckDone
  iterate 60 all_goals try first
    | with_reducible assumption | with_reducible exact keepsOut_refused _ | with_reducible apply keepsOut_next | with_reducible apply temperTrace_keeps | with_reducible apply temperStatus_keeps | with_reducible apply setBit_keeps | with_reducible apply wr_keeps | with_reducible apply raise_keeps | with_reducible apply raiseBit_keeps | with_reducible apply markRaised_keeps | with_reducible apply keeps_ite | with_reducible apply keepsOut_ite | with_reducible apply keeps_foldl | with_reducible apply keeps_foldl_fst | with_reducible apply keeps_foldl_snd
    | with_reducible intro _ | split | dsimp only | (refine keeps_mk ?_ ?_ ?_ ?_ ?_ <;> first | exact id | skip)

theorem execTemperSetApply_keeps {σ : State} (s : State) (hs : Keeps σ s) :
    KeepsOut σ (execTemperSetApply s) := by
  unfold execTemperSetApply
  iterate 60 all_goals try first
    | with_reducible assumption | with_reducible exact keepsOut_refused _ | with_reducible apply keepsOut_next | with_reducible apply applyPending_keeps | with_reducible apply advanceTo_keeps | with_reducible apply raise_keeps | with_reducible apply raiseBit_keeps | with_reducible apply markRaised_keeps | with_reducible apply keeps_ite | with_reducible apply keepsOut_ite | with_reducible apply keeps_foldl | with_reducible apply keeps_foldl_fst | with_reducible apply keeps_foldl_snd
    | with_reducible intro _ | split | dsimp only | (refine keeps_mk ?_ ?_ ?_ ?_ ?_ <;> first | exact id | skip)

end Sys2Proof.Machine
end

