-- ==== Sys2Proof/Laws/KeepsRelease.lean ====
section
/-! SUPPORT. What every operation of Machine/Release.lean keeps. -/

namespace Sys2Proof.Machine

theorem witAdd_keeps {σ : State} (s : State) (i : WitIn) (hs : Keeps σ s) :
    Keeps σ (witAdd s i) := by
  unfold witAdd
  iterate 60 all_goals try first
    | with_reducible assumption | with_reducible apply modJob_keeps | with_reducible apply modCtx_keeps | with_reducible apply raise_keeps | with_reducible apply raiseBit_keeps | with_reducible apply markRaised_keeps | with_reducible apply keeps_ite | with_reducible apply keeps_foldl | with_reducible apply keeps_foldl_fst | with_reducible apply keeps_foldl_snd
    | intro _ | split | dsimp only | (refine keeps_mk ?_ ?_ ?_ ?_ ?_ <;> first | exact id | skip)

theorem inputDo_keeps {σ : State} (s : State) (i : WitIn) (hs : Keeps σ s) :
    Keeps σ (inputDo s i) := by
  unfold inputDo
  iterate 60 all_goals try first
    | with_reducible assumption | with_reducible apply witAdd_keeps | with_reducible apply modCtx_keeps | with_reducible apply putSlot_keeps | with_reducible apply modJob_keeps | with_reducible apply modS_keeps | with_reducible apply wr_keeps | with_reducible apply raise_keeps | with_reducible apply raiseBit_keeps | with_reducible apply markRaised_keeps | with_reducible apply keeps_ite | with_reducible apply keeps_foldl | with_reducible apply keeps_foldl_fst | with_reducible apply keeps_foldl_snd
    | intro _ | split | dsimp only | (refine keeps_mk ?_ ?_ ?_ ?_ ?_ <;> first | exact id | skip)

theorem inputCode_keeps {σ : State} (s : State) (i : WitIn) (hs : Keeps σ s) :
    Keeps σ (inputCode s i) := by
  unfold inputCode
  iterate 60 all_goals try first
    | with_reducible assumption | with_reducible apply modCtx_keeps | with_reducible apply modS_keeps | with_reducible apply encOpen_keeps | with_reducible apply raise_keeps | with_reducible apply raiseBit_keeps | with_reducible apply markRaised_keeps | with_reducible apply keeps_ite | with_reducible apply keeps_foldl | with_reducible apply keeps_foldl_fst | with_reducible apply keeps_foldl_snd
    | intro _ | split | dsimp only | (refine keeps_mk ?_ ?_ ?_ ?_ ?_ <;> first | exact id | skip)

theorem liveStats_keeps {σ : State} (s : State) (ready : List Nat) (hs : Keeps σ s) :
    Keeps σ (liveStats s ready) := by
  unfold liveStats
  iterate 60 all_goals try first
    | with_reducible assumption | with_reducible apply bump_keeps | with_reducible apply raise_keeps | with_reducible apply raiseBit_keeps | with_reducible apply markRaised_keeps | with_reducible apply keeps_ite | with_reducible apply keeps_foldl | with_reducible apply keeps_foldl_fst | with_reducible apply keeps_foldl_snd
    | intro _ | split | dsimp only | (refine keeps_mk ?_ ?_ ?_ ?_ ?_ <;> first | exact id | skip)

theorem resumeRegions_keeps {σ : State} (s : State) (hs : Keeps σ s) :
    Keeps σ (resumeRegions s) := by
  unfold resumeRegions
  iterate 60 all_goals try first
    | with_reducible assumption | with_reducible apply retire_keeps | with_reducible apply raise_keeps | with_reducible apply raiseBit_keeps | with_reducible apply markRaised_keeps | with_reducible apply keeps_ite | with_reducible apply keeps_foldl | with_reducible apply keeps_foldl_fst | with_reducible apply keeps_foldl_snd
    | intro _ | split | dsimp only | (refine keeps_mk ?_ ?_ ?_ ?_ ?_ <;> first | exact id | skip)

theorem openEpoch_keeps {σ : State} (s : State) (hs : Keeps σ s) :
    Keeps σ (openEpoch s) := by
  unfold openEpoch
  iterate 60 all_goals try first
    | with_reducible assumption | with_reducible apply jobFault_keeps | with_reducible apply wr_keeps | with_reducible apply inputDo_keeps | with_reducible apply liveStats_keeps | with_reducible apply inputCode_keeps | with_reducible apply resumeRegions_keeps | with_reducible apply raise_keeps | with_reducible apply raiseBit_keeps | with_reducible apply markRaised_keeps | with_reducible apply keeps_ite | with_reducible apply keeps_foldl | with_reducible apply keeps_foldl_fst | with_reducible apply keeps_foldl_snd
    | intro _ | split | dsimp only | (refine keeps_mk ?_ ?_ ?_ ?_ ?_ <;> first | exact id | skip)

theorem clearJobScope_keeps {σ : State} (s : State) (hs : Keeps σ s) :
    Keeps σ (clearJobScope s) := by
  unfold clearJobScope
  iterate 60 all_goals try first
    | with_reducible assumption | with_reducible apply wr_keeps | with_reducible apply raise_keeps | with_reducible apply raiseBit_keeps | with_reducible apply markRaised_keeps | with_reducible apply keeps_ite | with_reducible apply keeps_foldl | with_reducible apply keeps_foldl_fst | with_reducible apply keeps_foldl_snd
    | intro _ | split | dsimp only | (refine keeps_mk ?_ ?_ ?_ ?_ ?_ <;> first | exact id | skip)

theorem endPauseHolds_keeps {σ : State} (s : State) (hs : Keeps σ s) :
    Keeps σ (endPauseHolds s) := by
  unfold endPauseHolds
  iterate 60 all_goals try first
    | with_reducible assumption | with_reducible apply raise_keeps | with_reducible apply raiseBit_keeps | with_reducible apply markRaised_keeps | with_reducible apply keeps_ite | with_reducible apply keeps_foldl | with_reducible apply keeps_foldl_fst | with_reducible apply keeps_foldl_snd
    | intro _ | split | dsimp only | (refine keeps_mk ?_ ?_ ?_ ?_ ?_ <;> first | exact id | skip)

theorem restoreSaved_keeps {σ : State} (s : State) (v : Saved) (hs : Keeps σ s) :
    Keeps σ (restoreSaved s v) := by
  unfold restoreSaved
  iterate 60 all_goals try first
    | with_reducible assumption | with_reducible apply wr_keeps | with_reducible apply modCtx_keeps | with_reducible apply modJob_keeps | with_reducible apply raise_keeps | with_reducible apply raiseBit_keeps | with_reducible apply markRaised_keeps | with_reducible apply keeps_ite | with_reducible apply keeps_foldl | with_reducible apply keeps_foldl_fst | with_reducible apply keeps_foldl_snd
    | intro _ | split | dsimp only | (refine keeps_mk ?_ ?_ ?_ ?_ ?_ <;> first | exact id | skip)

theorem startJob_keeps {σ : State} (s : State) (j : Job) (hs : Keeps σ s) :
    Keeps σ (startJob s j) := by
  unfold startJob
  iterate 60 all_goals try first
    | with_reducible assumption | with_reducible apply clearJobScope_keeps | with_reducible apply endPauseHolds_keeps | with_reducible apply modJob_keeps | with_reducible apply modRegion_keeps | with_reducible apply restoreSaved_keeps | with_reducible apply wr_keeps | with_reducible apply raise_keeps | with_reducible apply raiseBit_keeps | with_reducible apply markRaised_keeps | with_reducible apply keeps_ite | with_reducible apply keeps_foldl | with_reducible apply keeps_foldl_fst | with_reducible apply keeps_foldl_snd
    | intro _ | split | dsimp only | (refine keeps_mk ?_ ?_ ?_ ?_ ?_ <;> first | exact id | skip)

theorem pauseDrains_keeps {σ : State} (s : State) (hs : Keeps σ s) :
    Keeps σ (pauseDrains s) := by
  unfold pauseDrains
  iterate 60 all_goals try first
    | with_reducible assumption | with_reducible apply modCtx_keeps | with_reducible apply raise_keeps | with_reducible apply raiseBit_keeps | with_reducible apply markRaised_keeps | with_reducible apply keeps_ite | with_reducible apply keeps_foldl | with_reducible apply keeps_foldl_fst | with_reducible apply keeps_foldl_snd
    | intro _ | split | dsimp only | (refine keeps_mk ?_ ?_ ?_ ?_ ?_ <;> first | exact id | skip)

theorem pauseJob_keeps {σ : State} (s : State) (hs : Keeps σ s) :
    Keeps σ (pauseJob s) := by
  unfold pauseJob
  iterate 60 all_goals try first
    | with_reducible assumption | with_reducible apply modJob_keeps | with_reducible apply pauseDrains_keeps | with_reducible apply wr_keeps | with_reducible apply raise_keeps | with_reducible apply raiseBit_keeps | with_reducible apply markRaised_keeps | with_reducible apply keeps_ite | with_reducible apply keeps_foldl | with_reducible apply keeps_foldl_fst | with_reducible apply keeps_foldl_snd
    | intro _ | split | dsimp only | (refine keeps_mk ?_ ?_ ?_ ?_ ?_ <;> first | exact id | skip)

theorem cancelItems_keeps {σ : State} (s : State) (hs : Keeps σ s) :
    Keeps σ (cancelItems s) := by
  unfold cancelItems
  iterate 60 all_goals try first
    | with_reducible assumption | with_reducible apply modCtx_keeps | with_reducible apply completeEntry_keeps | with_reducible apply raise_keeps | with_reducible apply raiseBit_keeps | with_reducible apply markRaised_keeps | with_reducible apply keeps_ite | with_reducible apply keeps_foldl | with_reducible apply keeps_foldl_fst | with_reducible apply keeps_foldl_snd
    | intro _ | split | dsimp only | (refine keeps_mk ?_ ?_ ?_ ?_ ?_ <;> first | exact id | skip)

theorem stopJob_keeps {σ : State} (s : State) (hs : Keeps σ s) :
    Keeps σ (stopJob s) := by
  unfold stopJob
  iterate 60 all_goals try first
    | with_reducible assumption | with_reducible apply stopRegions_keeps | with_reducible apply endJob_keeps | with_reducible apply cancelItems_keeps | with_reducible apply raise_keeps | with_reducible apply raiseBit_keeps | with_reducible apply markRaised_keeps | with_reducible apply keeps_ite | with_reducible apply keeps_foldl | with_reducible apply keeps_foldl_fst | with_reducible apply keeps_foldl_snd
    | intro _ | split | dsimp only | (refine keeps_mk ?_ ?_ ?_ ?_ ?_ <;> first | exact id | skip)

theorem releaseEdge_keeps {σ : State} (s : State) (num : Option Nat) (hs : Keeps σ s) :
    Keeps σ (releaseEdge s num) := by
  unfold releaseEdge
  iterate 60 all_goals try first
    | with_reducible assumption | with_reducible apply trace_keeps | with_reducible apply wr_keeps | with_reducible apply modRegion_keeps | with_reducible apply ballastStop_keeps | with_reducible apply raise_keeps | with_reducible apply raiseBit_keeps | with_reducible apply markRaised_keeps | with_reducible apply keeps_ite | with_reducible apply keeps_foldl | with_reducible apply keeps_foldl_fst | with_reducible apply keeps_foldl_snd
    | intro _ | split | dsimp only | (refine keeps_mk ?_ ?_ ?_ ?_ ?_ <;> first | exact id | skip)

theorem doRelease_keeps {σ : State} (s : State) (num : Option Nat) (hs : Keeps σ s) :
    Keeps σ (doRelease s num) := by
  unfold doRelease
  iterate 60 all_goals try first
    | with_reducible assumption | with_reducible apply applyPending_keeps | with_reducible apply releaseEdge_keeps | with_reducible apply stopJob_keeps | with_reducible apply openEpoch_keeps | with_reducible apply startJob_keeps | with_reducible apply pauseJob_keeps | with_reducible apply wr_keeps | with_reducible apply governorPoint_keeps | with_reducible apply diverge_keeps | with_reducible apply raise_keeps | with_reducible apply raiseBit_keeps | with_reducible apply markRaised_keeps | with_reducible apply keeps_ite | with_reducible apply keeps_foldl | with_reducible apply keeps_foldl_fst | with_reducible apply keeps_foldl_snd
    | intro _ | split | dsimp only | (refine keeps_mk ?_ ?_ ?_ ?_ ?_ <;> first | exact id | skip)

theorem tryRelease_keeps {σ : State} (s : State) (num : Option Nat) (hs : Keeps σ s) :
    Keeps σ (tryRelease s num) := by
  unfold tryRelease
  iterate 60 all_goals try first
    | with_reducible assumption | with_reducible apply statusAlarm_keeps | with_reducible apply doRelease_keeps | with_reducible apply raise_keeps | with_reducible apply raiseBit_keeps | with_reducible apply markRaised_keeps | with_reducible apply keeps_ite | with_reducible apply keeps_foldl | with_reducible apply keeps_foldl_fst | with_reducible apply keeps_foldl_snd
    | intro _ | split | dsimp only | (refine keeps_mk ?_ ?_ ?_ ?_ ?_ <;> first | exact id | skip)

theorem execSoloRelease_keeps {σ : State} (s : State) (hs : Keeps σ s) :
    KeepsOut σ (execSoloRelease s) := by
  unfold execSoloRelease
  iterate 60 all_goals try first
    | with_reducible assumption | with_reducible exact keepsOut_refused _ | with_reducible apply keepsOut_next | with_reducible apply tryRelease_keeps | with_reducible apply advanceTo_keeps | with_reducible apply raise_keeps | with_reducible apply raiseBit_keeps | with_reducible apply markRaised_keeps | with_reducible apply keeps_ite | with_reducible apply keepsOut_ite | with_reducible apply keeps_foldl | with_reducible apply keeps_foldl_fst | with_reducible apply keeps_foldl_snd
    | with_reducible intro _ | split | dsimp only | (refine keeps_mk ?_ ?_ ?_ ?_ ?_ <;> first | exact id | skip)

theorem execEpochRelease_keeps {σ : State} (s : State) (hs : Keeps σ s) :
    KeepsOut σ (execEpochRelease s) := by
  unfold execEpochRelease
  iterate 60 all_goals try first
    | with_reducible assumption | with_reducible exact keepsOut_refused _ | with_reducible apply keepsOut_next | with_reducible apply tryRelease_keeps | with_reducible apply advanceTo_keeps | with_reducible apply advance_keeps | with_reducible apply raise_keeps | with_reducible apply raiseBit_keeps | with_reducible apply markRaised_keeps | with_reducible apply keeps_ite | with_reducible apply keepsOut_ite | with_reducible apply keeps_foldl | with_reducible apply keeps_foldl_fst | with_reducible apply keeps_foldl_snd
    | with_reducible intro _ | split | dsimp only | (refine keeps_mk ?_ ?_ ?_ ?_ ?_ <;> first | exact id | skip)

theorem execReplayWaitEnd_keeps {σ : State} (s : State) (hs : Keeps σ s) :
    KeepsOut σ (execReplayWaitEnd s) := by
  unfold execReplayWaitEnd
  iterate 60 all_goals try first
    | with_reducible assumption | with_reducible exact keepsOut_refused _ | with_reducible apply keepsOut_next | with_reducible apply diverge_keeps | with_reducible apply doRelease_keeps | with_reducible apply raise_keeps | with_reducible apply raiseBit_keeps | with_reducible apply markRaised_keeps | with_reducible apply keeps_ite | with_reducible apply keepsOut_ite | with_reducible apply keeps_foldl | with_reducible apply keeps_foldl_fst | with_reducible apply keeps_foldl_snd
    | with_reducible intro _ | split | dsimp only | (refine keeps_mk ?_ ?_ ?_ ?_ ?_ <;> first | exact id | skip)

theorem logPut_keeps {σ : State} (s : State) (w : Witness) (hs : Keeps σ s) :
    Keeps σ (logPut s w) := by
  unfold logPut
  iterate 60 all_goals try first
    | with_reducible assumption | with_reducible apply wr_keeps | with_reducible apply devPut_keeps | with_reducible apply raise_keeps | with_reducible apply raiseBit_keeps | with_reducible apply markRaised_keeps | with_reducible apply keeps_ite | with_reducible apply keeps_foldl | with_reducible apply keeps_foldl_fst | with_reducible apply keeps_foldl_snd
    | intro _ | split | dsimp only | (refine keeps_mk ?_ ?_ ?_ ?_ ?_ <;> first | exact id | skip)

theorem witLose_keeps {σ : State} (s : State) (hs : Keeps σ s) :
    Keeps σ (witLose s) := by
  unfold witLose
  iterate 60 all_goals try first
    | with_reducible assumption | with_reducible apply statusAlarm_keeps | with_reducible apply raise_keeps | with_reducible apply raiseBit_keeps | with_reducible apply markRaised_keeps | with_reducible apply keeps_ite | with_reducible apply keeps_foldl | with_reducible apply keeps_foldl_fst | with_reducible apply keeps_foldl_snd
    | intro _ | split | dsimp only | (refine keeps_mk ?_ ?_ ?_ ?_ ?_ <;> first | exact id | skip)

theorem execWitnessWrite_keeps {σ : State} (s : State) (hs : Keeps σ s) :
    KeepsOut σ (execWitnessWrite s) := by
  unfold execWitnessWrite
  iterate 60 all_goals try first
    | with_reducible assumption | with_reducible exact keepsOut_refused _ | with_reducible apply keepsOut_next | with_reducible apply witLose_keeps | with_reducible apply logPut_keeps | with_reducible apply raise_keeps | with_reducible apply raiseBit_keeps | with_reducible apply markRaised_keeps | with_reducible apply keeps_ite | with_reducible apply keepsOut_ite | with_reducible apply keeps_foldl | with_reducible apply keeps_foldl_fst | with_reducible apply keeps_foldl_snd
    | with_reducible intro _ | split | dsimp only | (refine keeps_mk ?_ ?_ ?_ ?_ ?_ <;> first | exact id | skip)

theorem passBarrier_keeps {σ : State} (s : State) (hs : Keeps σ s) :
    Keeps σ (passBarrier s) := by
  unfold passBarrier
  iterate 60 all_goals try first
    | with_reducible assumption | with_reducible apply resumeRegions_keeps | with_reducible apply raise_keeps | with_reducible apply raiseBit_keeps | with_reducible apply markRaised_keeps | with_reducible apply keeps_ite | with_reducible apply keeps_foldl | with_reducible apply keeps_foldl_fst | with_reducible apply keeps_foldl_snd
    | intro _ | split | dsimp only | (refine keeps_mk ?_ ?_ ?_ ?_ ?_ <;> first | exact id | skip)

theorem putSave_keeps {σ : State} (s t : State) (j : Job) (others : List (Nat × Nat × List Byte)) (ht : Keeps σ t) : Keeps σ (putSave s t j others) :=
  devWrite_keeps _ _ _ _ _ ht

theorem execSaveComplete_keeps {σ : State} (ok : Bool) (others : List (Nat × Nat × List Byte)) (s : State) (hs : Keeps σ s) :
    KeepsOut σ (execSaveComplete ok others s) := by
  unfold execSaveComplete
  iterate 60 all_goals try first
    | with_reducible assumption | with_reducible exact keepsOut_refused _ | with_reducible apply keepsOut_next | with_reducible apply passBarrier_keeps | with_reducible apply putSave_keeps | with_reducible apply wr_keeps | with_reducible apply raise_keeps | with_reducible apply modJob_keeps | with_reducible apply raise_keeps | with_reducible apply raiseBit_keeps | with_reducible apply markRaised_keeps | with_reducible apply keeps_ite | with_reducible apply keepsOut_ite | with_reducible apply keeps_foldl | with_reducible apply keeps_foldl_fst | with_reducible apply keeps_foldl_snd
    | with_reducible intro _ | split | dsimp only | (refine keeps_mk ?_ ?_ ?_ ?_ ?_ <;> first | exact id | skip)

end Sys2Proof.Machine
end

