-- ==== Sys2Proof/Laws/KeepsLoad.lean ====
section
/-! SUPPORT. What every operation of Machine/Load.lean keeps. -/

namespace Sys2Proof.Machine

theorem retireCell_keeps {σ : State} (s : State) (n : Nat) (e : Nat) (hs : Keeps σ s) :
    Keeps σ (retireCell s n e) := by
  unfold retireCell
  iterate 60 all_goals try first
    | with_reducible assumption | with_reducible apply memErrors_keeps | with_reducible apply wr_keeps | with_reducible apply alarmEvent_keeps | with_reducible apply hwRecord_keeps | with_reducible apply isolate_keeps | with_reducible apply raise_keeps | with_reducible apply raiseBit_keeps | with_reducible apply markRaised_keeps | with_reducible apply keeps_ite | with_reducible apply keeps_foldl | with_reducible apply keeps_foldl_fst | with_reducible apply keeps_foldl_snd
    | intro _ | split | dsimp only | (refine keeps_mk ?_ ?_ ?_ ?_ ?_ <;> first | exact id | skip)

theorem sampleCell_keeps {σ : State} (s : State) (x : Nat × Nat × Nat) (hs : Keeps σ s) :
    Keeps σ (sampleCell s x).1 := by
  unfold sampleCell
  iterate 60 all_goals try first
    | with_reducible assumption | with_reducible apply memErrors_keeps | with_reducible apply retireCell_keeps | with_reducible apply wr_keeps | with_reducible apply raise_keeps | with_reducible apply raiseBit_keeps | with_reducible apply markRaised_keeps | with_reducible apply keeps_ite | with_reducible apply keeps_foldl | with_reducible apply keeps_foldl_fst | with_reducible apply keeps_foldl_snd
    | intro _ | split | dsimp only | (refine keeps_mk ?_ ?_ ?_ ?_ ?_ <;> first | exact id | skip)

theorem sampleMonitors_keeps {σ : State} (s : State) (l : List (Nat × Nat × Nat)) (hs : Keeps σ s) :
    Keeps σ (sampleMonitors s l) := by
  unfold sampleMonitors
  iterate 60 all_goals try first
    | with_reducible assumption | with_reducible apply memErrors_keeps | with_reducible refine keeps_fst (by assumption) (sampleCell_keeps _ _ ?_) | with_reducible apply sampleCell_keeps | with_reducible apply wr_keeps | with_reducible apply bump_keeps | with_reducible apply raise_keeps | with_reducible apply raiseBit_keeps | with_reducible apply markRaised_keeps | with_reducible apply keeps_ite | with_reducible apply keeps_foldl | with_reducible apply keeps_foldl_fst | with_reducible apply keeps_foldl_snd
    | intro _ | split | dsimp only | (refine keeps_mk ?_ ?_ ?_ ?_ ?_ <;> first | exact id | skip)

theorem admission_keeps {σ : State} (s : State) (e : Entry) (x : LoadIn) (hs : Keeps σ s) :
    Keeps σ (admission s e x).1 := by
  unfold admission
  iterate 60 all_goals try first
    | with_reducible assumption | with_reducible apply memErrors_keeps | with_reducible apply sampleMonitors_keeps | with_reducible apply raise_keeps | with_reducible apply raiseBit_keeps | with_reducible apply markRaised_keeps | with_reducible apply keeps_ite | with_reducible apply keeps_foldl | with_reducible apply keeps_foldl_fst | with_reducible apply keeps_foldl_snd
    | intro _ | split | dsimp only | (refine keeps_mk ?_ ?_ ?_ ?_ ?_ <;> first | exact id | skip)

theorem loadBurins_keeps {σ : State} (s : State) (img : List Byte) (hs : Keeps σ s) :
    Keeps σ (loadBurins s img) := by
  unfold loadBurins
  iterate 60 all_goals try first
    | with_reducible assumption | with_reducible apply memErrors_keeps | with_reducible apply putBurin_keeps | with_reducible apply raise_keeps | with_reducible apply raiseBit_keeps | with_reducible apply markRaised_keeps | with_reducible apply keeps_ite | with_reducible apply keeps_foldl | with_reducible apply keeps_foldl_fst | with_reducible apply keeps_foldl_snd
    | intro _ | split | dsimp only | (refine keeps_mk ?_ ?_ ?_ ?_ ?_ <;> first | exact id | skip)

theorem loadSave_keeps {σ : State} (s : State) (ue : List Nat) (a : Nat) (memOnly : Bool) (hs : Keeps σ s) :
    Keeps σ (loadSave s ue a memOnly) := by
  unfold loadSave
  iterate 60 all_goals try first
    | with_reducible assumption | with_reducible apply devWrite_keeps | with_reducible apply raise_keeps | with_reducible apply raiseBit_keeps | with_reducible apply markRaised_keeps | with_reducible apply keeps_ite | with_reducible apply keeps_foldl | with_reducible apply keeps_foldl_fst | with_reducible apply keeps_foldl_snd
    | intro _ | split | dsimp only | (refine keeps_mk ?_ ?_ ?_ ?_ ?_ <;> first | exact id | skip)

theorem loadStreams_keeps {σ : State} (s : State) (x : LoadIn) (hs : Keeps σ s) :
    Keeps σ (loadStreams s x) := by
  unfold loadStreams
  iterate 60 all_goals try first
    | with_reducible assumption | with_reducible apply memErrors_keeps | with_reducible apply modCtx_keeps | with_reducible apply modS_keeps | with_reducible apply raise_keeps | with_reducible apply raiseBit_keeps | with_reducible apply markRaised_keeps | with_reducible apply keeps_ite | with_reducible apply keeps_foldl | with_reducible apply keeps_foldl_fst | with_reducible apply keeps_foldl_snd
    | intro _ | split | dsimp only | (refine keeps_mk ?_ ?_ ?_ ?_ ?_ <;> first | exact id | skip)

theorem placeJob_keeps {σ : State} (s : State) (e : Entry) (x : LoadIn) (hs : Keeps σ s) :
    Keeps σ (placeJob s e x) := by
  unfold placeJob
  iterate 60 all_goals try first
    | with_reducible assumption | with_reducible apply loadBurins_keeps | with_reducible apply loadSave_keeps | with_reducible apply loadStreams_keeps | with_reducible apply wr_keeps | with_reducible apply raise_keeps | with_reducible apply raiseBit_keeps | with_reducible apply markRaised_keeps | with_reducible apply keeps_ite | with_reducible apply keeps_foldl | with_reducible apply keeps_foldl_fst | with_reducible apply keeps_foldl_snd
    | intro _ | split | dsimp only | (refine keeps_mk ?_ ?_ ?_ ?_ ?_ <;> first | exact id | skip)

theorem loadEntry_keeps {σ : State} (s : State) (e : Entry) (x : LoadIn) (hs : Keeps σ s) :
    Keeps σ (loadEntry s e x) := by
  unfold loadEntry
  iterate 60 all_goals try first
    | with_reducible assumption | with_reducible apply memErrors_keeps | with_reducible refine keeps_fst (by assumption) (admission_keeps _ _ _ ?_) | with_reducible apply admission_keeps | with_reducible apply completeRefused_keeps | with_reducible apply completeDone_keeps | with_reducible apply placeJob_keeps | with_reducible apply raise_keeps | with_reducible apply raiseBit_keeps | with_reducible apply markRaised_keeps | with_reducible apply keeps_ite | with_reducible apply keeps_foldl | with_reducible apply keeps_foldl_fst | with_reducible apply keeps_foldl_snd
    | intro _ | split | dsimp only | (refine keeps_mk ?_ ?_ ?_ ?_ ?_ <;> first | exact id | skip)

end Sys2Proof.Machine
end

