-- ==== Sys2Proof/Laws/KeepsHostQueue.lean ====
section
/-! SUPPORT. What every operation of Machine/HostQueue.lean keeps. -/

namespace Sys2Proof.Machine

theorem doorbell_keeps {σ : State} (s : State) (q : Nat) (v : Nat) (hs : Keeps σ s) :
    Keeps σ (doorbell s q v) := by
  unfold doorbell
  iterate 60 all_goals try first
    | with_reducible assumption | with_reducible apply modWq_keeps | with_reducible apply wr_keeps | with_reducible apply raise_keeps | with_reducible apply raiseBit_keeps | with_reducible apply markRaised_keeps | with_reducible apply keeps_ite | with_reducible apply keeps_foldl | with_reducible apply keeps_foldl_fst | with_reducible apply keeps_foldl_snd
    | intro _ | split | dsimp only | (refine keeps_mk ?_ ?_ ?_ ?_ ?_ <;> first | exact id | skip)

theorem execDoorbell_keeps {σ : State} (q : Nat) (v : Nat) (s : State) (hs : Keeps σ s) :
    KeepsOut σ (execDoorbell q v s) := by
  unfold execDoorbell
  iterate 60 all_goals try first
    | with_reducible assumption | with_reducible exact keepsOut_refused _ | with_reducible apply keepsOut_next | with_reducible apply doorbell_keeps | with_reducible apply raise_keeps | with_reducible apply raiseBit_keeps | with_reducible apply markRaised_keeps | with_reducible apply keeps_ite | with_reducible apply keepsOut_ite | with_reducible apply keeps_foldl | with_reducible apply keeps_foldl_fst | with_reducible apply keeps_foldl_snd
    | with_reducible intro _ | split | dsimp only | (refine keeps_mk ?_ ?_ ?_ ?_ ?_ <;> first | exact id | skip)

theorem fetchEntry_keeps {σ : State} (s : State) (q : Nat) (bad : Bool) (hs : Keeps σ s) :
    Keeps σ (fetchEntry s q bad) := by
  unfold fetchEntry
  iterate 60 all_goals try first
    | with_reducible assumption | with_reducible apply wr_keeps | with_reducible apply completeRefused_keeps | with_reducible apply modWq_keeps | with_reducible apply raise_keeps | with_reducible apply raiseBit_keeps | with_reducible apply markRaised_keeps | with_reducible apply keeps_ite | with_reducible apply keeps_foldl | with_reducible apply keeps_foldl_fst | with_reducible apply keeps_foldl_snd
    | intro _ | split | dsimp only | (refine keeps_mk ?_ ?_ ?_ ?_ ?_ <;> first | exact id | skip)

theorem execEntryFetch_keeps {σ : State} (q : Nat) (bad : Bool) (s : State) (hs : Keeps σ s) :
    KeepsOut σ (execEntryFetch q bad s) := by
  unfold execEntryFetch
  iterate 60 all_goals try first
    | with_reducible assumption | with_reducible exact keepsOut_refused _ | with_reducible apply keepsOut_next | with_reducible apply fetchEntry_keeps | with_reducible apply raise_keeps | with_reducible apply raiseBit_keeps | with_reducible apply markRaised_keeps | with_reducible apply keeps_ite | with_reducible apply keepsOut_ite | with_reducible apply keeps_foldl | with_reducible apply keeps_foldl_fst | with_reducible apply keeps_foldl_snd
    | with_reducible intro _ | split | dsimp only | (refine keeps_mk ?_ ?_ ?_ ?_ ?_ <;> first | exact id | skip)

theorem actOn_keeps {σ : State} (s : State) (e : Entry) (hs : Keeps σ s) :
    Keeps σ (actOn s e) := by
  unfold actOn
  iterate 60 all_goals try first
    | with_reducible assumption | with_reducible apply modWq_keeps | with_reducible apply raise_keeps | with_reducible apply raiseBit_keeps | with_reducible apply markRaised_keeps | with_reducible apply keeps_ite | with_reducible apply keeps_foldl | with_reducible apply keeps_foldl_fst | with_reducible apply keeps_foldl_snd
    | intro _ | split | dsimp only | (refine keeps_mk ?_ ?_ ?_ ?_ ?_ <;> first | exact id | skip)

theorem actNext_keeps {σ : State} (s : State) (q : Nat) (op : Nat) (f : State → Entry → State) (hs : Keeps σ s) (hf : ∀ a0 a1, Keeps σ a0 → Keeps σ (f a0 a1)) :
    Keeps σ (actNext s q op f) := by
  unfold actNext
  iterate 60 all_goals try first
    | with_reducible assumption | with_reducible apply hf | with_reducible apply actOn_keeps | with_reducible apply raise_keeps | with_reducible apply raiseBit_keeps | with_reducible apply markRaised_keeps | with_reducible apply keeps_ite | with_reducible apply keeps_foldl | with_reducible apply keeps_foldl_fst | with_reducible apply keeps_foldl_snd
    | intro _ | split | dsimp only | (refine keeps_mk ?_ ?_ ?_ ?_ ?_ <;> first | exact id | skip)

theorem entryDo_keeps {σ : State} (s : State) (q : Nat) (op : Nat) (f : State → Entry → State) (hs : Keeps σ s) (hf : ∀ a0 a1, Keeps σ a0 → Keeps σ (f a0 a1)) :
    KeepsOut σ (entryDo s q op f) := by
  unfold entryDo
  iterate 60 all_goals try first
    | with_reducible assumption | with_reducible exact keepsOut_refused _ | with_reducible apply keepsOut_next | with_reducible apply hf | with_reducible apply actNext_keeps | with_reducible apply raise_keeps | with_reducible apply raiseBit_keeps | with_reducible apply markRaised_keeps | with_reducible apply keeps_ite | with_reducible apply keepsOut_ite | with_reducible apply keeps_foldl | with_reducible apply keeps_foldl_fst | with_reducible apply keeps_foldl_snd
    | with_reducible intro _ | split | dsimp only | (refine keeps_mk ?_ ?_ ?_ ?_ ?_ <;> first | exact id | skip)

theorem execLoadEntry_keeps {σ : State} (q : Nat) (x : LoadIn) (s : State) (hs : Keeps σ s) :
    KeepsOut σ (execLoadEntry q x s) := by
  unfold execLoadEntry
  iterate 60 all_goals try first
    | with_reducible assumption | with_reducible exact keepsOut_refused _ | with_reducible apply keepsOut_next | with_reducible apply entryDo_keeps | with_reducible apply completeRefused_keeps | with_reducible apply loadEntry_keeps | with_reducible apply raise_keeps | with_reducible apply raiseBit_keeps | with_reducible apply markRaised_keeps | with_reducible apply keeps_ite | with_reducible apply keepsOut_ite | with_reducible apply keeps_foldl | with_reducible apply keeps_foldl_fst | with_reducible apply keeps_foldl_snd
    | with_reducible intro _ | split | dsimp only | (refine keeps_mk ?_ ?_ ?_ ?_ ?_ <;> first | exact id | skip)

theorem setShapes_keeps {σ : State} (s : State) (t : List Byte) (hs : Keeps σ s) :
    Keeps σ (setShapes s t) := by
  unfold setShapes
  iterate 60 all_goals try first
    | with_reducible assumption | with_reducible apply modRegion_keeps | with_reducible apply raise_keeps | with_reducible apply raiseBit_keeps | with_reducible apply markRaised_keeps | with_reducible apply keeps_ite | with_reducible apply keeps_foldl | with_reducible apply keeps_foldl_fst | with_reducible apply keeps_foldl_snd
    | intro _ | split | dsimp only | (refine keeps_mk ?_ ?_ ?_ ?_ ?_ <;> first | exact id | skip)

theorem shapeRefused_keeps {σ : State} (s : State) (e : Entry) (x : Nat × Nat × Nat × Nat) (hs : Keeps σ s) :
    Keeps σ (shapeRefused s e x) := by
  unfold shapeRefused
  iterate 60 all_goals try first
    | with_reducible assumption | with_reducible apply hwRecord_keeps | with_reducible apply wr_keeps | with_reducible apply completeEntry_keeps | with_reducible apply alarmEvent_keeps | with_reducible apply raise_keeps | with_reducible apply raiseBit_keeps | with_reducible apply markRaised_keeps | with_reducible apply keeps_ite | with_reducible apply keeps_foldl | with_reducible apply keeps_foldl_fst | with_reducible apply keeps_foldl_snd
    | intro _ | split | dsimp only | (refine keeps_mk ?_ ?_ ?_ ?_ ?_ <;> first | exact id | skip)

theorem runSet_keeps {σ : State} (s : State) (e : Entry) (hs : Keeps σ s) :
    Keeps σ (runSet s e).1 := by
  unfold runSet
  iterate 60 all_goals try first
    | with_reducible assumption | with_reducible refine keeps_fst (by assumption) (applySet_keeps _ _ ?_) | with_reducible apply applySet_keeps | with_reducible apply raise_keeps | with_reducible apply raiseBit_keeps | with_reducible apply markRaised_keeps | with_reducible apply keeps_ite | with_reducible apply keeps_foldl | with_reducible apply keeps_foldl_fst | with_reducible apply keeps_foldl_snd
    | intro _ | split | dsimp only | (refine keeps_mk ?_ ?_ ?_ ?_ ?_ <;> first | exact id | skip)

theorem runWait_keeps {σ : State} (s : State) (j : Job) (e : Entry) (t : List Byte) (hs : Keeps σ s) :
    Keeps σ (runWait s j e t) := by
  unfold runWait
  iterate 60 all_goals try first
    | with_reducible assumption | with_reducible apply modJob_keeps | with_reducible apply ballastStart_keeps | with_reducible apply raise_keeps | with_reducible apply raiseBit_keeps | with_reducible apply markRaised_keeps | with_reducible apply keeps_ite | with_reducible apply keeps_foldl | with_reducible apply keeps_foldl_fst | with_reducible apply keeps_foldl_snd
    | intro _ | split | dsimp only | (refine keeps_mk ?_ ?_ ?_ ?_ ?_ <;> first | exact id | skip)

theorem runDo_keeps {σ : State} (s : State) (e : Entry) (j : Job) (bad : Bool) (hs : Keeps σ s) :
    Keeps σ (runDo s e j bad) := by
  unfold runDo
  iterate 60 all_goals try first
    | with_reducible assumption | with_reducible apply setShapes_keeps | with_reducible apply wr_keeps | with_reducible apply shapeRefused_keeps | with_reducible refine keeps_fst (by assumption) (runSet_keeps _ _ ?_) | with_reducible apply runSet_keeps | with_reducible apply runWait_keeps | with_reducible apply completeRefused_keeps | with_reducible apply raise_keeps | with_reducible apply raiseBit_keeps | with_reducible apply markRaised_keeps | with_reducible apply keeps_ite | with_reducible apply keeps_foldl | with_reducible apply keeps_foldl_fst | with_reducible apply keeps_foldl_snd
    | intro _ | split | dsimp only | (refine keeps_mk ?_ ?_ ?_ ?_ ?_ <;> first | exact id | skip)

theorem runEntry_keeps {σ : State} (bad : Bool) (s : State) (e : Entry) (hs : Keeps σ s) :
    Keeps σ (runEntry bad s e) := by
  unfold runEntry
  iterate 60 all_goals try first
    | with_reducible assumption | with_reducible apply completeRefused_keeps | with_reducible apply runDo_keeps | with_reducible apply raise_keeps | with_reducible apply raiseBit_keeps | with_reducible apply markRaised_keeps | with_reducible apply keeps_ite | with_reducible apply keeps_foldl | with_reducible apply keeps_foldl_fst | with_reducible apply keeps_foldl_snd
    | intro _ | split | dsimp only | (refine keeps_mk ?_ ?_ ?_ ?_ ?_ <;> first | exact id | skip)

theorem execRunEntry_keeps {σ : State} (q : Nat) (bad : Bool) (s : State) (hs : Keeps σ s) :
    KeepsOut σ (execRunEntry q bad s) := by
  unfold execRunEntry
  iterate 60 all_goals try first
    | with_reducible assumption | with_reducible exact keepsOut_refused _ | with_reducible apply keepsOut_next | with_reducible apply entryDo_keeps | with_reducible apply runEntry_keeps | with_reducible apply raise_keeps | with_reducible apply raiseBit_keeps | with_reducible apply markRaised_keeps | with_reducible apply keeps_ite | with_reducible apply keepsOut_ite | with_reducible apply keeps_foldl | with_reducible apply keeps_foldl_fst | with_reducible apply keeps_foldl_snd
    | with_reducible intro _ | split | dsimp only | (refine keeps_mk ?_ ?_ ?_ ?_ ?_ <;> first | exact id | skip)

theorem execStopEntry_keeps {σ : State} (q : Nat) (s : State) (hs : Keeps σ s) :
    KeepsOut σ (execStopEntry q s) := by
  unfold execStopEntry
  iterate 60 all_goals try first
    | with_reducible assumption | with_reducible exact keepsOut_refused _ | with_reducible apply keepsOut_next | with_reducible apply entryDo_keeps | with_reducible apply completeRefused_keeps | with_reducible apply modJob_keeps | with_reducible apply stopJob_keeps | with_reducible apply wr_keeps | with_reducible apply raise_keeps | with_reducible apply raiseBit_keeps | with_reducible apply markRaised_keeps | with_reducible apply keeps_ite | with_reducible apply keepsOut_ite | with_reducible apply keeps_foldl | with_reducible apply keeps_foldl_fst | with_reducible apply keeps_foldl_snd
    | with_reducible intro _ | split | dsimp only | (refine keeps_mk ?_ ?_ ?_ ?_ ?_ <;> first | exact id | skip)

theorem execItemEntry_keeps {σ : State} (q : Nat) (s : State) (hs : Keeps σ s) :
    KeepsOut σ (execItemEntry q s) := by
  unfold execItemEntry
  iterate 60 all_goals try first
    | with_reducible assumption | with_reducible exact keepsOut_refused _ | with_reducible apply keepsOut_next | with_reducible apply entryDo_keeps | with_reducible apply completeRefused_keeps | with_reducible apply modCtx_keeps | with_reducible apply raise_keeps | with_reducible apply raiseBit_keeps | with_reducible apply markRaised_keeps | with_reducible apply keeps_ite | with_reducible apply keepsOut_ite | with_reducible apply keeps_foldl | with_reducible apply keeps_foldl_fst | with_reducible apply keeps_foldl_snd
    | with_reducible intro _ | split | dsimp only | (refine keeps_mk ?_ ?_ ?_ ?_ ?_ <;> first | exact id | skip)

theorem stageBytes_keeps {σ : State} (s : State) (a : Nat) (l : List Byte × Bool) (hs : Keeps σ s) :
    Keeps σ (stageBytes s a l) := by
  unfold stageBytes
  iterate 60 all_goals try first
    | with_reducible assumption | with_reducible apply devWrite_keeps | with_reducible apply raise_keeps | with_reducible apply raiseBit_keeps | with_reducible apply markRaised_keeps | with_reducible apply keeps_ite | with_reducible apply keeps_foldl | with_reducible apply keeps_foldl_fst | with_reducible apply keeps_foldl_snd
    | intro _ | split | dsimp only | (refine keeps_mk ?_ ?_ ?_ ?_ ?_ <;> first | exact id | skip)

theorem itemStaged_keeps {σ : State} (s : State) (q : Nat) (idx : Nat) (sa : Nat) (sb : Nat) (bad : Bool) (hs : Keeps σ s) :
    Keeps σ (itemStaged s q idx sa sb bad) := by
  unfold itemStaged
  iterate 60 all_goals try first
    | with_reducible assumption | with_reducible apply stageBytes_keeps | with_reducible apply wr_keeps | with_reducible apply modCtx_keeps | with_reducible apply raise_keeps | with_reducible apply raiseBit_keeps | with_reducible apply markRaised_keeps | with_reducible apply keeps_ite | with_reducible apply keeps_foldl | with_reducible apply keeps_foldl_fst | with_reducible apply keeps_foldl_snd
    | intro _ | split | dsimp only | (refine keeps_mk ?_ ?_ ?_ ?_ ?_ <;> first | exact id | skip)

theorem execItemEligible_keeps {σ : State} (q : Nat) (idx : Nat) (sa : Nat) (sb : Nat) (bad : Bool) (s : State) (hs : Keeps σ s) :
    KeepsOut σ (execItemEligible q idx sa sb bad s) := by
  unfold execItemEligible
  iterate 60 all_goals try first
    | with_reducible assumption | with_reducible exact keepsOut_refused _ | with_reducible apply keepsOut_next | with_reducible apply itemStaged_keeps | with_reducible apply raise_keeps | with_reducible apply raiseBit_keeps | with_reducible apply markRaised_keeps | with_reducible apply keeps_ite | with_reducible apply keepsOut_ite | with_reducible apply keeps_foldl | with_reducible apply keeps_foldl_fst | with_reducible apply keeps_foldl_snd
    | with_reducible intro _ | split | dsimp only | (refine keeps_mk ?_ ?_ ?_ ?_ ?_ <;> first | exact id | skip)

theorem execHostReadError_keeps {σ : State} (what : Nat) (q : Nat) (idx : Nat) (sa : Nat) (sb : Nat) (s : State) (hs : Keeps σ s) :
    KeepsOut σ (execHostReadError what q idx sa sb s) := by
  unfold execHostReadError
  iterate 60 all_goals try first
    | with_reducible assumption | with_reducible exact keepsOut_refused _ | with_reducible apply keepsOut_next | with_reducible apply fetchEntry_keeps | with_reducible apply itemStaged_keeps | with_reducible apply actNext_keeps | with_reducible apply runEntry_keeps | with_reducible apply raise_keeps | with_reducible apply raiseBit_keeps | with_reducible apply markRaised_keeps | with_reducible apply keeps_ite | with_reducible apply keepsOut_ite | with_reducible apply keeps_foldl | with_reducible apply keeps_foldl_fst | with_reducible apply keeps_foldl_snd
    | with_reducible intro _ | split | dsimp only | (refine keeps_mk ?_ ?_ ?_ ?_ ?_ <;> first | exact id | skip)

theorem closeStream_keeps {σ : State} (s : State) (c : Nat) (a : Bool) (hs : Keeps σ s) :
    Keeps σ (closeStream s c a) := by
  unfold closeStream
  iterate 60 all_goals try first
    | with_reducible assumption | with_reducible apply modS_keeps | with_reducible apply modCtx_keeps | with_reducible apply raise_keeps | with_reducible apply raiseBit_keeps | with_reducible apply markRaised_keeps | with_reducible apply keeps_ite | with_reducible apply keeps_foldl | with_reducible apply keeps_foldl_fst | with_reducible apply keeps_foldl_snd
    | intro _ | split | dsimp only | (refine keeps_mk ?_ ?_ ?_ ?_ ?_ <;> first | exact id | skip)

theorem execCloseEntry_keeps {σ : State} (q : Nat) (s : State) (hs : Keeps σ s) :
    KeepsOut σ (execCloseEntry q s) := by
  unfold execCloseEntry
  iterate 60 all_goals try first
    | with_reducible assumption | with_reducible exact keepsOut_refused _ | with_reducible apply keepsOut_next | with_reducible apply entryDo_keeps | with_reducible apply completeRefused_keeps | with_reducible apply completeDone_keeps | with_reducible apply closeStream_keeps | with_reducible apply raise_keeps | with_reducible apply raiseBit_keeps | with_reducible apply markRaised_keeps | with_reducible apply keeps_ite | with_reducible apply keepsOut_ite | with_reducible apply keeps_foldl | with_reducible apply keeps_foldl_fst | with_reducible apply keeps_foldl_snd
    | with_reducible intro _ | split | dsimp only | (refine keeps_mk ?_ ?_ ?_ ?_ ?_ <;> first | exact id | skip)

theorem execReleaseEntry_keeps {σ : State} (q : Nat) (s : State) (hs : Keeps σ s) :
    KeepsOut σ (execReleaseEntry q s) := by
  unfold execReleaseEntry
  iterate 60 all_goals try first
    | with_reducible assumption | with_reducible exact keepsOut_refused _ | with_reducible apply keepsOut_next | with_reducible apply entryDo_keeps | with_reducible apply completeRefused_keeps | with_reducible apply completeDone_keeps | with_reducible apply putSlot_keeps | with_reducible apply raise_keeps | with_reducible apply raiseBit_keeps | with_reducible apply markRaised_keeps | with_reducible apply keeps_ite | with_reducible apply keepsOut_ite | with_reducible apply keeps_foldl | with_reducible apply keeps_foldl_fst | with_reducible apply keeps_foldl_snd
    | with_reducible intro _ | split | dsimp only | (refine keeps_mk ?_ ?_ ?_ ?_ ?_ <;> first | exact id | skip)

theorem execNopEntry_keeps {σ : State} (q : Nat) (s : State) (hs : Keeps σ s) :
    KeepsOut σ (execNopEntry q s) := by
  unfold execNopEntry
  iterate 60 all_goals try first
    | with_reducible assumption | with_reducible exact keepsOut_refused _ | with_reducible apply keepsOut_next | with_reducible apply entryDo_keeps | with_reducible apply completeDone_keeps | with_reducible apply raise_keeps | with_reducible apply raiseBit_keeps | with_reducible apply markRaised_keeps | with_reducible apply keeps_ite | with_reducible apply keepsOut_ite | with_reducible apply keeps_foldl | with_reducible apply keeps_foldl_fst | with_reducible apply keeps_foldl_snd
    | with_reducible intro _ | split | dsimp only | (refine keeps_mk ?_ ?_ ?_ ?_ ?_ <;> first | exact id | skip)

theorem resultReady_keeps {σ : State} (q : Nat) (idx : Nat) (spans : List (Nat × Nat)) (s : State) (hs : Keeps σ s) :
    Keeps σ (resultReady q idx spans s) := by
  unfold resultReady
  iterate 60 all_goals try first
    | with_reducible assumption | with_reducible apply tallyAdd_keeps | with_reducible apply putSlot_keeps | with_reducible apply devPut_keeps | with_reducible apply wr_keeps | with_reducible apply modCtx_keeps | with_reducible apply completeEntry_keeps | with_reducible apply raise_keeps | with_reducible apply raiseBit_keeps | with_reducible apply markRaised_keeps | with_reducible apply keeps_ite | with_reducible apply keeps_foldl | with_reducible apply keeps_foldl_fst | with_reducible apply keeps_foldl_snd
    | with_reducible intro _ | split | dsimp only | (refine keeps_mk ?_ ?_ ?_ ?_ ?_ <;> first | exact id | skip)

theorem execResultReady_keeps {σ : State} (q : Nat) (idx : Nat) (spans : List (Nat × Nat)) (s : State) (hs : Keeps σ s) :
    KeepsOut σ (execResultReady q idx spans s) := by
  unfold execResultReady
  exact keepsOut_ite (fun _ => keepsOut_refused _) (fun _ => keepsOut_next (resultReady_keeps _ _ _ _ hs))

theorem execCqRecordFlush_keeps {σ : State} (q : Nat) (s : State) (hs : Keeps σ s) :
    KeepsOut σ (execCqRecordFlush q s) := by
  unfold execCqRecordFlush
  iterate 60 all_goals try first
    | with_reducible assumption | with_reducible exact keepsOut_refused _ | with_reducible apply keepsOut_next | with_reducible apply cqWrite_keeps | with_reducible apply raise_keeps | with_reducible apply raiseBit_keeps | with_reducible apply markRaised_keeps | with_reducible apply keeps_ite | with_reducible apply keepsOut_ite | with_reducible apply keeps_foldl | with_reducible apply keeps_foldl_fst | with_reducible apply keeps_foldl_snd
    | with_reducible intro _ | split | dsimp only | (refine keeps_mk ?_ ?_ ?_ ?_ ?_ <;> first | exact id | skip)

end Sys2Proof.Machine
end

