-- ==== Sys2Proof/Laws/KeepsBoot.lean ====
section
/-! SUPPORT. What every operation of Machine/Boot.lean keeps. -/

namespace Sys2Proof.Machine

theorem coldReset_keeps {σ : State} (s : State) (hs : Keeps σ s) :
    Keeps σ (coldReset s) := by
  exact ⟨hs.pending, fun _ => rfl, hs.host, fun _ => rfl, fun _ => rfl⟩

theorem warmReset_keeps {σ : State} (s : State) (hs : Keeps σ s) :
    Keeps σ (warmReset s) := by
  unfold warmReset
  split
  · exact hs
  · have h : Keeps σ ((List.range 8).foldl isolatePending (wr (wr { s with job := none } Fk.bootStateWarm 1) Fk.bootStateStage bsFlash)) :=
      keeps_foldl (fun _ _ k => isolatePending_keeps _ _ k) (wr_keeps _ _ _ (wr_keeps _ _ _ (keeps_mk hs id id id id)))
    exact wr_keeps _ _ _ (wr_keeps _ _ _ (bump_keeps _ _ _ (keeps_mk h (mwf_filter _ _ _) id id (fun _ => rfl))))

theorem execColdReset_keeps {σ : State} (s : State) (hs : Keeps σ s) :
    KeepsOut σ (execColdReset s) := by
  unfold execColdReset
  iterate 60 all_goals try first
    | with_reducible assumption | with_reducible exact keepsOut_refused _ | with_reducible apply keepsOut_next | with_reducible apply coldReset_keeps | with_reducible apply raise_keeps | with_reducible apply raiseBit_keeps | with_reducible apply markRaised_keeps | with_reducible apply keeps_ite | with_reducible apply keepsOut_ite | with_reducible apply keeps_foldl | with_reducible apply keeps_foldl_fst | with_reducible apply keeps_foldl_snd
    | with_reducible intro _ | split | dsimp only | (refine keeps_mk ?_ ?_ ?_ ?_ ?_ <;> first | exact id | skip)

theorem execWarmReset_keeps {σ : State} (s : State) (hs : Keeps σ s) :
    KeepsOut σ (execWarmReset s) := by
  unfold execWarmReset
  iterate 60 all_goals try first
    | with_reducible assumption | with_reducible exact keepsOut_refused _ | with_reducible apply keepsOut_next | with_reducible apply warmReset_keeps | with_reducible apply raise_keeps | with_reducible apply raiseBit_keeps | with_reducible apply markRaised_keeps | with_reducible apply keeps_ite | with_reducible apply keepsOut_ite | with_reducible apply keeps_foldl | with_reducible apply keeps_foldl_fst | with_reducible apply keeps_foldl_snd
    | with_reducible intro _ | split | dsimp only | (refine keeps_mk ?_ ?_ ?_ ?_ ?_ <;> first | exact id | skip)

theorem execBootCtlWarmReset_keeps {σ : State} (s : State) (hs : Keeps σ s) :
    KeepsOut σ (execBootCtlWarmReset s) := by
  unfold execBootCtlWarmReset
  iterate 60 all_goals try first
    | with_reducible assumption | with_reducible exact keepsOut_refused _ | with_reducible apply keepsOut_next | with_reducible apply warmReset_keeps | with_reducible apply raise_keeps | with_reducible apply raiseBit_keeps | with_reducible apply markRaised_keeps | with_reducible apply keeps_ite | with_reducible apply keepsOut_ite | with_reducible apply keeps_foldl | with_reducible apply keeps_foldl_fst | with_reducible apply keeps_foldl_snd
    | with_reducible intro _ | split | dsimp only | (refine keeps_mk ?_ ?_ ?_ ?_ ?_ <;> first | exact id | skip)

theorem execWarmResetCmd_keeps {σ : State} (s : State) (hs : Keeps σ s) :
    KeepsOut σ (execWarmResetCmd s) := by
  unfold execWarmResetCmd
  iterate 60 all_goals try first
    | with_reducible assumption | with_reducible exact keepsOut_refused _ | with_reducible apply keepsOut_next | with_reducible apply warmReset_keeps | with_reducible apply emit_keeps | with_reducible apply raise_keeps | with_reducible apply raiseBit_keeps | with_reducible apply markRaised_keeps | with_reducible apply keeps_ite | with_reducible apply keepsOut_ite | with_reducible apply keeps_foldl | with_reducible apply keeps_foldl_fst | with_reducible apply keeps_foldl_snd
    | with_reducible intro _ | split | dsimp only | (refine keeps_mk ?_ ?_ ?_ ?_ ?_ <;> first | exact id | skip)

theorem chipFault_keeps {σ : State} (s : State) (code : Nat) (detail : List Byte) (hs : Keeps σ s) :
    Keeps σ (chipFault s code detail) := by
  unfold chipFault
  iterate 60 all_goals try first
    | with_reducible assumption | with_reducible apply partFault_keeps | with_reducible apply raise_keeps | with_reducible apply raiseBit_keeps | with_reducible apply markRaised_keeps | with_reducible apply keeps_ite | with_reducible apply keeps_foldl | with_reducible apply keeps_foldl_fst | with_reducible apply keeps_foldl_snd
    | intro _ | split | dsimp only | (refine keeps_mk ?_ ?_ ?_ ?_ ?_ <;> first | exact id | skip)

theorem execRailOutOfBand_keeps {σ : State} (n : Nat) (s : State) (hs : Keeps σ s) :
    KeepsOut σ (execRailOutOfBand n s) := by
  unfold execRailOutOfBand
  iterate 60 all_goals try first
    | with_reducible assumption | with_reducible exact keepsOut_refused _ | with_reducible apply keepsOut_next | with_reducible apply coldReset_keeps | with_reducible apply chipFault_keeps | with_reducible apply raise_keeps | with_reducible apply raiseBit_keeps | with_reducible apply markRaised_keeps | with_reducible apply keeps_ite | with_reducible apply keepsOut_ite | with_reducible apply keeps_foldl | with_reducible apply keeps_foldl_fst | with_reducible apply keeps_foldl_snd
    | with_reducible intro _ | split | dsimp only | (refine keeps_mk ?_ ?_ ?_ ?_ ?_ <;> first | exact id | skip)

theorem execRailsWithinBand_keeps {σ : State} (s : State) (hs : Keeps σ s) :
    KeepsOut σ (execRailsWithinBand s) := by
  unfold execRailsWithinBand
  iterate 60 all_goals try first
    | with_reducible assumption | with_reducible exact keepsOut_refused _ | with_reducible apply keepsOut_next | with_reducible apply wr_keeps | with_reducible apply raise_keeps | with_reducible apply raiseBit_keeps | with_reducible apply markRaised_keeps | with_reducible apply keeps_ite | with_reducible apply keepsOut_ite | with_reducible apply keeps_foldl | with_reducible apply keeps_foldl_fst | with_reducible apply keeps_foldl_snd
    | with_reducible intro _ | split | dsimp only | (refine keeps_mk ?_ ?_ ?_ ?_ ?_ <;> first | exact id | skip)

theorem bootFail_keeps {σ : State} (s : State) (st : Nat) (code : Nat) (hs : Keeps σ s) :
    Keeps σ (bootFail s st code) := by
  unfold bootFail
  iterate 60 all_goals try first
    | with_reducible assumption | with_reducible apply wr_keeps | with_reducible apply raise_keeps | with_reducible apply raiseBit_keeps | with_reducible apply markRaised_keeps | with_reducible apply keeps_ite | with_reducible apply keeps_foldl | with_reducible apply keeps_foldl_fst | with_reducible apply keeps_foldl_snd
    | intro _ | split | dsimp only | (refine keeps_mk ?_ ?_ ?_ ?_ ?_ <;> first | exact id | skip)

theorem bootDo_keeps {σ : State} (s : State) (st : Nat) (f : State → State) (hs : Keeps σ s) (hf : ∀ a0, Keeps σ a0 → Keeps σ (f a0)) :
    KeepsOut σ (bootDo s st f) := by
  unfold bootDo
  iterate 60 all_goals try first
    | with_reducible assumption | with_reducible exact keepsOut_refused _ | with_reducible apply keepsOut_next | with_reducible apply hf | with_reducible apply raise_keeps | with_reducible apply raiseBit_keeps | with_reducible apply markRaised_keeps | with_reducible apply keeps_ite | with_reducible apply keepsOut_ite | with_reducible apply keeps_foldl | with_reducible apply keeps_foldl_fst | with_reducible apply keeps_foldl_snd
    | with_reducible intro _ | split | dsimp only | (refine keeps_mk ?_ ?_ ?_ ?_ ?_ <;> first | exact id | skip)

theorem execBootPll_keeps {σ : State} (ok : Bool) (s : State) (hs : Keeps σ s) :
    KeepsOut σ (execBootPll ok s) := by
  unfold execBootPll
  iterate 60 all_goals try first
    | with_reducible assumption | with_reducible exact keepsOut_refused _ | with_reducible apply keepsOut_next | with_reducible apply bootDo_keeps | with_reducible apply wr_keeps | with_reducible apply bootFail_keeps | with_reducible apply raise_keeps | with_reducible apply raiseBit_keeps | with_reducible apply markRaised_keeps | with_reducible apply keeps_ite | with_reducible apply keepsOut_ite | with_reducible apply keeps_foldl | with_reducible apply keeps_foldl_fst | with_reducible apply keeps_foldl_snd
    | with_reducible intro _ | split | dsimp only | (refine keeps_mk ?_ ?_ ?_ ?_ ?_ <;> first | exact id | skip)

theorem fusedCells_keeps {σ : State} (s : State) (n : Nat) (hs : Keeps σ s) :
    Keeps σ (fusedCells s n) := by
  unfold fusedCells
  iterate 60 all_goals try first
    | with_reducible assumption | with_reducible apply wr_keeps | with_reducible apply raise_keeps | with_reducible apply raiseBit_keeps | with_reducible apply markRaised_keeps | with_reducible apply keeps_ite | with_reducible apply keeps_foldl | with_reducible apply keeps_foldl_fst | with_reducible apply keeps_foldl_snd
    | intro _ | split | dsimp only | (refine keeps_mk ?_ ?_ ?_ ?_ ?_ <;> first | exact id | skip)

theorem loadFuses_keeps {σ : State} (s : State) (x : FuseIn) (hs : Keeps σ s) :
    Keeps σ (loadFuses s x) := by
  unfold loadFuses
  iterate 60 all_goals try first
    | with_reducible assumption | with_reducible apply wr_keeps | with_reducible apply fusedCells_keeps | with_reducible apply raise_keeps | with_reducible apply raiseBit_keeps | with_reducible apply markRaised_keeps | with_reducible apply keeps_ite | with_reducible apply keeps_foldl | with_reducible apply keeps_foldl_fst | with_reducible apply keeps_foldl_snd
    | intro _ | split | dsimp only | (refine keeps_mk ?_ ?_ ?_ ?_ ?_ <;> first | exact id | skip)

theorem execBootFuse_keeps {σ : State} (x : Option FuseIn) (s : State) (hs : Keeps σ s) :
    KeepsOut σ (execBootFuse x s) := by
  unfold execBootFuse
  iterate 60 all_goals try first
    | with_reducible assumption | with_reducible exact keepsOut_refused _ | with_reducible apply keepsOut_next | with_reducible apply bootDo_keeps | with_reducible apply bootFail_keeps | with_reducible apply loadFuses_keeps | with_reducible apply wr_keeps | with_reducible apply raise_keeps | with_reducible apply raiseBit_keeps | with_reducible apply markRaised_keeps | with_reducible apply keeps_ite | with_reducible apply keepsOut_ite | with_reducible apply keeps_foldl | with_reducible apply keeps_foldl_fst | with_reducible apply keeps_foldl_snd
    | with_reducible intro _ | split | dsimp only | (refine keeps_mk ?_ ?_ ?_ ?_ ?_ <;> first | exact id | skip)

theorem execBootFlash_keeps {σ : State} (a : Option FlashIn) (b : Option FlashIn) (s : State) (hs : Keeps σ s) :
    KeepsOut σ (execBootFlash a b s) := by
  unfold execBootFlash
  iterate 60 all_goals try first
    | with_reducible assumption | with_reducible exact keepsOut_refused _ | with_reducible apply keepsOut_next | with_reducible apply bootDo_keeps | with_reducible apply wr_keeps | with_reducible apply setDigest_keeps | with_reducible apply bootFail_keeps | with_reducible apply raise_keeps | with_reducible apply raiseBit_keeps | with_reducible apply markRaised_keeps | with_reducible apply keeps_ite | with_reducible apply keepsOut_ite | with_reducible apply keeps_foldl | with_reducible apply keeps_foldl_fst | with_reducible apply keeps_foldl_snd
    | with_reducible intro _ | split | dsimp only | (refine keeps_mk ?_ ?_ ?_ ?_ ?_ <;> first | exact id | skip)

theorem memPhy_keeps {σ : State} (s : State) (dev : Nat) (hs : Keeps σ s) :
    Keeps σ (memPhy s dev) := by
  unfold memPhy
  iterate 60 all_goals try first
    | with_reducible assumption | with_reducible apply heldFault_keeps | with_reducible apply setBit_keeps | with_reducible apply hwRecord_keeps | with_reducible apply raise_keeps | with_reducible apply raiseBit_keeps | with_reducible apply markRaised_keeps | with_reducible apply keeps_ite | with_reducible apply keeps_foldl | with_reducible apply keeps_foldl_fst | with_reducible apply keeps_foldl_snd
    | intro _ | split | dsimp only | (refine keeps_mk ?_ ?_ ?_ ?_ ?_ <;> first | exact id | skip)

theorem execBootMemtrain_keeps {σ : State} (fails : List Nat) (s : State) (hs : Keeps σ s) :
    KeepsOut σ (execBootMemtrain fails s) := by
  unfold execBootMemtrain
  iterate 60 all_goals try first
    | with_reducible assumption | with_reducible exact keepsOut_refused _ | with_reducible apply keepsOut_next | with_reducible apply bootDo_keeps | with_reducible apply wr_keeps | with_reducible apply memPhy_keeps | with_reducible apply raise_keeps | with_reducible apply raiseBit_keeps | with_reducible apply markRaised_keeps | with_reducible apply keeps_ite | with_reducible apply keepsOut_ite | with_reducible apply keeps_foldl | with_reducible apply keeps_foldl_fst | with_reducible apply keeps_foldl_snd
    | with_reducible intro _ | split | dsimp only | (refine keeps_mk ?_ ?_ ?_ ?_ ?_ <;> first | exact id | skip)

theorem bootIsolate_keeps {σ : State} (s : State) (n : Nat) (hs : Keeps σ s) :
    Keeps σ (bootIsolate s n) := by
  unfold bootIsolate
  iterate 60 all_goals try first
    | with_reducible assumption | with_reducible apply setBit_keeps | with_reducible apply isolate_keeps | with_reducible apply raise_keeps | with_reducible apply raiseBit_keeps | with_reducible apply markRaised_keeps | with_reducible apply keeps_ite | with_reducible apply keeps_foldl | with_reducible apply keeps_foldl_fst | with_reducible apply keeps_foldl_snd
    | intro _ | split | dsimp only | (refine keeps_mk ?_ ?_ ?_ ?_ ?_ <;> first | exact id | skip)

theorem execBootBist_keeps {σ : State} (x : BistIn) (s : State) (hs : Keeps σ s) :
    KeepsOut σ (execBootBist x s) := by
  unfold execBootBist
  iterate 60 all_goals try first
    | with_reducible assumption | with_reducible exact keepsOut_refused _ | with_reducible apply keepsOut_next | with_reducible apply bootDo_keeps | with_reducible apply sampleMonitors_keeps | with_reducible apply isolate_keeps | with_reducible apply wr_keeps | with_reducible apply bootIsolate_keeps | with_reducible apply raise_keeps | with_reducible apply raiseBit_keeps | with_reducible apply markRaised_keeps | with_reducible apply keeps_ite | with_reducible apply keepsOut_ite | with_reducible apply keeps_foldl | with_reducible apply keeps_foldl_fst | with_reducible apply keeps_foldl_snd
    | with_reducible intro _ | split | dsimp only | (refine keeps_mk ?_ ?_ ?_ ?_ ?_ <;> first | exact id | skip)

theorem selfRun_keeps {σ : State} (expected : List Byte) (s : State) (x : SelfRun) (hs : Keeps σ s) :
    Keeps σ (selfRun expected s x) := by
  unfold selfRun
  iterate 60 all_goals try first
    | with_reducible assumption | with_reducible apply wr_keeps | with_reducible apply clearJobScope_keeps | with_reducible apply setBit_keeps | with_reducible apply bootIsolate_keeps | with_reducible apply raise_keeps | with_reducible apply raiseBit_keeps | with_reducible apply markRaised_keeps | with_reducible apply keeps_ite | with_reducible apply keeps_foldl | with_reducible apply keeps_foldl_fst | with_reducible apply keeps_foldl_snd
    | intro _ | split | dsimp only | (refine keeps_mk ?_ ?_ ?_ ?_ ?_ <;> first | exact id | skip)

theorem execBootSelftest_keeps {σ : State} (runs : List SelfRun) (other : List Byte) (static : Nat) (uMin : Nat) (s : State) (hs : Keeps σ s) :
    KeepsOut σ (execBootSelftest runs other static uMin s) := by
  unfold execBootSelftest
  iterate 60 all_goals try first
    | with_reducible assumption | with_reducible exact keepsOut_refused _ | with_reducible apply keepsOut_next | with_reducible apply bootDo_keeps | with_reducible apply selfRun_keeps | with_reducible apply wr_keeps | with_reducible apply bootFail_keeps | with_reducible apply raise_keeps | with_reducible apply raiseBit_keeps | with_reducible apply markRaised_keeps | with_reducible apply keeps_ite | with_reducible apply keepsOut_ite | with_reducible apply keeps_foldl | with_reducible apply keeps_foldl_fst | with_reducible apply keeps_foldl_snd
    | with_reducible intro _ | split | dsimp only | (refine keeps_mk ?_ ?_ ?_ ?_ ?_ <;> first | exact id | skip)

theorem execSelftestTimeout_keeps {σ : State} (n : Nat) (s : State) (hs : Keeps σ s) :
    KeepsOut σ (execSelftestTimeout n s) := by
  unfold execSelftestTimeout
  iterate 60 all_goals try first
    | with_reducible assumption | with_reducible exact keepsOut_refused _ | with_reducible apply keepsOut_next | with_reducible apply bootDo_keeps | with_reducible apply bootIsolate_keeps | with_reducible apply raise_keeps | with_reducible apply raiseBit_keeps | with_reducible apply markRaised_keeps | with_reducible apply keeps_ite | with_reducible apply keepsOut_ite | with_reducible apply keeps_foldl | with_reducible apply keeps_foldl_fst | with_reducible apply keeps_foldl_snd
    | with_reducible intro _ | split | dsimp only | (refine keeps_mk ?_ ?_ ?_ ?_ ?_ <;> first | exact id | skip)

theorem execPllLock_keeps {σ : State} (s : State) (hs : Keeps σ s) :
    KeepsOut σ (execPllLock s) := by
  unfold execPllLock
  iterate 60 all_goals try first
    | with_reducible assumption | with_reducible exact keepsOut_refused _ | with_reducible apply keepsOut_next | with_reducible apply stopDrains_keeps | with_reducible apply chipFault_keeps | with_reducible apply raise_keeps | with_reducible apply raiseBit_keeps | with_reducible apply markRaised_keeps | with_reducible apply keeps_ite | with_reducible apply keepsOut_ite | with_reducible apply keeps_foldl | with_reducible apply keeps_foldl_fst | with_reducible apply keeps_foldl_snd
    | with_reducible intro _ | split | dsimp only | (refine keeps_mk ?_ ?_ ?_ ?_ ?_ <;> first | exact id | skip)

theorem execMemPhy_keeps {σ : State} (dev : Nat) (s : State) (hs : Keeps σ s) :
    KeepsOut σ (execMemPhy dev s) := by
  unfold execMemPhy
  iterate 60 all_goals try first
    | with_reducible assumption | with_reducible exact keepsOut_refused _ | with_reducible apply keepsOut_next | with_reducible apply memPhy_keeps | with_reducible apply raise_keeps | with_reducible apply raiseBit_keeps | with_reducible apply markRaised_keeps | with_reducible apply keeps_ite | with_reducible apply keepsOut_ite | with_reducible apply keeps_foldl | with_reducible apply keeps_foldl_fst | with_reducible apply keeps_foldl_snd
    | with_reducible intro _ | split | dsimp only | (refine keeps_mk ?_ ?_ ?_ ?_ ?_ <;> first | exact id | skip)

theorem execHostLink_keeps {σ : State} (ltssm : Nat) (s : State) (hs : Keeps σ s) :
    KeepsOut σ (execHostLink ltssm s) := by
  unfold execHostLink
  iterate 60 all_goals try first
    | with_reducible assumption | with_reducible exact keepsOut_refused _ | with_reducible apply keepsOut_next | with_reducible apply heldFault_keeps | with_reducible apply wr_keeps | with_reducible apply raise_keeps | with_reducible apply raiseBit_keeps | with_reducible apply markRaised_keeps | with_reducible apply keeps_ite | with_reducible apply keepsOut_ite | with_reducible apply keeps_foldl | with_reducible apply keeps_foldl_fst | with_reducible apply keeps_foldl_snd
    | with_reducible intro _ | split | dsimp only | (refine keeps_mk ?_ ?_ ?_ ?_ ?_ <;> first | exact id | skip)

theorem execPcieLinkReturn_keeps {σ : State} (s : State) (hs : Keeps σ s) :
    KeepsOut σ (execPcieLinkReturn s) := by
  unfold execPcieLinkReturn
  iterate 60 all_goals try first
    | with_reducible assumption | with_reducible exact keepsOut_refused _ | with_reducible apply keepsOut_next | with_reducible apply raise_keeps | with_reducible apply raiseBit_keeps | with_reducible apply markRaised_keeps | with_reducible apply keeps_ite | with_reducible apply keepsOut_ite | with_reducible apply keeps_foldl | with_reducible apply keeps_foldl_fst | with_reducible apply keeps_foldl_snd
    | with_reducible intro _ | split | dsimp only | (refine keeps_mk ?_ ?_ ?_ ?_ ?_ <;> first | exact id | skip)

theorem execForgeFault_keeps {σ : State} (n : Nat) (f : Nat) (unit : Nat) (cell : Nat) (s : State) (hs : Keeps σ s) :
    KeepsOut σ (execForgeFault n f unit cell s) := by
  unfold execForgeFault
  iterate 60 all_goals try first
    | with_reducible assumption | with_reducible exact keepsOut_refused _ | with_reducible apply keepsOut_next | with_reducible apply heldFault_keeps | with_reducible apply isolate_keeps | with_reducible apply clearBit_keeps | with_reducible apply raise_keeps | with_reducible apply raiseBit_keeps | with_reducible apply markRaised_keeps | with_reducible apply keeps_ite | with_reducible apply keepsOut_ite | with_reducible apply keeps_foldl | with_reducible apply keeps_foldl_fst | with_reducible apply keeps_foldl_snd
    | with_reducible intro _ | split | dsimp only | (refine keeps_mk ?_ ?_ ?_ ?_ ?_ <;> first | exact id | skip)

theorem execRegionFault_keeps {σ : State} (n : Nat) (unit : Nat) (cell : Nat) (s : State) (hs : Keeps σ s) :
    KeepsOut σ (execRegionFault n unit cell s) := by
  unfold execRegionFault
  iterate 60 all_goals try first
    | with_reducible assumption | with_reducible exact keepsOut_refused _ | with_reducible apply keepsOut_next | with_reducible apply heldFault_keeps | with_reducible apply isolate_keeps | with_reducible apply wr_keeps | with_reducible apply raise_keeps | with_reducible apply raiseBit_keeps | with_reducible apply markRaised_keeps | with_reducible apply keeps_ite | with_reducible apply keepsOut_ite | with_reducible apply keeps_foldl | with_reducible apply keeps_foldl_fst | with_reducible apply keeps_foldl_snd
    | with_reducible intro _ | split | dsimp only | (refine keeps_mk ?_ ?_ ?_ ?_ ?_ <;> first | exact id | skip)

theorem execChipCtrl_keeps {σ : State} (unit : Nat) (inst : Nat) (s : State) (hs : Keeps σ s) :
    KeepsOut σ (execChipCtrl unit inst s) := by
  unfold execChipCtrl
  iterate 60 all_goals try first
    | with_reducible assumption | with_reducible exact keepsOut_refused _ | with_reducible apply keepsOut_next | with_reducible apply chipFault_keeps | with_reducible apply raise_keeps | with_reducible apply raiseBit_keeps | with_reducible apply markRaised_keeps | with_reducible apply keeps_ite | with_reducible apply keepsOut_ite | with_reducible apply keeps_foldl | with_reducible apply keeps_foldl_fst | with_reducible apply keeps_foldl_snd
    | with_reducible intro _ | split | dsimp only | (refine keeps_mk ?_ ?_ ?_ ?_ ?_ <;> first | exact id | skip)

theorem execPendingIsolation_keeps {σ : State} (n : Nat) (s : State) (hs : Keeps σ s) :
    KeepsOut σ (execPendingIsolation n s) := by
  unfold execPendingIsolation
  iterate 60 all_goals try first
    | with_reducible assumption | with_reducible exact keepsOut_refused _ | with_reducible apply keepsOut_next | with_reducible apply isolatePending_keeps | with_reducible apply wr_keeps | with_reducible apply isolate_keeps | with_reducible apply raise_keeps | with_reducible apply raiseBit_keeps | with_reducible apply markRaised_keeps | with_reducible apply keeps_ite | with_reducible apply keepsOut_ite | with_reducible apply keeps_foldl | with_reducible apply keeps_foldl_fst | with_reducible apply keeps_foldl_snd
    | with_reducible intro _ | split | dsimp only | (refine keeps_mk ?_ ?_ ?_ ?_ ?_ <;> first | exact id | skip)

end Sys2Proof.Machine
end

