-- ==== Sys2Proof/Laws/KeepsHostRegs.lean ====
section
/-! SUPPORT. What every operation of Machine/HostRegs.lean keeps. -/

namespace Sys2Proof.Machine

theorem writeField_keeps {σ : State} (s : State) (off : Nat) (f : FieldDef) (v : Nat) (m : Nat) (hs : Keeps σ s) :
    Keeps σ (writeField s off f v m) := by
  unfold writeField
  iterate 60 all_goals try first
    | with_reducible assumption | with_reducible apply wr_keeps | with_reducible apply raise_keeps | with_reducible apply raiseBit_keeps | with_reducible apply markRaised_keeps | with_reducible apply keeps_ite | with_reducible apply keeps_foldl | with_reducible apply keeps_foldl_fst | with_reducible apply keeps_foldl_snd
    | intro _ | split | dsimp only | (refine keeps_mk ?_ ?_ ?_ ?_ ?_ <;> first | exact id | skip)

theorem thaw_keeps {σ : State} (s : State) (n : Nat) (hs : Keeps σ s) :
    Keeps σ (thaw s n) := by
  unfold thaw
  iterate 60 all_goals try first
    | with_reducible assumption | with_reducible apply modHw_keeps | with_reducible apply raise_keeps | with_reducible apply raiseBit_keeps | with_reducible apply markRaised_keeps | with_reducible apply keeps_ite | with_reducible apply keeps_foldl | with_reducible apply keeps_foldl_fst | with_reducible apply keeps_foldl_snd
    | intro _ | split | dsimp only | (refine keeps_mk ?_ ?_ ?_ ?_ ?_ <;> first | exact id | skip)

theorem writeReg_keeps {σ : State} (s : State) (off : Nat) (b : Nat) (n : Nat) (v : Nat) (hs : Keeps σ s) :
    Keeps σ (writeReg s off b n v) := by
  unfold writeReg
  iterate 60 all_goals try first
    | with_reducible assumption | with_reducible apply thaw_keeps | with_reducible apply temperStage_keeps | with_reducible apply temperApply_keeps | with_reducible apply temperDiscard_keeps | with_reducible apply temperFree_keeps | with_reducible apply temperCmd_keeps | with_reducible apply warmReset_keeps | with_reducible apply writeField_keeps | with_reducible apply raise_keeps | with_reducible apply raiseBit_keeps | with_reducible apply markRaised_keeps | with_reducible apply keeps_ite | with_reducible apply keeps_foldl | with_reducible apply keeps_foldl_fst | with_reducible apply keeps_foldl_snd
    | intro _ | split | dsimp only | (refine keeps_mk ?_ ?_ ?_ ?_ ?_ <;> first | exact id | skip)

theorem execRegisterWrite_keeps {σ : State} (off : Nat) (size : Nat) (v : Nat) (s : State) (hs : Keeps σ s) :
    KeepsOut σ (execRegisterWrite off size v s) := by
  unfold execRegisterWrite
  iterate 60 all_goals try first
    | with_reducible assumption | with_reducible exact keepsOut_refused _ | with_reducible apply keepsOut_next | with_reducible apply doorbell_keeps | with_reducible apply writeReg_keeps | with_reducible apply raise_keeps | with_reducible apply raiseBit_keeps | with_reducible apply markRaised_keeps | with_reducible apply keeps_ite | with_reducible apply keepsOut_ite | with_reducible apply keeps_foldl | with_reducible apply keeps_foldl_fst | with_reducible apply keeps_foldl_snd
    | with_reducible intro _ | split | dsimp only | (refine keeps_mk ?_ ?_ ?_ ?_ ?_ <;> first | exact id | skip) | with_reducible apply mPut_wf | with_reducible apply mWrite_wf | with_reducible apply mWriteMix_wf

theorem execThawRecord_keeps {σ : State} (n : Nat) (s : State) (hs : Keeps σ s) :
    KeepsOut σ (execThawRecord n s) := by
  unfold execThawRecord
  iterate 60 all_goals try first
    | with_reducible assumption | with_reducible exact keepsOut_refused _ | with_reducible apply keepsOut_next | with_reducible apply thaw_keeps | with_reducible apply raise_keeps | with_reducible apply raiseBit_keeps | with_reducible apply markRaised_keeps | with_reducible apply keeps_ite | with_reducible apply keepsOut_ite | with_reducible apply keeps_foldl | with_reducible apply keeps_foldl_fst | with_reducible apply keeps_foldl_snd
    | with_reducible intro _ | split | dsimp only | (refine keeps_mk ?_ ?_ ?_ ?_ ?_ <;> first | exact id | skip)

theorem execBar4Read_keeps {σ : State} (o : Nat) (n : Nat) (ue : List Nat) (ce : List Nat) (s : State) (hs : Keeps σ s) :
    KeepsOut σ (execBar4Read o n ue ce s) := by
  unfold execBar4Read
  iterate 60 all_goals try first
    | with_reducible assumption | with_reducible exact keepsOut_refused _ | with_reducible apply keepsOut_next | with_reducible apply memErrors_keeps | with_reducible apply emit_keeps | with_reducible apply raise_keeps | with_reducible apply raiseBit_keeps | with_reducible apply markRaised_keeps | with_reducible apply keeps_ite | with_reducible apply keepsOut_ite | with_reducible apply keeps_foldl | with_reducible apply keeps_foldl_fst | with_reducible apply keeps_foldl_snd
    | with_reducible intro _ | split | dsimp only | (refine keeps_mk ?_ ?_ ?_ ?_ ?_ <;> first | exact id | skip)

theorem execBar4Write_keeps {σ : State} (o : Nat) (l : List Byte) (bad : Bool) (e : MemErrs) (s : State) (hs : Keeps σ s) :
    KeepsOut σ (execBar4Write o l bad e s) := by
  unfold execBar4Write
  iterate 60 all_goals try first
    | with_reducible assumption | with_reducible exact keepsOut_refused _ | with_reducible apply keepsOut_next | with_reducible apply tallyAdd_keeps | with_reducible apply memErrors_keeps | with_reducible apply devWrite_keeps | with_reducible apply raise_keeps | with_reducible apply raiseBit_keeps | with_reducible apply markRaised_keeps | with_reducible apply keeps_ite | with_reducible apply keepsOut_ite | with_reducible apply keeps_foldl | with_reducible apply keeps_foldl_fst | with_reducible apply keeps_foldl_snd
    | with_reducible intro _ | split | dsimp only | (refine keeps_mk ?_ ?_ ?_ ?_ ?_ <;> first | exact id | skip)

theorem cfgRead_keeps {σ : State} (s : State) (off : Nat) (hs : Keeps σ s) :
    Keeps σ (cfgRead s off).2 := by
  unfold cfgRead
  iterate 60 all_goals try first
    | with_reducible assumption | with_reducible apply takeFree_keeps | with_reducible apply raise_keeps | with_reducible apply raiseBit_keeps | with_reducible apply markRaised_keeps | with_reducible apply keeps_ite | with_reducible apply keeps_foldl | with_reducible apply keeps_foldl_fst | with_reducible apply keeps_foldl_snd
    | intro _ | split | dsimp only | (refine keeps_mk ?_ ?_ ?_ ?_ ?_ <;> first | exact id | skip)

theorem execConfigRequest_keeps {σ : State} (off : Nat) (rebar : Option Nat) (s : State) (hs : Keeps σ s) :
    KeepsOut σ (execConfigRequest off rebar s) := by
  unfold execConfigRequest
  iterate 60 all_goals try first
    | with_reducible assumption | with_reducible exact keepsOut_refused _ | with_reducible apply keepsOut_next | with_reducible apply emit_keeps | with_reducible apply cfgRead_keeps | with_reducible apply raise_keeps | with_reducible apply raiseBit_keeps | with_reducible apply markRaised_keeps | with_reducible apply keeps_ite | with_reducible apply keepsOut_ite | with_reducible apply keeps_foldl | with_reducible apply keeps_foldl_fst | with_reducible apply keeps_foldl_snd
    | with_reducible intro _ | split | dsimp only | (refine keeps_mk ?_ ?_ ?_ ?_ ?_ <;> first | exact id | skip)

end Sys2Proof.Machine
end

