-- ==== Sys2Proof/Laws/KeepsRootline.lean ====
section
/-! SUPPORT. What every operation of Machine/Rootline.lean keeps. -/

namespace Sys2Proof.Machine

theorem relayFrame_keeps {σ : State} (s : State) (c : List Byte) (hs : Keeps σ s) :
    Keeps σ (relayFrame s c) := by
  unfold relayFrame
  iterate 60 all_goals try first
    | with_reducible assumption | with_reducible apply sideSend_keeps | with_reducible apply raise_keeps | with_reducible apply raiseBit_keeps | with_reducible apply markRaised_keeps | with_reducible apply keeps_ite | with_reducible apply keeps_foldl | with_reducible apply keeps_foldl_fst | with_reducible apply keeps_foldl_snd
    | intro _ | split | dsimp only | (refine keeps_mk ?_ ?_ ?_ ?_ ?_ <;> first | exact id | skip)

theorem takeRelease_keeps {σ : State} (s : State) (e : Nat) (t : Nat) (hs : Keeps σ s) :
    Keeps σ (takeRelease s e t) := by
  unfold takeRelease
  iterate 60 all_goals try first
    | with_reducible assumption | with_reducible apply trace_keeps | with_reducible apply diverge_keeps | with_reducible apply wr_keeps | with_reducible apply raise_keeps | with_reducible apply raiseBit_keeps | with_reducible apply markRaised_keeps | with_reducible apply keeps_ite | with_reducible apply keeps_foldl | with_reducible apply keeps_foldl_fst | with_reducible apply keeps_foldl_snd
    | intro _ | split | dsimp only | (refine keeps_mk ?_ ?_ ?_ ?_ ?_ <;> first | exact id | skip)

theorem takeSync_keeps {σ : State} (s : State) (t : Nat) (frac : Nat) (hs : Keeps σ s) :
    Keeps σ (takeSync s t frac) := by
  unfold takeSync
  iterate 60 all_goals try first
    | with_reducible assumption | with_reducible apply setTimeThirds_keeps | with_reducible apply wr_keeps | with_reducible apply raise_keeps | with_reducible apply raiseBit_keeps | with_reducible apply markRaised_keeps | with_reducible apply keeps_ite | with_reducible apply keeps_foldl | with_reducible apply keeps_foldl_fst | with_reducible apply keeps_foldl_snd
    | intro _ | split | dsimp only | (refine keeps_mk ?_ ?_ ?_ ?_ ?_ <;> first | exact id | skip)

theorem pairFrame_keeps {σ : State} (s : State) (c : List Byte) (crc : Nat) (f : State → State) (hs : Keeps σ s) (hf : ∀ a0, Keeps σ a0 → Keeps σ (f a0)) :
    KeepsOut σ (pairFrame s c crc f) := by
  unfold pairFrame
  iterate 60 all_goals try first
    | with_reducible assumption | with_reducible exact keepsOut_refused _ | with_reducible apply keepsOut_next | with_reducible apply hf | with_reducible apply emit_keeps | with_reducible apply wr_keeps | with_reducible apply relayFrame_keeps | with_reducible apply pumpAll_keeps | with_reducible apply raise_keeps | with_reducible apply raiseBit_keeps | with_reducible apply markRaised_keeps | with_reducible apply keeps_ite | with_reducible apply keepsOut_ite | with_reducible apply keeps_foldl | with_reducible apply keeps_foldl_fst | with_reducible apply keeps_foldl_snd
    | with_reducible intro _ | split | dsimp only | (refine keeps_mk ?_ ?_ ?_ ?_ ?_ <;> first | exact id | skip)

theorem execSyncFrame_keeps {σ : State} (t : Nat) (frac : Nat) (seq : Nat) (crc : Nat) (s : State) (hs : Keeps σ s) :
    KeepsOut σ (execSyncFrame t frac seq crc s) := by
  unfold execSyncFrame
  iterate 60 all_goals try first
    | with_reducible assumption | with_reducible exact keepsOut_refused _ | with_reducible apply keepsOut_next | with_reducible apply pairFrame_keeps | with_reducible apply takeSync_keeps | with_reducible apply raise_keeps | with_reducible apply raiseBit_keeps | with_reducible apply markRaised_keeps | with_reducible apply keeps_ite | with_reducible apply keepsOut_ite | with_reducible apply keeps_foldl | with_reducible apply keeps_foldl_fst | with_reducible apply keeps_foldl_snd
    | with_reducible intro _ | split | dsimp only | (refine keeps_mk ?_ ?_ ?_ ?_ ?_ <;> first | exact id | skip)

theorem execReleaseFrame_keeps {σ : State} (e : Nat) (t : Nat) (crc : Nat) (s : State) (hs : Keeps σ s) :
    KeepsOut σ (execReleaseFrame e t crc s) := by
  unfold execReleaseFrame
  iterate 60 all_goals try first
    | with_reducible assumption | with_reducible exact keepsOut_refused _ | with_reducible apply keepsOut_next | with_reducible apply pairFrame_keeps | with_reducible apply takeRelease_keeps | with_reducible apply raise_keeps | with_reducible apply raiseBit_keeps | with_reducible apply markRaised_keeps | with_reducible apply keeps_ite | with_reducible apply keepsOut_ite | with_reducible apply keeps_foldl | with_reducible apply keeps_foldl_fst | with_reducible apply keeps_foldl_snd
    | with_reducible intro _ | split | dsimp only | (refine keeps_mk ?_ ?_ ?_ ?_ ?_ <;> first | exact id | skip)

theorem execIdleFrame_keeps {σ : State} (crc : Nat) (s : State) (hs : Keeps σ s) :
    KeepsOut σ (execIdleFrame crc s) := by
  unfold execIdleFrame
  iterate 60 all_goals try first
    | with_reducible assumption | with_reducible exact keepsOut_refused _ | with_reducible apply keepsOut_next | with_reducible apply pairFrame_keeps | with_reducible apply raise_keeps | with_reducible apply raiseBit_keeps | with_reducible apply markRaised_keeps | with_reducible apply keeps_ite | with_reducible apply keepsOut_ite | with_reducible apply keeps_foldl | with_reducible apply keeps_foldl_fst | with_reducible apply keeps_foldl_snd
    | with_reducible intro _ | split | dsimp only | (refine keeps_mk ?_ ?_ ?_ ?_ ?_ <;> first | exact id | skip)

theorem execRootFrameSend_keeps {σ : State} (s : State) (hs : Keeps σ s) :
    KeepsOut σ (execRootFrameSend s) := by
  unfold execRootFrameSend
  iterate 60 all_goals try first
    | with_reducible assumption | with_reducible exact keepsOut_refused _ | with_reducible apply keepsOut_next | with_reducible apply pumpAll_keeps | with_reducible apply relayFrame_keeps | with_reducible apply emit_keeps | with_reducible apply raise_keeps | with_reducible apply raiseBit_keeps | with_reducible apply markRaised_keeps | with_reducible apply keeps_ite | with_reducible apply keepsOut_ite | with_reducible apply keeps_foldl | with_reducible apply keeps_foldl_fst | with_reducible apply keeps_foldl_snd
    | with_reducible intro _ | split | dsimp only | (refine keeps_mk ?_ ?_ ?_ ?_ ?_ <;> first | exact id | skip)

theorem execRootlineLoss_keeps {σ : State} (s : State) (hs : Keeps σ s) :
    KeepsOut σ (execRootlineLoss s) := by
  unfold execRootlineLoss
  iterate 60 all_goals try first
    | with_reducible assumption | with_reducible exact keepsOut_refused _ | with_reducible apply keepsOut_next | with_reducible apply wr_keeps | with_reducible apply holdover_keeps | with_reducible apply raise_keeps | with_reducible apply raiseBit_keeps | with_reducible apply markRaised_keeps | with_reducible apply keeps_ite | with_reducible apply keepsOut_ite | with_reducible apply keeps_foldl | with_reducible apply keeps_foldl_fst | with_reducible apply keeps_foldl_snd
    | with_reducible intro _ | split | dsimp only | (refine keeps_mk ?_ ?_ ?_ ?_ ?_ <;> first | exact id | skip)

theorem calRequest_keeps {σ : State} (s : State) (p : Nat) (n : Nat) (hs : Keeps σ s) :
    Keeps σ (calRequest s p n) := by
  unfold calRequest
  iterate 60 all_goals try first
    | with_reducible assumption | with_reducible apply sideSend_keeps | with_reducible apply raise_keeps | with_reducible apply raiseBit_keeps | with_reducible apply markRaised_keeps | with_reducible apply keeps_ite | with_reducible apply keeps_foldl | with_reducible apply keeps_foldl_fst | with_reducible apply keeps_foldl_snd
    | intro _ | split | dsimp only | (refine keeps_mk ?_ ?_ ?_ ?_ ?_ <;> first | exact id | skip)

theorem calStart_keeps {σ : State} (s : State) (hs : Keeps σ s) :
    Keeps σ (calStart s) := by
  unfold calStart
  iterate 60 all_goals try first
    | with_reducible assumption | with_reducible apply pumpAll_keeps | with_reducible apply calRequest_keeps | with_reducible apply raise_keeps | with_reducible apply raiseBit_keeps | with_reducible apply markRaised_keeps | with_reducible apply keeps_ite | with_reducible apply keeps_foldl | with_reducible apply keeps_foldl_fst | with_reducible apply keeps_foldl_snd
    | intro _ | split | dsimp only | (refine keeps_mk ?_ ?_ ?_ ?_ ?_ <;> first | exact id | skip)

theorem execCalibration_keeps {σ : State} (s : State) (hs : Keeps σ s) :
    KeepsOut σ (execCalibration s) := by
  unfold execCalibration
  iterate 60 all_goals try first
    | with_reducible assumption | with_reducible exact keepsOut_refused _ | with_reducible apply keepsOut_next | with_reducible apply calStart_keeps | with_reducible apply raise_keeps | with_reducible apply raiseBit_keeps | with_reducible apply markRaised_keeps | with_reducible apply keeps_ite | with_reducible apply keepsOut_ite | with_reducible apply keeps_foldl | with_reducible apply keeps_foldl_fst | with_reducible apply keeps_foldl_snd
    | with_reducible intro _ | split | dsimp only | (refine keeps_mk ?_ ?_ ?_ ?_ ?_ <;> first | exact id | skip)

theorem execCalRetry_keeps {σ : State} (s : State) (hs : Keeps σ s) :
    KeepsOut σ (execCalRetry s) := by
  unfold execCalRetry
  iterate 60 all_goals try first
    | with_reducible assumption | with_reducible exact keepsOut_refused _ | with_reducible apply keepsOut_next | with_reducible apply calStart_keeps | with_reducible apply raise_keeps | with_reducible apply raiseBit_keeps | with_reducible apply markRaised_keeps | with_reducible apply keeps_ite | with_reducible apply keepsOut_ite | with_reducible apply keeps_foldl | with_reducible apply keeps_foldl_fst | with_reducible apply keeps_foldl_snd
    | with_reducible intro _ | split | dsimp only | (refine keeps_mk ?_ ?_ ?_ ?_ ?_ <;> first | exact id | skip)

theorem execSidePathCalibration_keeps {σ : State} (s : State) (hs : Keeps σ s) :
    KeepsOut σ (execSidePathCalibration s) := by
  unfold execSidePathCalibration
  iterate 60 all_goals try first
    | with_reducible assumption | with_reducible exact keepsOut_refused _ | with_reducible apply keepsOut_next | with_reducible apply calStart_keeps | with_reducible apply raise_keeps | with_reducible apply raiseBit_keeps | with_reducible apply markRaised_keeps | with_reducible apply keeps_ite | with_reducible apply keepsOut_ite | with_reducible apply keeps_foldl | with_reducible apply keeps_foldl_fst | with_reducible apply keeps_foldl_snd
    | with_reducible intro _ | split | dsimp only | (refine keeps_mk ?_ ?_ ?_ ?_ ?_ <;> first | exact id | skip)

theorem mean512_keeps {σ : State} (s : State) (x : Int) (hs : Keeps σ s) :
    Keeps σ (mean512 s x).2 := by
  unfold mean512
  iterate 60 all_goals try first
    | with_reducible assumption | with_reducible apply takeFree_keeps | with_reducible apply raise_keeps | with_reducible apply raiseBit_keeps | with_reducible apply markRaised_keeps | with_reducible apply keeps_ite | with_reducible apply keeps_foldl | with_reducible apply keeps_foldl_fst | with_reducible apply keeps_foldl_snd
    | intro _ | split | dsimp only | (refine keeps_mk ?_ ?_ ?_ ?_ ?_ <;> first | exact id | skip)

theorem calDone_keeps {σ : State} (s : State) (p : Nat) (hs : Keeps σ s) :
    Keeps σ (calDone s p) := by
  unfold calDone
  iterate 60 all_goals try first
    | with_reducible assumption | with_reducible apply mean512_keeps | with_reducible apply wr_keeps | with_reducible apply setTimeThirds_keeps | with_reducible apply raise_keeps | with_reducible apply raiseBit_keeps | with_reducible apply markRaised_keeps | with_reducible apply keeps_ite | with_reducible apply keeps_foldl | with_reducible apply keeps_foldl_fst | with_reducible apply keeps_foldl_snd
    | intro _ | split | dsimp only | (refine keeps_mk ?_ ?_ ?_ ?_ ?_ <;> first | exact id | skip)

theorem calReply_keeps {σ : State} (s : State) (p : Nat) (n : Nat) (t1 : Nat) (t4 : Nat) (hs : Keeps σ s) :
    Keeps σ (calReply s p n t1 t4) := by
  unfold calReply
  iterate 60 all_goals try first
    | with_reducible assumption | with_reducible apply calDone_keeps | with_reducible apply calRequest_keeps | with_reducible apply raise_keeps | with_reducible apply raiseBit_keeps | with_reducible apply markRaised_keeps | with_reducible apply keeps_ite | with_reducible apply keeps_foldl | with_reducible apply keeps_foldl_fst | with_reducible apply keeps_foldl_snd
    | intro _ | split | dsimp only | (refine keeps_mk ?_ ?_ ?_ ?_ ?_ <;> first | exact id | skip)

theorem calMessage_keeps {σ : State} (s : State) (p : Nat) (b : List Byte) (t4 : Nat) (hs : Keeps σ s) :
    Keeps σ (calMessage s p b t4) := by
  unfold calMessage
  iterate 60 all_goals try first
    | with_reducible assumption | with_reducible apply sideSend_keeps | with_reducible apply calReply_keeps | with_reducible apply raise_keeps | with_reducible apply raiseBit_keeps | with_reducible apply markRaised_keeps | with_reducible apply keeps_ite | with_reducible apply keeps_foldl | with_reducible apply keeps_foldl_fst | with_reducible apply keeps_foldl_snd
    | intro _ | split | dsimp only | (refine keeps_mk ?_ ?_ ?_ ?_ ?_ <;> first | exact id | skip)

theorem showArrived_keeps {σ : State} (s : State) (hs : Keeps σ s) :
    Keeps σ (showArrived s) := by
  unfold showArrived
  iterate 60 all_goals try first
    | with_reducible assumption | with_reducible apply wr_keeps | with_reducible apply raise_keeps | with_reducible apply raiseBit_keeps | with_reducible apply markRaised_keeps | with_reducible apply keeps_ite | with_reducible apply keeps_foldl | with_reducible apply keeps_foldl_fst | with_reducible apply keeps_foldl_snd
    | intro _ | split | dsimp only | (refine keeps_mk ?_ ?_ ?_ ?_ ?_ <;> first | exact id | skip)

theorem execArriveSend_keeps {σ : State} (s : State) (hs : Keeps σ s) :
    KeepsOut σ (execArriveSend s) := by
  unfold execArriveSend
  iterate 60 all_goals try first
    | with_reducible assumption | with_reducible exact keepsOut_refused _ | with_reducible apply keepsOut_next | with_reducible apply trace_keeps | with_reducible apply showArrived_keeps | with_reducible apply pumpAll_keeps | with_reducible apply sideSend_keeps | with_reducible apply raise_keeps | with_reducible apply raiseBit_keeps | with_reducible apply markRaised_keeps | with_reducible apply keeps_ite | with_reducible apply keepsOut_ite | with_reducible apply keeps_foldl | with_reducible apply keeps_foldl_fst | with_reducible apply keeps_foldl_snd
    | with_reducible intro _ | split | dsimp only | (refine keeps_mk ?_ ?_ ?_ ?_ ?_ <;> first | exact id | skip)

theorem arriveMessage_keeps {σ : State} (s : State) (p : Nat) (b : List Byte) (hs : Keeps σ s) :
    Keeps σ (arriveMessage s p b) := by
  unfold arriveMessage
  iterate 60 all_goals try first
    | with_reducible assumption | with_reducible apply wr_keeps | with_reducible apply setBit_keeps | with_reducible apply raise_keeps | with_reducible apply raiseBit_keeps | with_reducible apply markRaised_keeps | with_reducible apply keeps_ite | with_reducible apply keeps_foldl | with_reducible apply keeps_foldl_fst | with_reducible apply keeps_foldl_snd
    | intro _ | split | dsimp only | (refine keeps_mk ?_ ?_ ?_ ?_ ?_ <;> first | exact id | skip)

theorem dropArrivals_keeps {σ : State} (s : State) (hs : Keeps σ s) :
    Keeps σ (dropArrivals s) := by
  unfold dropArrivals
  iterate 60 all_goals try first
    | with_reducible assumption | with_reducible apply wr_keeps | with_reducible apply raise_keeps | with_reducible apply raiseBit_keeps | with_reducible apply markRaised_keeps | with_reducible apply keeps_ite | with_reducible apply keeps_foldl | with_reducible apply keeps_foldl_fst | with_reducible apply keeps_foldl_snd
    | intro _ | split | dsimp only | (refine keeps_mk ?_ ?_ ?_ ?_ ?_ <;> first | exact id | skip)

theorem barrierFault_keeps {σ : State} (s : State) (code : Nat) (detail : List Byte) (hs : Keeps σ s) :
    Keeps σ (barrierFault s code detail) := by
  unfold barrierFault
  iterate 60 all_goals try first
    | with_reducible assumption | with_reducible apply jobFault_keeps | with_reducible apply dropArrivals_keeps | with_reducible apply sendAbort_keeps | with_reducible apply raise_keeps | with_reducible apply raiseBit_keeps | with_reducible apply markRaised_keeps | with_reducible apply keeps_ite | with_reducible apply keeps_foldl | with_reducible apply keeps_foldl_fst | with_reducible apply keeps_foldl_snd
    | intro _ | split | dsimp only | (refine keeps_mk ?_ ?_ ?_ ?_ ?_ <;> first | exact id | skip)

theorem sendRelease_keeps {σ : State} (s : State) (hs : Keeps σ s) :
    Keeps σ (sendRelease s) := by
  unfold sendRelease
  iterate 60 all_goals try first
    | with_reducible assumption | with_reducible apply showArrived_keeps | with_reducible apply raise_keeps | with_reducible apply raiseBit_keeps | with_reducible apply markRaised_keeps | with_reducible apply keeps_ite | with_reducible apply keeps_foldl | with_reducible apply keeps_foldl_fst | with_reducible apply keeps_foldl_snd
    | intro _ | split | dsimp only | (refine keeps_mk ?_ ?_ ?_ ?_ ?_ <;> first | exact id | skip)

theorem rootStatus_keeps {σ : State} (s : State) (hs : Keeps σ s) :
    Keeps σ (rootStatus s) := by
  unfold rootStatus
  iterate 60 all_goals try first
    | with_reducible assumption | with_reducible apply wr_keeps | with_reducible apply raise_keeps | with_reducible apply raiseBit_keeps | with_reducible apply markRaised_keeps | with_reducible apply keeps_ite | with_reducible apply keeps_foldl | with_reducible apply keeps_foldl_fst | with_reducible apply keeps_foldl_snd
    | intro _ | split | dsimp only | (refine keeps_mk ?_ ?_ ?_ ?_ ?_ <;> first | exact id | skip)

theorem execRootRelease_keeps {σ : State} (s : State) (hs : Keeps σ s) :
    KeepsOut σ (execRootRelease s) := by
  unfold execRootRelease
  iterate 60 all_goals try first
    | with_reducible assumption | with_reducible exact keepsOut_refused _ | with_reducible apply keepsOut_next | with_reducible apply rootStatus_keeps | with_reducible apply pumpAll_keeps | with_reducible apply barrierFault_keeps | with_reducible apply sendRelease_keeps | with_reducible apply raise_keeps | with_reducible apply raiseBit_keeps | with_reducible apply markRaised_keeps | with_reducible apply keeps_ite | with_reducible apply keepsOut_ite | with_reducible apply keeps_foldl | with_reducible apply keeps_foldl_fst | with_reducible apply keeps_foldl_snd
    | with_reducible intro _ | split | dsimp only | (refine keeps_mk ?_ ?_ ?_ ?_ ?_ <;> first | exact id | skip)

theorem execEpochTimeout_keeps {σ : State} (s : State) (hs : Keeps σ s) :
    KeepsOut σ (execEpochTimeout s) := by
  unfold execEpochTimeout
  iterate 60 all_goals try first
    | with_reducible assumption | with_reducible exact keepsOut_refused _ | with_reducible apply keepsOut_next | with_reducible apply advanceTo_keeps | with_reducible apply pumpAll_keeps | with_reducible apply barrierFault_keeps | with_reducible apply raise_keeps | with_reducible apply raiseBit_keeps | with_reducible apply markRaised_keeps | with_reducible apply keeps_ite | with_reducible apply keepsOut_ite | with_reducible apply keeps_foldl | with_reducible apply keeps_foldl_fst | with_reducible apply keeps_foldl_snd
    | with_reducible intro _ | split | dsimp only | (refine keeps_mk ?_ ?_ ?_ ?_ ?_ <;> first | exact id | skip)

theorem abortMessage_keeps {σ : State} (s : State) (p : Nat) (b : List Byte) (hs : Keeps σ s) :
    Keeps σ (abortMessage s p b) := by
  unfold abortMessage
  iterate 60 all_goals try first
    | with_reducible assumption | with_reducible apply sideSend_keeps | with_reducible apply dropArrivals_keeps | with_reducible apply jobFault_keeps | with_reducible apply wr_keeps | with_reducible apply hwRecord_keeps | with_reducible apply raise_keeps | with_reducible apply raiseBit_keeps | with_reducible apply markRaised_keeps | with_reducible apply keeps_ite | with_reducible apply keeps_foldl | with_reducible apply keeps_foldl_fst | with_reducible apply keeps_foldl_snd
    | intro _ | split | dsimp only | (refine keeps_mk ?_ ?_ ?_ ?_ ?_ <;> first | exact id | skip)

theorem notePeer_keeps {σ : State} (s : State) (p : Nat) (b : List Byte) (hs : Keeps σ s) :
    Keeps σ (notePeer s p b) := by
  unfold notePeer
  iterate 60 all_goals try first
    | with_reducible assumption | with_reducible apply wr_keeps | with_reducible apply raise_keeps | with_reducible apply raiseBit_keeps | with_reducible apply markRaised_keeps | with_reducible apply keeps_ite | with_reducible apply keeps_foldl | with_reducible apply keeps_foldl_fst | with_reducible apply keeps_foldl_snd
    | intro _ | split | dsimp only | (refine keeps_mk ?_ ?_ ?_ ?_ ?_ <;> first | exact id | skip)

theorem helloMessage_keeps {σ : State} (s : State) (p : Nat) (b : List Byte) (hs : Keeps σ s) :
    Keeps σ (helloMessage s p b) := by
  unfold helloMessage
  iterate 60 all_goals try first
    | with_reducible assumption | with_reducible apply portEnter_keeps | with_reducible apply wr_keeps | with_reducible apply notePeer_keeps | with_reducible apply raise_keeps | with_reducible apply raiseBit_keeps | with_reducible apply markRaised_keeps | with_reducible apply keeps_ite | with_reducible apply keeps_foldl | with_reducible apply keeps_foldl_fst | with_reducible apply keeps_foldl_snd
    | intro _ | split | dsimp only | (refine keeps_mk ?_ ?_ ?_ ?_ ?_ <;> first | exact id | skip)

theorem rootlineMessage_keeps {σ : State} (s : State) (p : Nat) (b : List Byte) (hs : Keeps σ s) :
    Keeps σ (rootlineMessage s p b) := by
  unfold rootlineMessage
  iterate 60 all_goals try first
    | with_reducible assumption | with_reducible apply relayFrame_keeps | with_reducible apply takeRelease_keeps | with_reducible apply raise_keeps | with_reducible apply raiseBit_keeps | with_reducible apply markRaised_keeps | with_reducible apply keeps_ite | with_reducible apply keeps_foldl | with_reducible apply keeps_foldl_fst | with_reducible apply keeps_foldl_snd
    | intro _ | split | dsimp only | (refine keeps_mk ?_ ?_ ?_ ?_ ?_ <;> first | exact id | skip)

theorem sideCommand_keeps {σ : State} (s : State) (p : Nat) (b : List Byte) (f : State → Nat → List Byte → State) (hs : Keeps σ s) (hf : ∀ a0 a1 a2, Keeps σ a0 → Keeps σ (f a0 a1 a2)) :
    KeepsOut σ (sideCommand s p b f) := by
  unfold sideCommand
  iterate 60 all_goals try first
    | with_reducible assumption | with_reducible exact keepsOut_refused _ | with_reducible apply keepsOut_next | with_reducible apply hf | with_reducible apply pumpAll_keeps | with_reducible apply raise_keeps | with_reducible apply raiseBit_keeps | with_reducible apply markRaised_keeps | with_reducible apply keeps_ite | with_reducible apply keepsOut_ite | with_reducible apply keeps_foldl | with_reducible apply keeps_foldl_fst | with_reducible apply keeps_foldl_snd
    | with_reducible intro _ | split | dsimp only | (refine keeps_mk ?_ ?_ ?_ ?_ ?_ <;> first | exact id | skip)

theorem execRootlineMsg_keeps {σ : State} (p : Nat) (b : List Byte) (s : State) (hs : Keeps σ s) :
    KeepsOut σ (execRootlineMsg p b s) := by
  unfold execRootlineMsg
  iterate 60 all_goals try first
    | with_reducible assumption | with_reducible exact keepsOut_refused _ | with_reducible apply keepsOut_next | with_reducible apply sideCommand_keeps | with_reducible apply rootlineMessage_keeps | with_reducible apply raise_keeps | with_reducible apply raiseBit_keeps | with_reducible apply markRaised_keeps | with_reducible apply keeps_ite | with_reducible apply keepsOut_ite | with_reducible apply keeps_foldl | with_reducible apply keeps_foldl_fst | with_reducible apply keeps_foldl_snd
    | with_reducible intro _ | split | dsimp only | (refine keeps_mk ?_ ?_ ?_ ?_ ?_ <;> first | exact id | skip)

theorem execArriveMsg_keeps {σ : State} (p : Nat) (b : List Byte) (s : State) (hs : Keeps σ s) :
    KeepsOut σ (execArriveMsg p b s) := by
  unfold execArriveMsg
  iterate 60 all_goals try first
    | with_reducible assumption | with_reducible exact keepsOut_refused _ | with_reducible apply keepsOut_next | with_reducible apply sideCommand_keeps | with_reducible apply arriveMessage_keeps | with_reducible apply raise_keeps | with_reducible apply raiseBit_keeps | with_reducible apply markRaised_keeps | with_reducible apply keeps_ite | with_reducible apply keepsOut_ite | with_reducible apply keeps_foldl | with_reducible apply keeps_foldl_fst | with_reducible apply keeps_foldl_snd
    | with_reducible intro _ | split | dsimp only | (refine keeps_mk ?_ ?_ ?_ ?_ ?_ <;> first | exact id | skip)

theorem execAbortMsg_keeps {σ : State} (p : Nat) (b : List Byte) (s : State) (hs : Keeps σ s) :
    KeepsOut σ (execAbortMsg p b s) := by
  unfold execAbortMsg
  iterate 60 all_goals try first
    | with_reducible assumption | with_reducible exact keepsOut_refused _ | with_reducible apply keepsOut_next | with_reducible apply sideCommand_keeps | with_reducible apply abortMessage_keeps | with_reducible apply raise_keeps | with_reducible apply raiseBit_keeps | with_reducible apply markRaised_keeps | with_reducible apply keeps_ite | with_reducible apply keepsOut_ite | with_reducible apply keeps_foldl | with_reducible apply keeps_foldl_fst | with_reducible apply keeps_foldl_snd
    | with_reducible intro _ | split | dsimp only | (refine keeps_mk ?_ ?_ ?_ ?_ ?_ <;> first | exact id | skip)

theorem execCalMsg_keeps {σ : State} (p : Nat) (b : List Byte) (t4 : Nat) (s : State) (hs : Keeps σ s) :
    KeepsOut σ (execCalMsg p b t4 s) := by
  unfold execCalMsg
  iterate 60 all_goals try first
    | with_reducible assumption | with_reducible exact keepsOut_refused _ | with_reducible apply keepsOut_next | with_reducible apply sideCommand_keeps | with_reducible apply calMessage_keeps | with_reducible apply raise_keeps | with_reducible apply raiseBit_keeps | with_reducible apply markRaised_keeps | with_reducible apply keeps_ite | with_reducible apply keepsOut_ite | with_reducible apply keeps_foldl | with_reducible apply keeps_foldl_fst | with_reducible apply keeps_foldl_snd
    | with_reducible intro _ | split | dsimp only | (refine keeps_mk ?_ ?_ ?_ ?_ ?_ <;> first | exact id | skip)

theorem execHelloMsg_keeps {σ : State} (p : Nat) (b : List Byte) (s : State) (hs : Keeps σ s) :
    KeepsOut σ (execHelloMsg p b s) := by
  unfold execHelloMsg
  iterate 60 all_goals try first
    | with_reducible assumption | with_reducible exact keepsOut_refused _ | with_reducible apply keepsOut_next | with_reducible apply sideCommand_keeps | with_reducible apply helloMessage_keeps | with_reducible apply raise_keeps | with_reducible apply raiseBit_keeps | with_reducible apply markRaised_keeps | with_reducible apply keeps_ite | with_reducible apply keepsOut_ite | with_reducible apply keeps_foldl | with_reducible apply keeps_foldl_fst | with_reducible apply keeps_foldl_snd
    | with_reducible intro _ | split | dsimp only | (refine keeps_mk ?_ ?_ ?_ ?_ ?_ <;> first | exact id | skip)

end Sys2Proof.Machine
end

