-- ==== Sys2Proof/Laws/KeepsTinlink.lean ====
section
/-! SUPPORT. What every operation of Machine/Tinlink.lean keeps. -/

namespace Sys2Proof.Machine

theorem resendAll_keeps {σ : State} (s : State) (p : Nat) (hs : Keeps σ s) :
    Keeps σ (resendAll s p) := by
  unfold resendAll
  iterate 60 all_goals try first
    | with_reducible assumption | with_reducible apply wr_keeps | with_reducible apply modPort_keeps | with_reducible apply sendFlit_keeps | with_reducible apply raise_keeps | with_reducible apply raiseBit_keeps | with_reducible apply markRaised_keeps | with_reducible apply keeps_ite | with_reducible apply keeps_foldl | with_reducible apply keeps_foldl_fst | with_reducible apply keeps_foldl_snd
    | intro _ | split | dsimp only | (refine keeps_mk ?_ ?_ ?_ ?_ ?_ <;> first | exact id | skip)

theorem sendIdle_keeps {σ : State} (s : State) (p : Nat) (hs : Keeps σ s) :
    Keeps σ (sendIdle s p) := by
  unfold sendIdle
  iterate 60 all_goals try first
    | with_reducible assumption | with_reducible apply sendFlit_keeps | with_reducible apply raise_keeps | with_reducible apply raiseBit_keeps | with_reducible apply markRaised_keeps | with_reducible apply keeps_ite | with_reducible apply keeps_foldl | with_reducible apply keeps_foldl_fst | with_reducible apply keeps_foldl_snd
    | intro _ | split | dsimp only | (refine keeps_mk ?_ ?_ ?_ ?_ ?_ <;> first | exact id | skip)

theorem answer_keeps {σ : State} (s : State) (p : Nat) (hs : Keeps σ s) :
    Keeps σ (answer s p) := by
  unfold answer
  iterate 60 all_goals try first
    | with_reducible assumption | with_reducible apply pump_keeps | with_reducible apply sendIdle_keeps | with_reducible apply raise_keeps | with_reducible apply raiseBit_keeps | with_reducible apply markRaised_keeps | with_reducible apply keeps_ite | with_reducible apply keeps_foldl | with_reducible apply keeps_foldl_fst | with_reducible apply keeps_foldl_snd
    | intro _ | split | dsimp only | (refine keeps_mk ?_ ?_ ?_ ?_ ?_ <;> first | exact id | skip)

theorem discardFlit_keeps {σ : State} (s : State) (p : Nat) (hs : Keeps σ s) :
    Keeps σ (discardFlit s p) := by
  unfold discardFlit
  iterate 60 all_goals try first
    | with_reducible assumption | with_reducible apply sendIdle_keeps | with_reducible apply modPort_keeps | with_reducible apply raise_keeps | with_reducible apply raiseBit_keeps | with_reducible apply markRaised_keeps | with_reducible apply keeps_ite | with_reducible apply keeps_foldl | with_reducible apply keeps_foldl_fst | with_reducible apply keeps_foldl_snd
    | intro _ | split | dsimp only | (refine keeps_mk ?_ ?_ ?_ ?_ ?_ <;> first | exact id | skip)

theorem linkFields_keeps {σ : State} (s : State) (p : Nat) (f : FlitIn) (hs : Keeps σ s) :
    Keeps σ (linkFields s p f) := by
  unfold linkFields
  iterate 60 all_goals try first
    | with_reducible assumption | with_reducible apply modPort_keeps | with_reducible apply wr_keeps | with_reducible apply resendAll_keeps | with_reducible apply noteOwn_keeps | with_reducible apply raise_keeps | with_reducible apply raiseBit_keeps | with_reducible apply markRaised_keeps | with_reducible apply keeps_ite | with_reducible apply keeps_foldl | with_reducible apply keeps_foldl_fst | with_reducible apply keeps_foldl_snd
    | intro _ | split | dsimp only | (refine keeps_mk ?_ ?_ ?_ ?_ ?_ <;> first | exact id | skip)

theorem rxBeat_keeps {σ : State} (s : State) (r : Nat) (hh : Nat) (l : List Byte) (bad : Bool) (last : Bool) (hs : Keeps σ s) :
    Keeps σ (rxBeat s r hh l bad last) := by
  unfold rxBeat
  iterate 60 all_goals try first
    | with_reducible assumption | with_reducible apply spanPut_keeps | with_reducible apply hoopClose_keeps | with_reducible apply modRegion_keeps | with_reducible apply raise_keeps | with_reducible apply raiseBit_keeps | with_reducible apply markRaised_keeps | with_reducible apply keeps_ite | with_reducible apply keeps_foldl | with_reducible apply keeps_foldl_fst | with_reducible apply keeps_foldl_snd
    | intro _ | split | dsimp only | (refine keeps_mk ?_ ?_ ?_ ?_ ?_ <;> first | exact id | skip)

theorem rxPad_keeps {σ : State} (s : State) (r : Nat) (hh : Nat) (hs : Keeps σ s) :
    Keeps σ (rxPad s r hh) := by
  unfold rxPad
  iterate 60 all_goals try first
    | with_reducible assumption | with_reducible apply spanPut_keeps | with_reducible apply wr_keeps | with_reducible apply hoopClose_keeps | with_reducible apply raise_keeps | with_reducible apply raiseBit_keeps | with_reducible apply markRaised_keeps | with_reducible apply keeps_ite | with_reducible apply keeps_foldl | with_reducible apply keeps_foldl_fst | with_reducible apply keeps_foldl_snd
    | intro _ | split | dsimp only | (refine keeps_mk ?_ ?_ ?_ ?_ ?_ <;> first | exact id | skip)

theorem rxFlit_keeps {σ : State} (r : Nat) (hh : Nat) (y2 : Nat) (y3 : State) (y4 : Flit) (hy3 : Keeps σ y3) :
    Keeps σ (rxFlit r hh y2 y3 y4).1 := by
  induction y2 generalizing y3 y4 with
  | zero =>
    unfold rxFlit
    iterate 60 all_goals try first
      | with_reducible assumption | with_reducible apply rxPad_keeps | with_reducible apply rxBeat_keeps | with_reducible apply raise_keeps | with_reducible apply raiseBit_keeps | with_reducible apply markRaised_keeps | with_reducible apply keeps_ite | with_reducible apply keeps_foldl | with_reducible apply keeps_foldl_fst | with_reducible apply keeps_foldl_snd
      | intro _ | split | dsimp only | (refine keeps_mk ?_ ?_ ?_ ?_ ?_ <;> first | exact id | skip)
  | succ k ih =>
    unfold rxFlit
    iterate 60 all_goals try first
      | with_reducible assumption | with_reducible apply rxPad_keeps | with_reducible apply rxBeat_keeps | with_reducible apply ih | with_reducible apply raise_keeps | with_reducible apply raiseBit_keeps | with_reducible apply markRaised_keeps | with_reducible apply keeps_ite | with_reducible apply keeps_foldl | with_reducible apply keeps_foldl_fst | with_reducible apply keeps_foldl_snd
      | intro _ | split | dsimp only | (refine keeps_mk ?_ ?_ ?_ ?_ ?_ <;> first | exact id | skip)

theorem freeFlit_keeps {σ : State} (s : State) (p : Nat) (hs : Keeps σ s) :
    Keeps σ (freeFlit s p) := by
  unfold freeFlit
  iterate 60 all_goals try first
    | with_reducible assumption | with_reducible apply modPort_keeps | with_reducible apply sendIdle_keeps | with_reducible apply raise_keeps | with_reducible apply raiseBit_keeps | with_reducible apply markRaised_keeps | with_reducible apply keeps_ite | with_reducible apply keeps_foldl | with_reducible apply keeps_foldl_fst | with_reducible apply keeps_foldl_snd
    | intro _ | split | dsimp only | (refine keeps_mk ?_ ?_ ?_ ?_ ?_ <;> first | exact id | skip)

theorem rxStray_keeps {σ : State} (s : State) (p : Nat) (k : Nat) (hs : Keeps σ s) :
    Keeps σ (rxStray s p k) := by
  unfold rxStray
  iterate 60 all_goals try first
    | with_reducible assumption | with_reducible apply wr_keeps | with_reducible apply freeFlit_keeps | with_reducible apply jobFault_keeps | with_reducible apply raise_keeps | with_reducible apply raiseBit_keeps | with_reducible apply markRaised_keeps | with_reducible apply keeps_ite | with_reducible apply keeps_foldl | with_reducible apply keeps_foldl_fst | with_reducible apply keeps_foldl_snd
    | intro _ | split | dsimp only | (refine keeps_mk ?_ ?_ ?_ ?_ ?_ <;> first | exact id | skip)

theorem rxWalk_keeps {σ : State} (p : Nat) (y1 : List Flit) (y2 : List Flit) (y3 : List Nat) (y4 : State) (hy4 : Keeps σ y4) :
    Keeps σ (rxWalk p y1 y2 y3 y4).1 := by
  induction y1 generalizing y2 y3 y4 with
  | nil =>
    unfold rxWalk
    iterate 60 all_goals try first
      | with_reducible assumption | with_reducible apply rxStray_keeps | with_reducible refine keeps_fst (by assumption) (rxFlit_keeps _ _ _ _ _ ?_) | with_reducible apply rxFlit_keeps | with_reducible apply freeFlit_keeps | with_reducible apply raise_keeps | with_reducible apply raiseBit_keeps | with_reducible apply markRaised_keeps | with_reducible apply keeps_ite | with_reducible apply keeps_foldl | with_reducible apply keeps_foldl_fst | with_reducible apply keeps_foldl_snd
      | intro _ | split | dsimp only | (refine keeps_mk ?_ ?_ ?_ ?_ ?_ <;> first | exact id | skip)
  | cons x l ih =>
    unfold rxWalk
    iterate 60 all_goals try first
      | with_reducible assumption | with_reducible apply rxStray_keeps | with_reducible refine keeps_fst (by assumption) (rxFlit_keeps _ _ _ _ _ ?_) | with_reducible apply rxFlit_keeps | with_reducible apply freeFlit_keeps | with_reducible apply ih | with_reducible apply raise_keeps | with_reducible apply raiseBit_keeps | with_reducible apply markRaised_keeps | with_reducible apply keeps_ite | with_reducible apply keeps_foldl | with_reducible apply keeps_foldl_fst | with_reducible apply keeps_foldl_snd
      | intro _ | split | dsimp only | (refine keeps_mk ?_ ?_ ?_ ?_ ?_ <;> first | exact id | skip)

theorem rxDrain_keeps {σ : State} (s : State) (p : Nat) (hs : Keeps σ s) :
    Keeps σ (rxDrain s p) := by
  unfold rxDrain
  iterate 60 all_goals try first
    | with_reducible assumption | with_reducible refine keeps_fst (by assumption) (rxWalk_keeps _ _ _ _ _ ?_) | with_reducible apply rxWalk_keeps | with_reducible apply wr_keeps | with_reducible apply modPort_keeps | with_reducible apply raise_keeps | with_reducible apply raiseBit_keeps | with_reducible apply markRaised_keeps | with_reducible apply keeps_ite | with_reducible apply keeps_foldl | with_reducible apply keeps_foldl_fst | with_reducible apply keeps_foldl_snd
    | intro _ | split | dsimp only | (refine keeps_mk ?_ ?_ ?_ ?_ ?_ <;> first | exact id | skip)

theorem linksSettle_keeps {σ : State} (s : State) (hs : Keeps σ s) :
    Keeps σ (linksSettle s) := by
  unfold linksSettle
  iterate 60 all_goals try first
    | with_reducible assumption | with_reducible apply rxDrain_keeps | with_reducible apply pumpAll_keeps | with_reducible apply raise_keeps | with_reducible apply raiseBit_keeps | with_reducible apply markRaised_keeps | with_reducible apply keeps_ite | with_reducible apply keeps_foldl | with_reducible apply keeps_foldl_fst | with_reducible apply keeps_foldl_snd
    | intro _ | split | dsimp only | (refine keeps_mk ?_ ?_ ?_ ?_ ?_ <;> first | exact id | skip)

theorem sideDispatch_keeps {σ : State} (s : State) (p : Nat) (m : List Byte) (t4 : Nat) (hs : Keeps σ s) :
    Keeps σ (sideDispatch s p m t4) := by
  unfold sideDispatch
  iterate 60 all_goals try first
    | with_reducible assumption | with_reducible apply wr_keeps | with_reducible apply rootlineMessage_keeps | with_reducible apply arriveMessage_keeps | with_reducible apply abortMessage_keeps | with_reducible apply calMessage_keeps | with_reducible apply helloMessage_keeps | with_reducible apply raise_keeps | with_reducible apply raiseBit_keeps | with_reducible apply markRaised_keeps | with_reducible apply keeps_ite | with_reducible apply keeps_foldl | with_reducible apply keeps_foldl_fst | with_reducible apply keeps_foldl_snd
    | intro _ | split | dsimp only | (refine keeps_mk ?_ ?_ ?_ ?_ ?_ <;> first | exact id | skip)

theorem sideBroken_keeps {σ : State} (s : State) (p : Nat) (hs : Keeps σ s) :
    Keeps σ (sideBroken s p) := by
  unfold sideBroken
  iterate 60 all_goals try first
    | with_reducible assumption | with_reducible apply wr_keeps | with_reducible apply modPort_keeps | with_reducible apply raise_keeps | with_reducible apply raiseBit_keeps | with_reducible apply markRaised_keeps | with_reducible apply keeps_ite | with_reducible apply keeps_foldl | with_reducible apply keeps_foldl_fst | with_reducible apply keeps_foldl_snd
    | intro _ | split | dsimp only | (refine keeps_mk ?_ ?_ ?_ ?_ ?_ <;> first | exact id | skip)

theorem sideBytes_keeps {σ : State} (s : State) (p : Nat) (f : FlitIn) (hs : Keeps σ s) :
    Keeps σ (sideBytes s p f) := by
  unfold sideBytes
  iterate 60 all_goals try first
    | with_reducible assumption | with_reducible apply sideBroken_keeps | with_reducible apply wr_keeps | with_reducible apply modPort_keeps | with_reducible apply sideDispatch_keeps | with_reducible apply raise_keeps | with_reducible apply raiseBit_keeps | with_reducible apply markRaised_keeps | with_reducible apply keeps_ite | with_reducible apply keeps_foldl | with_reducible apply keeps_foldl_fst | with_reducible apply keeps_foldl_snd
    | intro _ | split | dsimp only | (refine keeps_mk ?_ ?_ ?_ ?_ ?_ <;> first | exact id | skip)

theorem sequenced_keeps {σ : State} (s : State) (p : Nat) (x : FlitIn) (f : State → State) (hs : Keeps σ s) (hf : ∀ a0, Keeps σ a0 → Keeps σ (f a0)) :
    KeepsOut σ (sequenced s p x f) := by
  unfold sequenced
  iterate 60 all_goals try first
    | with_reducible assumption | with_reducible exact keepsOut_refused _ | with_reducible apply keepsOut_next | with_reducible apply hf | with_reducible apply linkFields_keeps | with_reducible apply discardFlit_keeps | with_reducible apply modPort_keeps | with_reducible apply answer_keeps | with_reducible apply sideBytes_keeps | with_reducible apply raise_keeps | with_reducible apply raiseBit_keeps | with_reducible apply markRaised_keeps | with_reducible apply keeps_ite | with_reducible apply keepsOut_ite | with_reducible apply keeps_foldl | with_reducible apply keeps_foldl_fst | with_reducible apply keeps_foldl_snd
    | with_reducible intro _ | split | dsimp only | (refine keeps_mk ?_ ?_ ?_ ?_ ?_ <;> first | exact id | skip)

theorem rxData_keeps {σ : State} (p : Nat) (ty : Nat) (x : FlitIn) (s : State) (hs : Keeps σ s) :
    Keeps σ (rxData p ty x s) := by
  unfold rxData
  iterate 60 all_goals try first
    | with_reducible assumption | with_reducible apply rxDrain_keeps | with_reducible apply modPort_keeps | with_reducible apply raise_keeps | with_reducible apply raiseBit_keeps | with_reducible apply markRaised_keeps | with_reducible apply keeps_ite | with_reducible apply keeps_foldl | with_reducible apply keeps_foldl_fst | with_reducible apply keeps_foldl_snd
    | intro _ | split | dsimp only | (refine keeps_mk ?_ ?_ ?_ ?_ ?_ <;> first | exact id | skip)

theorem execDataFlit_keeps {σ : State} (p : Nat) (x : FlitIn) (s : State) (hs : Keeps σ s) :
    KeepsOut σ (execDataFlit p x s) := by
  unfold execDataFlit
  iterate 60 all_goals try first
    | with_reducible assumption | with_reducible exact keepsOut_refused _ | with_reducible apply keepsOut_next | with_reducible apply sequenced_keeps | with_reducible apply rxData_keeps | with_reducible apply raise_keeps | with_reducible apply raiseBit_keeps | with_reducible apply markRaised_keeps | with_reducible apply keeps_ite | with_reducible apply keepsOut_ite | with_reducible apply keeps_foldl | with_reducible apply keeps_foldl_fst | with_reducible apply keeps_foldl_snd
    | with_reducible intro _ | split | dsimp only | (refine keeps_mk ?_ ?_ ?_ ?_ ?_ <;> first | exact id | skip)

theorem execDataLastFlit_keeps {σ : State} (p : Nat) (x : FlitIn) (s : State) (hs : Keeps σ s) :
    KeepsOut σ (execDataLastFlit p x s) := by
  unfold execDataLastFlit
  iterate 60 all_goals try first
    | with_reducible assumption | with_reducible exact keepsOut_refused _ | with_reducible apply keepsOut_next | with_reducible apply sequenced_keeps | with_reducible apply rxData_keeps | with_reducible apply raise_keeps | with_reducible apply raiseBit_keeps | with_reducible apply markRaised_keeps | with_reducible apply keeps_ite | with_reducible apply keepsOut_ite | with_reducible apply keeps_foldl | with_reducible apply keeps_foldl_fst | with_reducible apply keeps_foldl_snd
    | with_reducible intro _ | split | dsimp only | (refine keeps_mk ?_ ?_ ?_ ?_ ?_ <;> first | exact id | skip)

theorem execSideFlit_keeps {σ : State} (p : Nat) (x : FlitIn) (s : State) (hs : Keeps σ s) :
    KeepsOut σ (execSideFlit p x s) := by
  unfold execSideFlit
  iterate 60 all_goals try first
    | with_reducible assumption | with_reducible exact keepsOut_refused _ | with_reducible apply keepsOut_next | with_reducible apply sequenced_keeps | with_reducible apply raise_keeps | with_reducible apply raiseBit_keeps | with_reducible apply markRaised_keeps | with_reducible apply keeps_ite | with_reducible apply keepsOut_ite | with_reducible apply keeps_foldl | with_reducible apply keeps_foldl_fst | with_reducible apply keeps_foldl_snd
    | with_reducible intro _ | split | dsimp only | (refine keeps_mk ?_ ?_ ?_ ?_ ?_ <;> first | exact id | skip)

theorem execIdleFlit_keeps {σ : State} (p : Nat) (x : FlitIn) (s : State) (hs : Keeps σ s) :
    KeepsOut σ (execIdleFlit p x s) := by
  unfold execIdleFlit
  iterate 60 all_goals try first
    | with_reducible assumption | with_reducible exact keepsOut_refused _ | with_reducible apply keepsOut_next | with_reducible apply pump_keeps | with_reducible apply linkFields_keeps | with_reducible apply raise_keeps | with_reducible apply raiseBit_keeps | with_reducible apply markRaised_keeps | with_reducible apply keeps_ite | with_reducible apply keepsOut_ite | with_reducible apply keeps_foldl | with_reducible apply keeps_foldl_fst | with_reducible apply keeps_foldl_snd
    | with_reducible intro _ | split | dsimp only | (refine keeps_mk ?_ ?_ ?_ ?_ ?_ <;> first | exact id | skip)

theorem execFlitCrcFailure_keeps {σ : State} (p : Nat) (s : State) (hs : Keeps σ s) :
    KeepsOut σ (execFlitCrcFailure p s) := by
  unfold execFlitCrcFailure
  iterate 60 all_goals try first
    | with_reducible assumption | with_reducible exact keepsOut_refused _ | with_reducible apply keepsOut_next | with_reducible apply discardFlit_keeps | with_reducible apply raise_keeps | with_reducible apply raiseBit_keeps | with_reducible apply markRaised_keeps | with_reducible apply keeps_ite | with_reducible apply keepsOut_ite | with_reducible apply keeps_foldl | with_reducible apply keeps_foldl_fst | with_reducible apply keeps_foldl_snd
    | with_reducible intro _ | split | dsimp only | (refine keeps_mk ?_ ?_ ?_ ?_ ?_ <;> first | exact id | skip)

theorem sayHello_keeps {σ : State} (s : State) (p : Nat) (hs : Keeps σ s) :
    Keeps σ (sayHello s p) := by
  unfold sayHello
  iterate 60 all_goals try first
    | with_reducible assumption | with_reducible apply pump_keeps | with_reducible apply modPort_keeps | with_reducible apply sideSend_keeps | with_reducible apply raise_keeps | with_reducible apply raiseBit_keeps | with_reducible apply markRaised_keeps | with_reducible apply keeps_ite | with_reducible apply keeps_foldl | with_reducible apply keeps_foldl_fst | with_reducible apply keeps_foldl_snd
    | intro _ | split | dsimp only | (refine keeps_mk ?_ ?_ ?_ ?_ ?_ <;> first | exact id | skip)

theorem linkEvent_keeps {σ : State} (s : State) (p : Nat) (st : Nat) (f : State → State) (hs : Keeps σ s) (hf : ∀ a0, Keeps σ a0 → Keeps σ (f a0)) :
    KeepsOut σ (linkEvent s p st f) := by
  unfold linkEvent
  iterate 60 all_goals try first
    | with_reducible assumption | with_reducible exact keepsOut_refused _ | with_reducible apply keepsOut_next | with_reducible apply hf | with_reducible apply raise_keeps | with_reducible apply raiseBit_keeps | with_reducible apply markRaised_keeps | with_reducible apply keeps_ite | with_reducible apply keepsOut_ite | with_reducible apply keeps_foldl | with_reducible apply keeps_foldl_fst | with_reducible apply keeps_foldl_snd
    | with_reducible intro _ | split | dsimp only | (refine keeps_mk ?_ ?_ ?_ ?_ ?_ <;> first | exact id | skip)

theorem execLinkAligned_keeps {σ : State} (p : Nat) (s : State) (hs : Keeps σ s) :
    KeepsOut σ (execLinkAligned p s) := by
  unfold execLinkAligned
  iterate 60 all_goals try first
    | with_reducible assumption | with_reducible exact keepsOut_refused _ | with_reducible apply keepsOut_next | with_reducible apply linkEvent_keeps | with_reducible apply sayHello_keeps | with_reducible apply resendAll_keeps | with_reducible apply modPort_keeps | with_reducible apply portEnter_keeps | with_reducible apply raise_keeps | with_reducible apply raiseBit_keeps | with_reducible apply markRaised_keeps | with_reducible apply keeps_ite | with_reducible apply keepsOut_ite | with_reducible apply keeps_foldl | with_reducible apply keeps_foldl_fst | with_reducible apply keeps_foldl_snd
    | with_reducible intro _ | split | dsimp only | (refine keeps_mk ?_ ?_ ?_ ?_ ?_ <;> first | exact id | skip)

theorem execTrainingTimeout_keeps {σ : State} (p : Nat) (s : State) (hs : Keeps σ s) :
    KeepsOut σ (execTrainingTimeout p s) := by
  unfold execTrainingTimeout
  iterate 60 all_goals try first
    | with_reducible assumption | with_reducible exact keepsOut_refused _ | with_reducible apply keepsOut_next | with_reducible apply linkEvent_keeps | with_reducible apply portEnter_keeps | with_reducible apply raise_keeps | with_reducible apply raiseBit_keeps | with_reducible apply markRaised_keeps | with_reducible apply keeps_ite | with_reducible apply keepsOut_ite | with_reducible apply keeps_foldl | with_reducible apply keeps_foldl_fst | with_reducible apply keeps_foldl_snd
    | with_reducible intro _ | split | dsimp only | (refine keeps_mk ?_ ?_ ?_ ?_ ?_ <;> first | exact id | skip)

theorem execHelloTimeout_keeps {σ : State} (p : Nat) (s : State) (hs : Keeps σ s) :
    KeepsOut σ (execHelloTimeout p s) := by
  unfold execHelloTimeout
  iterate 60 all_goals try first
    | with_reducible assumption | with_reducible exact keepsOut_refused _ | with_reducible apply keepsOut_next | with_reducible apply linkEvent_keeps | with_reducible apply portEnter_keeps | with_reducible apply raise_keeps | with_reducible apply raiseBit_keeps | with_reducible apply markRaised_keeps | with_reducible apply keeps_ite | with_reducible apply keepsOut_ite | with_reducible apply keeps_foldl | with_reducible apply keeps_foldl_fst | with_reducible apply keeps_foldl_snd
    | with_reducible intro _ | split | dsimp only | (refine keeps_mk ?_ ?_ ?_ ?_ ?_ <;> first | exact id | skip)

theorem execFecLockLost_keeps {σ : State} (p : Nat) (s : State) (hs : Keeps σ s) :
    KeepsOut σ (execFecLockLost p s) := by
  unfold execFecLockLost
  iterate 60 all_goals try first
    | with_reducible assumption | with_reducible exact keepsOut_refused _ | with_reducible apply keepsOut_next | with_reducible apply linkEvent_keeps | with_reducible apply portEnter_keeps | with_reducible apply raise_keeps | with_reducible apply raiseBit_keeps | with_reducible apply markRaised_keeps | with_reducible apply keeps_ite | with_reducible apply keepsOut_ite | with_reducible apply keeps_foldl | with_reducible apply keeps_foldl_fst | with_reducible apply keeps_foldl_snd
    | with_reducible intro _ | split | dsimp only | (refine keeps_mk ?_ ?_ ?_ ?_ ?_ <;> first | exact id | skip)

theorem execReplayLimit_keeps {σ : State} (p : Nat) (s : State) (hs : Keeps σ s) :
    KeepsOut σ (execReplayLimit p s) := by
  unfold execReplayLimit
  iterate 60 all_goals try first
    | with_reducible assumption | with_reducible exact keepsOut_refused _ | with_reducible apply keepsOut_next | with_reducible apply linkEvent_keeps | with_reducible apply portEnter_keeps | with_reducible apply raise_keeps | with_reducible apply raiseBit_keeps | with_reducible apply markRaised_keeps | with_reducible apply keeps_ite | with_reducible apply keepsOut_ite | with_reducible apply keeps_foldl | with_reducible apply keeps_foldl_fst | with_reducible apply keeps_foldl_snd
    | with_reducible intro _ | split | dsimp only | (refine keeps_mk ?_ ?_ ?_ ?_ ?_ <;> first | exact id | skip)

theorem execRetrainTimeout_keeps {σ : State} (p : Nat) (s : State) (hs : Keeps σ s) :
    KeepsOut σ (execRetrainTimeout p s) := by
  unfold execRetrainTimeout
  iterate 60 all_goals try first
    | with_reducible assumption | with_reducible exact keepsOut_refused _ | with_reducible apply keepsOut_next | with_reducible apply linkEvent_keeps | with_reducible apply portEnter_keeps | with_reducible apply raise_keeps | with_reducible apply raiseBit_keeps | with_reducible apply markRaised_keeps | with_reducible apply keeps_ite | with_reducible apply keepsOut_ite | with_reducible apply keeps_foldl | with_reducible apply keeps_foldl_fst | with_reducible apply keeps_foldl_snd
    | with_reducible intro _ | split | dsimp only | (refine keeps_mk ?_ ?_ ?_ ?_ ?_ <;> first | exact id | skip)

end Sys2Proof.Machine
end

