-- ==== Sys2Proof/Laws/KeepsDrain.lean ====
section
/-! SUPPORT. What every operation of Machine/Drain.lean keeps. -/

namespace Sys2Proof.Machine

theorem untilNs_keeps {σ : State} (s : State) (t : Nat) (hs : Keeps σ s) :
    Keeps σ (untilNs s t) := by
  unfold untilNs
  iterate 60 all_goals try first
    | with_reducible assumption | with_reducible apply advance_keeps | with_reducible apply raise_keeps | with_reducible apply raiseBit_keeps | with_reducible apply markRaised_keeps | with_reducible apply keeps_ite | with_reducible apply keeps_foldl | with_reducible apply keeps_foldl_fst | with_reducible apply keeps_foldl_snd
    | intro _ | split | dsimp only | (refine keeps_mk ?_ ?_ ?_ ?_ ?_ <;> first | exact id | skip)

theorem countHold_keeps {σ : State} (s : State) (c : Nat) (n : Nat) (reason : Nat) (hs : Keeps σ s) :
    Keeps σ (countHold s c n reason) := by
  unfold countHold
  iterate 60 all_goals try first
    | with_reducible assumption | with_reducible apply trace_keeps | with_reducible apply bump_keeps | with_reducible apply alarmEvent_keeps | with_reducible apply raise_keeps | with_reducible apply raiseBit_keeps | with_reducible apply markRaised_keeps | with_reducible apply keeps_ite | with_reducible apply keeps_foldl | with_reducible apply keeps_foldl_fst | with_reducible apply keeps_foldl_snd
    | intro _ | split | dsimp only | (refine keeps_mk ?_ ?_ ?_ ?_ ?_ <;> first | exact id | skip)

theorem discardLate_keeps {σ : State} (s : State) (c : Nat) (n : Nat) (a : Bool) (hs : Keeps σ s) :
    Keeps σ (discardLate s c n a) := by
  unfold discardLate
  iterate 60 all_goals try first
    | with_reducible assumption | with_reducible apply recsLeave_keeps | with_reducible apply bump_keeps | with_reducible apply trace_keeps | with_reducible apply raise_keeps | with_reducible apply raiseBit_keeps | with_reducible apply markRaised_keeps | with_reducible apply keeps_ite | with_reducible apply keeps_foldl | with_reducible apply keeps_foldl_fst | with_reducible apply keeps_foldl_snd
    | intro _ | split | dsimp only | (refine keeps_mk ?_ ?_ ?_ ?_ ?_ <;> first | exact id | skip)

theorem queueUnit_keeps {σ : State} (s : State) (c : Nat) (n : Nat) (a : Bool) (u : List Byte) (hs : Keeps σ s) :
    Keeps σ (queueUnit s c n a u) := by
  unfold queueUnit
  iterate 60 all_goals try first
    | with_reducible assumption | with_reducible apply modCtx_keeps | with_reducible apply raise_keeps | with_reducible apply raiseBit_keeps | with_reducible apply markRaised_keeps | with_reducible apply keeps_ite | with_reducible apply keeps_foldl | with_reducible apply keeps_foldl_fst | with_reducible apply keeps_foldl_snd
    | intro _ | split | dsimp only | (refine keeps_mk ?_ ?_ ?_ ?_ ?_ <;> first | exact id | skip)

theorem takeRecs_keeps {σ : State} (s : State) (c : Nat) (n : Nat) (a : Bool) (whole : Bool) (hs : Keeps σ s) :
    Keeps σ (takeRecs s c n a whole) := by
  unfold takeRecs
  iterate 60 all_goals try first
    | with_reducible assumption | with_reducible apply recsLeave_keeps | with_reducible apply raise_keeps | with_reducible apply raiseBit_keeps | with_reducible apply markRaised_keeps | with_reducible apply keeps_ite | with_reducible apply keeps_foldl | with_reducible apply keeps_foldl_fst | with_reducible apply keeps_foldl_snd
    | intro _ | split | dsimp only | (refine keeps_mk ?_ ?_ ?_ ?_ ?_ <;> first | exact id | skip)

theorem slotDone_keeps {σ : State} (s : State) (c : Nat) (n : Nat) (a : Bool) (hold : Bool) (hs : Keeps σ s) :
    Keeps σ (slotDone s c n a hold) := by
  unfold slotDone
  iterate 60 all_goals try first
    | with_reducible assumption | with_reducible apply modCtx_keeps | with_reducible apply raise_keeps | with_reducible apply raiseBit_keeps | with_reducible apply markRaised_keeps | with_reducible apply keeps_ite | with_reducible apply keeps_foldl | with_reducible apply keeps_foldl_fst | with_reducible apply keeps_foldl_snd
    | intro _ | split | dsimp only | (refine keeps_mk ?_ ?_ ?_ ?_ ?_ <;> first | exact id | skip)

theorem drainAct_keeps {σ : State} (s : State) (c : Nat) (n : Nat) (a : Bool) (hs : Keeps σ s) :
    Keeps σ (drainAct s c n a) := by
  unfold drainAct
  iterate 60 all_goals try first
    | with_reducible assumption | with_reducible apply discardLate_keeps | with_reducible apply slotDone_keeps | with_reducible apply takeRecs_keeps | with_reducible apply queueUnit_keeps | with_reducible apply countHold_keeps | with_reducible apply raise_keeps | with_reducible apply raiseBit_keeps | with_reducible apply markRaised_keeps | with_reducible apply keeps_ite | with_reducible apply keeps_foldl | with_reducible apply keeps_foldl_fst | with_reducible apply keeps_foldl_snd
    | intro _ | split | dsimp only | (refine keeps_mk ?_ ?_ ?_ ?_ ?_ <;> first | exact id | skip)

theorem execDrainAction_keeps {σ : State} (c : Nat) (audio : Bool) (s : State) (hs : Keeps σ s) :
    KeepsOut σ (execDrainAction c audio s) := by
  unfold execDrainAction
  iterate 60 all_goals try first
    | with_reducible assumption | with_reducible exact keepsOut_refused _ | with_reducible apply keepsOut_next | with_reducible apply drainAct_keeps | with_reducible apply untilNs_keeps | with_reducible apply raise_keeps | with_reducible apply raiseBit_keeps | with_reducible apply markRaised_keeps | with_reducible apply keeps_ite | with_reducible apply keepsOut_ite | with_reducible apply keeps_foldl | with_reducible apply keeps_foldl_fst | with_reducible apply keeps_foldl_snd
    | with_reducible intro _ | split | dsimp only | (refine keeps_mk ?_ ?_ ?_ ?_ ?_ <;> first | exact id | skip)

theorem counted_keeps {σ : State} (s : State) (c : Nat) (k : Nat) (l : List Byte) (hs : Keeps σ s) :
    Keeps σ (counted s c k l).2 := by
  unfold counted
  iterate 60 all_goals try first
    | with_reducible assumption | with_reducible apply modCtx_keeps | with_reducible apply raise_keeps | with_reducible apply raiseBit_keeps | with_reducible apply markRaised_keeps | with_reducible apply keeps_ite | with_reducible apply keeps_foldl | with_reducible apply keeps_foldl_fst | with_reducible apply keeps_foldl_snd
    | intro _ | split | dsimp only | (refine keeps_mk ?_ ?_ ?_ ?_ ?_ <;> first | exact id | skip)

theorem nullPacket_keeps {σ : State} (s : State) (hs : Keeps σ s) :
    Keeps σ (nullPacket s).2 := by
  unfold nullPacket
  iterate 60 all_goals try first
    | with_reducible assumption | with_reducible apply takeFree_keeps | with_reducible apply raise_keeps | with_reducible apply raiseBit_keeps | with_reducible apply markRaised_keeps | with_reducible apply keeps_ite | with_reducible apply keeps_foldl | with_reducible apply keeps_foldl_fst | with_reducible apply keeps_foldl_snd
    | intro _ | split | dsimp only | (refine keeps_mk ?_ ?_ ?_ ?_ ?_ <;> first | exact id | skip)

theorem oppPacket_keeps {σ : State} (s : State) (c : Nat) (q : Nat) (i : Nat) (hs : Keeps σ s) :
    Keeps σ (oppPacket s c q i).2 := by
  unfold oppPacket
  iterate 60 all_goals try first
    | with_reducible assumption | with_reducible apply counted_keeps | with_reducible apply nullPacket_keeps | with_reducible apply modCtx_keeps | with_reducible apply raise_keeps | with_reducible apply raiseBit_keeps | with_reducible apply markRaised_keeps | with_reducible apply keeps_ite | with_reducible apply keeps_foldl | with_reducible apply keeps_foldl_fst | with_reducible apply keeps_foldl_snd
    | intro _ | split | dsimp only | (refine keeps_mk ?_ ?_ ?_ ?_ ?_ <;> first | exact id | skip)

theorem oppPackets_keeps {σ : State} (c : Nat) (q : Nat) (y2 : Nat) (y3 : Nat) (y4 : State) (hy4 : Keeps σ y4) :
    Keeps σ (oppPackets c q y2 y3 y4).2 := by
  induction y2 generalizing y3 y4 with
  | zero =>
    unfold oppPackets
    iterate 60 all_goals try first
      | with_reducible assumption | with_reducible apply oppPacket_keeps | with_reducible apply raise_keeps | with_reducible apply raiseBit_keeps | with_reducible apply markRaised_keeps | with_reducible apply keeps_ite | with_reducible apply keeps_foldl | with_reducible apply keeps_foldl_fst | with_reducible apply keeps_foldl_snd
      | intro _ | split | dsimp only | (refine keeps_mk ?_ ?_ ?_ ?_ ?_ <;> first | exact id | skip)
  | succ k ih =>
    unfold oppPackets
    iterate 60 all_goals try first
      | with_reducible assumption | with_reducible apply oppPacket_keeps | with_reducible apply ih | with_reducible apply raise_keeps | with_reducible apply raiseBit_keeps | with_reducible apply markRaised_keeps | with_reducible apply keeps_ite | with_reducible apply keeps_foldl | with_reducible apply keeps_foldl_fst | with_reducible apply keeps_foldl_snd
      | intro _ | split | dsimp only | (refine keeps_mk ?_ ?_ ?_ ?_ ?_ <;> first | exact id | skip)

theorem sendMedia_keeps {σ : State} (s : State) (c : Nat) (p : Nat) (t : Nat) (ts : List Byte) (hs : Keeps σ s) :
    Keeps σ (sendMedia s c p t ts) := by
  unfold sendMedia
  iterate 60 all_goals try first
    | with_reducible assumption | with_reducible apply bump_keeps | with_reducible apply emit_keeps | with_reducible apply raise_keeps | with_reducible apply raiseBit_keeps | with_reducible apply markRaised_keeps | with_reducible apply keeps_ite | with_reducible apply keeps_foldl | with_reducible apply keeps_foldl_fst | with_reducible apply keeps_foldl_snd
    | intro _ | split | dsimp only | (refine keeps_mk ?_ ?_ ?_ ?_ ?_ <;> first | exact id | skip)

theorem sendHost_keeps {σ : State} (s : State) (c : Nat) (t : Nat) (ts : List Byte) (hs : Keeps σ s) :
    Keeps σ (sendHost s c t ts) := by
  unfold sendHost
  iterate 60 all_goals try first
    | with_reducible assumption | with_reducible apply bump_keeps | with_reducible apply wr_keeps | with_reducible apply modWq_keeps | with_reducible apply raise_keeps | with_reducible apply raiseBit_keeps | with_reducible apply markRaised_keeps | with_reducible apply keeps_ite | with_reducible apply keeps_foldl | with_reducible apply keeps_foldl_fst | with_reducible apply keeps_foldl_snd
    | intro _ | split | dsimp only | (refine keeps_mk ?_ ?_ ?_ ?_ ?_ <;> first | exact id | skip) | with_reducible apply mWrite_wf

theorem nextDatagram_keeps {σ : State} (s : State) (c : Nat) (hs : Keeps σ s) :
    Keeps σ (nextDatagram s c) := by
  unfold nextDatagram
  iterate 60 all_goals try first
    | with_reducible assumption | with_reducible apply modCtx_keeps | with_reducible apply raise_keeps | with_reducible apply raiseBit_keeps | with_reducible apply markRaised_keeps | with_reducible apply keeps_ite | with_reducible apply keeps_foldl | with_reducible apply keeps_foldl_fst | with_reducible apply keeps_foldl_snd
    | intro _ | split | dsimp only | (refine keeps_mk ?_ ?_ ?_ ?_ ?_ <;> first | exact id | skip)

theorem execDrainDatagram_keeps {σ : State} (c : Nat) (s : State) (hs : Keeps σ s) :
    KeepsOut σ (execDrainDatagram c s) := by
  unfold execDrainDatagram
  iterate 60 all_goals try first
    | with_reducible assumption | with_reducible exact keepsOut_refused _ | with_reducible apply keepsOut_next | with_reducible apply oppPackets_keeps | with_reducible apply untilNs_keeps | with_reducible apply nextDatagram_keeps | with_reducible apply sendHost_keeps | with_reducible apply sendMedia_keeps | with_reducible apply raise_keeps | with_reducible apply raiseBit_keeps | with_reducible apply markRaised_keeps | with_reducible apply keeps_ite | with_reducible apply keepsOut_ite | with_reducible apply keeps_foldl | with_reducible apply keeps_foldl_fst | with_reducible apply keeps_foldl_snd
    | with_reducible intro _ | split | dsimp only | (refine keeps_mk ?_ ?_ ?_ ?_ ?_ <;> first | exact id | skip)

end Sys2Proof.Machine
end

