-- ==== Sys2Proof/Laws/KeepsBeats.lean ====
section
/-! SUPPORT. What every operation of Machine/Beats.lean keeps. -/

namespace Sys2Proof.Machine

theorem untilScyc_keeps {σ : State} (s : State) (r : Nat) (due : Nat) (hs : Keeps σ s) :
    Keeps σ (untilScyc s r due) := by
  unfold untilScyc
  iterate 60 all_goals try first
    | with_reducible assumption | with_reducible apply advance_keeps | with_reducible apply raise_keeps | with_reducible apply raiseBit_keeps | with_reducible apply markRaised_keeps | with_reducible apply keeps_ite | with_reducible apply keeps_foldl | with_reducible apply keeps_foldl_fst | with_reducible apply keeps_foldl_snd
    | intro _ | split | dsimp only | (refine keeps_mk ?_ ?_ ?_ ?_ ?_ <;> first | exact id | skip)

theorem execBeatRelease_keeps {σ : State} (r : Nat) (addr : Nat) (w : BeatTime) (arrived : Bool) (mark : Bool) (s : State) (hs : Keeps σ s) :
    KeepsOut σ (execBeatRelease r addr w arrived mark s) := by
  unfold execBeatRelease
  iterate 60 all_goals try first
    | with_reducible assumption | with_reducible exact keepsOut_refused _ | with_reducible apply keepsOut_next | with_reducible apply untilScyc_keeps | with_reducible apply memErrors_keeps | with_reducible apply modRegion_keeps | with_reducible apply holdAs_keeps | with_reducible apply schedMiss_keeps | with_reducible apply raise_keeps | with_reducible apply raiseBit_keeps | with_reducible apply markRaised_keeps | with_reducible apply keeps_ite | with_reducible apply keepsOut_ite | with_reducible apply keeps_foldl | with_reducible apply keeps_foldl_fst | with_reducible apply keeps_foldl_snd
    | with_reducible intro _ | split | dsimp only | (refine keeps_mk ?_ ?_ ?_ ?_ ?_ <;> first | exact id | skip)

theorem traceHoldEnd_keeps {σ : State} (s : State) (r : Nat) (w : Wait) (hs : Keeps σ s) :
    Keeps σ (traceHoldEnd s r w) := by
  unfold traceHoldEnd
  iterate 60 all_goals try first
    | with_reducible assumption | with_reducible apply trace_keeps | with_reducible apply raise_keeps | with_reducible apply raiseBit_keeps | with_reducible apply markRaised_keeps | with_reducible apply keeps_ite | with_reducible apply keeps_foldl | with_reducible apply keeps_foldl_fst | with_reducible apply keeps_foldl_snd
    | intro _ | split | dsimp only | (refine keeps_mk ?_ ?_ ?_ ?_ ?_ <;> first | exact id | skip)

theorem execHoldResume_keeps {σ : State} (r : Nat) (s : State) (hs : Keeps σ s) :
    KeepsOut σ (execHoldResume r s) := by
  unfold execHoldResume
  iterate 60 all_goals try first
    | with_reducible assumption | with_reducible exact keepsOut_refused _ | with_reducible apply keepsOut_next | with_reducible apply advance_keeps | with_reducible apply modRegion_keeps | with_reducible apply traceHoldEnd_keeps | with_reducible apply raise_keeps | with_reducible apply raiseBit_keeps | with_reducible apply markRaised_keeps | with_reducible apply keeps_ite | with_reducible apply keepsOut_ite | with_reducible apply keeps_foldl | with_reducible apply keeps_foldl_fst | with_reducible apply keeps_foldl_snd
    | with_reducible intro _ | split | dsimp only | (refine keeps_mk ?_ ?_ ?_ ?_ ?_ <;> first | exact id | skip)

theorem idle_keeps {σ : State} (s : State) (hs : Keeps σ s) :
    Keeps σ (idle s) := by
  unfold idle
  iterate 60 all_goals try first
    | with_reducible assumption | with_reducible apply linksSettle_keeps | with_reducible apply tclk_keeps | with_reducible apply raise_keeps | with_reducible apply raiseBit_keeps | with_reducible apply markRaised_keeps | with_reducible apply keeps_ite | with_reducible apply keeps_foldl | with_reducible apply keeps_foldl_fst | with_reducible apply keeps_foldl_snd
    | intro _ | split | dsimp only | (refine keeps_mk ?_ ?_ ?_ ?_ ?_ <;> first | exact id | skip)

end Sys2Proof.Machine
end

