-- ==== Sys2Proof/Laws/KeepsBurinOps.lean ====
section
/-! SUPPORT. What every operation of Machine/BurinOps.lean keeps. -/

namespace Sys2Proof.Machine

theorem burinDo_keeps {σ : State} (s : State) (b : Nat) (f : Burin → Burin) (hs : Keeps σ s) :
    Keeps σ (burinDo s b f) := by
  unfold burinDo
  iterate 60 all_goals try first
    | with_reducible assumption | with_reducible apply putBurin_keeps | with_reducible apply raise_keeps | with_reducible apply raiseBit_keeps | with_reducible apply markRaised_keeps | with_reducible apply keeps_ite | with_reducible apply keeps_foldl | with_reducible apply keeps_foldl_fst | with_reducible apply keeps_foldl_snd
    | intro _ | split | dsimp only | (refine keeps_mk ?_ ?_ ?_ ?_ ?_ <;> first | exact id | skip)

theorem burinFault_keeps {σ : State} (s : State) (b : Nat) (code : Nat) (w : Nat) (addr : Nat) (hs : Keeps σ s) :
    Keeps σ (burinFault s b code w addr) := by
  unfold burinFault
  iterate 60 all_goals try first
    | with_reducible assumption | with_reducible apply jobFault_keeps | with_reducible apply raise_keeps | with_reducible apply raiseBit_keeps | with_reducible apply markRaised_keeps | with_reducible apply keeps_ite | with_reducible apply keeps_foldl | with_reducible apply keeps_foldl_fst | with_reducible apply keeps_foldl_snd
    | intro _ | split | dsimp only | (refine keeps_mk ?_ ?_ ?_ ?_ ?_ <;> first | exact id | skip)

theorem burinIllegal_keeps {σ : State} (s : State) (b : Nat) (w : Nat) (hs : Keeps σ s) :
    Keeps σ (burinIllegal s b w) := by
  unfold burinIllegal
  iterate 60 all_goals try first
    | with_reducible assumption | with_reducible apply burinFault_keeps | with_reducible apply raise_keeps | with_reducible apply raiseBit_keeps | with_reducible apply markRaised_keeps | with_reducible apply keeps_ite | with_reducible apply keeps_foldl | with_reducible apply keeps_foldl_fst | with_reducible apply keeps_foldl_snd
    | intro _ | split | dsimp only | (refine keeps_mk ?_ ?_ ?_ ?_ ?_ <;> first | exact id | skip)

theorem burinPoison_keeps {σ : State} (s : State) (b : Nat) (use : Nat) (hs : Keeps σ s) :
    Keeps σ (burinPoison s b use) := by
  unfold burinPoison
  iterate 60 all_goals try first
    | with_reducible assumption | with_reducible apply jobFault_keeps | with_reducible apply wr_keeps | with_reducible apply raise_keeps | with_reducible apply raiseBit_keeps | with_reducible apply markRaised_keeps | with_reducible apply keeps_ite | with_reducible apply keeps_foldl | with_reducible apply keeps_foldl_fst | with_reducible apply keeps_foldl_snd
    | intro _ | split | dsimp only | (refine keeps_mk ?_ ?_ ?_ ?_ ?_ <;> first | exact id | skip)

theorem aluRR_keeps {σ : State} (s : State) (b : Nat) (d : Nat) (a : Nat) (c : Nat) (f : Word → Word → Word) (hs : Keeps σ s) :
    Keeps σ (aluRR s b d a c f) := by
  unfold aluRR
  iterate 60 all_goals try first
    | with_reducible assumption | with_reducible apply burinDo_keeps | with_reducible apply raise_keeps | with_reducible apply raiseBit_keeps | with_reducible apply markRaised_keeps | with_reducible apply keeps_ite | with_reducible apply keeps_foldl | with_reducible apply keeps_foldl_fst | with_reducible apply keeps_foldl_snd
    | intro _ | split | dsimp only | (refine keeps_mk ?_ ?_ ?_ ?_ ?_ <;> first | exact id | skip)

theorem aluRI_keeps {σ : State} (s : State) (b : Nat) (d : Nat) (a : Nat) (f : Word → Word) (hs : Keeps σ s) :
    Keeps σ (aluRI s b d a f) := by
  unfold aluRI
  iterate 60 all_goals try first
    | with_reducible assumption | with_reducible apply burinDo_keeps | with_reducible apply raise_keeps | with_reducible apply raiseBit_keeps | with_reducible apply markRaised_keeps | with_reducible apply keeps_ite | with_reducible apply keeps_foldl | with_reducible apply keeps_foldl_fst | with_reducible apply keeps_foldl_snd
    | intro _ | split | dsimp only | (refine keeps_mk ?_ ?_ ?_ ?_ ?_ <;> first | exact id | skip)

theorem shiftI_keeps {σ : State} (s : State) (b : Nat) (op : Nat) (d : Nat) (a : Nat) (imm : Nat) (f : Word → Nat → Word) (hs : Keeps σ s) :
    Keeps σ (shiftI s b op d a imm f) := by
  unfold shiftI
  iterate 60 all_goals try first
    | with_reducible assumption | with_reducible apply burinIllegal_keeps | with_reducible apply aluRI_keeps | with_reducible apply raise_keeps | with_reducible apply raiseBit_keeps | with_reducible apply markRaised_keeps | with_reducible apply keeps_ite | with_reducible apply keeps_foldl | with_reducible apply keeps_foldl_fst | with_reducible apply keeps_foldl_snd
    | intro _ | split | dsimp only | (refine keeps_mk ?_ ?_ ?_ ?_ ?_ <;> first | exact id | skip)

theorem localErrors_keeps {σ : State} (s : State) (b : Nat) (ue : Bool) (ce : Bool) (addr : Nat) (hs : Keeps σ s) :
    Keeps σ (localErrors s b ue ce addr) := by
  unfold localErrors
  iterate 60 all_goals try first
    | with_reducible assumption | with_reducible apply ueAt_keeps | with_reducible apply ceAt_keeps | with_reducible apply raise_keeps | with_reducible apply raiseBit_keeps | with_reducible apply markRaised_keeps | with_reducible apply keeps_ite | with_reducible apply keeps_foldl | with_reducible apply keeps_foldl_fst | with_reducible apply keeps_foldl_snd
    | intro _ | split | dsimp only | (refine keeps_mk ?_ ?_ ?_ ?_ ?_ <;> first | exact id | skip)

theorem loadX_keeps {σ : State} (s : State) (b : Nat) (op : Nat) (d : Nat) (a : Nat) (imm : Nat) (n : Nat) (ue : Bool) (ce : Bool) (f : Nat → Word) (hs : Keeps σ s) :
    Keeps σ (loadX s b op d a imm n ue ce f) := by
  unfold loadX
  iterate 60 all_goals try first
    | with_reducible assumption | with_reducible apply burinPoison_keeps | with_reducible apply burinFault_keeps | with_reducible apply putBurin_keeps | with_reducible apply localErrors_keeps | with_reducible apply raise_keeps | with_reducible apply raiseBit_keeps | with_reducible apply markRaised_keeps | with_reducible apply keeps_ite | with_reducible apply keeps_foldl | with_reducible apply keeps_foldl_fst | with_reducible apply keeps_foldl_snd
    | intro _ | split | dsimp only | (refine keeps_mk ?_ ?_ ?_ ?_ ?_ <;> first | exact id | skip)

theorem storeX_keeps {σ : State} (s : State) (b : Nat) (op : Nat) (d : Nat) (a : Nat) (imm : Nat) (n : Nat) (ue : Bool) (ce : Bool) (hs : Keeps σ s) :
    Keeps σ (storeX s b op d a imm n ue ce) := by
  unfold storeX
  iterate 60 all_goals try first
    | with_reducible assumption | with_reducible apply burinPoison_keeps | with_reducible apply burinFault_keeps | with_reducible apply putBurin_keeps | with_reducible apply localErrors_keeps | with_reducible apply raise_keeps | with_reducible apply raiseBit_keeps | with_reducible apply markRaised_keeps | with_reducible apply keeps_ite | with_reducible apply keeps_foldl | with_reducible apply keeps_foldl_fst | with_reducible apply keeps_foldl_snd
    | intro _ | split | dsimp only | (refine keeps_mk ?_ ?_ ?_ ?_ ?_ <;> first | exact id | skip)

theorem goTo_keeps {σ : State} (s : State) (b : Nat) (w : Nat) (t : Int) (f : Burin → Burin) (hs : Keeps σ s) :
    Keeps σ (goTo s b w t f) := by
  unfold goTo
  iterate 60 all_goals try first
    | with_reducible assumption | with_reducible apply burinFault_keeps | with_reducible apply putBurin_keeps | with_reducible apply raise_keeps | with_reducible apply raiseBit_keeps | with_reducible apply markRaised_keeps | with_reducible apply keeps_ite | with_reducible apply keeps_foldl | with_reducible apply keeps_foldl_fst | with_reducible apply keeps_foldl_snd
    | intro _ | split | dsimp only | (refine keeps_mk ?_ ?_ ?_ ?_ ?_ <;> first | exact id | skip)

theorem branch_keeps {σ : State} (s : State) (b : Nat) (op : Nat) (d : Nat) (a : Nat) (imm : Nat) (f : Word → Word → Bool) (hs : Keeps σ s) :
    Keeps σ (branch s b op d a imm f) := by
  unfold branch
  iterate 60 all_goals try first
    | with_reducible assumption | with_reducible apply burinPoison_keeps | with_reducible apply goTo_keeps | with_reducible apply putBurin_keeps | with_reducible apply raise_keeps | with_reducible apply raiseBit_keeps | with_reducible apply markRaised_keeps | with_reducible apply keeps_ite | with_reducible apply keeps_foldl | with_reducible apply keeps_foldl_fst | with_reducible apply keeps_foldl_snd
    | intro _ | split | dsimp only | (refine keeps_mk ?_ ?_ ?_ ?_ ?_ <;> first | exact id | skip)

theorem vecDo_keeps {σ : State} (s : State) (b : Nat) (w : Nat) (ew : Nat) (m : Nat) (ok : Bool) (f : Burin → State) (hs : Keeps σ s) (hf : ∀ a0, Keeps σ (f a0)) :
    Keeps σ (vecDo s b w ew m ok f) := by
  unfold vecDo
  iterate 60 all_goals try first
    | with_reducible assumption | with_reducible apply hf | with_reducible apply burinIllegal_keeps | with_reducible apply burinPoison_keeps | with_reducible apply raise_keeps | with_reducible apply raiseBit_keeps | with_reducible apply markRaised_keeps | with_reducible apply keeps_ite | with_reducible apply keeps_foldl | with_reducible apply keeps_foldl_fst | with_reducible apply keeps_foldl_snd
    | intro _ | split | dsimp only | (refine keeps_mk ?_ ?_ ?_ ?_ ?_ <;> first | exact id | skip)

theorem vecWrite_keeps {σ : State} (s : State) (b : Nat) (ew : Nat) (m : Nat) (vd : Nat) (l : List Nat) (bad : Bool) (hs : Keeps σ s) :
    Keeps σ (vecWrite s b ew m vd l bad) := by
  unfold vecWrite
  iterate 60 all_goals try first
    | with_reducible assumption | with_reducible apply putBurin_keeps | with_reducible apply raise_keeps | with_reducible apply raiseBit_keeps | with_reducible apply markRaised_keeps | with_reducible apply keeps_ite | with_reducible apply keeps_foldl | with_reducible apply keeps_foldl_fst | with_reducible apply keeps_foldl_snd
    | intro _ | split | dsimp only | (refine keeps_mk ?_ ?_ ?_ ?_ ?_ <;> first | exact id | skip)

theorem vecInt_keeps {σ : State} (s : State) (b : Nat) (vfn : Nat) (vd : Nat) (va : Nat) (vb : Nat) (ew : Nat) (m : Nat) (f : Nat → Nat → Nat → Nat) (hs : Keeps σ s) :
    Keeps σ (vecInt s b vfn vd va vb ew m f) := by
  unfold vecInt
  iterate 60 all_goals try first
    | with_reducible assumption | with_reducible apply vecDo_keeps | with_reducible apply vecWrite_keeps | with_reducible apply raise_keeps | with_reducible apply raiseBit_keeps | with_reducible apply markRaised_keeps | with_reducible apply keeps_ite | with_reducible apply keeps_foldl | with_reducible apply keeps_foldl_fst | with_reducible apply keeps_foldl_snd
    | intro _ | split | dsimp only | (refine keeps_mk ?_ ?_ ?_ ?_ ?_ <;> first | exact id | skip)

theorem maskWrite_keeps {σ : State} (s : State) (b : Nat) (ew : Nat) (m : Nat) (vd : Nat) (p : Nat → Bool) (bad : Bool) (hs : Keeps σ s) :
    Keeps σ (maskWrite s b ew m vd p bad) := by
  unfold maskWrite
  iterate 60 all_goals try first
    | with_reducible assumption | with_reducible apply putBurin_keeps | with_reducible apply raise_keeps | with_reducible apply raiseBit_keeps | with_reducible apply markRaised_keeps | with_reducible apply keeps_ite | with_reducible apply keeps_foldl | with_reducible apply keeps_foldl_fst | with_reducible apply keeps_foldl_snd
    | intro _ | split | dsimp only | (refine keeps_mk ?_ ?_ ?_ ?_ ?_ <;> first | exact id | skip)

theorem vecFloat_keeps {σ : State} (s : State) (b : Nat) (vfn : Nat) (vd : Nat) (va : Nat) (vb : Nat) (ew : Nat) (m : Nat) (f : Fmt → Nat → Nat → Nat → Nat → Arith Nat) (reads : Burin → Bool) (hs : Keeps σ s) :
    KeepsOut σ (vecFloat s b vfn vd va vb ew m f reads) := by
  unfold vecFloat
  iterate 60 all_goals try first
    | with_reducible assumption | with_reducible exact keepsOut_refused _ | with_reducible apply keepsOut_next | with_reducible apply vecDo_keeps | with_reducible apply vecWrite_keeps | with_reducible apply putBurin_keeps | with_reducible apply raise_keeps | with_reducible apply raiseBit_keeps | with_reducible apply markRaised_keeps | with_reducible apply keeps_ite | with_reducible apply keepsOut_ite | with_reducible apply keeps_foldl | with_reducible apply keeps_foldl_fst | with_reducible apply keeps_foldl_snd
    | with_reducible intro _ | split | dsimp only | (refine keeps_mk ?_ ?_ ?_ ?_ ?_ <;> first | exact id | skip)

end Sys2Proof.Machine
end

