-- ==== Sys2Proof/Laws/KeepsVector.lean ====
section
/-! SUPPORT. What every operation of Machine/Vector.lean keeps. -/

namespace Sys2Proof.Machine

theorem vecCmp_keeps {σ : State} (s : State) (b : Nat) (vfn : Nat) (vd : Nat) (va : Nat) (vb : Nat) (ew : Nat) (m : Nat) (f : Nat → Nat → Nat → Bool) (hs : Keeps σ s) :
    Keeps σ (vecCmp s b vfn vd va vb ew m f) := by
  unfold vecCmp
  iterate 60 all_goals try first
    | with_reducible assumption | with_reducible apply vecDo_keeps | with_reducible apply maskWrite_keeps | with_reducible apply raise_keeps | with_reducible apply raiseBit_keeps | with_reducible apply markRaised_keeps | with_reducible apply keeps_ite | with_reducible apply keeps_foldl | with_reducible apply keeps_foldl_fst | with_reducible apply keeps_foldl_snd
    | intro _ | split | dsimp only | (refine keeps_mk ?_ ?_ ?_ ?_ ?_ <;> first | exact id | skip)

theorem vecFloatCmp_keeps {σ : State} (s : State) (b : Nat) (vfn : Nat) (vd : Nat) (va : Nat) (vb : Nat) (ew : Nat) (m : Nat) (f : Fmt → Nat → Nat → Bool) (hs : Keeps σ s) :
    KeepsOut σ (vecFloatCmp s b vfn vd va vb ew m f) := by
  unfold vecFloatCmp
  iterate 60 all_goals try first
    | with_reducible assumption | with_reducible exact keepsOut_refused _ | with_reducible apply keepsOut_next | with_reducible apply vecDo_keeps | with_reducible apply maskWrite_keeps | with_reducible apply putBurin_keeps | with_reducible apply raise_keeps | with_reducible apply raiseBit_keeps | with_reducible apply markRaised_keeps | with_reducible apply keeps_ite | with_reducible apply keepsOut_ite | with_reducible apply keeps_foldl | with_reducible apply keeps_foldl_fst | with_reducible apply keeps_foldl_snd
    | with_reducible intro _ | split | dsimp only | (refine keeps_mk ?_ ?_ ?_ ?_ ?_ <;> first | exact id | skip)

theorem vecConvert_keeps {σ : State} (s : State) (b : Nat) (vfn : Nat) (vd : Nat) (va : Nat) (vb : Nat) (ew : Nat) (m : Nat) (src : Nat) (ok : Bool) (f : Nat → Nat → Arith Nat) (hs : Keeps σ s) :
    KeepsOut σ (vecConvert s b vfn vd va vb ew m src ok f) := by
  unfold vecConvert
  iterate 60 all_goals try first
    | with_reducible assumption | with_reducible exact keepsOut_refused _ | with_reducible apply keepsOut_next | with_reducible apply vecDo_keeps | with_reducible apply vecWrite_keeps | with_reducible apply putBurin_keeps | with_reducible apply raise_keeps | with_reducible apply raiseBit_keeps | with_reducible apply markRaised_keeps | with_reducible apply keeps_ite | with_reducible apply keepsOut_ite | with_reducible apply keeps_foldl | with_reducible apply keeps_foldl_fst | with_reducible apply keeps_foldl_snd
    | with_reducible intro _ | split | dsimp only | (refine keeps_mk ?_ ?_ ?_ ?_ ?_ <;> first | exact id | skip)

theorem execVadd_keeps {σ : State} (b : Nat) (vd : Nat) (va : Nat) (vb : Nat) (ew : Nat) (m : Nat) (s : State) (hs : Keeps σ s) :
    KeepsOut σ (execVadd b vd va vb ew m s) := by
  unfold execVadd
  iterate 60 all_goals try first
    | with_reducible assumption | with_reducible exact keepsOut_refused _ | with_reducible apply keepsOut_next | with_reducible apply vecInt_keeps | with_reducible apply raise_keeps | with_reducible apply raiseBit_keeps | with_reducible apply markRaised_keeps | with_reducible apply keeps_ite | with_reducible apply keepsOut_ite | with_reducible apply keeps_foldl | with_reducible apply keeps_foldl_fst | with_reducible apply keeps_foldl_snd
    | with_reducible intro _ | split | dsimp only | (refine keeps_mk ?_ ?_ ?_ ?_ ?_ <;> first | exact id | skip)

theorem execVsub_keeps {σ : State} (b : Nat) (vd : Nat) (va : Nat) (vb : Nat) (ew : Nat) (m : Nat) (s : State) (hs : Keeps σ s) :
    KeepsOut σ (execVsub b vd va vb ew m s) := by
  unfold execVsub
  iterate 60 all_goals try first
    | with_reducible assumption | with_reducible exact keepsOut_refused _ | with_reducible apply keepsOut_next | with_reducible apply vecInt_keeps | with_reducible apply raise_keeps | with_reducible apply raiseBit_keeps | with_reducible apply markRaised_keeps | with_reducible apply keeps_ite | with_reducible apply keepsOut_ite | with_reducible apply keeps_foldl | with_reducible apply keeps_foldl_fst | with_reducible apply keeps_foldl_snd
    | with_reducible intro _ | split | dsimp only | (refine keeps_mk ?_ ?_ ?_ ?_ ?_ <;> first | exact id | skip)

theorem execVmul_keeps {σ : State} (b : Nat) (vd : Nat) (va : Nat) (vb : Nat) (ew : Nat) (m : Nat) (s : State) (hs : Keeps σ s) :
    KeepsOut σ (execVmul b vd va vb ew m s) := by
  unfold execVmul
  iterate 60 all_goals try first
    | with_reducible assumption | with_reducible exact keepsOut_refused _ | with_reducible apply keepsOut_next | with_reducible apply vecInt_keeps | with_reducible apply raise_keeps | with_reducible apply raiseBit_keeps | with_reducible apply markRaised_keeps | with_reducible apply keeps_ite | with_reducible apply keepsOut_ite | with_reducible apply keeps_foldl | with_reducible apply keeps_foldl_fst | with_reducible apply keeps_foldl_snd
    | with_reducible intro _ | split | dsimp only | (refine keeps_mk ?_ ?_ ?_ ?_ ?_ <;> first | exact id | skip)

theorem execVmin_keeps {σ : State} (b : Nat) (vd : Nat) (va : Nat) (vb : Nat) (ew : Nat) (m : Nat) (s : State) (hs : Keeps σ s) :
    KeepsOut σ (execVmin b vd va vb ew m s) := by
  unfold execVmin
  iterate 60 all_goals try first
    | with_reducible assumption | with_reducible exact keepsOut_refused _ | with_reducible apply keepsOut_next | with_reducible apply vecInt_keeps | with_reducible apply raise_keeps | with_reducible apply raiseBit_keeps | with_reducible apply markRaised_keeps | with_reducible apply keeps_ite | with_reducible apply keepsOut_ite | with_reducible apply keeps_foldl | with_reducible apply keeps_foldl_fst | with_reducible apply keeps_foldl_snd
    | with_reducible intro _ | split | dsimp only | (refine keeps_mk ?_ ?_ ?_ ?_ ?_ <;> first | exact id | skip)

theorem execVmax_keeps {σ : State} (b : Nat) (vd : Nat) (va : Nat) (vb : Nat) (ew : Nat) (m : Nat) (s : State) (hs : Keeps σ s) :
    KeepsOut σ (execVmax b vd va vb ew m s) := by
  unfold execVmax
  iterate 60 all_goals try first
    | with_reducible assumption | with_reducible exact keepsOut_refused _ | with_reducible apply keepsOut_next | with_reducible apply vecInt_keeps | with_reducible apply raise_keeps | with_reducible apply raiseBit_keeps | with_reducible apply markRaised_keeps | with_reducible apply keeps_ite | with_reducible apply keepsOut_ite | with_reducible apply keeps_foldl | with_reducible apply keeps_foldl_fst | with_reducible apply keeps_foldl_snd
    | with_reducible intro _ | split | dsimp only | (refine keeps_mk ?_ ?_ ?_ ?_ ?_ <;> first | exact id | skip)

theorem execVand_keeps {σ : State} (b : Nat) (vd : Nat) (va : Nat) (vb : Nat) (ew : Nat) (m : Nat) (s : State) (hs : Keeps σ s) :
    KeepsOut σ (execVand b vd va vb ew m s) := by
  unfold execVand
  iterate 60 all_goals try first
    | with_reducible assumption | with_reducible exact keepsOut_refused _ | with_reducible apply keepsOut_next | with_reducible apply vecInt_keeps | with_reducible apply raise_keeps | with_reducible apply raiseBit_keeps | with_reducible apply markRaised_keeps | with_reducible apply keeps_ite | with_reducible apply keepsOut_ite | with_reducible apply keeps_foldl | with_reducible apply keeps_foldl_fst | with_reducible apply keeps_foldl_snd
    | with_reducible intro _ | split | dsimp only | (refine keeps_mk ?_ ?_ ?_ ?_ ?_ <;> first | exact id | skip)

theorem execVor_keeps {σ : State} (b : Nat) (vd : Nat) (va : Nat) (vb : Nat) (ew : Nat) (m : Nat) (s : State) (hs : Keeps σ s) :
    KeepsOut σ (execVor b vd va vb ew m s) := by
  unfold execVor
  iterate 60 all_goals try first
    | with_reducible assumption | with_reducible exact keepsOut_refused _ | with_reducible apply keepsOut_next | with_reducible apply vecInt_keeps | with_reducible apply raise_keeps | with_reducible apply raiseBit_keeps | with_reducible apply markRaised_keeps | with_reducible apply keeps_ite | with_reducible apply keepsOut_ite | with_reducible apply keeps_foldl | with_reducible apply keeps_foldl_fst | with_reducible apply keeps_foldl_snd
    | with_reducible intro _ | split | dsimp only | (refine keeps_mk ?_ ?_ ?_ ?_ ?_ <;> first | exact id | skip)

theorem execVxor_keeps {σ : State} (b : Nat) (vd : Nat) (va : Nat) (vb : Nat) (ew : Nat) (m : Nat) (s : State) (hs : Keeps σ s) :
    KeepsOut σ (execVxor b vd va vb ew m s) := by
  unfold execVxor
  iterate 60 all_goals try first
    | with_reducible assumption | with_reducible exact keepsOut_refused _ | with_reducible apply keepsOut_next | with_reducible apply vecInt_keeps | with_reducible apply raise_keeps | with_reducible apply raiseBit_keeps | with_reducible apply markRaised_keeps | with_reducible apply keeps_ite | with_reducible apply keepsOut_ite | with_reducible apply keeps_foldl | with_reducible apply keeps_foldl_fst | with_reducible apply keeps_foldl_snd
    | with_reducible intro _ | split | dsimp only | (refine keeps_mk ?_ ?_ ?_ ?_ ?_ <;> first | exact id | skip)

theorem execVsll_keeps {σ : State} (b : Nat) (vd : Nat) (va : Nat) (vb : Nat) (ew : Nat) (m : Nat) (s : State) (hs : Keeps σ s) :
    KeepsOut σ (execVsll b vd va vb ew m s) := by
  unfold execVsll
  iterate 60 all_goals try first
    | with_reducible assumption | with_reducible exact keepsOut_refused _ | with_reducible apply keepsOut_next | with_reducible apply vecInt_keeps | with_reducible apply raise_keeps | with_reducible apply raiseBit_keeps | with_reducible apply markRaised_keeps | with_reducible apply keeps_ite | with_reducible apply keepsOut_ite | with_reducible apply keeps_foldl | with_reducible apply keeps_foldl_fst | with_reducible apply keeps_foldl_snd
    | with_reducible intro _ | split | dsimp only | (refine keeps_mk ?_ ?_ ?_ ?_ ?_ <;> first | exact id | skip)

theorem execVsrl_keeps {σ : State} (b : Nat) (vd : Nat) (va : Nat) (vb : Nat) (ew : Nat) (m : Nat) (s : State) (hs : Keeps σ s) :
    KeepsOut σ (execVsrl b vd va vb ew m s) := by
  unfold execVsrl
  iterate 60 all_goals try first
    | with_reducible assumption | with_reducible exact keepsOut_refused _ | with_reducible apply keepsOut_next | with_reducible apply vecInt_keeps | with_reducible apply raise_keeps | with_reducible apply raiseBit_keeps | with_reducible apply markRaised_keeps | with_reducible apply keeps_ite | with_reducible apply keepsOut_ite | with_reducible apply keeps_foldl | with_reducible apply keeps_foldl_fst | with_reducible apply keeps_foldl_snd
    | with_reducible intro _ | split | dsimp only | (refine keeps_mk ?_ ?_ ?_ ?_ ?_ <;> first | exact id | skip)

theorem execVsra_keeps {σ : State} (b : Nat) (vd : Nat) (va : Nat) (vb : Nat) (ew : Nat) (m : Nat) (s : State) (hs : Keeps σ s) :
    KeepsOut σ (execVsra b vd va vb ew m s) := by
  unfold execVsra
  iterate 60 all_goals try first
    | with_reducible assumption | with_reducible exact keepsOut_refused _ | with_reducible apply keepsOut_next | with_reducible apply vecInt_keeps | with_reducible apply raise_keeps | with_reducible apply raiseBit_keeps | with_reducible apply markRaised_keeps | with_reducible apply keeps_ite | with_reducible apply keepsOut_ite | with_reducible apply keeps_foldl | with_reducible apply keeps_foldl_fst | with_reducible apply keeps_foldl_snd
    | with_reducible intro _ | split | dsimp only | (refine keeps_mk ?_ ?_ ?_ ?_ ?_ <;> first | exact id | skip)

theorem execVsel_keeps {σ : State} (b : Nat) (vd : Nat) (va : Nat) (vb : Nat) (ew : Nat) (m : Nat) (s : State) (hs : Keeps σ s) :
    KeepsOut σ (execVsel b vd va vb ew m s) := by
  unfold execVsel
  iterate 60 all_goals try first
    | with_reducible assumption | with_reducible exact keepsOut_refused _ | with_reducible apply keepsOut_next | with_reducible apply vecDo_keeps | with_reducible apply vecWrite_keeps | with_reducible apply raise_keeps | with_reducible apply raiseBit_keeps | with_reducible apply markRaised_keeps | with_reducible apply keeps_ite | with_reducible apply keepsOut_ite | with_reducible apply keeps_foldl | with_reducible apply keeps_foldl_fst | with_reducible apply keeps_foldl_snd
    | with_reducible intro _ | split | dsimp only | (refine keeps_mk ?_ ?_ ?_ ?_ ?_ <;> first | exact id | skip)

theorem execVcmpeq_keeps {σ : State} (b : Nat) (vd : Nat) (va : Nat) (vb : Nat) (ew : Nat) (m : Nat) (s : State) (hs : Keeps σ s) :
    KeepsOut σ (execVcmpeq b vd va vb ew m s) := by
  unfold execVcmpeq
  iterate 60 all_goals try first
    | with_reducible assumption | with_reducible exact keepsOut_refused _ | with_reducible apply keepsOut_next | with_reducible apply vecCmp_keeps | with_reducible apply raise_keeps | with_reducible apply raiseBit_keeps | with_reducible apply markRaised_keeps | with_reducible apply keeps_ite | with_reducible apply keepsOut_ite | with_reducible apply keeps_foldl | with_reducible apply keeps_foldl_fst | with_reducible apply keeps_foldl_snd
    | with_reducible intro _ | split | dsimp only | (refine keeps_mk ?_ ?_ ?_ ?_ ?_ <;> first | exact id | skip)

theorem execVcmplt_keeps {σ : State} (b : Nat) (vd : Nat) (va : Nat) (vb : Nat) (ew : Nat) (m : Nat) (s : State) (hs : Keeps σ s) :
    KeepsOut σ (execVcmplt b vd va vb ew m s) := by
  unfold execVcmplt
  iterate 60 all_goals try first
    | with_reducible assumption | with_reducible exact keepsOut_refused _ | with_reducible apply keepsOut_next | with_reducible apply vecCmp_keeps | with_reducible apply raise_keeps | with_reducible apply raiseBit_keeps | with_reducible apply markRaised_keeps | with_reducible apply keeps_ite | with_reducible apply keepsOut_ite | with_reducible apply keeps_foldl | with_reducible apply keeps_foldl_fst | with_reducible apply keeps_foldl_snd
    | with_reducible intro _ | split | dsimp only | (refine keeps_mk ?_ ?_ ?_ ?_ ?_ <;> first | exact id | skip)

theorem execVfadd_keeps {σ : State} (b : Nat) (vd : Nat) (va : Nat) (vb : Nat) (ew : Nat) (m : Nat) (s : State) (hs : Keeps σ s) :
    KeepsOut σ (execVfadd b vd va vb ew m s) := by
  unfold execVfadd
  iterate 60 all_goals try first
    | with_reducible assumption | with_reducible exact keepsOut_refused _ | with_reducible apply keepsOut_next | with_reducible apply vecFloat_keeps | with_reducible apply raise_keeps | with_reducible apply raiseBit_keeps | with_reducible apply markRaised_keeps | with_reducible apply keeps_ite | with_reducible apply keepsOut_ite | with_reducible apply keeps_foldl | with_reducible apply keeps_foldl_fst | with_reducible apply keeps_foldl_snd
    | with_reducible intro _ | split | dsimp only | (refine keeps_mk ?_ ?_ ?_ ?_ ?_ <;> first | exact id | skip)

theorem execVfsub_keeps {σ : State} (b : Nat) (vd : Nat) (va : Nat) (vb : Nat) (ew : Nat) (m : Nat) (s : State) (hs : Keeps σ s) :
    KeepsOut σ (execVfsub b vd va vb ew m s) := by
  unfold execVfsub
  iterate 60 all_goals try first
    | with_reducible assumption | with_reducible exact keepsOut_refused _ | with_reducible apply keepsOut_next | with_reducible apply vecFloat_keeps | with_reducible apply raise_keeps | with_reducible apply raiseBit_keeps | with_reducible apply markRaised_keeps | with_reducible apply keeps_ite | with_reducible apply keepsOut_ite | with_reducible apply keeps_foldl | with_reducible apply keeps_foldl_fst | with_reducible apply keeps_foldl_snd
    | with_reducible intro _ | split | dsimp only | (refine keeps_mk ?_ ?_ ?_ ?_ ?_ <;> first | exact id | skip)

theorem execVfmul_keeps {σ : State} (b : Nat) (vd : Nat) (va : Nat) (vb : Nat) (ew : Nat) (m : Nat) (s : State) (hs : Keeps σ s) :
    KeepsOut σ (execVfmul b vd va vb ew m s) := by
  unfold execVfmul
  iterate 60 all_goals try first
    | with_reducible assumption | with_reducible exact keepsOut_refused _ | with_reducible apply keepsOut_next | with_reducible apply vecFloat_keeps | with_reducible apply raise_keeps | with_reducible apply raiseBit_keeps | with_reducible apply markRaised_keeps | with_reducible apply keeps_ite | with_reducible apply keepsOut_ite | with_reducible apply keeps_foldl | with_reducible apply keeps_foldl_fst | with_reducible apply keeps_foldl_snd
    | with_reducible intro _ | split | dsimp only | (refine keeps_mk ?_ ?_ ?_ ?_ ?_ <;> first | exact id | skip)

theorem execVfdiv_keeps {σ : State} (b : Nat) (vd : Nat) (va : Nat) (vb : Nat) (ew : Nat) (m : Nat) (s : State) (hs : Keeps σ s) :
    KeepsOut σ (execVfdiv b vd va vb ew m s) := by
  unfold execVfdiv
  iterate 60 all_goals try first
    | with_reducible assumption | with_reducible exact keepsOut_refused _ | with_reducible apply keepsOut_next | with_reducible apply vecFloat_keeps | with_reducible apply raise_keeps | with_reducible apply raiseBit_keeps | with_reducible apply markRaised_keeps | with_reducible apply keeps_ite | with_reducible apply keepsOut_ite | with_reducible apply keeps_foldl | with_reducible apply keeps_foldl_fst | with_reducible apply keeps_foldl_snd
    | with_reducible intro _ | split | dsimp only | (refine keeps_mk ?_ ?_ ?_ ?_ ?_ <;> first | exact id | skip)

theorem execVfsqrt_keeps {σ : State} (b : Nat) (vd : Nat) (va : Nat) (vb : Nat) (ew : Nat) (m : Nat) (s : State) (hs : Keeps σ s) :
    KeepsOut σ (execVfsqrt b vd va vb ew m s) := by
  unfold execVfsqrt
  iterate 60 all_goals try first
    | with_reducible assumption | with_reducible exact keepsOut_refused _ | with_reducible apply keepsOut_next | with_reducible apply vecFloat_keeps | with_reducible apply raise_keeps | with_reducible apply raiseBit_keeps | with_reducible apply markRaised_keeps | with_reducible apply keeps_ite | with_reducible apply keepsOut_ite | with_reducible apply keeps_foldl | with_reducible apply keeps_foldl_fst | with_reducible apply keeps_foldl_snd
    | with_reducible intro _ | split | dsimp only | (refine keeps_mk ?_ ?_ ?_ ?_ ?_ <;> first | exact id | skip)

theorem execVfma_keeps {σ : State} (b : Nat) (vd : Nat) (va : Nat) (vb : Nat) (ew : Nat) (m : Nat) (s : State) (hs : Keeps σ s) :
    KeepsOut σ (execVfma b vd va vb ew m s) := by
  unfold execVfma
  iterate 60 all_goals try first
    | with_reducible assumption | with_reducible exact keepsOut_refused _ | with_reducible apply keepsOut_next | with_reducible apply vecFloat_keeps | with_reducible apply raise_keeps | with_reducible apply raiseBit_keeps | with_reducible apply markRaised_keeps | with_reducible apply keeps_ite | with_reducible apply keepsOut_ite | with_reducible apply keeps_foldl | with_reducible apply keeps_foldl_fst | with_reducible apply keeps_foldl_snd
    | with_reducible intro _ | split | dsimp only | (refine keeps_mk ?_ ?_ ?_ ?_ ?_ <;> first | exact id | skip)

theorem execVfmin_keeps {σ : State} (b : Nat) (vd : Nat) (va : Nat) (vb : Nat) (ew : Nat) (m : Nat) (s : State) (hs : Keeps σ s) :
    KeepsOut σ (execVfmin b vd va vb ew m s) := by
  unfold execVfmin
  iterate 60 all_goals try first
    | with_reducible assumption | with_reducible exact keepsOut_refused _ | with_reducible apply keepsOut_next | with_reducible apply vecFloat_keeps | with_reducible apply raise_keeps | with_reducible apply raiseBit_keeps | with_reducible apply markRaised_keeps | with_reducible apply keeps_ite | with_reducible apply keepsOut_ite | with_reducible apply keeps_foldl | with_reducible apply keeps_foldl_fst | with_reducible apply keeps_foldl_snd
    | with_reducible intro _ | split | dsimp only | (refine keeps_mk ?_ ?_ ?_ ?_ ?_ <;> first | exact id | skip)

theorem execVfmax_keeps {σ : State} (b : Nat) (vd : Nat) (va : Nat) (vb : Nat) (ew : Nat) (m : Nat) (s : State) (hs : Keeps σ s) :
    KeepsOut σ (execVfmax b vd va vb ew m s) := by
  unfold execVfmax
  iterate 60 all_goals try first
    | with_reducible assumption | with_reducible exact keepsOut_refused _ | with_reducible apply keepsOut_next | with_reducible apply vecFloat_keeps | with_reducible apply raise_keeps | with_reducible apply raiseBit_keeps | with_reducible apply markRaised_keeps | with_reducible apply keeps_ite | with_reducible apply keepsOut_ite | with_reducible apply keeps_foldl | with_reducible apply keeps_foldl_fst | with_reducible apply keeps_foldl_snd
    | with_reducible intro _ | split | dsimp only | (refine keeps_mk ?_ ?_ ?_ ?_ ?_ <;> first | exact id | skip)

theorem execVfcmplt_keeps {σ : State} (b : Nat) (vd : Nat) (va : Nat) (vb : Nat) (ew : Nat) (m : Nat) (s : State) (hs : Keeps σ s) :
    KeepsOut σ (execVfcmplt b vd va vb ew m s) := by
  unfold execVfcmplt
  iterate 60 all_goals try first
    | with_reducible assumption | with_reducible exact keepsOut_refused _ | with_reducible apply keepsOut_next | with_reducible apply vecFloatCmp_keeps | with_reducible apply raise_keeps | with_reducible apply raiseBit_keeps | with_reducible apply markRaised_keeps | with_reducible apply keeps_ite | with_reducible apply keepsOut_ite | with_reducible apply keeps_foldl | with_reducible apply keeps_foldl_fst | with_reducible apply keeps_foldl_snd
    | with_reducible intro _ | split | dsimp only | (refine keeps_mk ?_ ?_ ?_ ?_ ?_ <;> first | exact id | skip)

theorem execVfcmpeq_keeps {σ : State} (b : Nat) (vd : Nat) (va : Nat) (vb : Nat) (ew : Nat) (m : Nat) (s : State) (hs : Keeps σ s) :
    KeepsOut σ (execVfcmpeq b vd va vb ew m s) := by
  unfold execVfcmpeq
  iterate 60 all_goals try first
    | with_reducible assumption | with_reducible exact keepsOut_refused _ | with_reducible apply keepsOut_next | with_reducible apply vecFloatCmp_keeps | with_reducible apply raise_keeps | with_reducible apply raiseBit_keeps | with_reducible apply markRaised_keeps | with_reducible apply keeps_ite | with_reducible apply keepsOut_ite | with_reducible apply keeps_foldl | with_reducible apply keeps_foldl_fst | with_reducible apply keeps_foldl_snd
    | with_reducible intro _ | split | dsimp only | (refine keeps_mk ?_ ?_ ?_ ?_ ?_ <;> first | exact id | skip)

theorem execVfcvt_keeps {σ : State} (b : Nat) (vd : Nat) (va : Nat) (vb : Nat) (ew : Nat) (m : Nat) (s : State) (hs : Keeps σ s) :
    KeepsOut σ (execVfcvt b vd va vb ew m s) := by
  unfold execVfcvt
  iterate 60 all_goals try first
    | with_reducible assumption | with_reducible exact keepsOut_refused _ | with_reducible apply keepsOut_next | with_reducible apply vecConvert_keeps | with_reducible apply raise_keeps | with_reducible apply raiseBit_keeps | with_reducible apply markRaised_keeps | with_reducible apply keeps_ite | with_reducible apply keepsOut_ite | with_reducible apply keeps_foldl | with_reducible apply keeps_foldl_fst | with_reducible apply keeps_foldl_snd
    | with_reducible intro _ | split | dsimp only | (refine keeps_mk ?_ ?_ ?_ ?_ ?_ <;> first | exact id | skip)

theorem execVftoi_keeps {σ : State} (b : Nat) (vd : Nat) (va : Nat) (vb : Nat) (ew : Nat) (m : Nat) (s : State) (hs : Keeps σ s) :
    KeepsOut σ (execVftoi b vd va vb ew m s) := by
  unfold execVftoi
  iterate 60 all_goals try first
    | with_reducible assumption | with_reducible exact keepsOut_refused _ | with_reducible apply keepsOut_next | with_reducible apply vecConvert_keeps | with_reducible apply raise_keeps | with_reducible apply raiseBit_keeps | with_reducible apply markRaised_keeps | with_reducible apply keeps_ite | with_reducible apply keepsOut_ite | with_reducible apply keeps_foldl | with_reducible apply keeps_foldl_fst | with_reducible apply keeps_foldl_snd
    | with_reducible intro _ | split | dsimp only | (refine keeps_mk ?_ ?_ ?_ ?_ ?_ <;> first | exact id | skip)

theorem execVitof_keeps {σ : State} (b : Nat) (vd : Nat) (va : Nat) (vb : Nat) (ew : Nat) (m : Nat) (s : State) (hs : Keeps σ s) :
    KeepsOut σ (execVitof b vd va vb ew m s) := by
  unfold execVitof
  iterate 60 all_goals try first
    | with_reducible assumption | with_reducible exact keepsOut_refused _ | with_reducible apply keepsOut_next | with_reducible apply vecConvert_keeps | with_reducible apply raise_keeps | with_reducible apply raiseBit_keeps | with_reducible apply markRaised_keeps | with_reducible apply keeps_ite | with_reducible apply keepsOut_ite | with_reducible apply keeps_foldl | with_reducible apply keeps_foldl_fst | with_reducible apply keeps_foldl_snd
    | with_reducible intro _ | split | dsimp only | (refine keeps_mk ?_ ?_ ?_ ?_ ?_ <;> first | exact id | skip)

theorem localErrorList_keeps {σ : State} (s : State) (b : Nat) (ue : List Nat) (ce : List Nat) (hs : Keeps σ s) :
    Keeps σ (localErrorList s b ue ce) := by
  unfold localErrorList
  iterate 60 all_goals try first
    | with_reducible assumption | with_reducible apply localErrors_keeps | with_reducible apply raise_keeps | with_reducible apply raiseBit_keeps | with_reducible apply markRaised_keeps | with_reducible apply keeps_ite | with_reducible apply keeps_foldl | with_reducible apply keeps_foldl_fst | with_reducible apply keeps_foldl_snd
    | intro _ | split | dsimp only | (refine keeps_mk ?_ ?_ ?_ ?_ ?_ <;> first | exact id | skip)

theorem execVld_keeps {σ : State} (b : Nat) (vd : Nat) (a : Nat) (imm : Nat) (ue : List Nat) (ce : List Nat) (s : State) (hs : Keeps σ s) :
    KeepsOut σ (execVld b vd a imm ue ce s) := by
  unfold execVld
  iterate 60 all_goals try first
    | with_reducible assumption | with_reducible exact keepsOut_refused _ | with_reducible apply keepsOut_next | with_reducible apply burinPoison_keeps | with_reducible apply burinFault_keeps | with_reducible apply putBurin_keeps | with_reducible apply localErrorList_keeps | with_reducible apply raise_keeps | with_reducible apply raiseBit_keeps | with_reducible apply markRaised_keeps | with_reducible apply keeps_ite | with_reducible apply keepsOut_ite | with_reducible apply keeps_foldl | with_reducible apply keeps_foldl_fst | with_reducible apply keeps_foldl_snd
    | with_reducible intro _ | split | dsimp only | (refine keeps_mk ?_ ?_ ?_ ?_ ?_ <;> first | exact id | skip)

theorem execVst_keeps {σ : State} (b : Nat) (vd : Nat) (a : Nat) (imm : Nat) (s : State) (hs : Keeps σ s) :
    KeepsOut σ (execVst b vd a imm s) := by
  unfold execVst
  iterate 60 all_goals try first
    | with_reducible assumption | with_reducible exact keepsOut_refused _ | with_reducible apply keepsOut_next | with_reducible apply burinPoison_keeps | with_reducible apply burinFault_keeps | with_reducible apply putBurin_keeps | with_reducible apply raise_keeps | with_reducible apply raiseBit_keeps | with_reducible apply markRaised_keeps | with_reducible apply keeps_ite | with_reducible apply keepsOut_ite | with_reducible apply keeps_foldl | with_reducible apply keeps_foldl_fst | with_reducible apply keeps_foldl_snd
    | with_reducible intro _ | split | dsimp only | (refine keeps_mk ?_ ?_ ?_ ?_ ?_ <;> first | exact id | skip)

theorem vxfer_keeps {σ : State} (s : State) (b : Nat) (d : Nat) (a : Nat) (c : Nat) (fn : Nat) (store : Bool) (f : Burin → Nat → Nat → Nat → State) (hs : Keeps σ s) (hf : ∀ a0 a1 a2 a3, Keeps σ (f a0 a1 a2 a3)) :
    Keeps σ (vxfer s b d a c fn store f) := by
  unfold vxfer
  iterate 60 all_goals try first
    | with_reducible assumption | with_reducible apply hf | with_reducible apply burinPoison_keeps | with_reducible apply burinFault_keeps | with_reducible apply jobFault_keeps | with_reducible apply raise_keeps | with_reducible apply raiseBit_keeps | with_reducible apply markRaised_keeps | with_reducible apply keeps_ite | with_reducible apply keeps_foldl | with_reducible apply keeps_foldl_fst | with_reducible apply keeps_foldl_snd
    | intro _ | split | dsimp only | (refine keeps_mk ?_ ?_ ?_ ?_ ?_ <;> first | exact id | skip)

theorem execVxferIn_keeps {σ : State} (b : Nat) (d : Nat) (a : Nat) (c : Nat) (e : MemErrs) (s : State) (hs : Keeps σ s) :
    KeepsOut σ (execVxferIn b d a c e s) := by
  unfold execVxferIn
  iterate 60 all_goals try first
    | with_reducible assumption | with_reducible exact keepsOut_refused _ | with_reducible apply keepsOut_next | with_reducible apply vxfer_keeps | with_reducible apply memErrors_keeps | with_reducible apply putBurin_keeps | with_reducible apply raise_keeps | with_reducible apply raiseBit_keeps | with_reducible apply markRaised_keeps | with_reducible apply keeps_ite | with_reducible apply keepsOut_ite | with_reducible apply keeps_foldl | with_reducible apply keeps_foldl_fst | with_reducible apply keeps_foldl_snd
    | with_reducible intro _ | split | dsimp only | (refine keeps_mk ?_ ?_ ?_ ?_ ?_ <;> first | exact id | skip)

theorem execVxferOut_keeps {σ : State} (b : Nat) (d : Nat) (a : Nat) (c : Nat) (ue : List Nat) (ce : List Nat) (s : State) (hs : Keeps σ s) :
    KeepsOut σ (execVxferOut b d a c ue ce s) := by
  unfold execVxferOut
  iterate 60 all_goals try first
    | with_reducible assumption | with_reducible exact keepsOut_refused _ | with_reducible apply keepsOut_next | with_reducible apply vxfer_keeps | with_reducible apply devWrite_keeps | with_reducible apply putBurin_keeps | with_reducible apply localErrorList_keeps | with_reducible apply raise_keeps | with_reducible apply raiseBit_keeps | with_reducible apply markRaised_keeps | with_reducible apply keeps_ite | with_reducible apply keepsOut_ite | with_reducible apply keeps_foldl | with_reducible apply keeps_foldl_fst | with_reducible apply keeps_foldl_snd
    | with_reducible intro _ | split | dsimp only | (refine keeps_mk ?_ ?_ ?_ ?_ ?_ <;> first | exact id | skip)

theorem execVbcast_keeps {σ : State} (b : Nat) (vd : Nat) (va : Nat) (vb : Nat) (ew : Nat) (m : Nat) (s : State) (hs : Keeps σ s) :
    KeepsOut σ (execVbcast b vd va vb ew m s) := by
  unfold execVbcast
  iterate 60 all_goals try first
    | with_reducible assumption | with_reducible exact keepsOut_refused _ | with_reducible apply keepsOut_next | with_reducible apply vecDo_keeps | with_reducible apply vecWrite_keeps | with_reducible apply raise_keeps | with_reducible apply raiseBit_keeps | with_reducible apply markRaised_keeps | with_reducible apply keeps_ite | with_reducible apply keepsOut_ite | with_reducible apply keeps_foldl | with_reducible apply keeps_foldl_fst | with_reducible apply keeps_foldl_snd
    | with_reducible intro _ | split | dsimp only | (refine keeps_mk ?_ ?_ ?_ ?_ ?_ <;> first | exact id | skip)

theorem execVext_keeps {σ : State} (b : Nat) (vd : Nat) (va : Nat) (vb : Nat) (ew : Nat) (m : Nat) (s : State) (hs : Keeps σ s) :
    KeepsOut σ (execVext b vd va vb ew m s) := by
  unfold execVext
  iterate 60 all_goals try first
    | with_reducible assumption | with_reducible exact keepsOut_refused _ | with_reducible apply keepsOut_next | with_reducible apply vecDo_keeps | with_reducible apply putBurin_keeps | with_reducible apply takeFree_keeps | with_reducible apply raise_keeps | with_reducible apply raiseBit_keeps | with_reducible apply markRaised_keeps | with_reducible apply keeps_ite | with_reducible apply keepsOut_ite | with_reducible apply keeps_foldl | with_reducible apply keeps_foldl_fst | with_reducible apply keeps_foldl_snd
    | with_reducible intro _ | split | dsimp only | (refine keeps_mk ?_ ?_ ?_ ?_ ?_ <;> first | exact id | skip)

theorem execVredi_keeps {σ : State} (b : Nat) (vd : Nat) (va : Nat) (vb : Nat) (ew : Nat) (m : Nat) (s : State) (hs : Keeps σ s) :
    KeepsOut σ (execVredi b vd va vb ew m s) := by
  unfold execVredi
  iterate 60 all_goals try first
    | with_reducible assumption | with_reducible exact keepsOut_refused _ | with_reducible apply keepsOut_next | with_reducible apply vecDo_keeps | with_reducible apply vecWrite_keeps | with_reducible apply raise_keeps | with_reducible apply raiseBit_keeps | with_reducible apply markRaised_keeps | with_reducible apply keeps_ite | with_reducible apply keepsOut_ite | with_reducible apply keeps_foldl | with_reducible apply keeps_foldl_fst | with_reducible apply keeps_foldl_snd
    | with_reducible intro _ | split | dsimp only | (refine keeps_mk ?_ ?_ ?_ ?_ ?_ <;> first | exact id | skip)

theorem execVredf_keeps {σ : State} (b : Nat) (vd : Nat) (va : Nat) (vb : Nat) (ew : Nat) (m : Nat) (s : State) (hs : Keeps σ s) :
    KeepsOut σ (execVredf b vd va vb ew m s) := by
  unfold execVredf
  iterate 60 all_goals try first
    | with_reducible assumption | with_reducible exact keepsOut_refused _ | with_reducible apply keepsOut_next | with_reducible apply vecDo_keeps | with_reducible apply vecWrite_keeps | with_reducible apply putBurin_keeps | with_reducible apply raise_keeps | with_reducible apply raiseBit_keeps | with_reducible apply markRaised_keeps | with_reducible apply keeps_ite | with_reducible apply keepsOut_ite | with_reducible apply keeps_foldl | with_reducible apply keeps_foldl_fst | with_reducible apply keeps_foldl_snd
    | with_reducible intro _ | split | dsimp only | (refine keeps_mk ?_ ?_ ?_ ?_ ?_ <;> first | exact id | skip)

end Sys2Proof.Machine
end

