-- ==== Sys2Proof/WellFormed.lean ====
section
/-! DEFINITION. Well-formed commands: every operand within the range that the part's fields and the events' values have. `exec` gives every command a
meaning; statements say where they ask for well-formedness. -/

namespace Sys2Proof

/-- `n` is below `k`. -/
def below (k n : Nat) : Bool := decide (n < k)

/-- A register number of five bits (06 R183). -/
def reg (n : Nat) : Bool := below 32 n

/-- The fields of a macro-instruction (06 R163). -/
def MacroW.wf (w : MacroW) : Bool :=
  below 4 w.rnd && [w.d0, w.d1, w.d2, w.d3, w.d4].all (below 64) && below 65536 w.rep && below (2 ^ 32) w.p1 && below (2 ^ 32) w.p0

/-- A half of device memory: an address of 52 bits, by 32 bytes (00 R16); from 2^48 on, one that a unit of 18 R467 behind its store holds. -/
def halfOk (h : Nat) : Bool := below (554 * 2 ^ 48) h && below (2 ^ 47) (h % 2 ^ 48)

def Hit.wf (h : Hit) : Bool := halfOk h.half && below 3 h.wrong && below 256 h.tag

def MemErrs.wf (e : MemErrs) : Bool := e.hits.all Hit.wf

/-- The parked state of a lane: one to eight rANS states (11 R311, R318). -/
def ParkIn.wf (x : ParkIn) : Bool :=
  below 3 x.err && (match x.coder with
    | none => true
    | some c => decide (0 < c.states.length) && below 9 c.states.length && c.states.all (fun y => decide (65536 ≤ y) && below (2 ^ 32) y) &&
      below (2 ^ 32) c.pos && below (2 ^ 32) c.words)

/-- A received video packet (21 R529). -/
def VideoPkt.wf (v : VideoPkt) : Bool :=
  below 128 v.pt && below (2 ^ 32) v.seq && below (2 ^ 32) v.ts && v.samples.all (fun x => below 3 x.1 && below 1024 x.2.2.2)

/-- A received audio packet (21 R530). -/
def AudioPkt.wf (v : AudioPkt) : Bool :=
  below 128 v.pt && below 65536 v.seq && below (2 ^ 32) v.ts && below 17 v.chans.length && v.chans.all (fun l => l.all (below (2 ^ 24)))

/-- Samples of timing monitors, as (position, cell, AGE_N) (02 R44). -/
def agesOk (l : List (Nat × Nat × Nat)) : Bool := l.all (fun x => below 8 x.1 && below 104 x.2.1 && below 8 x.2.2)

/-- What a host loader hands over (log entry 24). -/
def LoadIn.wf (x : LoadIn) : Bool :=
  agesOk x.ages && x.pkgs.all (fun y => below 128 y.1 && below (2 ^ 52) y.2.2) && x.headers.all (fun y => below 128 y.1) &&
    x.segCtx.all (fun y => below 256 y.1 && below 128 y.2) && x.outside.all (below 64) &&
    x.areas.all (fun y => below 128 y.ctx && below 10 y.role && below (2 ^ 52) y.addr && below (2 ^ 48) y.bytes && below (2 ^ 48) y.pitch) && (x.ue ++ x.ce).all (below (2 ^ 47)) &&
    x.beats.all (fun y => below 8 y.region && below 128 y.cell && below (2 ^ 52) y.addr)

/-- The fuses of a part (01 R31, 02 R47). -/
def FuseIn.wf (x : FuseIn) : Bool :=
  (below 8 x.fused || decide (x.fused = 15)) && decide (x.forges.length = 8) && x.forges.all (below 65536) &&
    x.speed.all (fun y => below 8 y.1 && below 104 y.2.1 && below 8 y.2.2) && below 256 x.stepClass

/-- A flash copy, where it is accepted (19 R494). -/
def flashOk (x : Option FlashIn) : Bool :=
  match x with
  | none => true
  | some y => below (2 ^ 32) y.fwLevel && below 65536 y.vendorId && below (2 ^ 32) y.subsysId

/-- What BIST finds (19 R494). -/
def BistIn.wf (x : BistIn) : Bool :=
  agesOk x.ages && x.forges.all (fun y => below 8 y.1 && below 16 y.2) && x.crucibles.all (below 8)

/-- A self-test run (19 R497). -/
def SelfRun.wf (x : SelfRun) : Bool := below 8 x.pos && decide (x.hallmark.length = 32)

/-- A flit as it arrives (15 R400). -/
def FlitIn.wf (x : FlitIn) : Bool :=
  below 4096 x.seq && below 4096 x.ack && below 64 x.credit && below 64 x.stream && below 16 x.beatsM1 && below 4 x.sidePos && below 65536 x.poison &&
    below (2 ^ 32) x.side && decide (x.payload.length = 512) && below (2 ^ 64) x.t4 && below (2 ^ 32) x.fec

/-- Every operand of the command is within its range. -/
def Instr.wf : Instr → Bool
  | .coldReset => true
  | .warmReset => true
  | .bootCtlWarmReset => true
  | .warmResetCmd => true
  | .railOutOfBand n => below 16 n
  | .bootPll _ => true
  | .bootFuse x => match x with
    | none => true
    | some y => y.wf
  | .bootFlash a b => flashOk a && flashOk b
  | .bootMemtrain fails => fails.all (below 48)
  | .bootBist x => x.wf
  | .bootSelftest runs other static uMin => runs.all SelfRun.wf && decide (other.length = 32) && below 256 static && below 256 uMin
  | .selftestTimeout n => below 8 n
  | .pllLock => true
  | .memPhy dev => below 48 dev
  | .hostLink ltssm => below 256 ltssm
  | .hostReadError what q idx _ _ => below 3 what && below 64 q && below (2 ^ 20) idx
  | .forgeFault n f unit cell => below 8 n && below 16 f && below 4 unit && below 256 cell
  | .regionFault n unit cell => below 8 n && below 5 unit && below 256 cell
  | .chipCtrl unit inst => below 6 unit && below 65536 inst
  | .registerWrite off size v => below 0x4000000 off && (decide (size = 4) || decide (size = 8)) && below (2 ^ (8 * size)) v
  | .bar4Read o n _ _ => below (2 ^ 64) o && below 4097 n
  | .bar4Write o l _ _ => below (2 ^ 64) o && below 4097 l.length
  | .doorbell q v => below 64 q && below (2 ^ 32) v
  | .entryFetch q _ => below 64 q
  | .loadEntry q x => below 64 q && x.wf
  | .runEntry q _ => below 64 q
  | .stopEntry q => below 64 q
  | .itemEntry q => below 64 q
  | .closeEntry q => below 64 q
  | .releaseEntry q => below 64 q
  | .nopEntry q => below 64 q
  | .itemEligible q idx _ _ _ => below 64 q && below (2 ^ 20) idx
  | .resultReady q idx _ => below 64 q && below (2 ^ 20) idx
  | .cqRecordFlush q => below 64 q
  | .temperStage n => below 16 n
  | .stageCheckDone => true
  | .temperApply n => below 16 n
  | .temperDiscard n => below 16 n
  | .temperFree n => below 16 n
  | .temperSetApply => true
  | .thawRecord n => below 9 n
  | .epochRelease => true
  | .saveComplete _ others => others.all (fun x => decide (2 ≤ x.1) && below 6 x.1)
  | .soloRelease => true
  | .replayWaitEnd => true
  | .witnessWrite => true
  | .syncFrame t frac seq crc => below (2 ^ 64) t && below 65536 frac && below 65536 seq && below 65536 crc
  | .releaseFrame e t crc => below (2 ^ 32) e && below (2 ^ 64) t && below 65536 crc
  | .idleFrame crc => below 65536 crc
  | .rootFrameSend => true
  | .rootlineLoss => true
  | .rootRelease => true
  | .epochTimeout => true
  | .calibration => true
  | .calRetry => true
  | .calMsg p b t4 => below 16 p && decide (b.length = 13) && below (2 ^ 64) t4
  | .dataFlit p x => below 16 p && x.wf
  | .dataLastFlit p x => below 16 p && x.wf
  | .idleFlit p x => below 16 p && x.wf
  | .sideFlit p x => below 16 p && x.wf
  | .rootlineMsg p b => below 16 p && decide (b.length = 13)
  | .arriveMsg p b => below 16 p && decide (b.length = 13)
  | .arriveSend => true
  | .abortMsg p b => below 16 p && decide (b.length = 13)
  | .helloMsg p b => below 16 p && decide (b.length = 13)
  | .linkAligned p => below 16 p
  | .trainingTimeout p => below 16 p
  | .helloTimeout p => below 16 p
  | .fecLockLost p => below 16 p
  | .replayLimit p => below 16 p
  | .retrainTimeout p => below 16 p
  | .mediaVideoPacket c v => below 128 c && v.wf
  | .mediaAudioPacket c x => below 128 c && x.wf
  | .mediaFrameDiscard p => below 2 p
  | .ptpSync p offset => below 2 p && decide (-(2 ^ 47) ≤ offset) && decide (offset < 2 ^ 47)
  | .ptpAnnounceTimeout p => below 2 p
  | .mediaLinkDown p => below 2 p
  | .mediaLinkUp p => below 2 p
  | .drainAction c _ => below 128 c
  | .drainDatagram c => below 128 c
  | .beatRelease r addr w _ _ => below 8 r && below (2 ^ 52) addr && below (2 ^ 64) w.due && below (2 ^ 64) w.issue &&
    w.landed.all (fun x => below (2 ^ 52) x.1 && below (2 ^ 64) x.2) && w.hits.all Hit.wf
  | .holdResume r => below 8 r
  | .refreshWindow hearth g => below (if hearth then 256 else 128) g
  | .dramTempReport dev t => below 48 dev && below 256 t
  | .scrub => true
  | .errorWindowEnd => true
  | .pendingIsolation n => below 8 n
  | .bellowsSample d _ tj io => decide (d.length = 24) && decide (tj.length = 8) && decide (io.length = 2)
  | .governorWindow => true
  | .droopTrip n => below 8 n
  | .droopClear n => below 8 n
  | .ballastRampDown r => below 8 r
  | .heartwoodWrite n => below 9 n
  | .ringWrite => true
  | .obsTraceSend => true
  | .alarmRaise k => below 16 k
  | .obsRead tag a n _ => below 256 tag && below (2 ^ 64) a && below 257 n
  | .mctpRead a n => below (2 ^ 64) a && below 257 n
  | .mctpUnsupported => true
  | .i3cDaa a => below 128 a
  | .rstdaa => true
  | .bypass => true
  | .idcode => true
  | .samplePreload _ _ => true
  | .extest _ => true
  | .clamp => true
  | .highz => true
  | .graftMerge c => below 128 c
  | .lanePark r lane gout gin x => below 8 r && below 32 lane && below 65536 gout && below 65536 gin && x.wf
  | .streamHeader c _ _ => below 128 c
  | .modelUnit c _ _ => below 128 c
  | .graftUnit c _ _ => below 128 c
  | .refreshUnit c _ _ => below 128 c
  | .videoIngot c h _ _ => below 128 c && below 64 h
  | .audioIngot c h _ _ => below 128 c && below 64 h
  | .holdIngot c _ _ => below 128 c
  | .endUnit c _ _ => below 128 c
  | .extensionUnit c _ => below 128 c
  | .nopMacro r w => below 8 r && w.wf
  | .mmul r w e => below 8 r && w.wf && e.wf
  | .conv r sub_ w e => below 8 r && below 8 sub_ && w.wf && e.wf
  | .poolMax r w e => below 8 r && w.wf && e.wf
  | .poolAverage r w e => below 8 r && w.wf && e.wf
  | .poolSum r w e => below 8 r && w.wf && e.wf
  | .eltAdd r w e => below 8 r && w.wf && e.wf
  | .eltMultiply r w e => below 8 r && w.wf && e.wf
  | .eltSubtract r w e => below 8 r && w.wf && e.wf
  | .eltMax r w e => below 8 r && w.wf && e.wf
  | .eltMin r w e => below 8 r && w.wf && e.wf
  | .lut r w e => below 8 r && w.wf && e.wf
  | .redSum r w e => below 8 r && w.wf && e.wf
  | .redMax r w e => below 8 r && w.wf && e.wf
  | .redMin r w e => below 8 r && w.wf && e.wf
  | .redSumOfSquares r w e => below 8 r && w.wf && e.wf
  | .func r w e => below 8 r && w.wf && e.wf
  | .cvt r w e => below 8 r && w.wf && e.wf
  | .copy r w e => below 8 r && w.wf && e.wf
  | .transpose r w e => below 8 r && w.wf && e.wf
  | .fill r w e => below 8 r && w.wf && e.wf
  | .send r w e => below 8 r && w.wf && e.wf
  | .chainRead r w e => below 8 r && w.wf && e.wf
  | .chainWrite r w e => below 8 r && w.wf && e.wf
  | .put r w e => below 8 r && w.wf && e.wf
  | .take r w e => below 8 r && w.wf && e.wf
  | .mcast r w e => below 8 r && w.wf && e.wf
  | .rotate r w e => below 8 r && w.wf && e.wf
  | .stem r sub_ w e => below 8 r && below 8 sub_ && w.wf && e.wf
  | .drawEnc r w e => below 8 r && w.wf && e.wf
  | .drawDec r w e => below 8 r && w.wf && e.wf
  | .prune r w e => below 8 r && w.wf && e.wf
  | .gmerge r w e => below 8 r && w.wf && e.wf
  | .bar r w => below 8 r && w.wf
  | .layer r w => below 8 r && w.wf
  | .layerRetire r => below 8 r
  | .temperMark r w => below 8 r && w.wf
  | .post r w => below 8 r && w.wf
  | .postWrite => true
  | .halt r w => below 8 r && w.wf
  | .burin r w => below 8 r && w.wf
  | .add b d a c => below 256 b && reg d && reg a && reg c
  | .sub b d a c => below 256 b && reg d && reg a && reg c
  | .and b d a c => below 256 b && reg d && reg a && reg c
  | .or b d a c => below 256 b && reg d && reg a && reg c
  | .xor b d a c => below 256 b && reg d && reg a && reg c
  | .sll b d a c => below 256 b && reg d && reg a && reg c
  | .srl b d a c => below 256 b && reg d && reg a && reg c
  | .sra b d a c => below 256 b && reg d && reg a && reg c
  | .slt b d a c => below 256 b && reg d && reg a && reg c
  | .sltu b d a c => below 256 b && reg d && reg a && reg c
  | .mul b d a c => below 256 b && reg d && reg a && reg c
  | .mulh b d a c => below 256 b && reg d && reg a && reg c
  | .div b d a c => below 256 b && reg d && reg a && reg c
  | .rem b d a c => below 256 b && reg d && reg a && reg c
  | .min b d a c => below 256 b && reg d && reg a && reg c
  | .max b d a c => below 256 b && reg d && reg a && reg c
  | .addi b d a imm => below 256 b && reg d && reg a && below 65536 imm
  | .andi b d a imm => below 256 b && reg d && reg a && below 65536 imm
  | .ori b d a imm => below 256 b && reg d && reg a && below 65536 imm
  | .xori b d a imm => below 256 b && reg d && reg a && below 65536 imm
  | .slti b d a imm => below 256 b && reg d && reg a && below 65536 imm
  | .lui b d a imm => below 256 b && reg d && reg a && below 65536 imm
  | .slli b d a imm => below 256 b && reg d && reg a && below 65536 imm
  | .srli b d a imm => below 256 b && reg d && reg a && below 65536 imm
  | .srai b d a imm => below 256 b && reg d && reg a && below 65536 imm
  | .lw b d a imm _ _ => below 256 b && reg d && reg a && below 65536 imm
  | .lh b d a imm _ _ => below 256 b && reg d && reg a && below 65536 imm
  | .lb b d a imm _ _ => below 256 b && reg d && reg a && below 65536 imm
  | .lhu b d a imm _ _ => below 256 b && reg d && reg a && below 65536 imm
  | .lbu b d a imm _ _ => below 256 b && reg d && reg a && below 65536 imm
  | .sw b d a imm _ _ => below 256 b && reg d && reg a && below 65536 imm
  | .sh b d a imm _ _ => below 256 b && reg d && reg a && below 65536 imm
  | .sb b d a imm _ _ => below 256 b && reg d && reg a && below 65536 imm
  | .beq b d a imm => below 256 b && reg d && reg a && below 65536 imm
  | .bne b d a imm => below 256 b && reg d && reg a && below 65536 imm
  | .blt b d a imm => below 256 b && reg d && reg a && below 65536 imm
  | .bge b d a imm => below 256 b && reg d && reg a && below 65536 imm
  | .bltu b d a imm => below 256 b && reg d && reg a && below 65536 imm
  | .bgeu b d a imm => below 256 b && reg d && reg a && below 65536 imm
  | .jal b off => below 256 b && below (2 ^ 26) off
  | .jalr b d a imm => below 256 b && reg d && reg a && below 65536 imm
  | .csrr b d a imm => below 256 b && reg d && reg a && below 65536 imm
  | .csrw b d a imm => below 256 b && reg d && reg a && below 65536 imm
  | .syncCycle b d a imm => below 256 b && reg d && reg a && below 65536 imm
  | .burinHalt b => below 256 b
  | .vadd b vd va vb ew m => below 256 b && reg vd && reg va && reg vb && below 4 ew && below 8 m
  | .vsub b vd va vb ew m => below 256 b && reg vd && reg va && reg vb && below 4 ew && below 8 m
  | .vmul b vd va vb ew m => below 256 b && reg vd && reg va && reg vb && below 4 ew && below 8 m
  | .vmin b vd va vb ew m => below 256 b && reg vd && reg va && reg vb && below 4 ew && below 8 m
  | .vmax b vd va vb ew m => below 256 b && reg vd && reg va && reg vb && below 4 ew && below 8 m
  | .vand b vd va vb ew m => below 256 b && reg vd && reg va && reg vb && below 4 ew && below 8 m
  | .vor b vd va vb ew m => below 256 b && reg vd && reg va && reg vb && below 4 ew && below 8 m
  | .vxor b vd va vb ew m => below 256 b && reg vd && reg va && reg vb && below 4 ew && below 8 m
  | .vsll b vd va vb ew m => below 256 b && reg vd && reg va && reg vb && below 4 ew && below 8 m
  | .vsrl b vd va vb ew m => below 256 b && reg vd && reg va && reg vb && below 4 ew && below 8 m
  | .vsra b vd va vb ew m => below 256 b && reg vd && reg va && reg vb && below 4 ew && below 8 m
  | .vsel b vd va vb ew m => below 256 b && reg vd && reg va && reg vb && below 4 ew && below 8 m
  | .vcmpeq b vd va vb ew m => below 256 b && reg vd && reg va && reg vb && below 4 ew && below 8 m
  | .vcmplt b vd va vb ew m => below 256 b && reg vd && reg va && reg vb && below 4 ew && below 8 m
  | .vfadd b vd va vb ew m => below 256 b && reg vd && reg va && reg vb && below 4 ew && below 8 m
  | .vfsub b vd va vb ew m => below 256 b && reg vd && reg va && reg vb && below 4 ew && below 8 m
  | .vfmul b vd va vb ew m => below 256 b && reg vd && reg va && reg vb && below 4 ew && below 8 m
  | .vfdiv b vd va vb ew m => below 256 b && reg vd && reg va && reg vb && below 4 ew && below 8 m
  | .vfsqrt b vd va vb ew m => below 256 b && reg vd && reg va && reg vb && below 4 ew && below 8 m
  | .vfma b vd va vb ew m => below 256 b && reg vd && reg va && reg vb && below 4 ew && below 8 m
  | .vfmin b vd va vb ew m => below 256 b && reg vd && reg va && reg vb && below 4 ew && below 8 m
  | .vfmax b vd va vb ew m => below 256 b && reg vd && reg va && reg vb && below 4 ew && below 8 m
  | .vfcmplt b vd va vb ew m => below 256 b && reg vd && reg va && reg vb && below 4 ew && below 8 m
  | .vfcmpeq b vd va vb ew m => below 256 b && reg vd && reg va && reg vb && below 4 ew && below 8 m
  | .vfcvt b vd va vb ew m => below 256 b && reg vd && reg va && reg vb && below 4 ew && below 8 m
  | .vftoi b vd va vb ew m => below 256 b && reg vd && reg va && reg vb && below 4 ew && below 8 m
  | .vitof b vd va vb ew m => below 256 b && reg vd && reg va && reg vb && below 4 ew && below 8 m
  | .vld b vd a imm _ _ => below 256 b && reg vd && reg a && below 65536 imm
  | .vst b vd a imm => below 256 b && reg vd && reg a && below 65536 imm
  | .vxferIn b d a c e => below 256 b && reg d && reg a && reg c && e.wf
  | .vxferOut b d a c _ _ => below 256 b && reg d && reg a && reg c
  | .vbcast b vd va vb ew m => below 256 b && reg vd && reg va && reg vb && below 4 ew && below 8 m
  | .vext b vd va vb ew m => below 256 b && reg vd && reg va && reg vb && below 4 ew && below 8 m
  | .vredi b vd va vb ew m => below 256 b && reg vd && reg va && reg vb && below 4 ew && below 8 m
  | .vredf b vd va vb ew m => below 256 b && reg vd && reg va && reg vb && below 4 ew && below 8 m
  | .configRequest off rebar => below 4096 off && (match rebar with
    | none => true
    | some g => below 64 g)
  | .pcieLinkReturn => true
  | .flitCrcFailure p => below 16 p
  | .sidePathCalibration => true
  | .railsWithinBand => true
  | .unassignedUnit c _ => below 128 c
  | .unitSyncLoss c _ _ => below 128 c
  | .unlistedEncoding b word => below 256 b && below (2 ^ 32) word

end Sys2Proof
end

