-- ==== Sys2Proof/Tests/Slice0.lean ====
section
/-! SUPPORT. Small tests: ill-formed terms, one-step results worked by hand from the spec, and for every statement with hypotheses states that meet
them. -/

namespace Sys2Proof.Tests

-- One theorem after the other: the evaluations together need more stacks than a machine has memory for.
set_option Elab.async false

open Sys2Proof Sys2Proof.Machine

/-! Small states. -/

/-- A job with descriptors `ds`, macro-instruction words `ms` and placements `pl`. -/
def tJob (ds : List Desc) (ms : List Nat) (pl : List Place) : Job :=
  { kind := 0, flush := false, strict := false, descs := ds, edges := [], macros := ms, burinBytes := 4096, burinEntry := 0, bkts := [],
    places := pl, segCtx := [], outside := [], banks := [], bankBad := [], consts := (0, 0), tsets := [], areas := [], epochMax := 100, imageAddr := 0, imageLen := 0, saveAddr := 0,
    saveLen := 0, run := none, shapeTab := [], waiting := false, first := false, relBase := 0, flags := 0, stops := [], pausing := false, saving := false,
    resumed := false, faulted := false, progDigest := [], constDigest := [], chain := [], posts := [] }

/-- The placement of macro-instruction `i` in region `r`: Forge 0, ten cycles. -/
def tPlace (i r : Nat) : Place := ⟨i, r, 1, 1, 0, 0, 10, 0, 128, 128, 128, 0, 0, 0, 0, 0, 0, 0, 0, 0, 0⟩

/-- A PLAIN descriptor. -/
def tDesc (base fmt n0 n1 n2 : Nat) : Desc := ⟨base, fmt, 0, 0, false, n0, n1, n2, 0, 1, 4, 0, false, false, 0, 16⟩

/-- READY, with region 0 and its Forges enabled. -/
def tReady : State :=
  let s := wr (wr State.reset Fk.geomRegionsRegionMask 1) Fk.geomRegionsRegionCount 1
  let s := wr (wr s (Fk.geomForgeMaskForgeEn 0) 0xFFFF) Fk.bootStateStage 7
  { s with part := { s.part with pcieUp := true } }

/-- The same with job `j` running in region 0. -/
def tState (j : Job) : State :=
  modRegion (wr { tReady with job := some j } Fk.bootJobJstate 2) 0 (fun x => { x with run := .running })

/-- An address in Hearth. -/
def aH (o : Nat) : Nat := 2 ^ 48 + o

/-- The macro-instruction word of zeros. -/
def w0 : MacroW := ⟨false, false, false, 0, 0, 0, 0, 0, 0, 0, false, 0, 0⟩

/-- No storage errors. -/
def e0 : MemErrs := ⟨[], 0, 0, 0⟩

/-- `s` with bytes at `a`. -/
def tPut (s : State) (a : Nat) (l : List Nat) : State := devPut s a (l.map (BitVec.ofNat 8))

/-- The command answers a next state of which `f` holds. -/
def nextIs (a : Ans) (f : State → Bool) : Bool :=
  match a with
  | .next t => f t
  | _ => false

/-- Burin 0 runs, as `f` sets it. -/
def tBurin (f : Burin → Burin) : State := putBurin (tState (tJob [] [] [])) 0 (f { burinEmpty with running := true })

/-- Scalar registers of a Burin. -/
def xs (l : List (Nat × Word)) (u : Burin) : Burin := l.foldl (fun u p => setX u p.1 p.2 false) u

/-- Vector registers of a Burin. -/
def vs (l : List (Nat × BitVec 512)) (u : Burin) : Burin := l.foldl (fun u p => setV u p.1 p.2 false) u

/-! Ill-formed terms: each is refused for the one operand that is out of range. -/

def badForms : List (Nat → Nat → Nat → Nat → Instr) := [.add, .sub, .and, .or, .xor, .sll, .srl, .sra, .slt, .sltu, .mul, .mulh, .div, .rem, .min, .max]

def immForms : List (Nat → Nat → Nat → Nat → Instr) :=
  [.addi, .andi, .ori, .xori, .slti, .lui, .slli, .srli, .srai, .beq, .bne, .blt, .bge, .bltu, .bgeu, .jalr, .csrr, .csrw, .syncCycle, .vst] ++
    ([.lw, .lh, .lb, .lhu, .lbu, .sw, .sh, .sb] : List (Nat → Nat → Nat → Nat → Bool → Bool → Instr)).map (fun f b d a i => f b d a i false false) ++
    [fun b d a i => .vld b d a i [] []]

def vecForms : List (Nat → Nat → Nat → Nat → Nat → Nat → Instr) :=
  [.vadd, .vsub, .vmul, .vmin, .vmax, .vand, .vor, .vxor, .vsll, .vsrl, .vsra, .vsel, .vcmpeq, .vcmplt, .vfadd, .vfsub, .vfmul, .vfdiv, .vfsqrt,
    .vfma, .vfmin, .vfmax, .vfcmplt, .vfcmpeq, .vfcvt, .vftoi, .vitof, .vbcast, .vext, .vredi, .vredf]

def macroForms : List (Nat → MacroW → Instr) :=
  [.nopMacro, .bar, .layer, .temperMark, .post, .halt, .burin] ++
    ([.mmul, .poolMax, .poolAverage, .poolSum, .eltAdd, .eltMultiply, .eltSubtract, .eltMax, .eltMin, .lut, .redSum, .redMax, .redMin,
      .redSumOfSquares, .func, .cvt, .copy, .transpose, .fill, .send, .chainRead, .chainWrite, .put, .take, .mcast, .rotate, .drawEnc, .drawDec,
      .prune, .gmerge] : List (Nat → MacroW → MemErrs → Instr)).map (fun f r w => f r w e0) ++
    [fun r w => .conv r 0 w e0, fun r w => .stem r 0 w e0]

theorem test_wf_burin_registers : badForms.all (fun f => (f 255 31 31 31).wf && !(f 256 0 0 0).wf && !(f 0 32 0 0).wf && !(f 0 0 32 0).wf &&
    !(f 0 0 0 32).wf) = true := by decide

theorem test_wf_burin_immediates : immForms.all (fun f => (f 255 31 31 65535).wf && !(f 256 0 0 0).wf && !(f 0 32 0 0).wf && !(f 0 0 32 0).wf &&
    !(f 0 0 0 65536).wf) = true := by decide

theorem test_wf_burin_vectors : vecForms.all (fun f => (f 255 31 31 31 3 7).wf) = true ∧ vecForms.all (fun f =>
    [f 256 0 0 0 0 0, f 0 32 0 0 0 0, f 0 0 32 0 0 0, f 0 0 0 32 0 0, f 0 0 0 0 4 0, f 0 0 0 0 0 8].all (fun c => !c.wf)) = true := by decide

theorem test_wf_burin_others : [Instr.jal 256 0, .jal 0 (2 ^ 26), .burinHalt 256, .vxferIn 256 0 0 0 e0, .vxferIn 0 32 0 0 e0, .vxferIn 0 0 32 0 e0,
    .vxferIn 0 0 0 32 e0, .vxferIn 0 0 0 0 ⟨[⟨2 ^ 47, 2, 0⟩], 0, 0, 0⟩, .vxferOut 256 0 0 0 [] [], .vxferOut 0 32 0 0 [] [], .vxferOut 0 0 32 0 [] [],
    .vxferOut 0 0 0 32 [] [], .unlistedEncoding 256 0, .unlistedEncoding 0 (2 ^ 32)].all (fun c => !c.wf) = true := by decide

theorem test_wf_macros : macroForms.all (fun f => (f 7 w0).wf) = true ∧ macroForms.all (fun f => [f 8 w0, f 0 { w0 with rnd := 4 },
    f 0 { w0 with d0 := 64 }, f 0 { w0 with d1 := 64 }, f 0 { w0 with d2 := 64 }, f 0 { w0 with d3 := 64 }, f 0 { w0 with d4 := 64 },
    f 0 { w0 with rep := 65536 }, f 0 { w0 with p1 := 2 ^ 32 }, f 0 { w0 with p0 := 2 ^ 32 }].all (fun c => !c.wf)) = true := by decide

theorem test_wf_macro_errors : ([.mmul, .poolMax, .eltAdd, .lut, .redSum, .func, .cvt, .copy, .send, .chainRead, .put, .take, .mcast, .rotate, .drawEnc,
    .drawDec, .prune, .gmerge, fun r w e => .conv r 0 w e, fun r w e => .stem r 0 w e] : List (Nat → MacroW → MemErrs → Instr)).all (fun f =>
    !(f 0 w0 ⟨[⟨2 ^ 47, 2, 0⟩], 0, 0, 0⟩).wf && !(f 0 w0 ⟨[⟨0, 3, 0⟩], 0, 0, 0⟩).wf && !(f 0 w0 ⟨[⟨0, 0, 256⟩], 0, 0, 0⟩).wf) = true := by decide

def okLoad : LoadIn := ⟨[], [], [], [], [], false, false, [], [], [], []⟩

def okFuse : FuseIn := ⟨15, List.replicate 8 65535, [], 0⟩

theorem test_wf_boot : [Instr.conv 0 8 w0 e0, .stem 0 8 w0 e0, .layerRetire 8, .railOutOfBand 16, .bootFuse (some { okFuse with fused := 8 }),
    .bootFuse (some { okFuse with forges := [] }), .bootFuse (some { okFuse with forges := List.replicate 8 65536 }),
    .bootFuse (some { okFuse with speed := [(8, 0, 0)] }), .bootFuse (some { okFuse with speed := [(0, 104, 0)] }),
    .bootFuse (some { okFuse with speed := [(0, 0, 8)] }), .bootFuse (some { okFuse with stepClass := 256 }), .bootFlash (some ⟨2 ^ 32, 0, 0⟩) none,
    .bootFlash none (some ⟨0, 65536, 0⟩), .bootFlash none (some ⟨0, 0, 2 ^ 32⟩), .bootMemtrain [48], .bootBist ⟨[(8, 0, 0)], [], []⟩,
    .bootBist ⟨[(0, 104, 0)], [], []⟩, .bootBist ⟨[(0, 0, 8)], [], []⟩, .bootBist ⟨[], [(8, 0)], []⟩, .bootBist ⟨[], [(0, 16)], []⟩,
    .bootBist ⟨[], [], [8]⟩, .bootSelftest [⟨8, true, List.replicate 32 0, 1⟩] (List.replicate 32 0) 0 0,
    .bootSelftest [⟨0, true, [], 1⟩] (List.replicate 32 0) 0 0, .bootSelftest [] [] 0 0, .bootSelftest [] (List.replicate 32 0) 256 0,
    .bootSelftest [] (List.replicate 32 0) 0 256, .selftestTimeout 8, .memPhy 48, .hostLink 256, .hostReadError 3 0 0 0 0, .hostReadError 0 64 0 0 0,
    .hostReadError 0 0 (2 ^ 20) 0 0, .forgeFault 8 0 0 0, .forgeFault 0 16 0 0, .forgeFault 0 0 4 0, .forgeFault 0 0 0 256, .regionFault 8 0 0,
    .regionFault 0 5 0, .regionFault 0 0 256, .chipCtrl 6 0, .chipCtrl 0 65536].all (fun c => !c.wf) = true := by decide

theorem test_wf_host : [Instr.registerWrite 0x4000000 8 0, .registerWrite 0 2 0, .registerWrite 0 4 (2 ^ 32), .bar4Read (2 ^ 64) 0 [] [],
    .bar4Read 0 4097 [] [], .bar4Write (2 ^ 64) [] false e0, .bar4Write 0 (List.replicate 4097 0) false e0, .doorbell 64 0, .doorbell 0 (2 ^ 32),
    .entryFetch 64 false, .loadEntry 64 okLoad, .loadEntry 0 { okLoad with ages := [(8, 0, 0)] }, .loadEntry 0 { okLoad with pkgs := [(128, false, 0)] },
    .loadEntry 0 { okLoad with pkgs := [(0, false, 2 ^ 52)] }, .loadEntry 0 { okLoad with headers := [(128, false, [])] },
    .loadEntry 0 { okLoad with segCtx := [(256, 0)] }, .loadEntry 0 { okLoad with segCtx := [(0, 128)] }, .loadEntry 0 { okLoad with outside := [64] },
    .loadEntry 0 { okLoad with ue := [2 ^ 47] }, .loadEntry 0 { okLoad with areas := [⟨128, false, 0, 0, 0, 64, 64⟩] }, .runEntry 64 false, .stopEntry 64, .itemEntry 64, .closeEntry 64, .releaseEntry 64, .nopEntry 64,
    .itemEligible 64 0 0 0 false, .itemEligible 0 (2 ^ 20) 0 0 false, .resultReady 64 0 [], .resultReady 0 (2 ^ 20) [], .cqRecordFlush 64,
    .temperStage 16, .temperApply 16, .temperDiscard 16, .temperFree 16, .thawRecord 9, .saveComplete true [(1, 0, [])],
    .saveComplete true [(6, 0, [])], .configRequest 4096 none, .configRequest 0 (some 64)].all (fun c => !c.wf) = true := by decide +kernel

def okFlit : FlitIn := ⟨0, 0, false, 0, 0, 0, 0, false, 0, 0, List.replicate 512 0, 0, 0⟩

theorem test_wf_flits : ([.dataFlit, .dataLastFlit, .idleFlit, .sideFlit] : List (Nat → FlitIn → Instr)).all (fun f => (f 15 okFlit).wf &&
    !(f 16 okFlit).wf && !(f 0 { okFlit with seq := 4096 }).wf && !(f 0 { okFlit with ack := 4096 }).wf && !(f 0 { okFlit with credit := 64 }).wf &&
    !(f 0 { okFlit with stream := 64 }).wf && !(f 0 { okFlit with beatsM1 := 16 }).wf && !(f 0 { okFlit with sidePos := 4 }).wf &&
    !(f 0 { okFlit with poison := 65536 }).wf && !(f 0 { okFlit with side := 2 ^ 32 }).wf && !(f 0 { okFlit with payload := [] }).wf &&
    !(f 0 { okFlit with t4 := 2 ^ 64 }).wf) = true := by decide +kernel

def m13 : List Byte := List.replicate 13 0

theorem test_wf_links : [Instr.syncFrame (2 ^ 64) 0 0 0, .syncFrame 0 65536 0 0, .syncFrame 0 0 65536 0, .syncFrame 0 0 0 65536, .releaseFrame (2 ^ 32) 0 0,
    .releaseFrame 0 (2 ^ 64) 0, .releaseFrame 0 0 65536, .idleFrame 65536, .calMsg 16 m13 0, .calMsg 0 [] 0, .calMsg 0 m13 (2 ^ 64), .rootlineMsg 16 m13,
    .rootlineMsg 0 [], .arriveMsg 16 m13, .arriveMsg 0 [], .abortMsg 16 m13, .abortMsg 0 [], .helloMsg 16 m13, .helloMsg 0 [], .linkAligned 16,
    .trainingTimeout 16, .helloTimeout 16, .fecLockLost 16, .replayLimit 16, .retrainTimeout 16, .flitCrcFailure 16].all (fun c => !c.wf) = true := by
  decide

def okVideo : VideoPkt := ⟨96, true, true, false, 0, 0, []⟩

def okAudio : AudioPkt := ⟨97, true, 0, 0, [[]]⟩

theorem test_wf_media : [Instr.mediaVideoPacket 128 okVideo, .mediaVideoPacket 0 { okVideo with pt := 128 }, .mediaVideoPacket 0 { okVideo with seq := 2 ^ 32 },
    .mediaVideoPacket 0 { okVideo with ts := 2 ^ 32 }, .mediaVideoPacket 0 { okVideo with samples := [(3, 0, 0, 0)] },
    .mediaVideoPacket 0 { okVideo with samples := [(0, 0, 0, 1024)] }, .mediaAudioPacket 128 okAudio, .mediaAudioPacket 0 { okAudio with pt := 128 },
    .mediaAudioPacket 0 { okAudio with seq := 65536 }, .mediaAudioPacket 0 { okAudio with ts := 2 ^ 32 },
    .mediaAudioPacket 0 { okAudio with chans := List.replicate 17 [] }, .mediaAudioPacket 0 { okAudio with chans := [[2 ^ 24]] }, .mediaFrameDiscard 2,
    .ptpSync 2 0, .ptpSync 0 (2 ^ 47), .ptpSync 0 (-(2 ^ 47) - 1), .ptpAnnounceTimeout 2, .mediaLinkDown 2, .mediaLinkUp 2, .drainAction 128 false,
    .drainDatagram 128].all (fun c => !c.wf) = true := by decide

theorem test_wf_others : [Instr.beatRelease 8 0 ⟨0, 0, [], []⟩ true false, .beatRelease 0 (2 ^ 52) ⟨0, 0, [], []⟩ true false,
    .beatRelease 0 0 ⟨0, 2 ^ 64, [], []⟩ true false, .beatRelease 0 0 ⟨2 ^ 64, 0, [], []⟩ true false, .beatRelease 0 0 ⟨0, 0, [(2 ^ 52, 0)], []⟩ true false,
    .beatRelease 0 0 ⟨0, 0, [(0, 2 ^ 64)], []⟩ true false, .holdResume 8,
    .refreshWindow true 256, .refreshWindow false 128, .dramTempReport 48 0, .dramTempReport 0 256, .pendingIsolation 8, .bellowsSample [] 0 [] [],
    .bellowsSample (List.replicate 24 0) 0 [] [(0, 0), (0, 0)], .bellowsSample (List.replicate 24 0) 0 (List.replicate 8 (0, 0)) [], .droopTrip 8, .droopClear 8,
    .ballastRampDown 8, .heartwoodWrite 9, .alarmRaise 16, .obsRead 256 0 8 true, .obsRead 0 (2 ^ 64) 8 true, .obsRead 0 0 257 true, .mctpRead (2 ^ 64) 8,
    .mctpRead 0 257, .i3cDaa 128, .graftMerge 128, .lanePark 8 0 0 0 ⟨none, 0⟩, .lanePark 0 32 0 0 ⟨none, 0⟩, .lanePark 0 0 65536 0 ⟨none, 0⟩,
    .lanePark 0 0 0 65536 ⟨none, 0⟩,
    .streamHeader 128 false [], .modelUnit 128 false [], .graftUnit 128 [] false, .refreshUnit 128 false [], .videoIngot 128 0 [] [],
    .videoIngot 0 64 [] [], .audioIngot 128 0 [] [], .audioIngot 0 64 [] [], .holdIngot 128 false [], .endUnit 128 false [], .extensionUnit 128 false,
    .unassignedUnit 128 false, .unitSyncLoss 128 false false].all (fun c => !c.wf) = true := by decide

/-! Burins: what the statements ask of states, met; and results by hand from 06 R184 and R185. -/

/-- A word of all ones. -/
def ones : Word := 0xFFFFFFFF

/-- The Burin after `c`, started from `f`. -/
def afterB (c : Instr) (f : Burin → Burin) (p : Burin → Bool) : Bool := nextIs (exec c (tBurin f)) (fun t => p (getBurin t 0))

/-- The job of Burin tests, strict. -/
def tStrict (f : Burin → Burin) : State :=
  let s := tBurin f
  { s with job := s.job.map (fun j => { j with strict := true }) }

theorem witness_BurinRegisterResults : burinOk (tBurin (xs [(2, ones), (31, 7)])) 0 = true := by decide +kernel

theorem witness_BurinImmediateResults : burinOk (tBurin id) 0 = true ∧ 65535 < 2 ^ 16 ∧ (riRules.all (fun p => p.2.1 0 31)) = true := by decide +kernel

/-- 06 R184's own cases of DIV: a divisor of 0, the overflow, and truncation. -/
theorem test_div : [((7 : Word), (0 : Word), (0 : Word)), (0x80000000, ones, 0x80000000), (0xFFFFFFF9, 2, 0xFFFFFFFD)].all (fun x =>
    afterB (.div 0 1 2 3) (xs [(2, x.1), (3, x.2.1)]) (fun u => getX u 1 == x.2.2)) = true := by decide +kernel

theorem test_rem : [((7 : Word), (0 : Word), (7 : Word)), (0x80000000, ones, 0), (0xFFFFFFF9, 2, ones)].all (fun x =>
    afterB (.rem 0 1 2 3) (xs [(2, x.1), (3, x.2.1)]) (fun u => getX u 1 == x.2.2)) = true := by decide +kernel

theorem test_arithmetic : [(Instr.add 0 1 2 3, (1 : Word)), (.sub 0 1 2 3, 0xFFFFFFFD), (.and 0 1 2 3, 2), (.or 0 1 2 3, ones), (.xor 0 1 2 3, 0xFFFFFFFD),
    (.sll 0 1 2 3, 0xFFFFFFFC), (.srl 0 1 2 3, 0x3FFFFFFF), (.sra 0 1 2 3, ones), (.slt 0 1 2 3, 1), (.sltu 0 1 2 3, 0), (.mul 0 1 2 3, 0xFFFFFFFE),
    (.mulh 0 1 2 3, ones), (.min 0 1 2 3, ones), (.max 0 1 2 3, 2)].all (fun x =>
    afterB x.1 (xs [(2, ones), (3, 2)]) (fun u => getX u 1 == x.2 && getX u 2 == ones && u.pc == 4)) = true := by decide +kernel

theorem test_immediates : [(Instr.addi 0 1 2 0xFFFF, (0xFFFFFFFE : Word)), (.andi 0 1 2 0xFF00, 0xFF00), (.ori 0 1 3 0x8000, 0x8002),
    (.xori 0 1 2 0xFFFF, 0xFFFF0000), (.slti 0 1 2 0, 1), (.lui 0 1 0 0x8001, 0x80010000), (.slli 0 1 3 31, 0), (.srli 0 1 2 31, 1),
    (.srai 0 1 2 31, ones)].all (fun x => afterB x.1 (xs [(2, ones), (3, 2)]) (fun u => getX u 1 == x.2 && u.pc == 4)) = true := by decide +kernel

theorem test_x0_is_zero : afterB (.addi 0 0 2 1) (xs [(2, 5)]) (fun u => getX u 0 == 0 && u.x == (xs [(2, 5)] burinEmpty).x) = true := by decide +kernel

/-- Local memory with the bytes 0x80 to 0x83 at 0x2000. -/
def tMem (u : Burin) : Burin := { xs [(2, 0x2000), (3, 0x12345678)] u with mem := mWrite [] memEmpty 0x2000 [0x80, 0x81, 0x82, 0x83] }

theorem witness_BurinLoads : burinOk (tBurin tMem) 0 = true ∧ badX (getBurin (tBurin tMem) 0) 2 = false ∧
    (getX (getBurin (tBurin tMem) 0) 2 + BitVec.ofInt 32 (sext 16 0)).toNat + 4 ≤ 0x10000 ∧
    (getX (getBurin (tBurin (xs [(2, 0xFFFC)])) 0) 2 + BitVec.ofInt 32 (sext 16 0)).toNat + 4 = 0x10000 := by decide +kernel

theorem test_loads : [(Instr.lw 0 1 2 0 false false, (0x83828180 : Word)), (.lh 0 1 2 0 false false, 0xFFFF8180), (.lb 0 1 2 1 false false, 0xFFFFFF81),
    (.lhu 0 1 2 2 false false, 0x8382), (.lbu 0 1 2 3 false false, 0x83), (.lw 0 1 2 0 true false, 0)].all (fun x =>
    afterB x.1 tMem (fun u => getX u 1 == x.2 && u.pc == 4)) = true := by decide +kernel

theorem witness_BurinStores : burinOk (tBurin tMem) 0 = true ∧ badX (getBurin (tBurin tMem) 0) 2 = false ∧
    burinBytesOf (tBurin tMem) ≤ (getX (getBurin (tBurin tMem) 0) 2 + BitVec.ofInt 32 (sext 16 0)).toNat ∧ burinBytesOf (tBurin tMem) = 0x1000 ∧
    badX (getBurin (tBurin tMem) 0) 3 = false ∧ mBad (getBurin (tBurin tMem) 0).mem 0x2000 = false ∧
    badX (setX (getBurin (tBurin tMem) 0) 3 1 true) 3 = true := by decide +kernel

theorem test_stores : [(Instr.sw 0 3 2 0 false false, [(0x78 : Byte), 0x56, 0x34, 0x12]), (.sh 0 3 2 2 false false, [0x80, 0x81, 0x78, 0x56]),
    (.sb 0 3 2 3 false false, [0x80, 0x81, 0x82, 0x78])].all (fun x => afterB x.1 tMem (fun u => mBytes u.mem 0x2000 4 == x.2 && u.pc == 4)) = true := by
  decide +kernel

theorem test_store_of_poison : afterB (.sb 0 4 2 0 false false) (fun u => setX (tMem u) 4 1 true) (fun u => mBad u.mem 0x2000) = true := by decide +kernel

theorem witness_BurinBranches : burinOk (tBurin (xs [(1, 3), (2, 3)])) 0 = true ∧ (0 : Int) ≤ 4 * sext 16 0x3FF ∧ 4 * sext 16 0x3FF < (4096 : Int) ∧
    (branchRules.map (fun p => p.2 3 3)) = [true, false, false, true, false, true] := by decide +kernel

theorem test_branches : [(Instr.beq 0 1 2 8, (4 : BitVec 16)), (.bne 0 1 2 8, 32), (.blt 0 1 2 8, 32), (.bge 0 1 2 8, 4), (.bltu 0 1 2 8, 4),
    (.bgeu 0 1 2 8, 32)].all (fun x => afterB x.1 (xs [(1, ones), (2, 2)]) (fun u => u.pc == x.2)) = true := by decide +kernel

theorem witness_BurinJumps : burinOk (tBurin (xs [(2, 0x103)])) 0 = true ∧ badX (getBurin (tBurin (xs [(2, 0x103)])) 0) 2 = false ∧
    4 * sext 26 8 < (4096 : Int) ∧ (0x103 : Nat) / 4 * 4 < burinBytesOf (tBurin id) := by decide +kernel

theorem test_jumps : afterB (.jal 0 8) id (fun u => getX u 31 == 4 && u.pc == 32) = true ∧
    afterB (.jalr 0 1 2 0) (xs [(2, 0x103)]) (fun u => getX u 1 == 4 && u.pc == 0x100) = true := by decide +kernel

theorem witness_BurinCsrReads : burinOk (tBurin id) 0 = true := by decide +kernel

theorem test_csrr : nextIs (exec (.csrr 35 1 0 0x010) (putBurin (tBurin id) 35 { burinEmpty with running := true })) (fun t =>
    getX (getBurin t 35) 1 == 0x111) = true := by decide +kernel

theorem witness_BurinCsrWrites : burinOk (tBurin (xs [(2, 7)])) 0 = true ∧ badX (getBurin (tBurin (xs [(2, 7)])) 0) 2 = false := by decide +kernel

theorem test_csrw : afterB (.csrw 0 0 2 0x020) (xs [(2, 7)]) (fun u => u.frm == 3) = true ∧
    nextIs (exec (.csrw 0 0 2 0x034) (tBurin (xs [(2, 7)]))) (fun t => shapeVal t 0 1 1 == 7) = true ∧
    nextIs (exec (.csrw 0 0 2 0x034) (tBurin (xs [(2, 0x100000)]))) (fun t => rd t Fk.faultJobJobCode == 0x07) = true := by decide +kernel

theorem witness_BurinSyncAndHalt : burinOk (tBurin (xs [(2, 100)])) 0 = true ∧ rd (tBurin id) Fk.epochCycle % 2 ^ 32 = 0 := by decide +kernel

theorem test_sync : afterB (.syncCycle 0 0 2 0xFF9C) (xs [(2, 100)]) (fun u => u.pc == 4) = true ∧
    afterB (.syncCycle 0 0 2 0) (xs [(2, 100)]) (fun u => u.pc == 0) = true := by decide +kernel

theorem test_burin_halt : nextIs (exec (.burinHalt 0) (tBurin (fun u => { u with fflags := 1 }))) (fun t =>
    !(getBurin t 0).running && (t.job.map (·.flags)) == some 64) = true := by decide +kernel

theorem witness_BurinFaults : burinOk (tBurin id) 0 = true ∧
    0x10000 < (getX (getBurin (tBurin (xs [(2, 0xFFFD)])) 0) 2 + BitVec.ofInt 32 (sext 16 0)).toNat + 4 ∧
    (getX (getBurin (tBurin (xs [(2, 0xFFFC)])) 0) 2 + BitVec.ofInt 32 (sext 16 0)).toNat < 0x10000 ∧
    (getX (getBurin (tBurin (xs [(2, 0xFFF)])) 0) 2 + BitVec.ofInt 32 (sext 16 0)).toNat < burinBytesOf (tBurin id) := by decide +kernel

theorem test_burin_faults : [(Instr.lw 0 1 2 0 false false, (0xFFFD : Word), 0x08), (.lw 0 1 2 0 false false, 0xFFFB, 0x09), (.sb 0 1 2 0 false false, 0xFFF, 0x08),
    (.sh 0 1 2 0 false false, 0x1001, 0x09), (.vld 0 1 2 0 [] [], 0x20, 0x09), (.vst 0 1 2 0, 0xFC0, 0x08), (.jalr 0 1 2 0, 0x1000, 0x08),
    (.beq 0 0 0 0x400, 0, 0x08), (.jal 0 0x3FFFFFF, 0, 0x08), (.unlistedEncoding 0 77, 0, 0x07), (.lui 0 1 1 0, 0, 0x07), (.slli 0 1 2 32, 0, 0x07),
    (.csrr 0 1 0 0x060, 0, 0x07), (.vadd 0 1 2 3 3 0, 0, 0x07), (.vxferIn 0 2 0 0 e0, 0x20, 0x09)].all (fun x =>
    nextIs (exec x.1 (tBurin (xs [(2, x.2.1)]))) (fun t => rd t Fk.faultJobJobCode == x.2.2 && rd t Fk.bootJobJstate == 4)) = true := by decide +kernel

/-- Vectors 1 and 2 with word lanes from the low end. -/
def tVec (l r : List Nat) : Burin → Burin := vs [(1, ofLanes 2 l), (2, ofLanes 2 r)]

/-- The lowest three word lanes of v[3] after `c`. -/
def lanes3 (s : State) (c : Instr) (l : List Nat) : Bool :=
  nextIs (exec c s) (fun t => (List.range 3).map (lane 2 (getV (getBurin t 0) 3)) == l && (getBurin t 0).pc == 4)

theorem witness_BurinLaneResults : burinOk (tBurin (tVec [1] [2])) 0 = true ∧ 2 < 3 ∧ badM (getBurin (tBurin (tVec [1] [2])) 0) 7 = false := by decide +kernel

theorem test_lanes : [(Instr.vadd 0 3 1 2 2 0, [1, 0, 7]), (.vsub 0 3 1 2 2 0, [0xFFFFFFFD, 2 ^ 32 - 2, 1]), (.vmul 0 3 1 2 2 0, [2 ^ 32 - 2, 2 ^ 32 - 1, 12]),
    (.vmin 0 3 1 2 2 0, [2 ^ 32 - 1, 2 ^ 32 - 1, 3]), (.vmax 0 3 1 2 2 0, [2, 1, 4]), (.vand 0 3 1 2 2 0, [2, 1, 0]), (.vor 0 3 1 2 2 0, [2 ^ 32 - 1, 2 ^ 32 - 1, 7]),
    (.vxor 0 3 1 2 2 0, [2 ^ 32 - 3, 2 ^ 32 - 2, 7]), (.vsll 0 3 1 2 2 0, [2 ^ 32 - 4, 2 ^ 32 - 2, 32]), (.vsrl 0 3 1 2 2 0, [2 ^ 30 - 1, 2 ^ 31 - 1, 0]),
    (.vsra 0 3 1 2 2 0, [2 ^ 32 - 1, 2 ^ 32 - 1, 0])].all (fun x => lanes3 (tBurin (tVec [2 ^ 32 - 1, 2 ^ 32 - 1, 4] [2, 1, 3])) x.1 x.2) = true := by decide +kernel

theorem witness_BurinSelectCompare : burinOk (tBurin (tVec [1] [2])) 0 = true ∧ 7 < 8 ∧ badM (getBurin (tBurin (tVec [1] [2])) 0) 0 = false := by decide +kernel

theorem test_compare_select : nextIs (exec (.vcmplt 0 1 1 2 2 0) (tBurin (tVec [2 ^ 32 - 1, 5] [2, 1]))) (fun t => (getM (getBurin t 0) 1).toNat % 256 == 15) = true ∧
    nextIs (exec (.vcmpeq 0 1 1 2 2 0) (tBurin (tVec [3, 5] [3, 1]))) (fun t => (getM (getBurin t 0) 1).toNat % 256 == 15) = true ∧
    lanes3 (tBurin (fun u => setM (tVec [5, 6, 7] [1, 2, 3] u) 2 0xF0 false)) (.vsel 0 3 1 2 2 0) [1, 6, 3] = true := by decide +kernel

theorem witness_BurinFloatLanes : burinOk (tStrict (tVec [0] [0])) 0 = true ∧ jobStrict (tStrict (tVec [0] [0])) = true ∧
    badM (getBurin (tStrict (tVec [0] [0])) 0) 0 = false := by decide +kernel

/-- Binary32: 1.5 and 2, the root of 4, 1 divided by 0. -/
theorem test_float_lanes : [(Instr.vfadd 0 3 1 2 2 0, [0x40600000]), (.vfsub 0 3 1 2 2 0, [0xBF000000]), (.vfmul 0 3 1 2 2 0, [0x40400000]),
    (.vfdiv 0 3 1 2 2 0, [0x3F400000]), (.vfmin 0 3 1 2 2 0, [0x3FC00000]), (.vfmax 0 3 1 2 2 0, [0x40000000]), (.vfma 0 3 1 2 2 0, [0x40400000])].all (fun x =>
    nextIs (exec x.1 (tStrict (tVec [0x3FC00000] [0x40000000]))) (fun t => lane 2 (getV (getBurin t 0) 3) 0 == x.2.headD 0)) = true := by decide +kernel

theorem test_float_root_and_flags : nextIs (exec (.vfsqrt 0 3 1 0 2 0) (tStrict (tVec [0x40800000] []))) (fun t =>
      lane 2 (getV (getBurin t 0) 3) 0 == 0x40000000 && (getBurin t 0).fflags == 0) = true ∧
    nextIs (exec (.vfdiv 0 3 1 2 2 0) (tStrict (fun u => setM (tVec [0x3F800000] [0] u) 1 15 false))) (fun t => (getBurin t 0).fflags == 24) = true := by
  decide +kernel

theorem test_float_compares : nextIs (exec (.vfcmplt 0 1 1 2 2 0) (tStrict (tVec [0x3FC00000] [0x40000000]))) (fun t => (getM (getBurin t 0) 1).toNat % 16 == 15) = true ∧
    nextIs (exec (.vfcmpeq 0 1 1 2 2 0) (tStrict (tVec [0x80000000, 1] [0, 2]))) (fun t => (getM (getBurin t 0) 1).toNat % 256 == 15) = true := by decide +kernel

theorem witness_BurinConversions : burinOk (tStrict (tVec [0] [0])) 0 = true ∧ jobStrict (tStrict id) = true ∧
    (laneConversions.map (fun p => p.2.1 2)) = [true, true, true] ∧ badM (getBurin (tStrict (tVec [0] [0])) 0) 0 = false := by decide +kernel

theorem test_conversions : nextIs (exec (.vftoi 0 3 1 0 2 0) (tStrict (tVec [0x40200000] []))) (fun t => lane 2 (getV (getBurin t 0) 3) 0 == 2) = true ∧
    nextIs (exec (.vitof 0 3 1 0 2 0) (tStrict (tVec [2 ^ 32 - 2] []))) (fun t => lane 2 (getV (getBurin t 0) 3) 0 == 0xC0000000) = true ∧
    nextIs (exec (.vfcvt 0 3 1 0 2 0) (tStrict (tVec [0x3C00] []))) (fun t => lane 2 (getV (getBurin t 0) 3) 0 == 0x3F800000) = true := by decide +kernel

theorem witness_BurinLaneMoves : burinOk (tBurin (tVec [1] [2])) 0 = true ∧ 15 < laneCount 2 ∧ ¬ 16 < laneCount 2 ∧
    badM (getBurin (tBurin (tVec [1] [2])) 0) 0 = false := by decide +kernel

theorem test_lane_moves : lanes3 (tBurin (xs [(1, 9)])) (.vbcast 0 3 1 0 2 0) [9, 9, 9] = true ∧
    afterB (.vext 0 5 1 1 2 0) (tVec [4, 6] []) (fun u => getX u 5 == 6) = true ∧ lanes3 (tBurin (tVec [4, 6, 2 ^ 32 - 1] [])) (.vredi 0 3 1 0 2 0) [9, 0, 0] = true ∧
    nextIs (exec (.vredf 0 3 1 0 2 0) (tStrict (tVec [0x3FC00000, 0x40000000] []))) (fun t => lane 2 (getV (getBurin t 0) 3) 0 == 0x40600000) = true := by decide +kernel

theorem witness_BurinVectorMemory : burinOk (tBurin tMem) 0 = true ∧ badX (getBurin (tBurin tMem) 0) 2 = false ∧
    (getX (getBurin (tBurin tMem) 0) 2 + BitVec.ofInt 32 (sext 16 0)).toNat % 64 = 0 ∧ mBadIn (getBurin (tBurin tMem) 0).mem 0x2000 64 = false ∧
    badV (getBurin (tBurin tMem) 0) 3 = false := by decide +kernel

theorem test_vector_memory : afterB (.vld 0 3 2 0 [] []) tMem (fun u => (getV u 3).toNat == 0x83828180) = true ∧
    afterB (.vst 0 1 2 64) (fun u => vs [(1, ofLanes 2 [7])] (tMem u)) (fun u => mBytes u.mem 0x2040 2 == [7, 0] && mBytes u.mem 0x2000 1 == [0x80]) = true := by
  decide +kernel

/-- 64 bytes from the Bench to local memory at 0x2000, and back. -/
def tXfer : State := tPut (tBurin (xs [(1, 0x2000), (2, 64), (3, 64)])) (3 * 2 ^ 48 + 64) [1, 2, 3]

theorem witness_BurinTransfers : burinOk tXfer 0 = true ∧ badX (getBurin tXfer 0) 1 = false ∧ burinRegion 0 < 8 ∧ 0x2000 % 64 = 0 ∧
    burinBytesOf tXfer ≤ 0x2000 ∧ mBadIn tXfer.dev (3 * 2 ^ 48 + 64) 64 = false ∧ mBadIn (getBurin tXfer 0).mem 0x2000 64 = false := by decide +kernel

theorem test_transfers : nextIs (exec (.vxferIn 0 1 2 3 e0) tXfer) (fun t => mBytes (getBurin t 0).mem 0x2000 4 == [1, 2, 3, 0]) = true ∧
    nextIs (exec (.vxferOut 0 1 2 3 [] []) tXfer) (fun t => mBytes t.dev (3 * 2 ^ 48 + 64) 4 == [0, 0, 0, 0]) = true := by decide +kernel

/-! Macro-instructions: forms that issue, and their results by hand. -/

/-- Descriptors for the tests: INT8 lines of 4 in D0 to D2, a table, INT8 squares of 2 by 2, FP32 lines, INT16 and INT4 lines. -/
def tDescs : List Desc :=
  [tDesc (aH 0x1000) 1 4 1 1, tDesc (aH 0x2000) 1 4 1 1, tDesc (aH 0x3000) 1 4 1 1, { tDesc (aH 0x4000) 11 64 1 1 with kind := 5 },
   tDesc (aH 0x3000) 1 4 4 1, tDesc (aH 0x2000) 1 2 2 1, tDesc (aH 0x1000) 1 1 1 1, tDesc (aH 0x2000) 10 4 1 1, tDesc (aH 0x1000) 10 4 1 1,
   tDesc (aH 0x1000) 2 4 1 1, tDesc (aH 0x3000) 1 1 1 1, tDesc (aH 0x5000) 0 4 1 1, tDesc (aH 0x6000) 0 4 1 1, tDesc (aH 0x1000) 1 1 4 1,
   tDesc (aH 0x1000) 1 2 2 1, tDesc (aH 0x1000) 10 1 1 1, { tDesc (aH 0x3000) 11 256 1 1 with kind := 5 }]

/-- The test job, strict or not, with D1 1, 2, 3, 254 (INT8 -2) and D2 4, 3, 2, 1. -/
def tMac : State :=
  tPut (tPut (tState (tJob tDescs [0, 0] [tPlace 0 0, tPlace 1 0])) (aH 0x2000) [1, 2, 3, 254]) (aH 0x3000) [4, 3, 2, 1]

/-- The encodings that 06 R168 and R186 write out, and a word of zeros, which no instruction has (06 R164). -/
theorem test_decode_words : decodeMacro 0 e0 0x10081420C000007C3802004200000000 =
      some (.mmul 0 { w0 with cls := true, d0 := 5, d1 := 2, d2 := 3, rep := 31, p1 := 0x38020042 } e0) ∧
    decodeBurin 0 0x08A50040 = some (.addi 0 5 5 64) ∧ decodeMacro 0 e0 0 = none ∧ decodeBurin 0 0 = none ∧
    decodeMacro 0 e0 (0x44 * 2 ^ 120) = some (.halt 0 w0) ∧ decodeMacro 0 e0 (0x44 * 2 ^ 120 + 2 ^ 64) = none := by decide +kernel

/-- The cost of one macro-instruction with operation `op`, SUB `sub`, the PRES bits `pres` and descriptors `ds`, on `n` Forges. -/
def tCost (op sub pres p1 n : Nat) (ds : List Desc) : Option Nat :=
  let p : Place := { tPlace 0 0 with fm := n, forges := 0xFEDCBA9876543210, unit := 15, lanes := 255 }
  let j := tJob ds [op * 2 ^ 120 + sub * 2 ^ 116 + 2 ^ 100 + 2 * 2 ^ 94 + 3 * 2 ^ 88 + pres * 2 ^ 60 + p1 * 2 ^ 32] [p]
  costOf (tState j) j p

/-- The worked examples of 06 R170 to R174, R178 and R179, and the one of 02 R40: 4,096 steps at n = 3 take 4,519 cycles. -/
theorem test_costs : let d := fun f a b c => tDesc (aH 0x1000) f a b c
    let win := 4 * 2 ^ 13 + 4 * 2 ^ 8 + 16 + 1
    [tCost 0x13 0 3 0 16 [d 1 1024 1024 1, d 1 1024 1024 1, d 1 1024 1024 1], tCost 0x14 0 3 0 16 [d 1 2048 2048 1, d 1 2048 2048 1, d 11 256 1 1],
      tCost 0x16 0 1 0 16 [d 10 1024 64 1, d 10 1024 64 1], tCost 0x17 0 1 0 16 [d 6 4096 4096 1, d 10 4096 4096 1],
      tCost 0x12 0 1 (2 * 2 ^ 13 + 2 * 2 ^ 8 + 16 + 1) 4 [d 1 120 68 192, d 1 240 136 192], tCost 0x30 0 3 win 1 [d 1 960 544 64, d 1 1920 1088 3, d 1 64 75 1],
      tCost 0x31 0 15 0 1 [d 1 1 1 1, d 2 1566720 1 1, d 1 1 1 1], tCost 0x32 0 7 63 1 [d 1 1 1 1, d 2 1 1 1, d 1 1 1 1, d 2 1024 1 1], tCost 0x20 2 0 0 1 [d 1 1024 1024 1]] =
      [280, 1048, 280, 16408, 312, 612064, 49008, 4192, 16384].map some ∧ cyclesFor 3 0 4096 = 4519 := by decide +kernel

/-- What the statement of tensor results asks of `T` at `w` from `s`. -/
def meets (T : TensorRule) (w : MacroW) (s : State) : Bool :=
  match placeFor s 0 (T.descs s w e0) with
  | none => false
  | some pl =>
    let k := T.work s (dispatch s 0) 0 w e0 pl
    decide (seqOk s 0 = true ∧ T.refuse s 0 w e0 = none ∧ segmentReady s 0 = true ∧
      shapeOver s 0 (T.descs s w e0 ++ fusedDescs s (getRegion s 0).pc) = none ∧ T.early s 0 w = none ∧
      shapeZero s 0 (T.descs s w e0 ++ fusedDescs s (getRegion s 0).pc) = false) &&
      (k.opds.findSome? (opdFault (dispatch s 0) k.p0 k.p1)).isNone && !hotHeld s && !k.spills && k.cells.all (fun x => x.2.isSome)

/-- The statement's premises hold of the `i`th rule, and the bytes at D0 (Hearth 0x1000) after it are `l`. -/
def rule (i : Nat) (w : MacroW) (s : State) (l : List Byte) : Bool :=
  match tensorRules[i]? with
  | some T => meets T w s && nextIs (exec (T.make 0 w e0) s) (fun t => mBytes t.dev (aH 0x1000) l.length == l && (getRegion t 0).pc == 1)
  | none => false

/-- Words of the form of D0, D1, D2 present. -/
def w2 : MacroW := { w0 with d1 := 1, d2 := 2, p1 := 2 ^ 28 + 2 ^ 29 }

/-- Words of a reduction of D1 to one element. -/
def wRed : MacroW := { w0 with d0 := 6, d1 := 1, p1 := 2 ^ 28 }

/-- A window of 2 by 2 over D1. -/
def wPool : MacroW := { w0 with d0 := 6, d1 := 5, p1 := 2 ^ 28 + 2 ^ 13 + 2 ^ 8 }

/-- A filter of one element, 4, over a square. -/
def wConv : MacroW := { w0 with d0 := 14, d1 := 5, d2 := 10, p1 := 2 ^ 28 + 2 ^ 29, p0 := 0 }

/-- With the table at D3: M_a 1, M_b 2, no shift. -/
def wElt : MacroW := { w2 with d3 := 3, p1 := 2 ^ 28 + 2 ^ 29 + 2 ^ 30 }

def tElt (mb : Nat) : State := tPut tMac (aH 0x4000) [1, 0, 0, 0, mb]

/-- 06 R168: 1·4 + 2·3 + 3·2 − 2·1 = 14, scaled by 1. -/
theorem test_mmul : rule 0 { w2 with d2 := 4, p1 := 2 ^ 28 + 2 ^ 29 + 2 ^ 17, p0 := 1 } tMac [14, 0, 0, 0] = true := by decide +kernel

theorem test_conv : rule 1 wConv tMac [4, 8] = true ∧ rule 2 wConv tMac [4, 8] = true ∧ rule 3 wConv tMac [4, 8] = true := by decide +kernel

theorem test_stem : rule 4 wConv tMac [4, 8] = true ∧ rule 5 wConv tMac [4, 8] = true := by decide +kernel

/-- The largest of 1, 2, 0, 0; their mean 3 ÷ 4, rounded to 1; their sum. -/
theorem test_pool : rule 6 wPool tMac [2] = true ∧ rule 7 wPool tMac [1] = true ∧ rule 8 wPool tMac [3] = true := by decide +kernel

theorem test_elt : rule 9 wElt (tElt 2) [9, 8, 7, 0] = true ∧ rule 10 wElt (tElt 0) [4, 6, 6, 254] = true ∧
    rule 11 wElt (tElt 2) [0xF9, 0xFC, 0xFF, 0xFC] = true := by decide +kernel

theorem test_elt_select : rule 12 w2 tMac [4, 3, 3, 1] = true ∧ rule 13 w2 tMac [1, 2, 2, 254] = true := by decide +kernel

/-- The table holds 255 − i; element a reads entry a + 128. -/
theorem test_lut : rule 14 { w2 with d2 := 16 } (tPut tMac (aH 0x3000) ((List.range 256).map (fun i => 255 - i))) [0x7E, 0x7D, 0x7C, 0x81] = true := by decide +kernel

/-- The sum 4 under M 1 and s 1 is 2. -/
theorem test_red : rule 15 { wRed with d3 := 3, p1 := 2 ^ 28 + 2 ^ 30 } (tElt 1) [2] = true ∧ rule 16 wRed tMac [3] = true ∧
    rule 17 wRed tMac [254] = true := by decide +kernel

/-- Binary32 1.5, 2, 4 and 0. -/
def tFloat : State := tPut tMac (aH 0x2000) [0, 0, 0xC0, 0x3F, 0, 0, 0, 0x40, 0, 0, 0x80, 0x40, 0, 0, 0, 0]

/-- 2.25 + 4 + 16 = 22.25. -/
theorem test_red_squares : rule 18 { wRed with d0 := 15, d1 := 7, cls := true } tFloat [0, 0, 0xB2, 0x41] = true := by decide +kernel

/-- FUNC 0 is 2 to the x: of 2 it is 4, of 4 it is 16, of 0 it is 1. -/
theorem test_func : nextIs (exec (.func 0 { wRed with d0 := 8, d1 := 7, cls := true } e0) tFloat) (fun t =>
    mBytes t.dev (aH 0x1004) 12 == [0, 0, 0x80, 0x40, 0, 0, 0x80, 0x41, 0, 0, 0x80, 0x3F]) = true := by decide +kernel

theorem test_moves : rule 20 { wRed with d0 := 9 } tMac [1, 0, 2, 0, 3, 0, 254, 255] = true ∧ rule 21 { wRed with d0 := 0 } tMac [1, 2, 3, 254] = true ∧
    rule 22 { wRed with d0 := 13 } tMac [1, 0, 0, 0] = true ∧ rule 23 w0 tMac [0, 0, 0, 0] = true := by decide +kernel

/-- With scales of 0 a merge leaves the weights. -/
theorem test_gmerge : rule 24 { w0 with loop := true, d1 := 1, d2 := 11, d3 := 12, d4 := 3, p0 := 1, p1 := 2 ^ 32 - 2 ^ 28 } tMac [1, 2, 3, 254] = true := by
  decide +kernel

/-- A rule's premises hold, with no flag that the arithmetic adds and plain operands. -/
theorem witness_TensorResults : (tensorRules[0]?).any (fun T => meets T { w2 with d2 := 4, p1 := 2 ^ 28 + 2 ^ 29 + 2 ^ 17, p0 := 1 } tMac &&
    ((T.work tMac (dispatch tMac 0) 0 { w2 with d2 := 4, p1 := 2 ^ 28 + 2 ^ 29 + 2 ^ 17, p0 := 1 } e0 (tPlace 0 0)).opds.all
      (fun o => o.crec.isNone))) = true := by decide +kernel

/-- Operands of the first instruction of `tMac`. -/
def tOpd (i : Nat) : Opd := opdOf tMac 0 [] i 1 false false (1, 1, 1)

theorem witness_AssayElements : w2.cls = false ∧ fmtInt (fmtField tMac { wRed with d0 := 9 } 1) = true ∧
    fmtInt (fmtField tMac { wRed with d0 := 9 } 0) = true ∧ fmtMin .int16 ≤ fmtMin .int8 ∧ fmtMax .int8 ≤ fmtMax .int16 ∧
    fmtField tMac w2 2 = fmtField tMac w2 1 ∧ (tOpd 1).n0 = (tOpd 0).n0 ∧ (tOpd 1).n1 = (tOpd 0).n1 ∧ (tOpd 1).n2 = (tOpd 0).n2 ∧
    3 < (tOpd 0).n0 ∧ 0 < (tOpd 0).n1 ∧ 0 < (tOpd 0).n2 := by decide +kernel

/-- The plan of the MMUL and of a CONV. -/
def tMmul : ProdPlan := prodPlan (mmulPlan tMac 0 { w2 with d2 := 4, p1 := 2 ^ 28 + 2 ^ 29 + 2 ^ 17, p0 := 1 } e0 (tPlace 0 0)) (tPlace 0 0)

def tConv : ProdPlan := prodPlan (convPlan tMac 0 0 wConv e0 (tPlace 0 0)) (tPlace 0 0)

theorem witness_AssaySums : tMmul.c.flt = false ∧ tMmul.sh.k = none ∧ 0 < tMmul.c.rq.cnt ∧ 3 < tMmul.a.n0 ∧ 0 < tMmul.a.n1 ∧ 3 < tMmul.a.q0 ∧ 0 < tMmul.a.q1 ∧ 0 < tMmul.a.q2 ∧
    0 < tMmul.b.q2 ∧ 3 < tMmul.b.q0 ∧ 3 < tMmul.b.q1 ∧ bit ({ w2 with p1 := 2 ^ 28 + 2 ^ 29 + 2 ^ 17 } : MacroW).p1 17 = true ∧ bit w2.p1 17 = false ∧
    0 < tConv.c.o.n2 ∧ 3 < tConv.c.o.n0 * tConv.c.o.n1 ∧ 0 < tConv.c.q.k ∧ poolTaps (tOpd 5) (winOf wPool) false 0 0 ≠ [] ∧
    inI48 (poolAcc tMac [] (tOpd 5) 0 0 (poolTaps (tOpd 5) (winOf wPool) false 0 0)) = true ∧ inI48 (2 ^ 47) = false := by decide +kernel

/-! Moves, codec and control instructions. -/

/-- The premises `Issues` of an instruction, decided. -/
def issues (s : State) (refuse : Option String) (descs : List Desc) : Bool :=
  decide (seqOk s 0 = true ∧ hotHeld s = false ∧ macroRefuse s 0 refuse descs = none ∧ segmentReady s 0 = true ∧ shapeOver s 0 (descs ++ fusedDescs s (getRegion s 0).pc) = none ∧
    shapeZero s 0 (descs ++ fusedDescs s (getRegion s 0).pc) = false ∧ (placeFor s 0 descs).isSome = true)

/-- Descriptors: a line of 64 in D0 and D1, HOOP 5, a chain list of 4 entries over a window of 256 bytes, tables, a codec bank. -/
def tMoves : List Desc :=
  [tDesc (aH 0x1000) 1 64 1 1, tDesc (aH 0x2000) 1 64 1 1, { tDesc 0 11 1 3 1 with kind := 4, padc := 5 },
   { tDesc (aH 0x5000) 11 4 4 0 with kind := 3, aux := 4, auxEn := true, pitch1 := 0, pitch2 := 0, pstride := 0 }, tDesc (aH 0x6000) 11 256 1 1,
   { tDesc (aH 0x4000) 11 1 0 1 with kind := 5 }, tDesc (3 * 2 ^ 48) 1 64 1 1, tDesc (aH 0x2000) 1 4 1 1, tDesc (aH 0x3000) 1 4 1 1,
   tDesc (aH 0x2000) 2 4 2 1, tDesc (aH 0x3000) 2 2 1 1, { tDesc (aH 0x1000) 11 256 1 1 with kind := 5 }, tDesc (aH 0x1000) 1 4 1 1,
   { tDesc (aH 0x4000) 11 256 1 1 with kind := 5 }]

/-- Hoop 5 of region 0: `beats` beats a slot, 3 slots at Hearth 0x8000, both ends as given. -/
def tHoop (beats putEnd takeEnd : Nat) (s : State) : State :=
  wr (wr (wr (wr (wr s (Fk.hoopCfgSlotBeats 0 5) beats) (Fk.hoopCfgSlots 0 5) 3) (Fk.hoopBase 0 5) (aH 0x8000)) (Fk.hoopCfgPutEnd 0 5) putEnd)
    (Fk.hoopCfgTakeEnd 0 5) takeEnd

/-- The test state: D1 begins with 1, 2, 3, and the first chain entry names 40 bytes at 0x6040. -/
def tMov : State :=
  let s := tState (tJob tMoves [0, 0] [tPlace 0 0, tPlace 1 0])
  tHoop 1 0 1 (tPut (tPut (tPut (tPut s (aH 0x2000) [1, 2, 3]) (aH 0x6040) [65, 66]) (aH 0x6067) [104, 105]) (aH 0x5000)
    [0x40, 0x60, 0, 0, 0, 0, 1, 0, 40])

/-- PUT of D1 into hoop 5 with MARK, and TAKE of it into D0. -/
def wPut : MacroW := { w0 with d0 := 2, d1 := 1, p1 := 2 ^ 28, p0 := 69 }

def wTake : MacroW := { w0 with d0 := 0, d1 := 2, p1 := 2 ^ 28, p0 := 5 }

/-- With one slot put. -/
def tHalf : State := wr tMov (Fk.hoopTail 0 5) 1

theorem witness_HoopMoves : (getRegion tMov 0).prog = [] ∧ issues tMov (hoopRefuse tMov wPut 0 false) (descsOf tMov wPut [1]) = true ∧
    opdFault (dispatch tMov 0) 0 1 (opdOf (dispatch tMov 0) 0 [] 1 1 false false (1, 1, 1)) = none ∧
    hoopBytes tMov 0 5 = streamLen (opdOf (dispatch tMov 0) 0 [] 1 1 false false (1, 1, 1)) ∧ hoopCount tMov 0 5 + 1 ≤ rd tMov (Fk.hoopCfgSlots 0 5) ∧
    slotFault (dispatch tMov 0) 0 5 0 = none ∧ rd tMov (Fk.hoopTail 0 5) = 0 ∧ rd tHalf (Fk.hoopHead 0 5) = 0 ∧ slotFault (dispatch tHalf 0) 0 5 0 = none ∧
    hoopBytes tHalf 0 5 = streamLen (opdOf (dispatch tHalf 0) 0 [] 0 1 false false (1, 1, 1)) ∧
    issues tHalf (hoopRefuse tHalf wTake 1 true) (descsOf tHalf wTake [0]) = true ∧
    opdFault (dispatch tHalf 0) 0 1 (opdOf (dispatch tHalf 0) 0 [] 0 1 false false (1, 1, 1)) = none ∧ hoopCount tHalf 0 5 = 1 := by decide +kernel

theorem test_put_take : nextIs (exec (.put 0 wPut e0) tMov) (fun t => rd t (Fk.hoopTail 0 5) == 1 && mBytes t.dev (aH 0x8000) 3 == [1, 2, 3] &&
      slotMark t 0 5 0 == some 0) = true ∧
    nextIs (exec (.take 0 wTake e0) (tPut tHalf (aH 0x8000) [9, 8])) (fun t => rd t (Fk.hoopHead 0 5) == 1 && mBytes t.dev (aH 0x1000) 3 == [9, 8, 0]) = true := by
  decide +kernel

/-- Full, with an elastic take end, and with a scheduled one; empty, with both. -/
def tFull (takeEnd : Nat) : State := tHoop 1 0 takeEnd (wr tMov (Fk.hoopTail 0 5) 3)

theorem witness_HoopWaits : [tFull 1, tFull 0, tMov, tHoop 1 1 0 tMov].all (fun s => decide (slotFault (dispatch s 0) 0 5 (rd s (Fk.hoopTail 0 5)) = none ∧
      slotFault (dispatch s 0) 0 5 (rd s (Fk.hoopHead 0 5)) = none ∧
      [0, 1].all (fun i => decide (hoopBytes s 0 5 ≤ streamLen (opdOf (dispatch s 0) 0 [] i 1 false false (1, 1, 1)))) = true)) = true ∧
    issues (tFull 1) (hoopRefuse (tFull 1) wPut 0 false) (descsOf (tFull 1) wPut [1]) = true ∧ hoopFull (tFull 1) 0 5 = true ∧
    rd (tFull 1) (Fk.hoopCfgTakeEnd 0 5) ≠ 0 ∧ issues (tFull 0) (hoopRefuse (tFull 0) wPut 0 false) (descsOf (tFull 0) wPut [1]) = true ∧
    rd (tFull 0) (Fk.hoopCfgTakeEnd 0 5) = 0 ∧ issues tMov (hoopRefuse tMov wTake 1 true) (descsOf tMov wTake [0]) = true ∧ hoopEmpty tMov 0 5 = true ∧
    rd tMov (Fk.hoopCfgPutEnd 0 5) = 0 ∧ rd (tHoop 1 1 0 tMov) (Fk.hoopCfgPutEnd 0 5) ≠ 0 ∧
    issues (tHoop 1 1 0 tMov) (hoopRefuse (tHoop 1 1 0 tMov) wTake 1 true) (descsOf (tHoop 1 1 0 tMov) wTake [0]) = true ∧
    opdFault (dispatch tMov 0) 0 1 (opdOf (dispatch tMov 0) 0 [] 0 1 false false (1, 1, 1)) = none := by decide +kernel

theorem test_hoop_waits : nextIs (exec (.put 0 wPut e0) (tFull 1)) (fun t => rd t Fk.schedStatusHold == 1 && (getRegion t 0).run == .holding) = true ∧
    nextIs (exec (.take 0 wTake e0) tMov) (fun t => rd t Fk.schedStatusMiss == 1 && rd t Fk.faultJobJobCode == 6) = true := by decide +kernel

/-- SEND of D1 on stream 7 of port 3, which is UP with 10 credits. -/
def wSend : MacroW := { w0 with d1 := 1, p1 := 2 ^ 28, p0 := 3 + 16 * 7 }

def tSend : State := wr (wr tMov (Fk.tlPstateState 3) 3) (Fk.tlPcredTxCredit 3) 10

theorem witness_Sends : issues tSend (sendRefuse tSend 0 wSend) (descsOf tSend wSend [1]) = true ∧ portState tSend 3 = psUp ∧ (getPort tSend 3).txq = [] ∧
    (getPort tSend 3).sideQ = [] ∧ (flitsOf 7 (streamBytes tSend [] (opdOf tSend 0 [] 1 1 false false (1, 1, 1)) 0 0 64)).length = 1 ∧
    (getRegion tSend 0).prog = [] ∧ opdFault (dispatch tSend 0) 0 1 (opdOf (dispatch tSend 0) 0 [] 1 1 false false (1, 1, 1)) = none := by decide +kernel

theorem test_send : nextIs (exec (.send 0 wSend e0) tSend) (fun t => rd t (Fk.tlPcredTxCredit 3) == 9 && (getPort t 3).txSeq == 1 &&
    ((getPort t 3).unacked.map (fun f => (f.ty, f.stream, f.seq, f.beatsM1)) == [(2, 7, 0, 1)]) && (getRegion t 0).pc == 1) = true := by decide +kernel

/-- CHAIN over the list: to or from a tensor, and to or from hoop 5. -/
def wChain : MacroW := { w0 with d0 := 0, d1 := 3, p1 := 2 ^ 28, p0 := 1 }

def tBad : State := tPut tMov (aH 0x5000) [1]

theorem witness_ChainMoves : issues tMov (chainRefuse tMov wChain 1 0) [tDesc (aH 0x1000) 1 64 1 1] = true ∧
    issues tMov (chainRefuse tMov { wChain with d0 := 2 } 1 0) [] = true ∧
    issues tMov (chainRefuse tMov { wChain with d0 := 3, d1 := 0 } 0 1) [tDesc (aH 0x1000) 1 64 1 1] = true ∧
    issues tMov (chainRefuse tMov { wChain with d0 := 3, d1 := 2 } 0 1) [] = true ∧ devLE tMov [] (aH 0x5000) 8 = aH 0x6040 ∧
    devLE tMov [] (aH 0x5008) 4 = 40 ∧ devLE tMov [] (aH 0x500C) 4 = 0 ∧ spanFault tMov (aH 0x5000) 16 = none ∧
    devBad tMov [] (aH 0x5000) 16 = false ∧ spanFault tMov (aH 0x6040) 40 = none ∧ aH 0x6000 ≤ aH 0x6040 ∧
    aH 0x6040 + 40 ≤ aH 0x6000 + descExtent (tDesc (aH 0x6000) 11 256 1 1) ∧ 40 ≤ 64 * 4 ∧ 40 ≤ hoopBytes tMov 0 5 ∧
    hoopFull tMov 0 5 = false ∧ hoopEmpty tHalf 0 5 = false ∧ slotFault (dispatch tMov 0) 0 5 (rd tMov (Fk.hoopTail 0 5)) = none ∧
    slotFault (dispatch tHalf 0) 0 5 (rd tHalf (Fk.hoopHead 0 5)) = none ∧
    40 ≤ streamLen (opdOf (dispatch tMov 0) 0 [] 0 1 false false (1, 1, 1)) ∧ devLE tBad [] (aH 0x5000) 8 % 64 = 1 ∧
    issues tBad (chainRefuse tBad wChain 1 0) [tDesc (aH 0x1000) 1 64 1 1] = true := by decide +kernel

theorem test_chains : nextIs (exec (.chainRead 0 wChain e0) tMov) (fun t => mBytes t.dev (aH 0x1000) 2 == [65, 66] && mBytes t.dev (aH 0x1027) 2 == [104, 0]) = true ∧
    nextIs (exec (.chainWrite 0 { wChain with d0 := 3, d1 := 0 } e0) (tPut tMov (aH 0x1000) [9, 8])) (fun t => mBytes t.dev (aH 0x6040) 3 == [9, 8, 0] &&
      mBytes t.dev (aH 0x6068) 1 == [105]) = true ∧
    nextIs (exec (.chainRead 0 wChain e0) tBad) (fun t => rd t Fk.schedStatusChainEntry == 1 && rd t Fk.faultJobJobCode == 0x0B) = true := by decide +kernel

/-- MCAST of D1 to the Benches of Forges 0 and 2, and ROTATE over Forges 0 and 1. -/
def wMcast : MacroW := { w0 with d0 := 6, d1 := 1, d2 := 5, p1 := 2 ^ 28 + 2 ^ 29 }

def wRot : MacroW := { w0 with d1 := 6, p1 := 2 ^ 28 }

def tCast : State := tPut tMov (aH 0x4000) [5]

def tRing : State :=
  tPut (tState (tJob tMoves [0, 0] [{ tPlace 0 0 with fm := 2, forges := 16 }])) (3 * 2 ^ 48) [7, 6]

theorem witness_Copies : issues tCast (mcastRefuse tCast wMcast) [tDesc (3 * 2 ^ 48) 1 64 1 1, tDesc (aH 0x2000) 1 64 1 1] = true ∧
    problemShare (tPlace 0 0) 1 = (0, 1) ∧ streamLen (opdOf (dispatch tCast 0) 0 [] 1 1 false false (1, 1, 1)) ≤
      streamLen (opdOf (dispatch tCast 0) 0 [] 6 1 false false (1, 1, 1)) ∧ devLE tCast [] (aH 0x4000) 16 = 5 ∧ spanFault tCast (aH 0x4000) 16 = none ∧
    forgeEn tCast 0 2 = true ∧ regionCount tCast = 1 ∧ issues tRing (rotateRefuse tRing wRot) [tDesc (3 * 2 ^ 48) 1 64 1 1] = true ∧
    (ringOf tRing 0) = [(0, 0), (0, 1)] ∧ (ringOf tRing 0).head?.map (·.1) = some 0 ∧ (ringOf tMov 5).head?.map (·.1) ≠ some 0 := by decide +kernel

theorem test_copies : nextIs (exec (.mcast 0 wMcast e0) tCast) (fun t => mBytes t.dev (3 * 2 ^ 48) 2 == [1, 2] && mBytes t.dev (3 * 2 ^ 48 + 2 ^ 24) 2 == [1, 2] &&
      mBytes t.dev (3 * 2 ^ 48 + 2 ^ 23) 2 == [0, 0]) = true ∧
    nextIs (exec (.rotate 0 wRot e0) tRing) (fun t => mBytes t.dev (3 * 2 ^ 48 + 2 ^ 23) 2 == [7, 6] && mBytes t.dev (3 * 2 ^ 48) 2 == [0, 0]) = true := by
  decide +kernel

/-- A bank of one family: one table, in which 0 has one half of the interval and the escape with 8 payload bits the other. -/
def tBank : List Byte :=
  ([0, 0, 0, 0, 0, 1] ++ List.replicate 58 0 ++ [0xC0, 0, 0, 0, 2, 0, 0, 0, 8, 1] ++ List.replicate 118 0 ++ [0, 0, 0, 0x40, 0, 0x80] ++ List.replicate 58 0)

/-- DRAW ENC of D1 into hoop 5 and DRAW DEC of it. -/
def wEnc : MacroW := { w0 with d0 := 2, d1 := 7, d3 := 8, d4 := 5, p1 := 2 ^ 28 + 2 ^ 30 + 2 ^ 31 }

def wDec : MacroW := { wEnc with d0 := 12, d1 := 2 }

def tDraw : State :=
  let s := tHoop 8 0 1 tMov
  { s with job := s.job.map (fun j => { j with banks := [(aH 0x4000, tBank)], places := j.places.map (fun p => { p with unit := 1, lanes := 1 }) }) }

/-- After the ENC. -/
def tDec : State :=
  match exec (.drawEnc 0 wEnc e0) tDraw with
  | .next t => modRegion t 0 (fun x => { x with pc := 0 })
  | _ => tDraw

/-- PRUNE of two candidates. -/
def wPrune : MacroW := { w0 with d0 := 11, d1 := 13, d2 := 9, d3 := 10, p1 := 2 ^ 28 + 2 ^ 29 + 2 ^ 30 }

/-- A box of 100 by 50 about (200, 100), and its double, in a picture of 1,000 by 800: the second has the lower score and is suppressed. -/
def tPrune : State :=
  let s := tPut (tPut (tState (tJob tMoves [0, 0] [tPlace 0 0])) (aH 0x4000) [0xE8, 3, 0x20, 3]) (aH 0x4040) [200, 0, 100, 0, 100, 0, 50, 0, 200, 0, 100, 0, 100, 0, 50, 0]
  tPut s (aH 0x3000) [9, 0, 5, 0]

theorem witness_CodecInstructions : issues tDraw (drawRefuse tDraw 0 wEnc 0) (descsOf tDraw wEnc [1, 3]) = true ∧ pres wEnc 2 = false ∧
    (drawRecords (fun p s => encDrawTry wEnc e0 0 5 [] (fun _ => 0) (laneArea (dispatch tDraw 0) 0 { tPlace 0 0 with unit := 1, lanes := 1 }) (opdOf (dispatch tDraw 0) 0 [] 7 1 false true (1, 1, 1))
      (opdOf (dispatch tDraw 0) 0 [] 0 1 false true (1, 1, 1)) (opdOf (dispatch tDraw 0) 0 [] 8 1 false true (1, 1, 1)) ((descOf tDraw 5).getD descZero) p 0 none s)
      1 0 (dispatch tDraw 0)).isSome = true ∧ (getRegion tDraw 0).prog = [] ∧ (getRegion tDraw 0).draw = none ∧
    (drawRecords (fun p s => decDrawTry wDec e0 0 5 [] (fun _ => 0) (opdOf (dispatch tDec 0) 0 [] 12 1 false false (1, 1, 1))
      (opdOf (dispatch tDec 0) 0 [] 0 1 false true (1, 1, 1)) (opdOf (dispatch tDec 0) 0 [] 8 1 false true (1, 1, 1)) ((descOf tDec 5).getD descZero) p s)
      1 0 (dispatch tDec 0)).isSome = true ∧ regionCtx (dispatch tPrune 0) 0 = none ∧
    hoopCount tDraw 0 5 + (recSlots (hoopBytes tDraw 0 5) (encRecord (dispatch tDraw 0) [] [] (fun _ => 0) wEnc (opdOf (dispatch tDraw 0) 0 [] 7 1 false true (1, 1, 1))
      (opdOf (dispatch tDraw 0) 0 [] 0 1 false true (1, 1, 1)) (opdOf (dispatch tDraw 0) 0 [] 8 1 false true (1, 1, 1))
      ((descOf tDraw 5).getD descZero) 0).1).length ≤ 3 ∧
    issues tDec (drawRefuse tDec 0 wDec 1) (descsOf tDec wDec [0, 3]) = true ∧ recordSlots (dispatch tDec 0) 0 5 = some 1 ∧
    issues tMov (pruneRefuse tMov wPrune) (descsOf tMov wPrune [2, 3]) = true ∧ tableFault (dispatch tMov 0) 13 1 (aH 0x4000) 80 = none ∧
    tableFault (dispatch tMov 0) 11 1 (aH 0x1000) 80 = none ∧ regionCtx (dispatch tMov 0) 0 = none ∧ rd tDraw (Fk.hoopCfgTakeEnd 0 5) ≠ 4 := by decide +kernel

theorem test_draw : nextIs (exec (.drawEnc 0 wEnc e0) tDraw) (fun t => rd t (Fk.hoopTail 0 5) == 1) = true ∧
    nextIs (exec (.drawDec 0 wDec e0) tDec) (fun t => rd t (Fk.hoopHead 0 5) == 1 && mBytes t.dev (aH 0x1000) 4 == [1, 2, 3, 0]) = true := by decide +kernel

theorem test_prune : nextIs (exec (.prune 0 { wPrune with p0 := 2 ^ 31 } e0) tPrune) (fun t =>
    mBytes t.dev (aH 0x1000) 5 == [1, 0, 0, 0, 2] && mBytes t.dev (aH 0x1040) 12 == [150, 0, 75, 0, 250, 0, 125, 0, 9, 0, 0, 0]) = true := by decide +kernel

/-- Control instructions in the last placement of region 0. -/
def tCtl : State := tState (tJob [] [0, 0, 0] [tPlace 0 0, tPlace 1 0])

theorem witness_ControlInstructions : seqOk tCtl 0 = true ∧ ctrlRefuse w0 = none ∧ segmentReady tCtl 0 = true ∧ tCtl.waitRecs.length < 256 ∧
    tCtl.job.isSome = true ∧ ctrlRefuse { w0 with p0 := 0x40, p1 := 2 ^ 16 + 1 } = none ∧ forgeEn tCtl 0 0 = true := by decide +kernel

theorem test_control : nextIs (exec (.nopMacro 0 w0) tCtl) (fun t => (getRegion t 0).pc == 1) = true ∧
    nextIs (exec (.layer 0 w0) tCtl) (fun t => (getRegion t 0).run == .layer) = true ∧
    nextIs (exec (.bar 0 { w0 with p0 := 1 }) tCtl) (fun t => (getRegion t 0).run == .barrier && (getRegion t 0).scope == 1) = true ∧
    nextIs (exec (.temperMark 0 { w0 with p0 := 3 }) (wr tCtl Fk.temperSetsStaged 8)) (fun t => rd t Fk.temperSetsPending == 8) = true ∧
    nextIs (exec (.post 0 { w0 with p0 := 7 }) tCtl) (fun t => (t.job.map (fun j => j.posts.map (·.tag))) == some [7]) = true := by decide +kernel

theorem test_burin_starts : nextIs (exec (.burin 0 { w0 with p0 := 0x40, p1 := 2 ^ 17 + 2 }) tCtl) (fun t =>
    (List.range 4).map (fun b => (getBurin t b).running) == [false, false, false, true] && (getBurin t 3).pc == 0x40) = true := by decide +kernel

/-- Two regions, the second at a LAYER; and a POST that waits. -/
def tTwo : State :=
  let s := tState (tJob [] [0, 0] [tPlace 0 0, tPlace 0 1, tPlace 1 1])
  modRegion s 1 (fun x => { x with run := .layer })

def tPost : State := { tCtl with job := tCtl.job.map (fun j => { j with posts := [⟨0, 0, 7, 0, false⟩] }) }

theorem witness_StreamEnds : seqOk tTwo 0 = true ∧ ctrlRefuse w0 = none ∧ (1 ∈ (tTwo.job.map jobRegions).getD []) ∧ (getRegion tTwo 1).run ≠ .halted ∧
    (tCtl.job.map jobRegions) = some [0] := by decide +kernel

theorem test_halt : nextIs (exec (.halt 0 w0) tTwo) (fun t => rd t Fk.bootJobJstate == 2 && (getRegion t 0).run == .halted) = true ∧
    nextIs (exec (.halt 0 w0) tCtl) (fun t => rd t Fk.bootJobJstate == 4 && rd t Fk.faultJobJobCode == 0) = true := by decide +kernel

theorem test_layer_retire : nextIs (exec (.layerRetire 1) tTwo) (fun t => (getRegion t 1).run == .running && (getRegion t 1).pc == 1) = true := by decide +kernel

/-- Two entries of the job in queue 2 and a running Burin. -/
def tFaulty : State :=
  modWq (putBurin tCtl 3 { burinEmpty with running := true }) 2 (fun w => { w with entries := [⟨2, 0, 4, 0, 1, 1, 0, 0, 0, 0, 0, 0⟩, ⟨2, 1, 7, 0, 1, 1, 0, 0, 0, 0, 0, 0⟩] })

theorem witness_FaultsEndJobs : running tFaulty = true ∧ loaded tFaulty = true ∧ burinOk tFaulty 3 = true := by decide +kernel

theorem test_faults : let t := jobFault tFaulty ⟨5, 2, 4, 0, 0, []⟩
    rd t Fk.bootJobJstate = 4 ∧ rd t Fk.faultJobJobCode = 5 ∧ (getWq t 2).entries.map (·.op) = [7] ∧ (getBurin t 3).running = false ∧
      (getRegion t 0).run = .stopped := by decide +kernel

/-! Boot, resets and units. -/

/-- Stage `n` of boot, with region 0 enabled. -/
def tStage (n : Nat) : State := wr { tReady with part := { tReady.part with pcieUp := decide (2 < n) } } Fk.bootStateStage n

theorem witness_BootStages : stage (tStage 0) = 0 ∧ stage (tStage 1) = 1 ∧ stage (tStage 2) = 2 ∧ stage (tStage 3) = 3 ∧ stage (tStage 4) = 4 ∧
    stage (tStage 5) = 5 ∧ stage (tStage 6) = 6 ∧ rdBit (tStage 6) Fk.geomRegionsRegionMask 0 = true := by decide +kernel

theorem test_boot_pll : nextIs (exec .railsWithinBand (tStage 0)) (fun t => stage t == 1) = true ∧
    nextIs (exec (.bootPll false) (tStage 1)) (fun t => stage t == 8 && rd t Fk.bootStateFailStage == 1 && rd t Fk.bootStateFailCode == 1) = true := by
  decide +kernel

theorem test_boot_fuse : nextIs (exec (.bootFuse (some { okFuse with fused := 2 })) (tStage 2)) (fun t => rd t Fk.geomRegionsRegionMask == 0xFB) = true := by decide +kernel

theorem test_boot_flash_memtrain : nextIs (exec (.bootFlash none (some ⟨5, 0x1234, 9⟩)) (tStage 3)) (fun t => stage t == 4 && rd t Fk.bootStateCopy == 1 &&
      t.part.vendorId == 0x1234) = true ∧
    nextIs (exec (.bootMemtrain [0, 17]) (tStage 4)) (fun t => stage t == 5 && rd t Fk.faultDownMemStacks == 1 && rd t Fk.faultDownMemPackages == 2) = true := by
  decide +kernel

theorem test_boot_bist_selftest : nextIs (exec (.bootBist ⟨[], [(0, 3)], []⟩) (tStage 5)) (fun t => stage t == 6 && rd t (Fk.geomForgeMaskForgeEn 0) == 0xFFF7) = true ∧
    nextIs (exec (.bootSelftest [⟨0, true, m13, 3⟩] m13 5 6) (tStage 6)) (fun t => stage t == 7 && rd t Fk.geomIdGeomVersion == 1) = true ∧
    nextIs (exec (.bootSelftest [] m13 5 6) (tStage 6)) (fun t => stage t == 8 && rd t Fk.bootStateFailCode == 4) = true := by decide +kernel

theorem test_selftest_timeout : nextIs (exec (.selftestTimeout 0) (tStage 6)) (fun t => rd t (Fk.geomForgeMaskForgeEn 0) == 0) = true := by decide +kernel

theorem witness_Resets : stage tReady = 7 ∧ tReady.part.service = true ∧ tReady.part.pcieUp = true ∧ stage (tStage 3) ≠ 0 ∧ stage (tStage 3) ≠ 7 := by
  decide +kernel

theorem test_resets : nextIs (exec .coldReset tMac) (fun t => t.job.isNone && stage t == 0 && rd t Fk.geomRegionsRegionMask == rd State.reset Fk.geomRegionsRegionMask) = true ∧
    [Instr.warmReset, .warmResetCmd, .bootCtlWarmReset].all (fun c => nextIs (exec c (wr tMac Fk.epochCount 9)) (fun t =>
      t.job.isNone && stage t == 3 && rd t Fk.epochCount == 9 && rd t Fk.bootResultWarmCount == 1)) = true := by decide +kernel

theorem test_rails : nextIs (exec (.railOutOfBand 2) tReady) (fun t => !t.part.service && rd t Fk.faultPartPartCode == 0x18) = true ∧
    nextIs (exec (.railOutOfBand 2) (tStage 4)) (fun t => stage t == 0) = true := by decide +kernel

/-- A job with a slot for itself in a channel of stack 0. -/
def tTraffic : State := { tMac with job := tMac.job.map (fun j => { j with tsets := [[⟨6, 0, [0x40]⟩]] }) }

theorem witness_UnitFaults : loaded tMac = true ∧ tMac.part.pcieUp = true ∧ stage tMac = 7 ∧ logicalOf tMac 0 = some 0 ∧ jobUsesForge tMac 0 0 = true ∧
    jobUsesRegion tMac 0 = true ∧ trafficOn tTraffic 0 = true ∧ loaded tReady = false ∧ logicalOf tReady 0 = some 0 ∧
    rd (wr tReady (Fk.faultPendForges 0) 0xFFFF) (Fk.faultPendForges 0) < 65536 ∧ rd (wr tReady (Fk.faultPendRegion 0) 1) (Fk.faultPendRegion 0) = 1 := by
  decide +kernel

theorem test_unit_faults : nextIs (exec .pllLock tMac) (fun t => !t.part.clocks && rd t Fk.faultPartPartCode == 0x19 && rd t Fk.faultJobJobCode == 0 && rd t Fk.bootJobJstate == 4) = true ∧
    nextIs (exec (.chipCtrl 1 2) tMac) (fun t => !t.part.service && rd t Fk.faultPartPartCode == 0x18) = true ∧
    nextIs (exec (.memPhy 0) tTraffic) (fun t => rd t Fk.faultDownMemStacks == 1 && rd t Fk.faultJobJobCode == 0x14) = true ∧
    nextIs (exec (.forgeFault 0 0 1 0) tMac) (fun t => rd t (Fk.geomForgeMaskForgeEn 0) == 0xFFFE && rd t Fk.faultJobJobCode == 0x15) = true ∧
    nextIs (exec (.regionFault 0 1 0) tMac) (fun t => rd t (Fk.geomForgeMaskForgeEn 0) == 0 && rd t Fk.faultJobJobCode == 0x16) = true := by decide +kernel

theorem test_host_link : nextIs (exec (.hostLink 3) (wr tMac (Fk.wqSqEnable 5) 1)) (fun t => !t.part.pcieUp && rd t (Fk.wqSqEnable 5) == 0 &&
      rd t Fk.faultJobJobCode == 0x17) = true ∧
    nextIs (exec (.hostLink 3) (wr tMac Fk.bootJobJstate 3)) (fun t => rd t Fk.faultJobJobCode == 0x17 && rd t Fk.bootJobJstate == 4) = true ∧
    nextIs (exec .pcieLinkReturn { tReady with part := { tReady.part with pcieUp := false } }) (fun t => t.part.pcieUp && rd t (Fk.wqSqEnable 5) == 0) = true ∧
    nextIs (exec (.pendingIsolation 0) (wr tReady (Fk.faultPendForges 0) 6)) (fun t => rd t (Fk.geomForgeMaskForgeEn 0) == 0xFFF9) = true := by decide +kernel

/-! Host accesses and queues. -/

/-- BAR4 window 0: page 0 of BAR4 shows 4 KiB at Hearth 0x1000, writable or not. -/
def tWin (w : Nat) : State :=
  let s := wr (wr (wr (wr tReady (Fk.memWinDevEnable 0) 1) (Fk.memWinDevSizeLog2 0) 12) (Fk.memWinDevBasePage 0) (aH 0x1000 / 4096)) (Fk.memWinDevWritable 0) w
  wr s Fk.memHearthShareRemotePct 10

theorem witness_RegisterWrites : tReady.part.pcieUp = true ∧ booted tReady = true ∧ fusedWindow tReady 0xF018 = false ∧ hwStateAt 0xF018 = none ∧
    ((fieldsAt 0xF018).map (·.lo)).Nodup ∧ booted (tStage 5) = false ∧ (tStage 5).part.pcieUp = true := by decide +kernel

/-- A W1C bit that hardware sets in the cycle of a clearing write ends set; a cycle later the write clears it. -/
theorem test_w1c_same_cycle :
    nextIs (exec (.registerWrite (Fk.epochStatusCrcDrop / 64) 8 (2 ^ (Fk.epochStatusCrcDrop % 64))) (raise tReady Fk.epochStatusCrcDrop)) (fun t => rd t Fk.epochStatusCrcDrop == 1) = true ∧
    nextIs (exec (.registerWrite (Fk.epochStatusCrcDrop / 64) 8 (2 ^ (Fk.epochStatusCrcDrop % 64))) (advance (raise tReady Fk.epochStatusCrcDrop) 1)) (fun t => rd t Fk.epochStatusCrcDrop == 0) = true := by
  decide +kernel

/-- WQ.HOST.CQ_HEAD, an RW field, takes a write; EPOCH.STATUS.CRC_DROP, a W1C bit, clears. -/
theorem test_register_writes : nextIs (exec (.registerWrite (Fk.wqHostCqHead 3 / 64) 8 (2 ^ (Fk.wqHostCqHead 3 % 64) * 77)) tReady) (fun t => rd t (Fk.wqHostCqHead 3) == 77) = true ∧
    nextIs (exec (.registerWrite (Fk.epochStatusCrcDrop / 64) 8 (2 ^ (Fk.epochStatusCrcDrop % 64))) (wr tReady Fk.epochStatusCrcDrop 1)) (fun t => rd t Fk.epochStatusCrcDrop == 0) = true ∧
    nextIs (exec (.registerWrite (Fk.epochCfgLead / 64) 8 (2 ^ (Fk.epochCfgLead % 64) * 300)) tReady) (fun t => rd t Fk.epochCfgLead == 256 && stagedVal t Fk.epochCfgLead == 300) = true := by
  decide +kernel

theorem witness_HostAccesses : (tWin 1).part.pcieUp = true ∧ winAddr (tWin 1) 4095 = some (aH 0x1FFF, true) ∧ winAddr (tWin 1) 4096 = none ∧
    remoteShut (tWin 1) (aH 0x1000) = false ∧ slotOf (tWin 1) (aH 0x1000) = none ∧ winAddr (tWin 0) 0 = some (aH 0x1000, false) ∧ stage (tStage 3) ≤ 3 ∧
    3 < stage (tStage 4) ∧ stage (tStage 4) ≠ 8 ∧ booted (tWin 1) = true ∧ doorbellOk (wr tReady (Fk.wqSqEnable 0) 1) 0 1 = true ∧
    doorbellOk tReady 0 1 = false ∧ rdBit tReady Fk.geomRegionsRegionMask 0 = true := by decide +kernel

theorem test_bar4 : nextIs (exec (.bar4Read 0 4 [] []) (tPut (tWin 1) (aH 0x1000) [5, 6])) (fun t => t.out.head? == some (.bar4 [5, 6, 0, 0] false)) = true ∧
    nextIs (exec (.bar4Write 0 [7, 8] false e0) (tWin 1)) (fun t => mBytes t.dev (aH 0x1000) 3 == [7, 8, 0]) = true ∧
    nextIs (exec (.bar4Write 0 [7, 8] false e0) (tWin 0)) (fun t => mBytes t.dev (aH 0x1000) 3 == [0, 0, 0] && rd t (Fk.tallyCount tBar4Discard) == 1) = true := by
  decide +kernel

theorem test_config_doorbell_thaw : nextIs (exec (.configRequest 0 none) (tStage 3)) (fun t => t.out.head? == some (.cfg true 0)) = true ∧
    nextIs (exec (.configRequest 0 none) { tStage 5 with part := { (tStage 5).part with vendorId := 0x1234 } }) (fun t => t.out.head? == some (.cfg false 0xF0081234)) = true ∧
    nextIs (exec (.doorbell 0 1) (wr tReady (Fk.wqSqEnable 0) 1)) (fun t => (getWq t 0).tail == 1) = true ∧
    nextIs (exec (.doorbell 0 1) tReady) (fun t => rd t (Fk.wqStatusDberr 0) == 1) = true ∧
    nextIs (exec (.thawRecord 8) { tReady with hwChip := { hwEmpty with frozen := true } }) (fun t => !t.hwChip.frozen) = true := by decide +kernel

/-- An entry of queue `q` with OP `op` for context 3 and slot 1. -/
def tEntry (q op : Nat) : Entry := { q := q, idx := 0, op := op, eflags := 0, ctx := 3, tag := 0x55, addr0 := 0, addr1 := 0, len0 := 0, len1 := 0, slot := 1, set := 0xFFFF }

/-- The entry fetched into its queue, with a completion ring of one page at host 0x10000 set. -/
def tQueue (s : State) (e : Entry) : State :=
  let s := wr (wr s (Fk.wqCqCqPage e.q) 16) (Fk.wqCqCqLog2 e.q) 6
  modWq s e.q (fun w => { w with entries := [e], todo := [e], cqSet := true })

/-- Tag and STATUS of the record just written to the ring, and its CODE. -/
def record (t : State) : List Byte := (mBytes t.host 0x10000 1) ++ (mBytes t.host 0x10004 1) ++ (mBytes t.host 0x10006 1)

/-- The job with context 3 of queue 2 in file mode. -/
def tCtx : State := wr (wr tMac (Fk.ctxCfgMode 3) 1) (Fk.ctxCfgWq 3) 2

theorem witness_QueueEntries : queueUp tReady = true ∧ rd (wr tReady (Fk.wqSqEnable 2) 1) (Fk.wqSqEnable 2) ≠ 0 ∧
    rd tReady (Fk.wqHeadsSqHead 2) ≠ (getWq (modWq tReady 2 (fun w => { w with tail := 1 })) 2).tail ∧
    ([7, 6, 3, 4, 5].all (fun op => nextTodo (tQueue tCtx (tEntry 2 op)) 2 op == some (tEntry 2 op))) = true ∧
    ctxOk (tQueue tCtx (tEntry 2 4)) 2 3 = true ∧ ctxOk (tQueue tMac (tEntry 2 4)) 2 3 = false ∧ jobActive tMac = true ∧ jobActive tReady = false ∧
    nextTodo (tQueue tMac (tEntry 0 3)) 0 3 = some (tEntry 0 3) ∧ rd tMac Fk.bootJobJstate ≠ jPaused ∧ jobActive (wr tMac Fk.bootJobJstate 3) = true ∧
    (getSlot tCtx 2 1).st = .free ∧ (getS tCtx 3 false).enc = none ∧ (getS tCtx 3 true).enc = none := by decide +kernel

theorem test_entries : nextIs (exec (.nopEntry 2) (tQueue tReady (tEntry 2 7))) (fun t => record t == [0x55, 0, 0] && rd t (Fk.wqHeadsCqTail 2) == 1) = true ∧
    nextIs (exec (.releaseEntry 2) (tQueue tReady (tEntry 2 6))) (fun t => record t == [0x55, 0, 0]) = true ∧
    nextIs (exec (.stopEntry 2) (tQueue tMac (tEntry 2 3))) (fun t => record t == [0x55, 3, 0x0B]) = true ∧
    nextIs (exec (.stopEntry 0) (tQueue tReady (tEntry 0 3))) (fun t => record t == [0x55, 3, 0x0C]) = true ∧
    nextIs (exec (.itemEntry 2) (tQueue tMac (tEntry 2 4))) (fun t => record t == [0x55, 3, 0x0D]) = true ∧
    nextIs (exec (.itemEntry 2) (tQueue tCtx (tEntry 2 4))) (fun t => (getCtx t 3).items.length == 1) = true ∧
    nextIs (exec (.closeEntry 2) (tQueue tCtx (tEntry 2 5))) (fun t => record t == [0x55, 0, 0]) = true := by decide +kernel

/-- A fetch of a poisoned entry, and of one with OP 0. -/
theorem test_entry_fetch : [true, false].all (fun bad => nextIs (exec (.entryFetch 2 bad) (modWq (wr (tQueue tReady (tEntry 2 7)) (Fk.wqSqEnable 2) 1) 2 (fun w =>
    { w with entries := [], todo := [], tail := 1 }))) (fun t => record t == [0, 3, 0x0E] && rd t (Fk.wqStatusFetchPoison 2) == b2n bad)) = true := by decide +kernel

/-- An image of one descriptor, one HALT and a schedule of one table set with no table, at Hearth 0. -/
def tImage : State :=
  let put := fun (s : State) (x : Nat × List Nat) => tPut s (aH x.1) x.2
  [(0, [0x49, 0x5A, 0x4E, 0x4F, 1, 0, 0x20, 1, 0, 1, 0, 0, 1]), (0x10, [0x80]), (0x20, [0xC0]), (0x39, [1]), (0x40, [0xC0, 4]), (0xC0 + 15, [0x44]),
    (0x100, [0x53, 0x43, 0x44, 0x53, 1, 0, 3, 1, 64]), (0x110, [128]), (0x118, [1]), (0x11D, [4]), (0x120, [192]), (0x185, [1, 1]), (0x18C, [1])].foldl put tReady

/-- LOAD of it. -/
def tLoad : Entry := { tEntry 0 1 with addr0 := aH 0, len0 := 1472 }

/-- A loaded job with a shape of at most 4, and RUN of it; the shape table at host 0x2000 begins with 5. -/
def tLoaded : State :=
  let d := { tDesc (aH 0x1000) 1 4 1 1 with bkt := 1 }
  let s := wr { tReady with job := some { tJob [d] [0] [tPlace 0 0] with bkts := [⟨0, 1, [[4]]⟩] } } Fk.bootJobJstate 1
  { s with host := mWrite [] s.host 0x2000 [5] }

def tRun (a : Nat) : Entry := { tEntry 0 2 with addr0 := a }

theorem witness_LoadAndRun : queueUp tReady = true ∧ nextTodo (tQueue tReady (tEntry 2 1)) 2 1 = some (tEntry 2 1) ∧
    nextTodo (tQueue tImage tLoad) 0 1 = some tLoad ∧ (admission (actOn (tQueue tImage tLoad) tLoad) tLoad okLoad).2 = none ∧
    loadRefused (actOn (tQueue tImage tLoad) tLoad) tLoad okLoad = none ∧ loadRefused (actOn (tQueue tImage tLoad) tLoad) tLoad { okLoad with noSlot := true } = some "R27" ∧
    (admission (actOn (tQueue tReady tLoad) tLoad) tLoad okLoad).2 = some 2 ∧ nextTodo (tQueue tLoaded (tRun 0x2000)) 0 2 = some (tRun 0x2000) ∧
    rd tLoaded Fk.bootJobJstate = jLoaded ∧ (tLoaded.job.map (·.waiting)) = some false ∧ hoopsReady tLoaded = true ∧
    tLoaded.job.map (runShapeOver (setShapes tLoaded (hostRead tLoaded false 0x2000 192).1) (hostRead tLoaded false 0x2000 192).1) = some (some (0, 0, 5, 4)) ∧
    tLoaded.job.map (runShapeOver (setShapes tLoaded (List.replicate 192 0)) (List.replicate 192 0)) = some none ∧
    loadHeld 0 (tQueue tImage tLoad) = false := by decide +kernel

theorem test_load : nextIs (exec (.loadEntry 2 okLoad) (tQueue tReady (tEntry 2 1))) (fun t => record t == [0x55, 3, 0x0B]) = true ∧
    nextIs (exec (.loadEntry 0 okLoad) (tQueue tReady tLoad)) (fun t => record t == [0x55, 3, 2]) = true ∧
    nextIs (exec (.loadEntry 0 okLoad) (tQueue tImage tLoad)) (fun t => rd t Fk.bootJobJstate == 1 && (t.job.map (fun j => (j.places.length, j.epochMax))) == some (1, 1024)) = true := by
  decide +kernel

theorem test_run : nextIs (exec (.runEntry 0 false) (tQueue tLoaded (tRun 0x2000))) (fun t => record t == [0x55, 2, 1] && rd t Fk.bootJobJstate == 1) = true ∧
    nextIs (exec (.runEntry 0 false) (tQueue tLoaded (tRun 0))) (fun t => (t.job.map (·.waiting)) == some true) = true := by decide +kernel

/-- An item of context 3 whose copies run, and one that is taken. -/
def tItem (taken : Bool) : State :=
  let e := { tEntry 2 4 with addr0 := 0x3000, len0 := 2 }
  let s := modCtx (tQueue tCtx e) 3 (fun x => { x with items := [⟨e, [], [], false, if taken then some 0 else none, taken, []⟩] })
  { s with host := mWrite [] s.host 0x3000 [8, 9] }

/-- A record that waits on queue 2. -/
def tWaits : State := { tQueue tReady (tEntry 2 7) with waitRecs := [⟨2, List.replicate 64 3, some 1⟩] }

theorem witness_ItemsAndRecords : ((getCtx (tItem false) 3).items.map (fun x => (x.entry.q, x.entry.idx, x.doneAt))) = [(2, 0, none)] ∧
    ((takenItem (tItem true) 2 0).map (·.entry.ctx)) = some 3 ∧ levelOf (slotAddr (tItem true) 2 1) ≠ 5 ∧ resultLen [] ≤ rd (tItem true) (Fk.wqResRsize4k 2) * 4096 - 64 ∧ cqRoom tWaits 2 = true ∧ tWaits.part.pcieUp = true ∧
    ((List.range 128).findSome? (fun c => (getCtx (tItem false) c).items.find? (fun x => decide (x.entry.q = 2) && decide (x.entry.idx = 0) && x.doneAt.isNone))).isSome = true := by
  decide +kernel

theorem test_items : nextIs (exec (.itemEligible 2 0 (aH 0x7000) (aH 0x7100) false) (tItem false)) (fun t => mBytes t.dev (aH 0x7000) 2 == [8, 9] &&
      ((getCtx t 3).items.map (·.doneAt)) == [some 0]) = true ∧
    nextIs (exec (.resultReady 2 0 []) (tItem true)) (fun t => (getSlot t 2 1).st == .ready && rd t (Fk.ctxStatItems 3) == 1 && (getCtx t 3).items.isEmpty) = true ∧
    nextIs (exec (.cqRecordFlush 2) tWaits) (fun t => t.waitRecs.isEmpty && rd t (Fk.wqHeadsCqTail 2) == 1 && mBytes t.host 0x10000 1 == [3] &&
      t.out.head? == some (.msix 1)) = true := by decide +kernel

theorem test_host_read_error : nextIs (exec (.hostReadError 1 2 0 (aH 0x7000) (aH 0x7100)) (tItem false)) (fun t => rd t (Fk.wqStatusFetchPoison 2) == 1 &&
    mBad t.dev (aH 0x7000)) = true := by decide +kernel

/-! Temper sets and releases. -/

/-- FAULT.THRESH.STORE_CE is the field that the tests write. -/
def kT : Nat := Fk.faultThreshStoreCe

/-- Set 3 holds 5 for it; `st` and `pd` set its STAGED and PENDING bits. -/
def tSet (st pd : Nat) : State :=
  wr (wr { tReady with sets := [(3, [(kT, 5)])], written := [kT], staging := [(kT, some 7)] } Fk.temperSetsStaged (8 * st)) Fk.temperSetsPending (8 * pd)

/-- The set's check runs. -/
def tCheck (k v : Nat) : State := { wr (tSet 0 0) Fk.temperStatusResult 1 with checking := some 3, sets := [(3, [(k, v)])] }

theorem witness_TemperCommands : hostWrites (tSet 0 0) = true ∧ hostWrites (tCheck kT 5) = true ∧ rd (tCheck kT 5) Fk.temperStatusResult = 1 ∧
    rd (tSet 0 0) Fk.temperStatusResult ≠ 1 ∧ rdBit (tSet 1 1) Fk.temperSetsPending 3 = true ∧ rdBit (tSet 1 0) Fk.temperSetsStaged 3 = true ∧
    rdBit (tSet 1 0) Fk.temperSetsPending 3 = false ∧ rdBit (tSet 0 0) Fk.temperSetsStaged 3 = false ∧ programNames (tSet 0 0) 3 = false ∧
    programNames { wr (tSet 0 0) Fk.bootJobJstate 1 with job := some (tJob [] [0x42 * 2 ^ 120 + 3] []) } 3 = true ∧ (tCheck kT 5).checking = some 3 ∧
    temperCheck { tCheck kT 5 with checking := none } (setOf (tCheck kT 5) 3) = none ∧
    (temperCheck { tCheck Fk.epochCfgLead 10 with checking := none } (setOf (tCheck Fk.epochCfgLead 10) 3)).isSome = true ∧ running (tSet 1 1) = false ∧
    applyOrder { tSet 1 1 with hostSets := [3] } = [3] ∧ kT ∈ [Fk.bellowsCapStgCap, Fk.bellowsCapStgHyst, Fk.bellowsThermWarmC, Fk.faultThreshStoreCe, Fk.faultThreshDramCe] ∧
    setOf (tSet 0 0) 3 = [(kT, 5)] ∧ temperCheck (tSet 0 0) [(kT, 5)] = none := by decide +kernel

theorem test_temper_commands : nextIs (exec (.temperStage 3) (tSet 0 0)) (fun t => setOf t 3 == [(kT, 7)] && rd t Fk.temperStatusResult == 1) = true ∧
    nextIs (exec (.temperApply 3) (tSet 1 0)) (fun t => t.hostSets == [3] && rd t Fk.temperSetsPending == 8) = true ∧
    nextIs (exec (.temperDiscard 3) (tSet 0 0)) (fun t => stagedVal t kT == rd t kT) = true ∧
    nextIs (exec (.temperFree 3) (tSet 0 1)) (fun t => rd t Fk.temperStatusResult == 3) = true ∧
    nextIs (exec .stageCheckDone (tCheck kT 5)) (fun t => rd t Fk.temperStatusResult == 2 && rd t Fk.temperSetsStaged == 8) = true ∧
    nextIs (exec .stageCheckDone (tCheck Fk.epochCfgLead 10)) (fun t => rd t Fk.temperStatusResult == 3 && rd t Fk.temperField == Fk.epochCfgLead) = true := by decide +kernel

theorem test_temper_apply : nextIs (exec .temperSetApply { tSet 1 1 with hostSets := [3], cc := 13 }) (fun t => rd t kT == 5 && t.cc == 16 &&
    rd t Fk.temperSetsPending == 0) = true := by decide +kernel

/-- The job at a barrier of the part that its one region reached at CCLK 100; `f` changes the job. -/
def tBar (f : Job → Job) : State :=
  let s := modRegion (tState (f (tJob [] [0, 0, 0] [tPlace 0 0, tPlace 1 0, tPlace 2 0]))) 0 (fun x => { x with run := .barrier, pc := 0 })
  { s with cc := 120, root := { s.root with lastArr := 100, prevCc := some 0 } }

/-- A RUN waits. -/
def tWaiting : State :=
  { tReady with cc := 120, job := some { tJob [] [0, 0] [tPlace 1 0] with waiting := true, first := true } }

/-- The same in RECORD, of a job with a bucketed tensor. -/
def tShapes : State :=
  let d := { tDesc (aH 0x1000) 1 4 1 1 with bkt := 1 }
  wr { tWaiting with job := tWaiting.job.map (fun j => { j with descs := [d], bkts := [⟨0, 1, [[4]]⟩], run := some (tEntry 0 2), shapeTab := List.replicate 192 0 }) }
    Fk.auditWcfgWmode 1

/-- In REPLAY with nothing supplied. -/
def tReplay : State := wr (tBar id) Fk.auditWcfgWmode 2

/-- A MEMBER with a release of epoch 7 at 1,000 ns. -/
def tPend : State := { wr (tBar id) Fk.epochCfgRole 2 with root := { (tBar id).root with relPend := some (7, 1000) } }

theorem witness_Releases : soloDue (tBar id) = some 1024 ∧ replayBlocked (advanceTo (tBar id) 1024) = false ∧ soloDue tWaiting = some 64 ∧
    soloDue tReplay = some 1024 ∧ replayBlocked (advanceTo tReplay 1024) = true ∧ applyOrder (tBar id) = [] ∧ rd (tBar id) Fk.auditWcfgWmode ≠ wmReplay ∧
    soloDue (tBar (fun j => { j with stops := [tEntry 2 3] })) = some 1024 ∧ soloDue (tBar (fun j => { j with pausing := true })) = some 1024 ∧
    soloDue tShapes = some 64 ∧ (tShapes.job.bind (·.run)).isSome = true ∧ (tShapes.job.map (fun j => j.descs.any (fun d => decide (d.bkt ≠ 0)))) = some true ∧
    rd tShapes Fk.auditWcfgWmode = wmRecord ∧ replayBlocked (advanceTo tShapes 64) = false ∧ tWaiting.resume = none ∧ (tWaiting.job.map jobRegions) = some [0] ∧ regionCount tWaiting = 1 ∧ role tPend ≠ roleSolo ∧
    tPend.part.clocks = true ∧ replayBlocked (advance tPend (ccUntil tPend 1000)) = false ∧
    replayBlocked { tBar id with root := { (tBar id).root with starved := true } } = false := by decide +kernel

theorem test_releases : nextIs (exec .soloRelease (tBar id)) (fun t => rd t Fk.epochCount == 1 && t.cc == 1024 && (getRegion t 0).run == .running && (getRegion t 0).pc == 1) = true ∧
    nextIs (exec .epochRelease tWaiting) (fun t => rd t Fk.bootJobJstate == 2 && (getRegion t 0).pc == 1 && t.cc == 120) = true ∧
    nextIs (exec .soloRelease (tBar (fun j => { j with pausing := true }))) (fun t => rd t Fk.bootJobJstate == 3) = true ∧
    nextIs (exec .soloRelease tShapes) (fun t => t.witness.map (fun w => (w.kind, w.source, w.value, w.bytes)) == [(1, 0, 0, 192)]) = true ∧
    nextIs (exec .epochRelease tPend) (fun t => rd t Fk.epochCount == 7 && t.cc == 120 + 1500) = true ∧
    nextIs (exec .replayWaitEnd { tBar id with root := { (tBar id).root with starved := true } }) (fun t => rd t Fk.epochCount == 1 && !t.root.starved) = true := by
  decide +kernel

/-- One entry to write, the log area of one page at Hearth 0x9000; `lost` entries were lost and `full` bytes are written and not confirmed. -/
def tWit (lost full : Nat) : State :=
  let s := wr (wr (wr tReady Fk.auditWbase (aH 0x9000)) Fk.auditWsizeSize4k 1) Fk.auditWdev full
  { s with witness := [⟨2, 0, 5, 9, 3, 0x77, 0, List.replicate 32 0⟩], witLost := lost }

/-- A paused job whose image is being written to Hearth 0xA000. -/
def tSaving : State :=
  wr (wr { tReady with job := some { tJob [] [0] [tPlace 0 0] with saving := true } } Fk.bootJobJstate 3) Fk.auditSaveBase (aH 0xA000)

theorem witness_WitnessAndSave : logFull (tWit 0 4096) = true ∧ logFull (tWit 0 64) = false ∧ (tWit 2 64).witLost ≠ 0 ∧ logFull (tWit 2 64) = false ∧ logFull (tWit 2 4032) = false ∧
    hotSpan (tWit 2 64) (rd (tWit 2 64) Fk.auditWbase) (logSize (tWit 2 64)) = false ∧ hotSpan tSaving (aH 0xA000) 4096 = false ∧
    wrapSub 64 128 0 < logSize (tWit 2 64) ∧ ¬ wrapSub 64 4096 0 < logSize (tWit 2 4032) ∧ tReady.witness = [] ∧ tReady.job = none ∧
    (tSaving.job.map (·.saving)) = some true ∧ tSaving.part.clocks = true ∧ rd tSaving Fk.bootJobJstate = jPaused := by decide +kernel

theorem test_witness_write : nextIs (exec .witnessWrite (tWit 0 64)) (fun t => rd t Fk.auditWdev == 128 && mBytes t.dev (aH 0x9040) 5 == [2, 0, 5, 0, 9]) = true ∧
    nextIs (exec .witnessWrite (tWit 0 4096)) (fun t => t.witLost == 1 && rd t Fk.auditStatusWitnessFull == 1) = true ∧
    nextIs (exec .witnessWrite (tWit 2 0)) (fun t => mBytes t.dev (aH 0x9000) 1 == [7] && mBytes t.dev (aH 0x9040) 1 == [2]) = true ∧
    nextIs (exec .witnessWrite (tWit 2 4032)) (fun t => mBytes t.dev (aH 0x9FC0) 1 == [7] && t.witLost == 1 && t.witness == []) = true := by decide +kernel

theorem test_save : nextIs (exec (.saveComplete true []) tSaving) (fun t => rd t Fk.auditStatusSaved == 1 && mBytes t.dev (aH 0xA000) 4 == [0x53, 0x41, 0x56, 0x45]) = true ∧
    nextIs (exec (.saveComplete false []) tSaving) (fun t => rd t Fk.auditStatusSaveFail == 1 && t.dev == tSaving.dev) = true := by decide +kernel

/-- The region holds for a beat. -/
def tHeld : State := modRegion (wr (tState (tJob [] [0] [tPlace 0 0])) Fk.epochCycle 70) 0 (fun x => { x with
  run := .holding, awaits := some .beat, holdSince := 60, landing := [⟨aH 0x40, 50, [], (false, false)⟩], prog := [3] })

/-- A region at a governor pace of 1. -/
def tSlow : State := wr tMac (Fk.bellowsRegionPwrPace 0) 1

/-- A region that was stretched up to SCYC 20. -/
def tWas : State := modRegion tMac 0 (fun x => { x with lastStretch := some 20 })

theorem witness_BeatsAndHolds : seqOk tMac 0 = true ∧ regionStretched (untilScyc tSlow 0 50) 0 10 = true ∧ regionStretched (untilScyc tMac 0 50) 0 10 = false ∧
    regionStretched (untilScyc tWas 0 50) 0 10 = true ∧ regionStretched (untilScyc tWas 0 50) 0 21 = false ∧
    (getRegion tHeld 0).awaits = some .beat ∧ (getRegion tHeld 0).run = .holding ∧ running tHeld = true ∧ waitOver tHeld 0 .beat = true ∧
    tHeld.part.clocks = true := by decide +kernel

theorem test_beats : nextIs (exec (.beatRelease 0 (aH 0x40) ⟨10, 50, [], []⟩ true false) tMac) (fun t => rd t (Fk.rschedScyc 0) == 50 && (getRegion t 0).run == .running) = true ∧
    nextIs (exec (.beatRelease 0 (aH 0x40) ⟨10, 50, [], []⟩ false true) tMac) (fun t => (getRegion t 0).run == .holding && rd t Fk.schedStatusHold == 1) = true ∧
    nextIs (exec (.beatRelease 0 (aH 0x40) ⟨10, 50, [], []⟩ false false) tMac) (fun t => rd t Fk.schedStatusMiss == 1 && rd t Fk.faultJobJobCode == 6) = true ∧
    nextIs (exec (.holdResume 0) tHeld) (fun t => rd t Fk.epochCycle == 96 && (getRegion t 0).run == .running && rd t (Fk.rschedLag 0) == 26 &&
      ((getRegion t 0).handed.map (·.addr)) == some (aH 0x40)) = true ∧
    nextIs (exec (.holdResume 0) (modRegion tHeld 0 (fun x => { x with holdSince := 70 }))) (fun t => rd t (Fk.rschedLag 0) == 0 && rd t (Fk.rschedScyc 0) == 26) = true := by
  decide +kernel

/-! Domains and links. -/

/-- `s` with port `p` as `x`. -/
def tPort (s : State) (p : Nat) (x : Port) : State := modPort s p (fun _ => x)

/-- A part with role `r` in a domain of two, its time parent at port 2 and its time child at port 5, both UP. -/
def tDom (r : Nat) : State :=
  let s := wr (wr (wr tReady Fk.epochCfgRole r) Fk.epochCfgTimeParent 2) Fk.tlDomainChildren 32
  wr (wr (wr s (Fk.tlPstateState 2) 3) (Fk.tlPstateState 5) 3) Fk.tlDomainDomainParts 2

/-- The same, with no time child. -/
def tLeaf (r : Nat) : State := wr (wr (tDom r) Fk.tlDomainChildren 0) Fk.epochCalCalValid 1

/-- On the side path, `n` good SYNCs received. -/
def tSide (n : Nat) : State := { tLeaf 2 with root := { (tLeaf 2).root with missed := 4, goodRun := n } }

theorem witness_RootlineFrames : role (tLeaf 2) = roleMember ∧ role (tLeaf 1) = roleRoot ∧ (tLeaf 2).part.clocks = true ∧ onSidePath (tLeaf 2) = false ∧
    onSidePath (tSide 3) = true ∧ (tSide 15).root.goodRun + 1 = 16 ∧ (tLeaf 2).root.relSeen ≠ some (7 % 2 ^ 32) ∧
    calThirds { tLeaf 2 with root := rootEmpty } ≤ ((1000 % 2 ^ 64 * 196608 : Nat) : Int) ∧
    calThirds (wr (tLeaf 2) Fk.epochTimeNs 2000) > ((1000 % 2 ^ 64 * 196608 : Nat) : Int) ∧ portState (tLeaf 2) (rd (tLeaf 2) Fk.epochCfgTimeParent) = 3 ∧
    portState (wr (tLeaf 2) (Fk.tlPstateState 2) 1) (rd (wr (tLeaf 2) (Fk.tlPstateState 2) 1) Fk.epochCfgTimeParent) ≠ 3 ∧
    (1 % 65536 ≠ crc16 (syncChars 5 6 7)) := by decide +kernel

theorem test_frames : nextIs (exec (.syncFrame 5000 9 7 (crc16 (syncChars 5000 9 7))) (tLeaf 2)) (fun t => rd t Fk.epochTimeNs == 5000 && rd t Fk.epochTimeAuxTimeState == 2) = true ∧
    nextIs (exec (.syncFrame 5 6 7 (crc16 (syncChars 5 6 7))) (tSide 15)) (fun t => !onSidePath t && rd t Fk.epochTimeNs == 0) = true ∧
    nextIs (exec (.releaseFrame 7 1000 (crc16 (releaseChars 7 1000))) (tLeaf 2)) (fun t => t.root.relPend == some (7, 1000) && rd t Fk.epochStatusLateRelease == 0) = true ∧
    nextIs (exec (.releaseFrame 7 1000 (crc16 (releaseChars 7 1000))) (wr (tLeaf 2) Fk.epochTimeNs 2000)) (fun t => rd t Fk.epochStatusLateRelease == 1) = true ∧
    nextIs (exec .rootlineLoss (wr (tLeaf 2) (Fk.tlPstateState 2) 1)) (fun t => rd t Fk.epochTimeAuxTimeState == 3) = true := by decide +kernel

/-- A SYNC is the root's frame 0 of 12; the frame re-sent is the one that came, and with a bad CRC as it came. -/
theorem test_root_frame : nextIs (exec .rootFrameSend (wr (tLeaf 1) Fk.epochTimeNs 0x0102)) (fun t => match t.out with
      | [.rootline l] => l.take 4 == [1, 2, 1, 0] && l.length == 15
      | _ => false) = true ∧
    nextIs (exec (.idleFrame 1) (tLeaf 2)) (fun t => rd t Fk.epochStatusCrcDrop == 1 && t.out == [.rootline (idleChars ++ [0, 1])]) = true := by decide +kernel

/-- A message's 13 bytes. -/
def msg (l : List Byte) : List Byte := (l ++ m13).take 13

/-- The request of exchange 3 was sent at 100 ns; it is the last for `n` of 255. -/
def tCal (n : Nat) : State :=
  let s := tLeaf 2
  { wr s Fk.epochCalCalValid 0 with root := { s.root with calOn := true, calN := n, calT3 := 6553600 } }

/-- A running job with JOB_TAG 9. -/
def tTag : State := wr (wr (wr tMac (Fk.tlPstateState 2) 3) Fk.tlCtlJobTag 9) Fk.epochCfgRole 2

/-- Port 2 ALIGNED with HELLO sent, and in RETRAIN with its peer 1 known. -/
def tAligned : State := tPort (wr (tLeaf 2) (Fk.tlPstateState 2) 2) 2 { portEmpty with helloSent := true }

def tRetrain : State := tPort (wr (wr (tLeaf 2) (Fk.tlPstateState 2) 4) (Fk.tlPstatePeerId 2) 1) 2 { portEmpty with synced := true }

theorem witness_SideMessages : sideTaken (tLeaf 2) 2 = true ∧ sideTaken (tLeaf 2) 3 = false ∧ isParentPort (tSide 0) 2 = true ∧ sideTaken (tSide 0) 2 = true ∧
    onSidePath (tSide 0) = true ∧ le (msg (releaseChars 7 1000)) 0 1 = 2 ∧ (tSide 0).root.relSeen ≠ some (le (msg (releaseChars 7 1000)) 1 4) ∧
    isChildPort (tDom 1) 5 = true ∧ sideTaken (tDom 1) 5 = true ∧ isChildPort (tLeaf 2) 2 = false ∧ sideTaken tTag 2 = true ∧
    tTag.root.aborts.contains (le (msg [5, 9, 0, 1]) 3 4, le (msg [5, 9, 0, 1]) 7 4) = false ∧ running tTag = true ∧
    rd tTag Fk.tlCtlJobTag = le (msg [5, 9, 0, 1]) 1 2 ∧ le (msg [1, 3, 0]) 0 1 ≠ 0 ∧ isParentPort (tCal 255) 2 = true ∧ (tCal 255).root.calOn = true ∧
    le (msg [1, 255, 0]) 1 2 = (tCal 255).root.calN ∧ sideTaken (tCal 255) 2 = true ∧ portState tAligned 2 = 2 ∧ sideTaken tAligned 2 = true ∧
    portState tRetrain 2 = 4 ∧ sideTaken tRetrain 2 = true ∧ samePeer tRetrain 2 (msg [0, 1]) = true ∧ samePeer tRetrain 2 (msg [0, 2]) = false := by
  decide +kernel

theorem test_messages : nextIs (exec (.rootlineMsg 2 (releaseChars 7 1000)) (tSide 0)) (fun t => t.root.relPend == some (7, 1000)) = true ∧
    nextIs (exec (.arriveMsg 5 (msg [4, 1, 0, 0, 0, 0, 0, 0, 0, 3])) (tDom 1)) (fun t => mget (fun _ => none) t.root.arrivals 5 == some ⟨3, 0, 1, false, false, true, 0⟩) = true ∧
    nextIs (exec (.abortMsg 2 (msg [5, 9, 0, 1])) tTag) (fun t => rd t Fk.faultJobJobCode == 0x0D && rd t Fk.tlStatusAbortRx == 1) = true ∧
    nextIs (exec (.helloMsg 2 (msg [0, 1, 0, 0, 0, 3])) tAligned) (fun t => portState t 2 == 3 && rd t (Fk.tlPstatePeerPort 2) == 3 && rd t (Fk.tlPcredTxCredit 2) == 512) = true ∧
    nextIs (exec (.helloMsg 2 (msg [0, 2])) tRetrain) (fun t => portState t 2 == 5) = true := by decide +kernel

/-- At time 0 of the part: t1 is 50 ns before, t3 was 100 ns, t4 is 200 ns, so a doubled offset of 50 - 100 and a doubled delay of 50 + 100. -/
theorem test_cal : nextIs (exec (.calMsg 2 (msg ([1, 3, 0] ++ toLE 8 (2 ^ 64 - 3276800))) 13107200) (tCal 3)) (fun t => t.root.calN == 4 &&
    t.root.calOff == -3276800 && t.root.calDelay == 9830400) = true := by decide +kernel

/-- The root with its child's ARRIVE, and DIGEST, epoch and count of it as given. -/
def tRoot (digest epoch count : Nat) : State :=
  let s := tDom 1
  { s with root := { s.root with arrivals := [(5, some ⟨count, digest, epoch, false, false, false, 0⟩)], firstArr := some 0 } }

/-- The same with a second child that has not arrived. -/
def tMissing : State := wr (tRoot 0 1 1) Fk.tlDomainChildren 96

theorem witness_DomainBarriers : mayArrive (tLeaf 2) = true ∧ mayArrive (tDom 2) = false ∧ rootReady (tRoot 0 1 1) = true ∧ rootReady (tDom 1) = false ∧
    isMixed (tRoot 0 1 1) = false ∧ isSkew (tRoot 0 1 1) = false ∧ partsCounted (tRoot 0 1 1) = rd (tRoot 0 1 1) Fk.tlDomainDomainParts ∧
    isMixed (tRoot 1 1 1) = true ∧ isMixed (tRoot 0 9 1) = false ∧ isSkew (tRoot 0 9 1) = true ∧ isSkew (tRoot 0 1 2) = false ∧
    partsCounted (tRoot 0 1 2) ≠ rd (tRoot 0 1 2) Fk.tlDomainDomainParts ∧ rootReady (tRoot 1 1 1) = true ∧ timeoutFrom tMissing = some 0 ∧ timeoutFrom (tRoot 0 1 1) = none ∧ tMissing.part.clocks = true ∧
    timeoutFrom tReady = none ∧ tMissing.part.service = true ∧ parentPort (tCal 3) = some 2 ∧ portState (tCal 3) 2 = 3 ∧
    rd (tCal 3) Fk.epochCalCalValid = 0 ∧ (tCal 3).root.calOn = true ∧ onSidePath (tSide 0) = true ∧ parentPort (tSide 0) = some 2 ∧
    portState (tSide 0) 2 = 3 := by decide +kernel

theorem test_barriers : nextIs (exec .arriveSend (tLeaf 2)) (fun t => rd t Fk.tlBarrierSentUp == 1 && rd t Fk.tlBarrierWaitEpoch == 1) = true ∧
    nextIs (exec .rootRelease (tRoot 0 1 1)) (fun t => t.root.relPend == some (1, 1366) && t.root.relQueue.length == 3) = true ∧
    nextIs (exec .rootRelease (tRoot 1 1 1)) (fun t => rd t Fk.tlStatusProfileMixed == 1 && t.root.arrivals.isEmpty) = true ∧
    nextIs (exec .rootRelease (tRoot 0 9 1)) (fun t => rd t Fk.tlStatusEpochSkew == 1) = true ∧
    nextIs (exec .rootRelease (tRoot 0 1 2)) (fun t => rd t Fk.tlStatusDomainCount == 1) = true ∧
    nextIs (exec .epochTimeout tMissing) (fun t => t.cc == 1500000000 && t.root.arrivals.isEmpty) = true ∧
    nextIs (exec .calibration (tCal 3)) (fun t => t.root.calN == 0 && t.root.calOn) = true := by decide +kernel

/-- Port 3 UP; receive stream 7 is for hoop 5 of region 0, whose slots have `beats` beats of 64 bytes. -/
def tRx (beats : Nat) : State :=
  let s := tHoop beats 0 1 (wr (wr tMov (Fk.tlPstateState 3) 3) (Fk.tlPcredTxCredit 3) 500)
  wr (wr (wr (wr (wr s (Fk.tlRxsEn 7) 1) (Fk.tlRxsPort 7) 3) (Fk.tlRxsRegion 7) 0) (Fk.tlRxsHoop 7) 5) Fk.memHearthShareRemotePct 10

/-- The first flit of stream `k`, with 0 to 1 in its bytes 0 and 32, `m` beats, the second poisoned. -/
def tFl (k m : Nat) : FlitIn := { okFlit with stream := k, beatsM1 := m - 1, poison := 2, payload := [9] ++ List.replicate 31 1 ++ List.replicate 480 2 }

/-- Three data flits of numbers 4 to 6 are not acknowledged. -/
def tAcks : State :=
  tPort (tRx 8) 3 { portEmpty with unacked := [4, 5, 6].map (fun n => { flitEmpty with ty := 2, seq := n }), txSeq := 7 }

theorem witness_TinlinkFlits : linkOn (tRx 8) 3 = true ∧ (tFl 7 16).seq % 4096 = (getPort (tRx 8) 3).rxSeq ∧ okFlit.nak = false ∧ (getPort tAcks 3).txq = [] ∧
    (getPort tAcks 3).sideQ = [] ∧ linkOn tAcks 3 = true ∧ (tFl 7 16).sideV = false ∧ (getPort (tRx 8) 3).held = [] ∧ rxTarget (tRx 8) 3 6 = none ∧
    rxTarget (tRx 8) 3 7 = some (0, 5) ∧ posOf (tRx 8) 0 < 8 ∧ rxRoom (tRx 8) 0 5 = true ∧ hoopFill (tRx 8) 0 5 + 16 = 2 * rd (tRx 8) (Fk.hoopCfgSlotBeats 0 5) ∧
    hoopFill (tRx 9) 0 5 + 16 < 2 * rd (tRx 9) (Fk.hoopCfgSlotBeats 0 5) ∧ linkOn (tRx 9) 3 = true ∧ rxTarget (tRx 9) 3 7 = some (0, 5) ∧
    rxRoom (tRx 9) 0 5 = true := by decide +kernel

theorem test_flits : nextIs (exec (.dataFlit 3 (tFl 7 16)) (tRx 8)) (fun t => rd t (Fk.hoopTail 0 5) == 1 && mBytes t.dev (aH 0x8000) 2 == [9, 1] &&
      mBad t.dev (aH 0x8020) && (getPort t 3).rxSeq == 1 && slotMark t 0 5 0 == none) = true ∧
    nextIs (exec (.dataLastFlit 3 (tFl 7 1)) (tRx 9)) (fun t => rd t (Fk.hoopTail 0 5) == 1 && mBytes t.dev (aH 0x8000) 2 == [9, 1] &&
      mBad t.dev (aH 0x8020) && rd t Fk.tlStatusRxFormat == 1 && slotMark t 0 5 0 == some 0) = true ∧
    nextIs (exec (.dataFlit 3 (tFl 6 16)) (tRx 8)) (fun t => rd t Fk.tlStatusRxFormat == 1 && rd t Fk.faultJobJobCode == 0x0F) = true := by decide +kernel

theorem test_acks : nextIs (exec (.idleFlit 3 { okFlit with ack := 5, credit := 9 }) tAcks) (fun t => (getPort t 3).unacked.map (·.seq) == [6] &&
      rd t (Fk.tlPcredTxCredit 3) == 509) = true ∧
    nextIs (exec (.idleFlit 3 { okFlit with ack := 4, nak := true }) tAcks) (fun t => rd t (Fk.tlPerrReplays 3) == 2 && t.out.length == 2) = true ∧
    nextIs (exec (.dataFlit 3 { tFl 7 16 with seq := 1 }) (tRx 8)) (fun t => (getPort t 3).rxSeq == 0 && (getPort t 3).nakOut) = true := by decide +kernel

/-- Port 2 in state `st` of a MEMBER whose running job has the port as its time parent. -/
def tLink (st : Nat) (x : Port) : State := tPort (wr (wr tTag Fk.epochCfgTimeParent 2) (Fk.tlPstateState 2) st) 2 x

theorem witness_LinkEvents : portState (tLink 1 portEmpty) 2 = 1 ∧ portState (tLink 2 portEmpty) 2 = 2 ∧ portState (tLink 3 portEmpty) 2 = 3 ∧
    portState (tLink 4 portEmpty) 2 = 4 ∧ (tLink 1 portEmpty).part.clocks = true ∧ running (tLink 4 portEmpty) = true ∧
    jobUsesPort (tLink 4 portEmpty) 2 = true ∧ jobUsesPort (tLink 4 portEmpty) 3 = false ∧ isParentPort (tLink 3 portEmpty) 2 = true ∧
    (∃ n ∈ (getPort (tLink 3 { portEmpty with resends := [1, 8] }) 2).resends, 8 ≤ n) ∧ (getPort (tLink 3 portEmpty) 2).resends = [] ∧ (getPort (tLink 4 { portEmpty with synced := true }) 2).synced = true := by
  decide +kernel

theorem test_links : nextIs (exec (.linkAligned 2) (tLink 1 portEmpty)) (fun t => portState t 2 == 2 && (getPort t 2).helloSent) = true ∧
    nextIs (exec (.trainingTimeout 2) (tLink 1 portEmpty)) (fun t => portState t 2 == 5 && rd t Fk.tlStatusDown == 4 && rd t Fk.faultJobJobCode == 0x0E) = true ∧
    nextIs (exec (.helloTimeout 2) (tLink 2 portEmpty)) (fun t => portState t 2 == 1) = true ∧
    nextIs (exec (.fecLockLost 2) (wr (tLink 3 portEmpty) Fk.epochCalCalValid 1)) (fun t => portState t 2 == 4 && rd t Fk.epochCalCalValid == 0) = true ∧
    nextIs (exec (.replayLimit 2) (tLink 3 { portEmpty with resends := [1, 8] })) (fun t => portState t 2 == 4 && rd t (Fk.tlPerrRetrains 2) == 1) = true ∧
    nextIs (exec (.retrainTimeout 2) (tLink 4 portEmpty)) (fun t => portState t 2 == 5) = true := by decide +kernel

/-! Media and drains. -/

/-- Context 3 has LIVE entry 0 into hoop 5 of region 0, whose PUT_END is media ingress; its video flow, 2 by 2 in 4:2:0, and its audio flow of one channel of
6 samples a packet are on port 1, whose link is up. -/
def tMedia : State :=
  let s := wr (wr (tHoop 8 2 1 tMov) (Fk.hoopCfgEnable 0 5) 1) (Fk.mediaPortStateLinkUp 1) 1
  let s := wr (wr (wr s (Fk.liveSlotEn 0) 1) (Fk.liveSlotCtx 0) 3) (Fk.liveSlotHoop 0) 5
  let s := wr (wr (wr (wr (wr (wr s (Fk.mediaFlowVEn 3) 1) (Fk.mediaFlowVPort 3) 1) (Fk.mediaFlowVPt 3) 96) (Fk.mediaFlowVWidth 3) 2) (Fk.mediaFlowVHeight 3) 2)
    (Fk.mediaFlowVS420 3) 1
  wr (wr (wr (wr (wr s (Fk.mediaFlowAEn 3) 1) (Fk.mediaFlowAPort 3) 1) (Fk.mediaFlowAPt 3) 97) (Fk.mediaFlowAPtime 3) 1) (Fk.mediaFlowAL24 3) 1

/-- Line 0 of the picture of timestamp 100. -/
def tV : VideoPkt := ⟨96, true, false, false, 0, 100, [(0, 0, 0, 5), (0, 0, 1, 6)]⟩

/-- With its unit open. -/
def tOpen : State :=
  match exec (.mediaVideoPacket 3 tV) tMedia with
  | .next t => t
  | _ => tMedia

/-- Six samples from 100 on, the last of them 0x7FFF80: its INT16 code rounds and saturates. -/
def tA : AudioPkt := ⟨97, true, 0, 100, [[0, 0, 0, 0, 0x180, 0x7FFF80]]⟩

theorem witness_MediaPackets : rd tMedia (Fk.mediaPortStateLinkUp 1) ≠ 0 ∧ rd tMedia (Fk.mediaFlowVPort 3) = 1 ∧ rd tMedia (Fk.mediaFlowVEn 3) ≠ 0 ∧
    rd tMedia (Fk.mediaFlowVEn 4) = 0 ∧ rd (wr tMedia (Fk.mediaPortStateLinkUp 0) 1) (Fk.mediaPortStateLinkUp (rd tMedia (Fk.mediaFlowVPort 4))) ≠ 0 ∧
    videoFormatOk tMedia 3 tV = true ∧ videoFormatOk tMedia 3 { tV with pt := 95 } = false ∧ (getIn tMedia 3 false).isOpen = false ∧
    (getIn tOpen 3 false).isOpen = true ∧ (getIn tOpen 3 false).ts = tV.ts ∧ (getIn tOpen 3 false).drop = false ∧ ingressHoop tOpen 3 = some (0, 5) ∧
    posOf tOpen 0 < 8 ∧ unitRoom tOpen 0 5 (64 + (poisonBeats (videoData tOpen 3 (getIn tOpen 3 false))).length) = true ∧
    rd tMedia (Fk.mediaFlowAEn 3) ≠ 0 ∧ audioFormatOk tMedia 3 tA = true ∧ audioFormatOk tMedia 3 { tA with chans := [[0]] } = false ∧
    unitPast (getIn tMedia 3 false) tV.ts = false ∧ unitPast (getIn (unitClose tOpen 3 false) 3 false) tV.ts = true ∧ (getIn (unitClose tOpen 3 false) 3 false).isOpen = false ∧
    unitPast (getIn tMedia 3 true) (tA.ts % 2 ^ 32) = false ∧
    (getIn tMedia 3 true).isOpen = false ∧ ((getIn tMedia 3 true).t0).getD (tA.ts % 2 ^ 32) < 2 ^ 32 := by decide +kernel

theorem test_video : nextIs (exec (.mediaVideoPacket 3 { tV with marker := true, seq := 1, samples := [(0, 1, 0, 7), (0, 1, 1, 8), (1, 0, 0, 9), (2, 0, 0, 10)] }) tOpen)
    (fun t => rd t (Fk.mediaFlowVstatPictures 3) == 1 && rd t (Fk.hoopTail 0 5) == 1 && mBytes t.dev (aH 0x8040) 4 == [5, 0, 6, 0] &&
      mBytes t.dev (aH 0x8080) 4 == [7, 0, 8, 0] && mBytes t.dev (aH 0x80C0) 2 == [9, 0]) = true := by decide +kernel

theorem test_audio : nextIs (exec (.mediaAudioPacket 3 tA) tMedia) (fun t => gotAt (getIn t 3 true) 64 == some 2 && gotAt (getIn t 3 true) 80 == some 0x7FFF) = true := by
  decide +kernel

/-- Port 1 steers a SOLO part, 15 good Syncs seen. -/
def tPtp (lock : Nat) : State :=
  let s := wr (wr (wr (wr tReady Fk.epochCfgPtpPort 1) (Fk.mediaPortCtlEnable 1) 1) (Fk.mediaPortStatePtpLock 1) lock) (Fk.mediaPortStateLinkUp 1) 1
  { wr s Fk.epochTimeNs 5000 with root := { s.root with ptpGood := [(1, 15)] } }

theorem witness_MediaPorts : rd (tPtp 1) (Fk.mediaPortStateLinkUp 1) ≠ 0 ∧ rd tReady (Fk.mediaPortStateLinkUp 1) = 0 ∧ rd (tPtp 1) (Fk.mediaPortStatePtpLock 1) = 1 ∧
    ptpSteers (tPtp 1) 1 = true ∧ ptpSteers (tPtp 1) 0 = false ∧ rd (wr (tPtp 1) (Fk.mediaPortStateLinkUp 1) 0) (Fk.mediaPortCtlEnable 1) = 1 ∧
    rd tMedia (Fk.mediaFlowVEn 3) = 1 ∧ rd tMedia (Fk.mediaFlowVPort 3) = 1 ∧ mget (fun _ => 0) (tPtp 0).root.ptpGood 1 + 1 = 16 := by decide +kernel

theorem test_ptp : nextIs (exec (.ptpSync 1 65536) (tPtp 0)) (fun t => rd t (Fk.mediaPortStatePtpLock 1) == 1 && rd t Fk.epochTimeAuxTimeState == 2 && rd t Fk.epochTimeNs == 4999) = true ∧
    nextIs (exec (.ptpSync 1 (-65601536)) (tPtp 1)) (fun t => rd t (Fk.mediaPortStatePtpLock 1) == 0 && rd t Fk.epochTimeAuxTimeState == 3 && rd t Fk.epochTimeNs == 6001) = true ∧
    nextIs (exec (.ptpSync 1 6553600) (tPtp 1)) (fun t => rd t (Fk.mediaPortStatePtpLock 1) == 1 && t.root.ptpGood == []) = true ∧
    nextIs (exec (.ptpAnnounceTimeout 1) (tPtp 1)) (fun t => rd t Fk.epochStatusHoldover == 1) = true := by decide +kernel

theorem test_media_links : nextIs (exec (.mediaLinkDown 1) tOpen) (fun t => rd t (Fk.mediaPortStateLinkUp 1) == 0 && !(getIn t 3 false).isOpen) = true ∧
    nextIs (exec (.mediaLinkUp 1) (wr (tPtp 0) (Fk.mediaPortStateLinkUp 1) 0)) (fun t => rd t (Fk.mediaPortStateLinkUp 1) == 1) = true ∧
    nextIs (exec (.mediaFrameDiscard 1) (tPtp 0)) (fun t => rd t (Fk.mediaPortCnt0RxDiscard 1) == 1) = true := by decide +kernel

/-- Drain 3 of 7 packets a cycle to destination `dest`, with an ingot of slot 0, a late record of none, and an output ring of queue 2 at host 0x20000. -/
def tDrain (dest : Nat) : State :=
  let s := wr (wr (wr (wr (wr tMac (Fk.drainCfgEnable 3) 1) (Fk.drainCfgVideo 3) 1) (Fk.drainCfgDest 3) dest) (Fk.drainCycleC 3) 7) (Fk.ctxCfgWq 3) 2
  let s := wr (wr s (Fk.wqOrOrPage 2) 32) (Fk.wqOrOrLog2 2) 4
  modWq (modCtx s 3 (fun x => { x with drain := { x.drain with recs := [⟨true, 0, false, [1, 2, 3], 0, true, 0, some 0⟩] } })) 2 (fun w => { w with orSet := true })

/-- The same with slot 1 next. -/
def tLate : State := modCtx (tDrain 0) 3 (fun x => { x with drain := { x.drain with vSlot := 1 } })

theorem witness_Drains : slotDue (tDrain 0) 3 false = true ∧ slotDue (tDrain 0) 3 true = false ∧ rd (tDrain 0) Fk.auditWcfgWmode ≠ wmReplay ∧
    ((getCtx (tDrain 0) 3).drain.recs.find? (fun r => decide (r.video = true) && decide (r.slot = 0) && !r.pre)).isSome = true ∧
    ((getCtx tLate 3).drain.recs.filter (fun r => decide (r.video = true) && decide (r.slot < 1) && !r.pre)).length = 1 ∧ slotDue tLate 3 false = true ∧
    drainRuns (tDrain 0) 3 = true ∧ drainRuns tMac 3 = false ∧ rd (tDrain 1) (Fk.drainCfgDest 3) < 2 ∧
    rd (wr (tDrain 1) (Fk.mediaPortStateLinkUp 1) 1) (Fk.mediaPortStateLinkUp 1) = 1 ∧ rd (tDrain 2) (Fk.drainCfgDest 3) = 2 ∧
    ringRoom (tDrain 2) (rd (tDrain 2) (Fk.ctxCfgWq 3)) = true ∧ (tDrain 2).part.pcieUp = true ∧ ringRoom (modWq (tDrain 2) 2 (fun w => { w with orSet := false })) 2 = false ∧
    (getCtx (tDrain 2) 3).drain.vq = [] ∧ (getCtx (tDrain 2) 3).drain.aq = [] ∧ rd (wr (tDrain 2) Fk.auditWcfgWmode 2) Fk.auditWcfgWmode = wmReplay := by decide +kernel

theorem test_drain_action : nextIs (exec (.drainAction 3 false) (tDrain 0)) (fun t => let d := (getCtx t 3).drain
      d.vSlot == 1 && d.recs.isEmpty && d.vq.length == 1 && (d.vq.map (fun p => p.2.getLast?)) == [some 3] && t.drainWit == [(3, 0, false)]) = true ∧
    nextIs (exec (.drainAction 3 false) tLate) (fun t => rd t (Fk.drainStatHolds 3) == 1 && rd t (Fk.drainStatDiscarded 3) == 1) = true := by decide +kernel

theorem test_drain_datagram : nextIs (exec (.drainDatagram 3) (tDrain 1)) (fun t => rd t (Fk.mediaPortCnt1TxDiscard 1) == 1 && rd t (Fk.mediaEgrStatRtpSeq 3) == 1 &&
      (getCtx t 3).drain.cycle == 1) = true ∧
    nextIs (exec (.drainDatagram 3) (tDrain 2)) (fun t => rd t (Fk.wqHeadsOrTail 2) == 1 && (getWq t 2).dseq == 1) = true := by decide +kernel

/-! Memory devices and power. -/

theorem witness_MemoryEvents : tMac.part.clocks = true ∧ rd tMac Fk.epochCycle < 2 ^ 60 ∧ trafficOn tTraffic 0 = true ∧ trafficOn tMac 0 = false ∧
    rd tTraffic Fk.memRefreshHearth2x = 1 ∧ dramFigure tTraffic 0 < 96 ∧ unitTraffic tReady (errUnit tReady (aH 0x40)) = false ∧ hotUnit tReady (errUnit tReady (aH 0x40)) = false ∧
    tReady.part.pllAt ≤ tReady.cc := by decide +kernel

/-- Channel 9 of a stack at 1x: its windows begin at 64 plus a multiple of 5,312. -/
theorem test_refresh : nextIs (exec (.refreshWindow true 9) (wr (wr tReady Fk.memRefreshHearth2x 0) Fk.epochCycle 65)) (fun t => rd t Fk.epochCycle == 64 + 5312) = true ∧
    nextIs (exec (.refreshWindow false 9) (wr tReady Fk.epochCycle 64)) (fun t => rd t Fk.epochCycle == 64) = true := by decide +kernel

theorem test_dram_temp : nextIs (exec (.dramTempReport 0 96) tTraffic) (fun t => rd t Fk.memStatusHearthTemp == 1 && refresh2x t 0 && rd t Fk.faultJobJobCode == 0x13) = true ∧
    nextIs (exec (.dramTempReport 17 86) (wr tReady Fk.memRefreshCellar2x 0)) (fun t => rd t Fk.memStatusCellarTemp == 2) = true ∧
    nextIs (exec (.dramTempReport 0 95) tTraffic) (fun t => rd t Fk.memStatusHearthTemp == 0) = true := by decide +kernel

theorem test_scrub_window : nextIs (exec .scrub { wr tReady Fk.memStatusScrubPending 1 with part := { tReady.part with scrub := [aH 0x40] } }) (fun t => t.part.scrub.isEmpty &&
      rd t Fk.memStatusScrubPending == 0) = true ∧
    nextIs (exec .errorWindowEnd { tReady with cc := 1500000000, part := { tReady.part with ceCounts := [(0, 3)] } }) (fun t => t.part.ceCounts.isEmpty && t.cc == 3000000000) = true := by
  decide +kernel

/-- Sensors all at 60 degrees but region 0's at `tj`. -/
def tTj (tj : Nat) : List (Nat × Nat) := (60, tj) :: List.replicate 7 (60, 60)

/-- Region 0 draws 200 W of each class in a sample. -/
def tDem : List Nat := [200, 200, 200] ++ List.replicate 21 0

/-- Ballast of region 0 two microseconds after it began. -/
def tRamp : State :=
  { wr (wr (wr (modRegion tMac 0 (fun x => { x with ballastW := 100, ballastSince := 0 })) (Fk.bellowsRegionPwrBallastOn 0) 1) Fk.bellowsBallastStartW 200)
    Fk.bellowsBallastRamp 10 with cc := 3000 }

theorem witness_Power : tMac.part.clocks = true ∧ logicalOf tMac 0 = some 0 ∧ logicalOf tMac 1 = none ∧ rd tMac Fk.bellowsThermTripC ≤ 120 ∧
    rd tMac (Fk.bellowsRegionPwrTstate 0) ≠ 3 ∧ tMac.part.thermtrip = false ∧ 60 < rd tMac Fk.bellowsThermTripC ∧
    ((packageDemand tMac (meanSample [⟨tDem, 9000⟩]) : Nat) : Int) > capW tMac * ((100 + rd tMac Fk.bellowsCapStgFastPct : Nat) : Int) / 100 ∧
    60 + rd tMac Fk.bellowsThermHystC < rd tMac Fk.bellowsThermHotC ∧
    ¬ ((packageDemand tMac (meanSample [⟨tDem, 0⟩]) : Nat) : Int) > capW tMac * ((100 + rd tMac Fk.bellowsCapStgFastPct : Nat) : Int) / 100 ∧
    rd tRamp (Fk.bellowsRegionPwrBallastOn 0) ≠ 0 ∧ (getRegion tRamp 0).run ≠ .barrier ∧ (getRegion tRamp 0).ballastW < rd tRamp Fk.bellowsBallastStartW ∧
    rd (wr tMac (Fk.bellowsRegionPwrStretchOn 0) 1) (Fk.bellowsRegionPwrStretchOn 0) = 1 ∧ rd tMac (Fk.bellowsRegionPwrStretchOn 0) = 0 ∧
    rd (wr (tBar id) (Fk.bellowsRegionPwrBallastOn 0) 1) (Fk.bellowsRegionPwrBallastOn (posOf (tBar id) 0)) ≠ 0 ∧ (getRegion (tBar id) 0).run = .barrier := by decide +kernel

theorem test_bellows : nextIs (exec (.bellowsSample tDem 0 (tTj 60) (List.replicate 2 (60, 60))) tMac) (fun t => rd t (Fk.bellowsRegionPwrRegionW 0) == 600 && rd t (Fk.bellowsRegionPwrTjMax 0) == 60) = true ∧
    nextIs (exec (.bellowsSample tDem 9000 (tTj 60) (List.replicate 2 (60, 60))) tMac) (fun t => rd t Fk.bellowsStatusUrgent == 1 && rd t (Fk.bellowsRegionPwrPace 0) == rd t (Fk.bellowsRegionPwrPending 0)) = true := by
  decide +kernel

theorem test_ballast_up : nextIs (exec (.bellowsSample tDem 0 (tTj 60) (List.replicate 2 (60, 60))) tRamp) (fun t => (getRegion t 0).ballastW == 120) = true := by
  decide +kernel

theorem test_thermtrip : nextIs (exec (.bellowsSample tDem 0 (tTj 120) (List.replicate 2 (60, 60))) tMac) (fun t => !t.part.clocks && rd t Fk.faultPartPartCode == 0x1A && rd t Fk.bootJobJstate == 4) = true := by
  decide +kernel

theorem test_governor : nextIs (exec .governorWindow { wr (wr tMac (Fk.bellowsRegionPwrTstate 0) 1) (Fk.bellowsRegionPwrFloor 0) 2 with
      bellows := { tMac.bellows with govSum := tDem.map (2 * ·), govN := 2 } }) (fun t => rd t (Fk.bellowsRegionPwrFloor 0) == 3 && 3 ≤ rd t (Fk.bellowsRegionPwrPending 0) &&
      t.bellows.govN == 0) = true := by decide +kernel

theorem test_droop : nextIs (exec (.droopTrip 0) tMac) (fun t => rd t (Fk.bellowsRegionPwrStretchOn 0) == 1 && rd t (Fk.tallyCount tDivStretch) == 1) = true ∧
    nextIs (exec (.droopClear 0) (wr tMac (Fk.bellowsRegionPwrStretchOn 0) 1)) (fun t => rd t (Fk.bellowsRegionPwrStretchOn 0) == 0) = true := by decide +kernel

theorem test_ballast : nextIs (exec (.ballastRampDown 0) (wr (wr (wr (modRegion (tBar id) 0 (fun x => { x with ballastW := 100, ballastSince := 0 })) (Fk.bellowsRegionPwrBallastOn 0) 1)
    Fk.bellowsBallastMaxUs 3) Fk.bellowsBallastRamp 10)) (fun t => t.cc == 6000 && (getRegion t 0).ballastW == 90) = true := by decide +kernel

/-! Observation and management. -/

/-- A Heartwood entry. -/
def hwE : HwEntry := ⟨0, 5, 2, 0, 1, 2, 0, 0, 0, 0, 0, 0, []⟩

/-- Region 0's record with entries of the cycles in `l` queued, to freeze after cycle `fr`. -/
def tHw (l : List Nat) (fr : Option Nat) : State :=
  modHw tReady 0 (fun r => { r with queue := l.map (fun n => ⟨n, true, hwE⟩), written := 6, freezeAt := fr })

/-- Entries of sources 2 and 4 of the trace; the port is at entry `p` of the ring. -/
def tTrace (p : Nat) : State :=
  let e : TraceEntry := ⟨0, 4, 1, 0, 2, 3, [7]⟩
  { wr tReady Fk.ringCfgPortEn 1 with trace := { tReady.trace with
      srcs := [(2, { srcEmpty with fifo := [e, e] }), (4, { srcEmpty with fifo := [{ e with cls := 15 }] })]
      ring := [(4, some { e with seq := 4 })], written := 5, portPos := p } }

/-- Class 7 held, its holdoff over at CCLK 1,500. -/
def tAlarm (cc : Nat) : State :=
  { wr (wr (wr tReady (Fk.alarmHeld 7) 1) (Fk.alarmHoldoffUs 7) 1) (Fk.alarmEnable 7) 1 with alarms := [(7, ⟨1, some 0⟩)], cc := cc }

theorem witness_Observation : (getHw (tHw [3] none) 0).freezeAt = none ∧ (getHw (tHw [3] none) 0).frozen = false ∧ (getHw (tHw [3] none) 0).queue.length = 1 ∧
    (getHw tReady 0).queue = [] ∧ (getHw (tHw [3, 9] (some 5)) 0).freezeAt = some 5 ∧ ((getHw (tHw [9] (some 5)) 0).queue.all (fun x => decide (5 < x.stamp))) = true ∧
    (tTrace 4).trace.next < 10 ∧ (tTrace 4).trace.written < 2 ^ 32 ∧ rd (tTrace 4) Fk.ringCfgPortEn ≠ 0 ∧ wrapSub 32 (tTrace 4).trace.written 4 = 1 ∧
    (mget (fun _ => none) (tTrace 4).trace.ring (4 % 131072)).isSome = true ∧ wrapSub 32 (tTrace 5000).trace.written 5000 > 1024 ∧
    rd tReady Fk.ringCfgPortEn = 0 ∧ rd (tAlarm 1500) (Fk.alarmHeld 7) = 1 ∧ alarmReady (tAlarm 1500) 7 = true ∧ alarmReady (tAlarm 1499) 7 = false ∧
    (tAlarm 1500).part.pcieUp = true := by decide +kernel

theorem test_heartwood : nextIs (exec (.heartwoodWrite 0) (tHw [3] none)) (fun t => (getHw t 0).written == 7 && (getHw t 0).queue.isEmpty &&
      (mget (fun _ => none) (getHw t 0).ring 6).map (·.seq) == some 6) = true ∧
    nextIs (exec (.heartwoodWrite 0) (tHw [3, 9] (some 5))) (fun t => (getHw t 0).frozen && (getHw t 0).dropped == 1 && (getHw t 0).written == 7) = true := by
  decide +kernel

theorem test_ring : nextIs (exec .ringWrite (tTrace 4)) (fun t => t.trace.written == 7 && t.trace.gaps == 1 && (mget (fun _ => srcEmpty) t.trace.srcs 2).fifo.length == 1) = true ∧
    nextIs (exec .obsTraceSend (tTrace 4)) (fun t => t.trace.portPos == 5 && (match t.out with
      | [.obs l] => l.take 9 == [0x82, 4, 0, 0, 0, 4, 1, 0, 0] && l.length == 35
      | _ => false)) = true ∧
    nextIs (exec .obsTraceSend (tTrace 5000)) (fun t => t.trace.portPos == 4 && t.trace.portGap == 1) = true := by decide +kernel

theorem test_alarm : nextIs (exec (.alarmRaise 7) (tAlarm 1500)) (fun t => rd t (Fk.alarmPending 7) == 1 && rd t (Fk.alarmHeld 7) == 0 && rd t (Fk.tallyCount tAlarms) == 1) = true ∧
    nextIs (exec (.alarmRaise 7) (tAlarm 1499)) (fun t => t == tAlarm 1499) = true := by decide +kernel

theorem test_obs_read : nextIs (exec (.obsRead 0x21 0x103020 8 true) tReady) (fun t => match t.out with
      | [.obs l] => l.take 5 == [0x81, 0x21, 0, 8, 0] && l.length == 15
      | _ => false) = true ∧
    nextIs (exec (.obsRead 0x21 0x103021 8 true) tReady) (fun t => t == tReady) = true := by decide +kernel

theorem witness_Management : stage (tStage 0) = 0 ∧ stage tReady ≠ 0 := by decide +kernel

theorem test_management : nextIs (exec (.mctpRead 0x103020 8) tReady) (fun t => match t.out with
      | [.mgmt 0 l] => l.length == 8
      | _ => false) = true ∧
    nextIs (exec (.mctpRead 0 7) tReady) (fun t => t.out == [.mgmt 5 []]) = true ∧ nextIs (exec (.i3cDaa 0x21) tReady) (fun t => t.part.i3c && t.part.dynAddr == 0x21) = true ∧
    nextIs (exec (.samplePreload 5 6) (tStage 0)) (fun t => t.part.boundary == 6 && t.out == [.tap 5]) = true := by decide +kernel

/-! Streams. -/

/-- A video and an audio package, with which no Graft layer may be named but layer 2 of K 1 and N 1. -/
def tPkg (a : Bool) : Pkg := ⟨a, 7, 3, if a then 480 else 16, 1, false, true, 2, 2, 1, [1], 0, List.replicate 32 1, List.replicate 32 2, [(2, 1, 1)], 1, 0, 0,
  (-128, 127), (-128, 127), 1, List.replicate 128 16384, [], [], [(4, 0)], [], []⟩

/-- Bodies of STREAM_HEADER: 64 by 64 at 1 picture a second, and one channel. -/
def tHdr (a : Bool) : List Byte :=
  if a then [1, 0, 1, 0, 0, 0, 0, 0, 1, 0] else [1, 0, 0, 0, 0, 0, 0, 0, 0, 64, 0, 64, 0, 0, 0, 1, 0, 0, 0, 1, 0, 0, 0, 0]

/-- Body of the MODEL that names the package. -/
def tModel : List Byte := [0, 0, 0, 7, 2, 3, 0, 0] ++ List.replicate 32 1 ++ List.replicate 32 2

/-- Context 3 decodes in file mode; its streams have header and model, have joined, and are at slot 4; hoop 5 has room. -/
def tDecoder (f : Stream → Stream) : State :=
  let s := wr (wr (wr tMov (Fk.ctxCfgMode 3) 1) (Fk.ctxCfgDir 3) 1) (Fk.hoopCfgSlotBeats 0 5) 8
  [false, true].foldl (fun s a => modS s 3 a (fun _ => f { streamNew (some (tPkg a)) with
    header := some (tHdr a), model := some tModel, modelOk := true, joined := true, lastSlot := some 4, shown := true })) s

/-- Nothing is known of the stream but its package. -/
def tFresh : State := tDecoder (fun x => streamNew x.pkg)

/-- A GRAFT of layer 2 with rank 1, its scales 1.0 in BF16. -/
def tGraft : List Byte := [0, 0, 0, 9, 1, 0, 0, 0, 0, 0, 0, 2, 1, 0, 0, 0, 0, 0, 0, 1, 0, 0, 0, 1, 0x3F, 0x80, 0x3F, 0x80, 0x10, 0x10]

/-- A coder state of one interleaved state. -/
def tCoder (n : Nat) : Coder := ⟨[n], 0, 1⟩

/-- The parks of grantees 1 to `n` on lane 2. -/
def tParked (n : Nat) : SMap (Option Park) := (List.range n).map (fun k => (2 * 65536 + k + 1, some ⟨tCoder 9, false⟩))

theorem witness_CodecUnits : decodes tReady 3 = false ∧ decodes (tDecoder id) 3 = true ∧ (getS (tDecoder id) 3 false).resync = false ∧
    be (2 :: (tHdr false).tail) 0 1 ≠ 1 ∧ be (tHdr false) 0 1 = 1 ∧ headerOk (some (tPkg false)) false (tHdr false) = true ∧
    headerOk (some (tPkg true)) true (tHdr true) = true ∧ headerOk (some (tPkg false)) false (tHdr true) = false ∧
    (getS (tDecoder (fun x => { x with resync := true })) 3 false).resync = true ∧ (discarding (getS tFresh 3 false) || (getS tFresh 3 false).otherMajor) = true ∧
    (discarding (getS (tDecoder id) 3 false) || (getS (tDecoder id) 3 false).otherMajor) = false ∧ lenOk (minorOf (getS (tDecoder id) 3 false)) 72 tModel.length = true ∧
    be tModel 6 2 = 0 ∧ modelMatches (tDecoder id) (some (tPkg false)) tModel = decide (rd (tDecoder id) Fk.auditProfileAssayVer = 2 ∧ rd (tDecoder id) Fk.auditProfileTableVer = 3) ∧
    lenOk 0 8 ([0, 0, 0, 9, 0, 1, 0, 0] : List Byte).length = true ∧ be ([0, 0, 0, 9, 0, 1, 0, 0] : List Byte) 4 2 = 1 ∧ discarding (getS tFresh 3 false) = true ∧
    (getS (tDecoder id) 3 false).lostUnread = 0 ∧ running (tDecoder id) = true ∧ rd (tDecoder id) (Fk.ctxCfgMode 3) ≠ 0 ∧ graftOk (some (tPkg false)) 0 tGraft = true ∧
    graftOk (some (tPkg false)) 0 tGraft.tail = false ∧ graftForm (some (tPkg false)) 0 tGraft = true ∧ (getRegion tMov 0).parks = [] ∧
    ((tParked 16).filter (fun x => decide (x.1 / 65536 = 2) && decide (x.1 ≠ 2 * 65536 + 16) && decide (x.1 ≠ 2 * 65536 + 17) && x.2.isSome)).length + 1 = 16 ∧
    (mget (fun _ => none) (tParked 16) (2 * 65536 + 16)).isSome = true :=  by decide +kernel

theorem test_headers : nextIs (exec (.streamHeader 3 false (tHdr false)) tFresh) (fun t => (getS t 3 false).header == some (tHdr false)) = true ∧
    nextIs (exec (.streamHeader 3 false (2 :: (tHdr false).tail)) (tDecoder id)) (fun t => (getS t 3 false).otherMajor && rdBit t (Fk.ctxFlags 3) 17) = true ∧
    nextIs (exec (.modelUnit 3 false (tModel.set 3 8)) (tDecoder id)) (fun t => !(getS t 3 false).modelOk && rdBit t (Fk.ctxFlags 3) 16) = true ∧
    nextIs (exec (.endUnit 3 true [0, 0, 0, 5]) (tDecoder id)) (fun t => (getS t 3 true).header == none && !(getS t 3 true).joined) = true := by decide +kernel

/-- The codes of a factor, earlier code high in the stream and low in memory (13 R352, 04 R98). -/
theorem test_repack : repack [0x12, 0x30] 0 0 3 = [0x21, 0x03] ∧ repack [0x12, 0x34] 0 1 3 = [0x32, 0x04] := by decide +kernel

theorem test_units : nextIs (exec (.graftUnit 3 tGraft false) (tDecoder id)) (fun t => (getS t 3 false).pendingG.map (·.num) == some 9) = true ∧
    nextIs (exec (.refreshUnit 3 false [0, 0, 0, 9, 0, 1, 0, 0]) (tDecoder id)) (fun t => (getS t 3 false).refresh == some (9, 1)) = true ∧
    nextIs (exec (.holdIngot 3 false [0, 7, 0]) (tDecoder id)) (fun t => (getS t 3 false).lastSlot == some 7 && t.out == [.unit 3 false 7 1 false, .holdReason 3 false 7 0]) = true ∧
    nextIs (exec (.unitSyncLoss 3 false false) (tDecoder id)) (fun t => (getS t 3 false).resync && rdBit t (Fk.ctxFlags 3) 14) = true ∧
    nextIs (exec (.lanePark 0 2 5 6 ⟨some (tCoder 7), 0⟩) (modRegion tMov 0 (fun x => { x with parks := [(2 * 65536 + 6, some ⟨tCoder 9, false⟩)] })))
      (fun t => (getRegion t 0).parks == [(2 * 65536 + 5, some ⟨tCoder 7, false⟩)] && (getRegion t 0).lanes == [(2, some ⟨tCoder 9, false⟩)]) = true ∧
    (match exec (.lanePark 0 2 17 16 ⟨some (tCoder 1), 0⟩) (modRegion tMov 0 (fun x => { x with parks := tParked 16 })) with
      | .refused (.loaderRefuses x) => x == "R318"
      | _ => false) = true := by
  decide +kernel

/-- A picture of slot 5 with number 1, no references, four rows at QP 30, and two steps of one empty substream. -/
def tPic : List Byte := [0, 0, 0, 5, 0, 0, 0, 1, 0, 0, 0, 0, 0, 0, 0, 0, 30, 30, 30, 30, 0, 0, 0, 0, 2, 1, 1, 0, 0, 0, 0, 1, 1, 0, 0, 0, 0]

/-- A packet of slot 5 with number 1 and one empty step. -/
def tPac : List Byte := [0, 0, 0, 5, 0, 0, 0, 1, 0, 1, 1, 1, 1, 0, 0, 0, 0]

/-- Records of both. -/
def tRecs (a : Bool) : List (List (Byte × Bool)) :=
  if a then ((ingotSteps 0 false tPac 1 11).getD []).map (recordOf tPac [] 2)
  else match readVideo (tPkg false) (tHdr false) tPic with
    | some v => ((List.range v.steps.length).zip v.steps).map (fun x => recordOf tPic [] (videoSymbols (tPkg false) (tHdr false) v.skip x.1) x.2)
    | none => []

theorem witness_Ingots : decodes (tDecoder id) 3 = true ∧ (getS (tDecoder (fun x => { x with otherMajor := true })) 3 true).otherMajor = true ∧
    (getS tFresh 3 true).header = none ∧ (getS (tDecoder id) 3 false).header = some (tHdr false) ∧ (getS (tDecoder id) 3 false).lastSlot = some 4 ∧
    be tPic 0 4 = 5 ∧ be (tPic.set 3 4) 0 4 ≤ 4 ∧ (getS (tDecoder id) 3 false).pkg = some (tPkg false) ∧ readVideo (tPkg false) (tHdr false) (tPic.set 24 3) = none ∧
    ((readVideo (tPkg false) (tHdr false) tPic).map (fun v => (v.num, v.graft, v.refs))) = some (1, 0, []) ∧ (getS (tDecoder id) 3 false).modelOk = true ∧
    (getS (tDecoder id) 3 false).joined = true ∧ slotsFit (tDecoder id) 0 5 (tRecs false) = true ∧ posOf (tDecoder id) 0 < 8 ∧
    (ingotSteps 0 false tPac 1 11).isSome = true ∧ slotsFit (tDecoder id) 0 5 (tRecs true) = true ∧ be tPac 9 1 ≤ (tPkg true).groups ∧
    (getS (tDecoder (fun x => { x with modelOk := false })) 3 true).modelOk = false := by decide +kernel

theorem test_ingots : nextIs (exec (.videoIngot 3 5 tPic []) (tDecoder id)) (fun t => (getS t 3 false).picNum == 2 && (getS t 3 false).qpRow == [30, 30, 30, 30] &&
      rd t (Fk.hoopTail 0 5) == 2 && t.out == [.unit 3 false 5 0 false]) = true ∧
    nextIs (exec (.audioIngot 3 5 tPac []) (tDecoder id)) (fun t => (getS t 3 true).pktNum == 2 && t.out == [.unit 3 true 5 0 false]) = true := by decide +kernel

theorem test_lost_ingots : nextIs (exec (.videoIngot 3 5 (tPic.set 3 4) []) (tDecoder id)) (fun t => rdBit t (Fk.ctxFlags 3) 15) = true ∧
    nextIs (exec (.videoIngot 3 5 (tPic.set 24 3) []) (tDecoder id)) (fun t => rdBit t (Fk.ctxFlags 3) 14 && t.out.head? == some (.unit 3 false 5 1 true)) = true := by decide +kernel

/-! The whole block. -/

theorem witness_IdleStep : State.reset.pending = [] ∧ tReady.pending = [] ∧ tReady.part.clocks = true ∧ regionCount tReady = 1 ∧ posOf tReady 0 < 8 ∧
    ((List.range 16).all (fun p => decide ((getPort tReady p).held = []))) = true := by decide +kernel

theorem witness_StepsStaySound : (Memory.wf tReady.dev = true ∧ Memory.wf tReady.host = true ∧ Memory.wf tReady.msixTable = true ∧ mwf regReset tReady.regs = true) ∧ nextIs (step tReady) (fun _ => true) = true := by decide +kernel

theorem witness_QueueIsFifo : nextIs (step { tMac with pending := [.nopMacro 0 w0, .halt 0 w0] }) (fun t => t.pending == [.halt 0 w0]) = true := by decide +kernel

theorem test_idle : nextIs (step tMac) (fun t => t.cc == 8 && rd t Fk.epochCycle == 8 && rd t (Fk.rschedScyc 0) == 8 && rd t Fk.epochTimeNs == 5) = true := by decide +kernel

/-- The step reads the front of the queue. -/
theorem test_with_fetch_word : State.reset.withFetchWord 8 0x10 = State.reset ∧ decodeTableWord 8 0x10 = none := by decide +kernel

end Sys2Proof.Tests
end

section
/-! SUPPORT. What passes beside a drain's action: time (02 R37), the ring trace, the tally and the alarms (18 R480 to R486), and the slots of a hoop (09 R254,
R255). Each leaves the contexts, the drains' choices and the registers that a drain reads or writes. -/

namespace Sys2Proof.Machine

/-! Time. -/

/-- The registers that time moves (02 R54; 09 R247). -/
def clockKey (k : Nat) : Prop :=
  k = Fk.epochCycle ∨ k = Fk.epochTimeNs ∨ k = Fk.epochTimeAuxTimeFrac ∨ ∃ n, k = Fk.rschedScyc n ∨ k = Fk.rschedLag n

/-- `t` differs from `s` in nothing but its time and the registers that time moves. -/
structure Later (s t : State) : Prop where
  ctxs : t.ctxs = s.ctxs
  wit : t.drainWit = s.drainWit
  wqs : t.wqs = s.wqs
  host : t.host = s.host
  out : t.out = s.out
  part : t.part = s.part
  regs : ∀ k, ¬ clockKey k → rd t k = rd s k

theorem later_refl (s : State) : Later s s := ⟨rfl, rfl, rfl, rfl, rfl, rfl, fun _ _ => rfl⟩

theorem later_wr {σ s : State} (k v : Nat) (hk : clockKey k) (h : Later σ s) : Later σ (wr s k v) :=
  { h with regs := fun j hj => (rd_wr_ne s k v j (fun e => hj (e ▸ hk))).trans (h.regs j hj) }

theorem later_ite {σ a b : State} {c : Prop} [Decidable c] (ha : Later σ a) (hb : Later σ b) : Later σ (if c then a else b) := by
  split
  · exact ha
  · exact hb

theorem advanceRegion_later {σ s : State} (n r : Nat) (h : Later σ s) : Later σ (advanceRegion n s r) := by
  have scyc : ∀ p, clockKey (Fk.rschedScyc p) := fun p => .inr (.inr (.inr ⟨p, .inl rfl⟩))
  have lag : ∀ p, clockKey (Fk.rschedLag p) := fun p => .inr (.inr (.inr ⟨p, .inr rfl⟩))
  unfold advanceRegion
  exact later_ite (later_wr _ _ (lag _) (later_wr _ _ (scyc _) h)) (later_wr _ _ (scyc _) h)

theorem advanceRegions_later {σ : State} (n : Nat) :
    ∀ (l : List Nat) (s : State), Later σ s → Later σ (l.foldl (advanceRegion n) s)
  | [], _, h => h
  | r :: l, _, h => advanceRegions_later n l _ (advanceRegion_later n r h)

theorem later_cc {σ s : State} (n : Nat) (h : Later σ s) : Later σ { s with cc := n } := { h with }

theorem later_trem {σ s : State} (n : Nat) (h : Later σ s) : Later σ { s with trem := n } := { h with }

theorem setTimeThirds_later {σ s : State} (t : Nat) (h : Later σ s) : Later σ (setTimeThirds s t) :=
  later_wr _ _ (.inr (.inr (.inl rfl))) (later_wr _ _ (.inr (.inl rfl)) (later_trem _ h))

theorem advance_later (s : State) (n : Nat) : Later s (advance s n) := by
  have h : Later s { s with cc := s.cc + n } := later_cc _ (later_refl s)
  unfold advance
  dsimp only
  split
  · exact h
  · exact advanceRegions_later n _ _ (setTimeThirds_later _ (later_wr _ _ (.inl rfl) h))

theorem untilNs_later (s : State) (t : Nat) : Later s (untilNs s t) := advance_later s _

theorem advanceRegion_cc (n : Nat) (s : State) (r : Nat) : (advanceRegion n s r).cc = s.cc :=
  (apply_ite State.cc _ _ _).trans (ite_self _)

theorem advance_cc (s : State) (n : Nat) : (advance s n).cc = s.cc + n := by
  have regions : ∀ (l : List Nat) (s : State), (l.foldl (advanceRegion n) s).cc = s.cc := by
    intro l
    induction l with
    | nil => exact fun _ => rfl
    | cons r l ih => exact fun s => (ih _).trans (advanceRegion_cc n s r)
  unfold advance
  dsimp only
  split
  · rfl
  · exact regions _ _

/-! Trace, tally, alarms and hoops. -/

/-- The registers of the drains, the audit, the media ports and flows, the work queues and the contexts. -/
def drainKey (k : Nat) : Prop := (64 * 0x7000 ≤ k ∧ k < 64 * 0xC200) ∨ (64 * 0x10000 ≤ k ∧ k < 64 * 0x2000000)

theorem not_clockKey {k : Nat} (h : drainKey k) : ¬ clockKey k := by
  unfold drainKey at h
  rintro (rfl | rfl | rfl | ⟨n, rfl | rfl⟩)
  · unfold Fk.epochCycle at h; omega
  · unfold Fk.epochTimeNs at h; omega
  · unfold Fk.epochTimeAuxTimeFrac at h; omega
  · unfold Fk.rschedScyc at h; omega
  · unfold Fk.rschedLag at h; omega

/-- `t` has the contexts, the drains' choices, the time and the drains' registers of `s`. -/
structure Beside (s t : State) : Prop where
  cc : t.cc = s.cc
  ctxs : t.ctxs = s.ctxs
  wit : t.drainWit = s.drainWit
  regs : ∀ k, drainKey k → rd t k = rd s k

theorem beside_refl (s : State) : Beside s s := ⟨rfl, rfl, rfl, fun _ _ => rfl⟩

theorem beside_trans {a b c : State} (h : Beside a b) (k : Beside b c) : Beside a c :=
  ⟨k.cc.trans h.cc, k.ctxs.trans h.ctxs, k.wit.trans h.wit, fun j hj => (k.regs j hj).trans (h.regs j hj)⟩

theorem beside_wr {σ s : State} (k v : Nat) (hk : ¬ drainKey k) (h : Beside σ s) : Beside σ (wr s k v) :=
  { h with regs := fun j hj => (rd_wr_ne s k v j (fun e => hk (e ▸ hj))).trans (h.regs j hj) }

/-- The same write on both sides. -/
theorem beside_wr_both {s t : State} (k v : Nat) (h : Beside s t) : Beside (wr s k v) (wr t k v) :=
  { h with regs := fun j hj => by rw [rd_wr, rd_wr, h.regs j hj] }

theorem beside_ite {σ a b : State} {c : Prop} [Decidable c] (ha : Beside σ a) (hb : Beside σ b) : Beside σ (if c then a else b) := by
  split
  · exact ha
  · exact hb

theorem beside_foldl {β : Type} {σ : State} {f : State → β → State} (hf : ∀ t x, Beside σ t → Beside σ (f t x)) :
    ∀ (l : List β) (s : State), Beside σ s → Beside σ (l.foldl f s)
  | [], _, h => h
  | x :: l, s, h => beside_foldl hf l (f s x) (hf s x h)

theorem beside_emit {σ s : State} (o : Out) (h : Beside σ s) : Beside σ (emit s o) := { h with }
theorem beside_alarms {σ s : State} (m : SMap AlarmX) (h : Beside σ s) : Beside σ { s with alarms := m } := { h with }
theorem beside_trace {σ s : State} (m : Trace) (h : Beside σ s) : Beside σ { s with trace := m } := { h with }
theorem beside_host {σ s : State} (m : Mem) (h : Beside σ s) : Beside σ { s with host := m } := { h with }
theorem beside_dev {σ s : State} (m : Mem) (h : Beside σ s) : Beside σ { s with dev := m } := { h with }
theorem beside_modRegion {σ s : State} (r : Nat) (f : Region → Region) (h : Beside σ s) : Beside σ (modRegion s r f) := { h with }
theorem beside_markRaised {σ s : State} (k m : Nat) (h : Beside σ s) : Beside σ (markRaised s k m) := { h with }

theorem beside_raise {σ s : State} (k : Nat) (hk : ¬ drainKey k) (h : Beside σ s) : Beside σ (raise s k) :=
  beside_markRaised _ _ (beside_wr _ _ hk h)

theorem alarmFire_beside {σ s : State} (k : Nat) (hk : k < 16) (h : Beside σ s) : Beside σ (alarmFire s k) := by
  have pending : ¬ drainKey (Fk.alarmPending k) := by unfold drainKey Fk.alarmPending; omega
  have count : ¬ drainKey (Fk.alarmCount k) := by unfold drainKey Fk.alarmCount; omega
  have held : ¬ drainKey (Fk.alarmHeld k) := by unfold drainKey Fk.alarmHeld; omega
  have marked := beside_wr _ 0 held (beside_wr _ (min (mget (fun _ => (⟨0, none⟩ : AlarmX)) s.alarms k).waiting (2 ^ 32 - 1)) count
    (beside_raise _ pending h))
  have fired := beside_alarms (mput (fun _ => (⟨0, none⟩ : AlarmX)) s.alarms k ⟨0, some s.cc⟩) marked
  unfold alarmFire
  exact beside_ite (beside_emit _ (beside_ite (beside_emit _ fired) fired)) (beside_ite (beside_emit _ fired) fired)

theorem alarmRaw_beside {σ s : State} (k : Nat) (hk : k < 16) (h : Beside σ s) : Beside σ (alarmRaw s k) := by
  have held : ¬ drainKey (Fk.alarmHeld k) := by unfold drainKey Fk.alarmHeld; omega
  unfold alarmRaw
  exact beside_ite (beside_ite (alarmFire_beside k hk (beside_alarms _ h)) (beside_wr _ _ held (beside_alarms _ h))) h

theorem tallyRaw_beside {σ s : State} (k n : Nat) (hk : k < 32) (h : Beside σ s) : Beside σ (tallyRaw s k n).1 := by
  have count : ¬ drainKey (Fk.tallyCount k) := by unfold drainKey Fk.tallyCount; omega
  have sat : ¬ drainKey (Fk.tallySat k) := by unfold drainKey Fk.tallySat; omega
  unfold tallyRaw
  exact beside_ite (beside_wr _ _ sat (beside_wr _ _ count h)) (beside_wr _ _ count h)

theorem alarmEvent_beside {σ s : State} (k : Nat) (hk : k < 16) (h : Beside σ s) : Beside σ (alarmEvent s k) := by
  have counted := tallyRaw_beside tAlarms 1 (by decide) (alarmRaw_beside k hk h)
  unfold alarmEvent
  exact beside_ite (beside_ite (alarmRaw_beside 14 (by decide) counted) counted) (alarmRaw_beside k hk h)

theorem tallyAdd_beside {σ s : State} (k n : Nat) (hk : k < 32) (h : Beside σ s) : Beside σ (tallyAdd s k n) := by
  have counted := tallyRaw_beside k n hk h
  unfold tallyAdd
  exact beside_ite (alarmEvent_beside 14 (by decide) counted) counted

theorem trace_beside {σ s : State} (cls event source : Nat) (data : List Byte) (h : Beside σ s) :
    Beside σ (trace s cls event source data) := by
  unfold trace
  exact beside_ite (beside_ite (beside_trace _ h) (tallyAdd_beside _ _ (by decide) (beside_trace _ h))) h

theorem hoopPops_beside {σ : State} (r h : Nat) : ∀ (k : Nat) (s : State), Beside σ s → Beside σ (hoopPops s r h k)
  | 0, _, hs => hs
  | k + 1, s, hs => by
    have head : ¬ drainKey (Fk.hoopHead (posOf s r) h) := by unfold drainKey Fk.hoopHead; omega
    exact hoopPops_beside r h k _ (beside_wr _ _ head hs)

theorem putHalf_beside {σ s : State} (ue : List Nat) (a : Nat) (l : List (Nat × Byte)) (bad : Bool) (h : Beside σ s) :
    Beside σ (putHalf s ue a l bad) :=
  beside_ite (beside_ite (beside_host _ h) h) (beside_dev _ h)

theorem spanPut_beside {σ s : State} (ue : List Nat) (a : Nat) (l : List (Byte × Bool)) (h : Beside σ s) : Beside σ (spanPut s ue a l) :=
  beside_foldl (fun _ _ ht => putHalf_beside _ _ _ _ ht) _ _ h

theorem hoopClose_beside {σ s : State} (r h : Nat) (mark : Bool) (hs : Beside σ s) : Beside σ (hoopClose s r h mark) := by
  have tail : ¬ drainKey (Fk.hoopTail (posOf s r) h) := by unfold drainKey Fk.hoopTail; omega
  exact beside_wr _ _ tail (beside_modRegion _ _ hs)

theorem putRecords_beside {σ s : State} (r h : Nat) (recs : List (List (Byte × Bool))) (hs : Beside σ s) :
    Beside σ (putRecords s r h recs) :=
  beside_foldl (fun _ _ ht => beside_foldl (fun _ _ hu => hoopClose_beside _ _ _ (spanPut_beside _ _ _ hu)) _ _ ht) _ _ hs

end Sys2Proof.Machine
end

section
/-! SUPPORT. The records of a drain (14 R378): room in the hoop is given to those that wait, and those that a slot takes or discards leave. -/

namespace Sys2Proof.Machine

/-- Record `q` of a drain as it may stand later: as it is or, where it waited for room, put into the hoop at some time. -/
def Filled (q r : DrainRec) : Prop := r = q ∨ (q.slots = none ∧ ∃ k t, r = { q with slots := some k, doneAt := t })

theorem filled_refl (q : DrainRec) : Filled q q := .inl rfl

theorem filled_trans {a b c : DrainRec} (h : Filled a b) (k : Filled b c) : Filled a c := by
  obtain rfl | ⟨hb, x, t, rfl⟩ := k
  · exact h
  · obtain rfl | ⟨_, y, u, rfl⟩ := h
    · exact .inr ⟨hb, x, t, rfl⟩
    · cases hb

theorem filled_eq {q r : DrainRec} (h : Filled q r) (hq : q.slots.isSome = true) : r = q := by
  obtain h | ⟨hn, -⟩ := h
  · exact h
  · rw [hn] at hq
    cases hq

theorem filled_same {q r : DrainRec} (h : Filled q r) :
    (r.video, r.slot, r.pre, r.bytes, r.num, r.isPic) = (q.video, q.slot, q.pre, q.bytes, q.num, q.isPic) := by
  obtain rfl | ⟨-, _, _, rfl⟩ := h <;> rfl

/-- Change the records of drain `c`. -/
def modRecs (s : State) (c : Nat) (f : List DrainRec → List DrainRec) : State :=
  modCtx s c (fun x => { x with drain := { x.drain with recs := f x.drain.recs } })

/-- `t` differs from `s` beside drain `c`, and in its records, each of which stood there, at most put into the hoop since. -/
structure Aside (c : Nat) (s t : State) : Prop where
  cc : t.cc = s.cc
  wit : t.drainWit = s.drainWit
  regs : ∀ k, drainKey k → rd t k = rd s k
  ctx : ∃ l, getCtx t c = { getCtx s c with drain := { (getCtx s c).drain with recs := l } } ∧
    ∀ r ∈ l, ∃ q ∈ (getCtx s c).drain.recs, Filled q r

theorem aside_of_beside {c : Nat} {s t : State} (h : Beside s t) : Aside c s t :=
  ⟨h.cc, h.wit, h.regs, (getCtx s c).drain.recs, by unfold getCtx; rw [h.ctxs], fun r hr => ⟨r, hr, filled_refl r⟩⟩

theorem aside_refl (c : Nat) (s : State) : Aside c s s := aside_of_beside (beside_refl s)

theorem aside_ite {c : Nat} {s t u : State} {p : Prop} [Decidable p] (ht : Aside c s t) (hu : Aside c s u) : Aside c s (if p then t else u) := by
  split
  · exact ht
  · exact hu

theorem aside_trans {c : Nat} {s t u : State} (h : Aside c s t) (k : Aside c t u) : Aside c s u := by
  obtain ⟨l, hl, hm⟩ := h.ctx
  obtain ⟨m, km, kl⟩ := k.ctx
  refine ⟨k.cc.trans h.cc, k.wit.trans h.wit, fun j hj => (k.regs j hj).trans (h.regs j hj), m, by rw [km, hl], fun r hr => ?_⟩
  obtain ⟨q, hq, hqr⟩ := kl r hr
  rw [hl] at hq
  obtain ⟨p, hp, hpq⟩ := hm q hq
  exact ⟨p, hp, filled_trans hpq hqr⟩

theorem aside_beside {c : Nat} {s t u : State} (h : Aside c s t) (k : Beside t u) : Aside c s u := aside_trans h (aside_of_beside k)

theorem aside_wr_both {c : Nat} {s t : State} (k v : Nat) (h : Aside c s t) : Aside c (wr s k v) (wr t k v) :=
  { h with regs := fun j hj => by rw [rd_wr, rd_wr, h.regs j hj] }

theorem modRecs_aside (s : State) (c : Nat) (f : List DrainRec → List DrainRec)
    (hf : ∀ r ∈ f (getCtx s c).drain.recs, ∃ q ∈ (getCtx s c).drain.recs, Filled q r) : Aside c s (modRecs s c f) :=
  ⟨rfl, rfl, fun _ _ => rfl, f (getCtx s c).drain.recs, getCtx_modCtx_same _ _ _, hf⟩

/-- A record that waits is put into the hoop, on `k` slots. -/
theorem recPut_aside (s : State) (c : Nat) (r : DrainRec) (k : Nat) (hr : r.slots = none) :
    Aside c s (modRecs s c (fun l => l.map (fun q => if q = r then { r with slots := some k, doneAt := rd s Fk.epochTimeNs } else q))) := by
  refine modRecs_aside s c _ (fun r' h => ?_)
  obtain ⟨q, hq, rfl⟩ := List.mem_map.1 h
  refine ⟨q, hq, ?_⟩
  split
  · next e => subst e; exact .inr ⟨hr, k, _, rfl⟩
  · exact filled_refl q

theorem fillRecs_aside (c : Nat) :
    ∀ (l : List DrainRec) (s : State), (∀ r ∈ l, r.slots = none) → Aside c s (fillRecs c l s)
  | [], s, _ => aside_refl c s
  | r :: l, s, h => by
    have hr := h r (List.mem_cons_self ..)
    have rest := fun t => fillRecs_aside c l t (fun q hq => h q (List.mem_cons_of_mem _ hq))
    unfold fillRecs
    dsimp only
    split
    · exact aside_trans (recPut_aside s c r 0 hr) (rest _)
    · exact aside_ite (aside_trans (aside_trans (aside_of_beside (putRecords_beside _ _ _ (beside_refl s))) (recPut_aside _ c r _ hr)) (rest _))
        (aside_refl c s)

theorem drainFill_aside (s : State) (c : Nat) : Aside c s (drainFill s c) := by
  refine fillRecs_aside c _ s (fun r hr => ?_)
  simpa using (List.mem_filter.1 hr).2

/-- Where no record waits for room none is put. -/
theorem drainFill_full (s : State) (c : Nat) (h : ∀ r ∈ (getCtx s c).drain.recs, r.slots.isSome = true) : drainFill s c = s := by
  have none_waits : (getCtx s c).drain.recs.filter (fun r => r.slots.isNone) = [] :=
    List.filter_eq_nil_iff.2 (fun r hr => by simp [Option.isSome_iff_ne_none.1 (h r hr)])
  unfold drainFill
  rw [none_waits]
  rfl

/-- The records that `out` picks leave and the slots that they held are free; room has not yet been given to others. -/
def recsGone (s : State) (c : Nat) (out : DrainRec → Bool) : State :=
  let n := ((getCtx s c).drain.recs.filter out).foldl (fun k r => k + r.slots.getD 0) 0
  let s := modRecs s c (fun l => l.filter (fun r => !out r))
  match drainHoop s c with
  | some y => hoopPops s y.1 y.2 (min n (hoopCount s (posOf s y.1) y.2))
  | none => s

theorem recsLeave_eq (s : State) (c : Nat) (out : DrainRec → Bool) : recsLeave s c out = drainFill (recsGone s c out) c := rfl

theorem recsGone_beside (s : State) (c : Nat) (out : DrainRec → Bool) :
    Beside (modRecs s c (fun l => l.filter (fun r => !out r))) (recsGone s c out) := by
  unfold recsGone
  dsimp only
  split
  · exact hoopPops_beside _ _ _ _ (beside_refl _)
  · exact beside_refl _

theorem recsLeave_aside (s : State) (c : Nat) (out : DrainRec → Bool) : Aside c s (recsLeave s c out) := by
  have kept := modRecs_aside s c (fun l => l.filter (fun r => !out r)) (fun r hr => ⟨r, (List.mem_filter.1 hr).1, filled_refl r⟩)
  rw [recsLeave_eq]
  exact aside_trans (aside_beside kept (recsGone_beside s c out)) (drainFill_aside _ c)

theorem recsGone_recs (s : State) (c : Nat) (out : DrainRec → Bool) :
    (getCtx (recsGone s c out) c).drain.recs = (getCtx s c).drain.recs.filter (fun r => !out r) := by
  have h := (recsGone_beside s c out).ctxs
  unfold getCtx at *
  rw [h]
  exact congrArg (fun x : Ctx => x.drain.recs) (getCtx_modCtx_same s c _)

/-- Where no record waits for room the others stay as they are. -/
theorem recsLeave_recs (s : State) (c : Nat) (out : DrainRec → Bool) (h : ∀ r ∈ (getCtx s c).drain.recs, r.slots.isSome = true) :
    (getCtx (recsLeave s c out) c).drain.recs = (getCtx s c).drain.recs.filter (fun r => !out r) := by
  have full : ∀ r ∈ (getCtx (recsGone s c out) c).drain.recs, r.slots.isSome = true := by
    rw [recsGone_recs]
    exact fun r hr => h r (List.mem_filter.1 hr).1
  rw [recsLeave_eq, drainFill_full _ c full, recsGone_recs]

/-! Late records. -/

/-- A record of the stream whose slot lies before `n`, in the hoop. -/
def isLate (n : Nat) (a : Bool) (r : DrainRec) : Bool := decide (r.video = !a) && decide (r.slot < n) && r.slots.isSome

/-- The late ingots of drain `c`. -/
def lateIngots (s : State) (c n : Nat) (a : Bool) : List DrainRec :=
  ((getCtx s c).drain.recs.filter (isLate n a)).filter (fun r => !r.pre)

/-- The discard of one ingot counts, and is an event of the trace. -/
def countDiscard (c : Nat) (s : State) (r : DrainRec) : State :=
  trace (bump s (Fk.drainStatDiscarded c) 16) 7 1 srcChip (toLE 1 c ++ toLE 1 0 ++ toLE 4 r.slot)

theorem discardLate_eq (s : State) (c n : Nat) (a : Bool) :
    discardLate s c n a = (lateIngots s c n a).foldl (countDiscard c) (recsLeave s c (isLate n a)) := rfl

/-- The count after `l` discards. -/
def countedUp (s : State) (k : Nat) (l : List DrainRec) : Nat := if l = [] then rd s k else (rd s k + l.length) % 2 ^ 16

theorem drainStatDiscarded_key {c : Nat} (hc : c < 128) : drainKey (Fk.drainStatDiscarded c) := by
  unfold drainKey Fk.drainStatDiscarded
  omega

/-- A write replaces an earlier one of the same register. -/
theorem beside_wr_wr (s : State) (k v w : Nat) : Beside (wr s k w) (wr (wr s k v) k w) :=
  ⟨rfl, rfl, rfl, fun j _ => by
    rw [rd_wr, rd_wr, rd_wr]
    split <;> rfl⟩

theorem countDiscard_beside (c : Nat) (s : State) (r : DrainRec) : Beside (bump s (Fk.drainStatDiscarded c) 16) (countDiscard c s r) :=
  trace_beside _ _ _ _ (beside_refl _)

theorem countedUp_cons {c : Nat} (hc : c < 128) (s : State) (r : DrainRec) (l : List DrainRec) :
    countedUp (countDiscard c s r) (Fk.drainStatDiscarded c) l = countedUp s (Fk.drainStatDiscarded c) (r :: l) := by
  have first : rd (countDiscard c s r) (Fk.drainStatDiscarded c) = (rd s (Fk.drainStatDiscarded c) + 1) % 2 ^ 16 :=
    ((countDiscard_beside c s r).regs _ (drainStatDiscarded_key hc)).trans (rd_wr_same _ _ _)
  cases l with
  | nil => exact first
  | cons q l =>
    simp only [countedUp, reduceCtorEq, if_false, first, List.length_cons]
    omega

/-- The discards count together, and only that register of the drains changes. -/
theorem countDiscards_beside {c : Nat} (hc : c < 128) :
    ∀ (l : List DrainRec) (s : State),
      Beside (wr s (Fk.drainStatDiscarded c) (countedUp s (Fk.drainStatDiscarded c) l)) (l.foldl (countDiscard c) s)
  | [], s => ⟨rfl, rfl, rfl, fun k _ => by
    rw [rd_wr]
    split
    · next e => rw [e]; rfl
    · rfl⟩
  | r :: l, s => by
    rw [← countedUp_cons hc s r l]
    exact beside_trans (beside_trans (beside_wr_wr s _ _ _) (beside_wr_both _ _ (countDiscard_beside c s r))) (countDiscards_beside hc l _)

theorem discardLate_aside {c : Nat} (hc : c < 128) (s : State) (n : Nat) (a : Bool) :
    Aside c (wr s (Fk.drainStatDiscarded c) (countedUp s (Fk.drainStatDiscarded c) (lateIngots s c n a))) (discardLate s c n a) := by
  have leave := recsLeave_aside s c (isLate n a)
  have same : countedUp (recsLeave s c (isLate n a)) (Fk.drainStatDiscarded c) (lateIngots s c n a) =
      countedUp s (Fk.drainStatDiscarded c) (lateIngots s c n a) := by
    unfold countedUp
    rw [leave.regs _ (drainStatDiscarded_key hc)]
  have count := countDiscards_beside hc (lateIngots s c n a) (recsLeave s c (isLate n a))
  rw [same] at count
  exact aside_beside (aside_wr_both _ _ leave) count

theorem discardLate_recs {c : Nat} (hc : c < 128) (s : State) (n : Nat) (a : Bool)
    (h : ∀ r ∈ (getCtx s c).drain.recs, r.slots.isSome = true) :
    (getCtx (discardLate s c n a) c).drain.recs = (getCtx s c).drain.recs.filter (fun r => decide (r.video = a) || decide (n ≤ r.slot)) := by
  have count : getCtx (discardLate s c n a) c = getCtx (recsLeave s c (isLate n a)) c := by
    unfold getCtx
    rw [discardLate_eq, (countDiscards_beside hc _ _).ctxs]
    rfl
  rw [count, recsLeave_recs s c _ h]
  refine List.filter_congr (fun r hr => ?_)
  have later : decide (n ≤ r.slot) = !decide (r.slot < n) := by
    rw [← decide_not]
    exact decide_eq_decide.2 Nat.not_lt.symm
  rw [isLate, h r hr, later]
  cases r.video <;> cases a <;> simp

end Sys2Proof.Machine
end

section
/-! SUPPORT. The action at a slot (14 R378, 16 R438, 20 R523, R524): what it reads is what stood before the time passed and late records left, and one access
unit is queued. -/

namespace Sys2Proof.Machine

/-! What the action reads. -/

/-- What a drain reads of its context but its records: its registers but the count of discards, its streams, its slots and queues. -/
structure Steady (c : Nat) (s t : State) : Prop where
  regs : ∀ k, drainKey k ∧ k ≠ Fk.drainStatDiscarded c → rd t k = rd s k
  ctx : ∃ l, getCtx t c = { getCtx s c with drain := { (getCtx s c).drain with recs := l } }

namespace Steady

variable {c : Nat} {s t : State}

theorem getS (h : Steady c s t) (a : Bool) : getS t c a = getS s c a := by
  obtain ⟨l, hl⟩ := h.ctx
  unfold Machine.getS
  rw [hl]

theorem holding (h : Steady c s t) : (getCtx t c).drain.holding = (getCtx s c).drain.holding := by
  obtain ⟨l, hl⟩ := h.ctx
  rw [hl]

theorem nextSlot (h : Steady c s t) (a : Bool) : nextSlot (getCtx t c).drain a = nextSlot (getCtx s c).drain a := by
  obtain ⟨l, hl⟩ := h.ctx
  rw [hl]
  rfl

theorem queueOf (h : Steady c s t) (a : Bool) : queueOf (getCtx t c).drain a = queueOf (getCtx s c).drain a := by
  obtain ⟨l, hl⟩ := h.ctx
  rw [hl]
  rfl

theorem endOf (h : Steady c s t) (a : Bool) : endOf (getCtx t c).drain a = endOf (getCtx s c).drain a := by
  obtain ⟨l, hl⟩ := h.ctx
  rw [hl]
  rfl

theorem encPoisoned (h : Steady c s t) (n : Nat) (a : Bool) : encPoisoned t c n a = encPoisoned s c n a := by
  unfold Machine.encPoisoned
  rw [h.getS]

theorem wmode (h : Steady c s t) : rd t Fk.auditWcfgWmode = rd s Fk.auditWcfgWmode :=
  h.regs _ (by unfold drainKey Fk.auditWcfgWmode Fk.drainStatDiscarded; omega)

theorem start (h : Steady c s t) (hc : c < 128) : rd t (Fk.drainStartTD c) = rd s (Fk.drainStartTD c) :=
  h.regs _ (by unfold drainKey Fk.drainStartTD Fk.drainStatDiscarded; omega)

theorem holds (h : Steady c s t) (hc : c < 128) : rd t (Fk.drainStatHolds c) = rd s (Fk.drainStatHolds c) :=
  h.regs _ (by unfold drainKey Fk.drainStatHolds Fk.drainStatDiscarded; omega)

theorem rateOf (h : Steady c s t) (hc : c < 128) : rateOf t c = rateOf s c := by
  unfold Machine.rateOf
  rw [h.getS, h.regs (Fk.ctxCfgMode c) (by unfold drainKey Fk.ctxCfgMode Fk.drainStatDiscarded; omega),
    h.regs (Fk.mediaFlowRateRateNum c) (by unfold drainKey Fk.mediaFlowRateRateNum Fk.drainStatDiscarded; omega),
    h.regs (Fk.mediaFlowRateRateDen c) (by unfold drainKey Fk.mediaFlowRateRateDen Fk.drainStatDiscarded; omega)]

theorem slotTime (h : Steady c s t) (hc : c < 128) (a : Bool) (n : Nat) : slotTime t c a n = slotTime s c a n := by
  unfold Machine.slotTime slotOffset
  rw [h.rateOf hc, h.start hc]

theorem streamPid (h : Steady c s t) (hc : c < 128) (a : Bool) : streamPid t c a = streamPid s c a := by
  cases a
  · exact h.regs (Fk.drainCfgVideoPid c) (by unfold drainKey Fk.drainCfgVideoPid Fk.drainStatDiscarded; omega)
  · exact h.regs (Fk.drainCfgAudioPid c) (by unfold drainKey Fk.drainCfgAudioPid Fk.drainStatDiscarded; omega)

theorem delayNs (h : Steady c s t) (hc : c < 128) (a : Bool) : delayNs t c a = delayNs s c a := by
  cases a
  · exact congrArg (1000 * ·) (h.regs (Fk.drainVmodelDelayUs c) (by unfold drainKey Fk.drainVmodelDelayUs Fk.drainStatDiscarded; omega))
  · exact congrArg (1000 * ·) (h.regs (Fk.drainAmodelDelayUs c) (by unfold drainKey Fk.drainAmodelDelayUs Fk.drainStatDiscarded; omega))

theorem slotPts (h : Steady c s t) (hc : c < 128) (n : Nat) (a : Bool) : slotPts t c n a = slotPts s c n a := by
  unfold Machine.slotPts
  rw [h.start hc, h.delayNs hc, h.rateOf hc]

end Steady

theorem getCtx_later {s t : State} (h : Later s t) (c : Nat) : getCtx t c = getCtx s c := by
  unfold getCtx
  rw [h.ctxs]

theorem discardLate_steady {c : Nat} (hc : c < 128) {s s' : State} (h : Later s s') (n : Nat) (a : Bool) :
    Steady c s (discardLate s' c n a) := by
  have late := discardLate_aside hc s' n a
  obtain ⟨l, hl, -⟩ := late.ctx
  refine ⟨fun k hk => ?_, l, ?_⟩
  · rw [late.regs k hk.1, rd_wr_ne _ _ _ _ hk.2, h.regs k (not_clockKey hk.1)]
  · rw [hl, getCtx_wr, getCtx_later h]

/-! One slot. -/

/-- The access unit of slot `n` around its ingot or hold `u`: PRE before it, and END behind it where the stream ends. -/
def accessUnit (s : State) (c n : Nat) (a : Bool) (u : List Byte) : List Byte :=
  ((recOf s c n a true).map (·.bytes)).getD [] ++ u ++
    (if endOf (getCtx s c).drain a = some n then unitBytes utEnd (toBE 4 (n + 1)) else [])

/-- The access unit around `u` is queued, the records that went with it leave (`whole`: the ingot's too), and the slot is done, by a hold if a REASON is
given. -/
def slotActed (s : State) (c n : Nat) (a : Bool) (u : List Byte) (whole : Bool) (hold : Option Nat) : State :=
  let t := slotDone (takeRecs (queueUnit s c n a u) c n a whole) c n a hold.isSome
  match hold with
  | none => t
  | some q => countHold t c n q

/-- What the action at slot `n` leaves: the unit `u` queued in an access unit, the stream at its next slot, and its choice noted. -/
structure SlotActed (s t : State) (c n : Nat) (a : Bool) (u : List Byte) (hold : Bool) : Prop where
  cc : t.cc = s.cc
  wit : t.drainWit = s.drainWit ++ [(c, n, hold)]
  next : nextSlot (getCtx t c).drain a = n + 1
  other : nextSlot (getCtx t c).drain (!a) = nextSlot (getCtx s c).drain (!a)
  otherQueue : queueOf (getCtx t c).drain (!a) = queueOf (getCtx s c).drain (!a)
  queue : queueOf (getCtx t c).drain a = queueOf (getCtx s c).drain a ++
    (cutUnit (streamPid s c a) (slotPts s c n a) (accessUnit s c n a u)).map (fun p => (slotTime s c a n, p))
  recs : ∀ r ∈ (getCtx t c).drain.recs, ∃ q ∈ (getCtx s c).drain.recs, Filled q r

/-- Queueing leaves the records, the slots and the other stream's queue. -/
theorem queueUnit_drain (s : State) (c n : Nat) (a : Bool) (u : List Byte) :
    let d := (getCtx s c).drain
    let e := (getCtx (queueUnit s c n a u) c).drain
    e.recs = d.recs ∧ (∀ b, nextSlot e b = nextSlot d b) ∧ queueOf e (!a) = queueOf d (!a) ∧
      queueOf e a = queueOf d a ++
        (cutUnit (streamPid s c a) (slotPts s c n a) (accessUnit s c n a u)).map (fun p => (slotTime s c a n, p)) := by
  intro d e
  have queued : e = _ := congrArg Ctx.drain (getCtx_modCtx_same s c _)
  rw [queued]
  cases a <;> exact ⟨rfl, fun _ => rfl, rfl, rfl⟩

/-- Ending a slot moves its stream alone to the next, and leaves the records and the queues. -/
theorem slotDone_drain (s : State) (c n : Nat) (a hold : Bool) :
    let d := (getCtx s c).drain
    let e := (getCtx (slotDone s c n a hold) c).drain
    e.recs = d.recs ∧ nextSlot e a = n + 1 ∧ nextSlot e (!a) = nextSlot d (!a) ∧ ∀ b, queueOf e b = queueOf d b := by
  intro d e
  have done : e = _ := congrArg Ctx.drain (getCtx_modCtx_same { s with drainWit := s.drainWit ++ [(c, n, hold)] } c _)
  rw [done]
  cases a <;> cases hold <;> exact ⟨rfl, rfl, rfl, fun _ => rfl⟩

/-- Records that leave do not touch slots or queues. -/
theorem aside_drain {c : Nat} {s t : State} (h : Aside c s t) :
    let d := (getCtx s c).drain
    let e := (getCtx t c).drain
    (∀ r ∈ e.recs, ∃ q ∈ d.recs, Filled q r) ∧ (∀ b, nextSlot e b = nextSlot d b) ∧ ∀ b, queueOf e b = queueOf d b := by
  obtain ⟨l, hl, hm⟩ := h.ctx
  rw [hl]
  exact ⟨hm, fun _ => rfl, fun _ => rfl⟩

theorem takeRecs_aside (s : State) (c n : Nat) (a whole : Bool) : Aside c s (takeRecs s c n a whole) := recsLeave_aside s c _

theorem slotDone_acted (s : State) (c n : Nat) (a : Bool) (u : List Byte) (whole hold : Bool) :
    SlotActed s (slotDone (takeRecs (queueUnit s c n a u) c n a whole) c n a hold) c n a u hold := by
  have took := takeRecs_aside (queueUnit s c n a u) c n a whole
  obtain ⟨qrecs, qslot, qother, qqueue⟩ := queueUnit_drain s c n a u
  obtain ⟨trecs, tslot, tqueue⟩ := aside_drain took
  obtain ⟨drecs, dnext, dother, dqueue⟩ := slotDone_drain (takeRecs (queueUnit s c n a u) c n a whole) c n a hold
  exact {
    cc := took.cc
    wit := congrArg (· ++ [(c, n, hold)]) took.wit
    next := dnext
    other := (dother.trans (tslot _)).trans (qslot _)
    otherQueue := ((dqueue _).trans (tqueue _)).trans qother
    queue := ((dqueue _).trans (tqueue _)).trans qqueue
    recs := fun r hr => qrecs ▸ trecs r (drecs ▸ hr) }

theorem slotDone_regs (s : State) (c n : Nat) (a : Bool) (u : List Byte) (whole hold : Bool) (k : Nat) (hk : drainKey k) :
    rd (slotDone (takeRecs (queueUnit s c n a u) c n a whole) c n a hold) k = rd s k :=
  (takeRecs_aside (queueUnit s c n a u) c n a whole).regs k hk

theorem countHold_beside (s : State) (c n q : Nat) : Beside (bump s (Fk.drainStatHolds c) 16) (countHold s c n q) := by
  have traced := trace_beside 7 0 srcChip (toLE 1 c ++ toLE 1 q ++ toLE 4 n) (beside_refl (bump s (Fk.drainStatHolds c) 16))
  exact beside_ite (alarmEvent_beside 11 (by decide) traced) traced

theorem countHold_acted {s t : State} {c n : Nat} {a : Bool} {u : List Byte} {hold : Bool} (q : Nat) (h : SlotActed s t c n a u hold) :
    SlotActed s (countHold t c n q) c n a u hold := by
  have count := countHold_beside t c n q
  have same : getCtx (countHold t c n q) c = getCtx t c := by
    unfold getCtx
    rw [count.ctxs]
    rfl
  exact {
    cc := count.cc.trans h.cc
    wit := count.wit.trans h.wit
    next := same ▸ h.next
    other := same ▸ h.other
    otherQueue := same ▸ h.otherQueue
    queue := same ▸ h.queue
    recs := same ▸ h.recs }

theorem slotActed_acted (s : State) (c n : Nat) (a : Bool) (u : List Byte) (whole : Bool) (hold : Option Nat) :
    SlotActed s (slotActed s c n a u whole hold) c n a u hold.isSome := by
  have done := slotDone_acted s c n a u whole hold.isSome
  cases hold with
  | none => exact done
  | some q => exact countHold_acted q done

theorem drainStatHolds_key {c : Nat} (hc : c < 128) : drainKey (Fk.drainStatHolds c) := by
  unfold drainKey Fk.drainStatHolds
  omega

theorem slotActed_holds {c : Nat} (hc : c < 128) (s : State) (n : Nat) (a : Bool) (u : List Byte) (whole : Bool) (hold : Option Nat) :
    rd (slotActed s c n a u whole hold) (Fk.drainStatHolds c) =
      if hold.isSome then (rd s (Fk.drainStatHolds c) + 1) % 2 ^ 16 else rd s (Fk.drainStatHolds c) := by
  have done := slotDone_regs s c n a u whole hold.isSome _ (drainStatHolds_key hc)
  cases hold with
  | none => exact done
  | some q => exact ((countHold_beside _ c n q).regs _ (drainStatHolds_key hc)).trans ((rd_wr_same _ _ _).trans (by rw [done]; rfl))

theorem slotActed_discards {c : Nat} (hc : c < 128) (s : State) (n : Nat) (a : Bool) (u : List Byte) (whole : Bool) (hold : Option Nat) :
    rd (slotActed s c n a u whole hold) (Fk.drainStatDiscarded c) = rd s (Fk.drainStatDiscarded c) := by
  have done := slotDone_regs s c n a u whole hold.isSome _ (drainStatDiscarded_key hc)
  have ne : Fk.drainStatDiscarded c ≠ Fk.drainStatHolds c := by
    unfold Fk.drainStatDiscarded Fk.drainStatHolds
    omega
  cases hold with
  | none => exact done
  | some q => exact ((countHold_beside _ c n q).regs _ (drainStatDiscarded_key hc)).trans ((rd_wr_ne _ _ _ _ ne).trans done)

/-! The choice. -/

/-- The record that the drain sends at slot `n`: that of the slot, unless it sends holds. -/
def recSent (s : State) (c n : Nat) (a : Bool) : Option DrainRec :=
  if (getCtx s c).drain.holding = none then recOf s c n a false else none

/-- The unit that the drain sends at slot `n`: the record's, or a hold of its own. -/
def unitSent (s : State) (c n : Nat) (a : Bool) : List Byte :=
  match recSent s c n a with
  | some r => r.bytes
  | none => holdUnit n (holdReason s c n a (getCtx s c).drain.holding)

/-- The unit that is sent, from what was read before the time passed. -/
theorem unitSent_steady {c : Nat} {s v : State} (h : Steady c s v) (n : Nat) (a : Bool) :
    (match recSent v c n a with
      | some r => r.bytes
      | none => holdUnit n (if (getCtx s c).drain.holding = some 2 then 2 else if encPoisoned s c n a then 1
          else (getCtx s c).drain.holding.getD 0)) = unitSent v c n a := by
  rw [unitSent, holdReason, h.holding, h.encPoisoned]

theorem choiceNow_eq (s : State) (c n : Nat) (a : Bool) :
    choiceNow s c n a = match recSent s c n a with
      | some r => if r.isPic then .ingot r else .written r
      | none => .hold (holdReason s c n a (getCtx s c).drain.holding) := by
  unfold choiceNow recSent
  cases (getCtx s c).drain.holding with
  | none => cases recOf s c n a false <;> rfl
  | some q => rfl

/-- Where the drain makes the choice itself, the action queues what it sends, and it is a hold unless an ingot goes. -/
theorem drainAct_eq (s : State) (c n : Nat) (a : Bool)
    (h : rd (discardLate s c n a) Fk.auditWcfgWmode ≠ wmReplay ∨ (getCtx (discardLate s c n a) c).drain.holding = some 2) :
    let v := discardLate s c n a
    ∃ whole hold, hold.isSome = !(recSent v c n a).any (·.isPic) ∧
      drainAct s c n a = slotActed v c n a (unitSent v c n a) whole hold := by
  intro v
  have own : choose v c n a = choiceNow v c n a := if_neg (fun hr => h.elim (· hr.1) hr.2)
  unfold drainAct
  dsimp only
  rw [own, choiceNow_eq]
  unfold unitSent
  cases recSent v c n a with
  | none => exact ⟨false, some _, rfl, rfl⟩
  | some r =>
    cases hp : r.isPic with
    | true => exact ⟨true, none, by simp [hp], by simp only [hp, if_true]; rfl⟩
    | false => exact ⟨true, some (r.bytes.getLastD 0).toNat, by simp [hp], by simp only [hp, Bool.false_eq_true, if_false]; rfl⟩

end Sys2Proof.Machine
end

section
/-! SUPPORT. Datagrams (14 R375, R376, 19 R501, 21 R532): the packets of an opportunity, their lengths, and the ways on which a datagram leaves. -/

namespace Sys2Proof.Machine

/-! Bytes. -/

@[simp] theorem length_toLE (k n : Nat) : (toLE k n).length = k := by
  induction k generalizing n with
  | zero => rfl
  | succ k ih => exact congrArg (· + 1) (ih _)

@[simp] theorem length_toBE (k n : Nat) : (toBE k n).length = k := by
  unfold toBE
  rw [List.length_reverse, length_toLE]

@[simp] theorem length_withCc (l : List Byte) (k : Nat) : (withCc l k).length = l.length := List.length_set

@[simp] theorem length_tsPacket (pid : Nat) (start : Bool) (afc : Nat) (body : List Byte) :
    (tsPacket pid start afc body).length = 4 + body.length := by
  unfold tsPacket
  simp only [List.length_append, length_toLE, length_toBE]

/-- A section that its packet holds. -/
theorem length_sectionPacket (pid table : Nat) (body : List Byte) (h : body.length ≤ 176) : (sectionPacket pid table body).length = 188 := by
  unfold sectionPacket
  simp only [length_tsPacket, List.length_append, length_toLE, length_toBE, List.length_replicate]
  omega

theorem length_patPacket (s : State) (c : Nat) : (patPacket s c).length = 188 :=
  length_sectionPacket _ _ _ (by simp only [List.length_append, length_toLE, length_toBE]; omega)

theorem length_pmtStream (s : State) (c : Nat) (a : Bool) : (pmtStream s c a).length ≤ 12 := by
  unfold pmtStream
  split
  · simp only [List.length_append, length_toLE, length_toBE]
    omega
  · exact Nat.zero_le _

theorem length_pmtPacket (s : State) (c : Nat) : (pmtPacket s c).length = 188 := by
  have video := length_pmtStream s c false
  have audio := length_pmtStream s c true
  refine length_sectionPacket _ _ _ ?_
  simp only [List.length_append, length_toLE, length_toBE]
  omega

theorem length_pcrPacket (s : State) (c t : Nat) : (pcrPacket s c t).length = 188 := by
  unfold pcrPacket
  simp only [length_tsPacket, List.length_append, length_toLE, length_toBE, List.length_replicate]

theorem length_nullPacket (s : State) : (nullPacket s).1.length = 188 := by
  unfold nullPacket
  simp only [length_withCc, length_tsPacket, length_toLE]

/-! A write of whole halves (03 R84). -/

theorem mWriteHalf_byte (ue : List Nat) (m : Mem) (a : Nat) (l : List Byte) (h x : Nat) (lo : a ≤ 32 * h) (hi : 32 * h + 32 ≤ a + l.length) :
    mByte (mWriteHalf ue m a l h) x = if 32 * h ≤ x ∧ x < 32 * h + 32 then l.getD (x - a) 0 else mByte m x := by
  have part : halfPart a l h = (32 * h, (l.drop (32 * h - a)).take 32) := by
    have e1 : max a (32 * h) = 32 * h := by omega
    have e2 : min (a + l.length) (32 * h + 32) = 32 * h + 32 := by omega
    simp only [halfPart, e1, e2, Nat.add_sub_cancel_left]
  have len : ((l.drop (32 * h - a)).take 32).length = 32 := by
    simp only [List.length_take, List.length_drop]
    omega
  unfold mWriteHalf
  simp only [part, len, if_true, mPut_byte]
  split
  · next hx =>
    have e : 32 * h - a + (x - 32 * h) = x - a := by omega
    simp only [List.getD_eq_getElem?_getD, List.getElem?_take, List.getElem?_drop, e]
    rw [if_pos (by omega)]
  · rfl

/-- The halves of a write that starts and ends with one. -/
theorem halves_whole (h n : Nat) : halves (32 * h) (32 * n) = (List.range n).map (h + ·) := by
  unfold halves
  split
  · have : n = 0 := by omega
    subst this
    rfl
  · have : (32 * h + 32 * n - 1) / 32 + 1 - 32 * h / 32 = n := by omega
    rw [this, Nat.mul_div_cancel_left h (by decide)]

theorem writeHalves_byte (ue : List Nat) (m : Mem) (h : Nat) (l : List Byte) (x : Nat) :
    ∀ k, 32 * k ≤ l.length →
      mByte (((List.range k).map (h + ·)).foldl (fun m i => mWriteHalf ue m (32 * h) l i) m) x =
        if 32 * h ≤ x ∧ x < 32 * h + 32 * k then l.getD (x - 32 * h) 0 else mByte m x := by
  intro k
  induction k with
  | zero => exact fun _ => (if_neg (by omega)).symm
  | succ k ih =>
    intro hk
    rw [List.range_succ, List.map_append, List.foldl_append]
    simp only [List.map_cons, List.map_nil, List.foldl_cons, List.foldl_nil]
    rw [mWriteHalf_byte ue _ _ _ _ _ (by omega) (by omega), ih (by omega)]
    split
    · rw [if_pos (by omega)]
    · split
      · rw [if_pos (by omega)]
      · rw [if_neg (by omega)]

/-- Whole halves written read back, whatever was poisoned there. -/
theorem mBytes_mWrite (ue : List Nat) (m : Mem) (h : Nat) (l : List Byte) (n : Nat) (hl : l.length = 32 * n) :
    mBytes (mWrite ue m (32 * h) l) (32 * h) l.length = l := by
  have byte : ∀ i, i < l.length → mByte (mWrite ue m (32 * h) l) (32 * h + i) = l.getD i 0 := by
    intro i hi
    unfold mWrite
    rw [hl, halves_whole, writeHalves_byte ue m h l _ n (by omega), if_pos (by omega), Nat.add_sub_cancel_left]
  refine List.ext_getElem (by simp [mBytes]) (fun i h1 h2 => ?_)
  simp only [mBytes, List.getElem_map, List.getElem_range, byte i h2]
  rw [List.getD_eq_getElem?_getD, List.getElem?_eq_getElem h2, Option.getD_some]

/-! Packets. -/

/-- `t` differs from `s` in time, the free values, and the continuity counters and packets of drain `c`. -/
structure Paced (c : Nat) (s t : State) : Prop where
  wqs : t.wqs = s.wqs
  host : t.host = s.host
  out : t.out = s.out
  part : t.part = s.part
  regs : ∀ k, ¬ clockKey k → rd t k = rd s k
  dgram : (getCtx t c).drain.dgram = (getCtx s c).drain.dgram
  cycle : (getCtx t c).drain.cycle = (getCtx s c).drain.cycle
  empty : ∀ a, queueOf (getCtx s c).drain a = [] → queueOf (getCtx t c).drain a = []

theorem paced_refl (c : Nat) (s : State) : Paced c s s := ⟨rfl, rfl, rfl, rfl, fun _ _ => rfl, rfl, rfl, fun _ h => h⟩

theorem paced_trans {c : Nat} {s t u : State} (h : Paced c s t) (k : Paced c t u) : Paced c s u where
  wqs := k.wqs.trans h.wqs
  host := k.host.trans h.host
  out := k.out.trans h.out
  part := k.part.trans h.part
  regs := fun j hj => (k.regs j hj).trans (h.regs j hj)
  dgram := k.dgram.trans h.dgram
  cycle := k.cycle.trans h.cycle
  empty := fun a ha => k.empty a (h.empty a ha)

theorem paced_later {c : Nat} {s t : State} (h : Later s t) : Paced c s t := by
  have same := getCtx_later h c
  exact ⟨h.wqs, h.host, h.out, h.part, h.regs, by rw [same], by rw [same], fun a ha => by rw [same]; exact ha⟩

theorem paced_modCtx (s : State) (c : Nat) (f : Ctx → Ctx) (dgram : (f (getCtx s c)).drain.dgram = (getCtx s c).drain.dgram)
    (cycle : (f (getCtx s c)).drain.cycle = (getCtx s c).drain.cycle)
    (empty : ∀ a, queueOf (getCtx s c).drain a = [] → queueOf (f (getCtx s c)).drain a = []) : Paced c s (modCtx s c f) := by
  refine ⟨rfl, rfl, rfl, rfl, fun _ _ => rfl, ?_, ?_, ?_⟩ <;> rw [getCtx_modCtx_same]
  · exact dgram
  · exact cycle
  · exact empty

theorem nullPacket_paced (s : State) (c : Nat) : Paced c s (nullPacket s).2 := { paced_refl c s with }

theorem counted_paced (s : State) (c k : Nat) (l : List Byte) : Paced c s (counted s c k l).2 :=
  paced_modCtx s c _ rfl rfl (fun a ha => by cases a <;> exact ha)

/-- The packet in front of a stream's queue leaves it. -/
theorem tail_paced (s : State) (c k : Nat) : Paced c s (modCtx s c (fun x => { x with drain :=
    if k = 1 then { x.drain with aq := x.drain.aq.tail } else { x.drain with vq := x.drain.vq.tail } })) := by
  have stays : ∀ {l : List (Nat × List Byte)}, l = [] → l.tail = [] := fun h => congrArg List.tail h
  refine paced_modCtx s c _ (by dsimp only; split <;> rfl) (by dsimp only; split <;> rfl) (fun a ha => ?_)
  dsimp only
  split
  · cases a
    · exact ha
    · exact stays ha
  · cases a
    · exact stays ha
    · exact ha

theorem oppPacket_paced (s : State) (c q i : Nat) : Paced c s (oppPacket s c q i).2 := by
  unfold oppPacket
  split
  · exact counted_paced s c 0 _
  · exact counted_paced s c 1 _
  · exact paced_refl c s
  · dsimp only
    split
    · exact nullPacket_paced s c
    · split
      · exact nullPacket_paced s c
      · exact paced_trans (tail_paced s c _) (counted_paced _ c _ _)

theorem oppPackets_paced (c q : Nat) : ∀ (n i : Nat) (s : State), Paced c s (oppPackets c q n i s).2
  | 0, _, s => paced_refl c s
  | n + 1, i, s => paced_trans (oppPacket_paced s c q i) (oppPackets_paced c q n (i + 1) _)

/-- With nothing queued an opportunity carries 188 bytes: PAT, PMT, PCR or a null packet. -/
theorem length_oppPacket (s : State) (c q i : Nat) (h : ∀ a, queueOf (getCtx s c).drain a = []) : (oppPacket s c q i).1.length = 188 := by
  unfold oppPacket
  split
  · exact (length_withCc _ _).trans (length_patPacket s c)
  · exact (length_withCc _ _).trans (length_pmtPacket s c)
  · exact (length_withCc _ _).trans (length_pcrPacket s c _)
  · simp only [h, List.head?_nil]
    exact length_nullPacket s

theorem length_oppPackets (c q : Nat) :
    ∀ (n i : Nat) (s : State), (∀ a, queueOf (getCtx s c).drain a = []) → (oppPackets c q n i s).1.length = 188 * n
  | 0, _, _, _ => rfl
  | n + 1, i, s, h => by
    have rest := length_oppPackets c q n (i + 1) (oppPacket s c q i).2 (fun a => (oppPacket_paced s c q i).empty a (h a))
    have first := length_oppPacket s c q i h
    simp only [oppPackets, List.length_append]
    omega

/-- A cycle begins with PAT and PMT. -/
theorem oppPackets_begin (s : State) (c q n : Nat) :
    (oppPackets c q (n + 2) 0 s).1.take 376 = withCc (patPacket s c) (nextCc s c 0) ++ withCc (pmtPacket s c) (nextCc s c 1) := by
  have pat : (oppPacket s c q 0).1 = withCc (patPacket s c) (nextCc s c 0) := rfl
  have counter : nextCc (oppPacket s c q 0).2 c 1 = nextCc s c 1 := by
    unfold nextCc
    exact (congrArg (fun x : Ctx => mget (fun _ => 0) x.drain.ccs 1) (getCtx_modCtx_same s c _)).trans (mget_mput_ne _ _ _ _ _ (by decide))
  have pmt : (oppPacket (oppPacket s c q 0).2 c q 1).1 = withCc (pmtPacket s c) (nextCc s c 1) := by
    rw [← counter]
    rfl
  have both : (withCc (patPacket s c) (nextCc s c 0) ++ withCc (pmtPacket s c) (nextCc s c 1)).length = 376 := by
    rw [List.length_append, length_withCc, length_withCc, length_patPacket, length_pmtPacket]
  simp only [oppPackets, pat, pmt]
  rw [← List.append_assoc, ← both, List.take_left]

end Sys2Proof.Machine
end

section
/-! SUPPORT. What a datagram's departure reads and leaves. -/

namespace Sys2Proof.Machine

/-! What the packets and the frame read. -/

theorem paced_drainKey {c : Nat} {s t : State} (h : Paced c s t) : ∀ k, drainKey k → rd t k = rd s k :=
  fun k hk => h.regs k (not_clockKey hk)

theorem later_steady {s t : State} (h : Later s t) (c : Nat) : Steady c s t :=
  ⟨fun k hk => h.regs k (not_clockKey hk.1), (getCtx s c).drain.recs, getCtx_later h c⟩

theorem Steady.carries {c : Nat} {s t : State} (h : Steady c s t) (hc : c < 128) (a : Bool) : carries t c a = carries s c a := by
  cases a
  · exact congrArg (fun v => decide (v = 1)) (h.regs (Fk.drainCfgVideo c) (by unfold drainKey Fk.drainCfgVideo Fk.drainStatDiscarded; omega))
  · exact congrArg (fun v => decide (v = 1)) (h.regs (Fk.drainCfgAudio c) (by unfold drainKey Fk.drainCfgAudio Fk.drainStatDiscarded; omega))

theorem Steady.pmtPid {c : Nat} {s t : State} (h : Steady c s t) (hc : c < 128) : rd t (Fk.drainCfgPmtPid c) = rd s (Fk.drainCfgPmtPid c) :=
  h.regs _ (by unfold drainKey Fk.drainCfgPmtPid Fk.drainStatDiscarded; omega)

theorem Steady.patPacket {c : Nat} {s t : State} (h : Steady c s t) (hc : c < 128) : patPacket t c = patPacket s c := by
  unfold Machine.patPacket
  rw [h.pmtPid hc]

theorem Steady.pmtPacket {c : Nat} {s t : State} (h : Steady c s t) (hc : c < 128) : pmtPacket t c = pmtPacket s c := by
  unfold Machine.pmtPacket pmtStream pcrPid
  simp only [h.pmtPid hc, h.carries hc, h.streamPid hc]

/-- A frame is made of the registers of its context and its port. -/
theorem egressFrame_congr {s t : State} {c p : Nat} (hc : c < 128) (hp : p < 2) (h : ∀ k, drainKey k → rd t k = rd s k) (tm : Nat)
    (l : List Byte) : egressFrame t c p tm l = egressFrame s c p tm l := by
  unfold egressFrame ipPacket udpPacket ipPair rtpPacket
  simp (disch := simp only [drainKey, Fk.mediaEgrStatRtpSeq, Fk.mediaEgrDst4Ssrc, Fk.mediaEgrIpIpv6, Fk.mediaPortIp6hIpv6Hi, Fk.mediaPortIp6lIpv6Lo,
    Fk.mediaPortIp4Ipv4, Fk.mediaEgrDst6hDstIpv6Hi, Fk.mediaEgrDst6lDstIpv6Lo, Fk.mediaEgrDst4DstIpv4, Fk.mediaEgrIpSrcUdp, Fk.mediaEgrIpDstUdp,
    Fk.mediaEgrIpDscp, Fk.mediaEgrIpTtl, Fk.mediaPortMac, Fk.mediaEgrMacDmac, Fk.mediaEgrMacVlanEn, Fk.mediaEgrMacPcp, Fk.mediaEgrMacVlanId]; omega) only [h]

/-! The departure. -/

/-- The departure of a datagram leaves the contexts and the number of packets of the drain's cycle. -/
structure Departed (c : Nat) (s t : State) : Prop where
  ctxs : t.ctxs = s.ctxs
  cycleC : rd t (Fk.drainCycleC c) = rd s (Fk.drainCycleC c)

theorem departed_wr {c : Nat} {s t : State} (k v : Nat) (hk : Fk.drainCycleC c ≠ k) (h : Departed c s t) : Departed c s (wr t k v) :=
  ⟨h.ctxs, (rd_wr_ne _ _ _ _ hk).trans h.cycleC⟩

theorem mediaKeys_ne (c p : Nat) :
    Fk.mediaPortCnt1TxDatagrams p ≠ Fk.mediaEgrStatRtpSeq c ∧ Fk.mediaPortCnt1TxDiscard p ≠ Fk.mediaEgrStatRtpSeq c ∧
      Fk.drainCycleC c ≠ Fk.mediaEgrStatRtpSeq c ∧ Fk.drainCycleC c ≠ Fk.mediaPortCnt1TxDatagrams p ∧
      Fk.drainCycleC c ≠ Fk.mediaPortCnt1TxDiscard p := by
  unfold Fk.mediaPortCnt1TxDatagrams Fk.mediaPortCnt1TxDiscard Fk.mediaEgrStatRtpSeq Fk.drainCycleC
  omega

/-- On a port whose link is up the frame leaves and counts, and RTP_SEQ goes on. -/
theorem sendMedia_up (s : State) (c p tm : Nat) (ts : List Byte)
    (up : rd s (Fk.mediaPortStateLinkUp p) = 1) :
    let t := sendMedia s c p tm ts
    Departed c s t ∧ rd t (Fk.mediaEgrStatRtpSeq c) = (rd s (Fk.mediaEgrStatRtpSeq c) + 1) % 2 ^ 16 ∧
      t.out.head? = some (.media p (egressFrame s c p tm ts)) ∧
      rd t (Fk.mediaPortCnt1TxDatagrams p) = (rd s (Fk.mediaPortCnt1TxDatagrams p) + 1) % 2 ^ 32 := by
  obtain ⟨sent, -, cycleSeq, cycleSent, -⟩ := mediaKeys_ne c p
  have eq : sendMedia s c p tm ts =
      bump (bump (emit s (.media p (egressFrame s c p tm ts))) (Fk.mediaPortCnt1TxDatagrams p) 32) (Fk.mediaEgrStatRtpSeq c) 16 := by
    unfold sendMedia
    rw [up]
    rfl
  rw [eq]
  refine ⟨departed_wr _ _ cycleSeq (departed_wr _ _ cycleSent ⟨rfl, rfl⟩), ?_, rfl, ?_⟩
  · exact (rd_wr_same _ _ _).trans (by rw [bump, rd_wr_ne _ _ _ _ sent.symm, rd_emit])
  · exact (rd_wr_ne _ _ _ _ sent).trans (rd_wr_same _ _ _)

/-- On a port whose link is down the datagram is discarded and counts so; RTP_SEQ goes on all the same. -/
theorem sendMedia_down (s : State) (c p tm : Nat) (ts : List Byte)
    (down : rd s (Fk.mediaPortStateLinkUp p) ≠ 1) :
    let t := sendMedia s c p tm ts
    Departed c s t ∧ rd t (Fk.mediaEgrStatRtpSeq c) = (rd s (Fk.mediaEgrStatRtpSeq c) + 1) % 2 ^ 16 ∧ t.out = s.out ∧
      rd t (Fk.mediaPortCnt1TxDiscard p) = (rd s (Fk.mediaPortCnt1TxDiscard p) + 1) % 2 ^ 32 := by
  obtain ⟨-, discard, cycleSeq, -, cycleDiscard⟩ := mediaKeys_ne c p
  have eq : sendMedia s c p tm ts = bump (bump s (Fk.mediaPortCnt1TxDiscard p) 32) (Fk.mediaEgrStatRtpSeq c) 16 := by
    unfold sendMedia
    rw [decide_eq_false down]
    rfl
  rw [eq]
  refine ⟨departed_wr _ _ cycleSeq (departed_wr _ _ cycleDiscard ⟨rfl, rfl⟩), ?_, rfl, ?_⟩
  · exact (rd_wr_same _ _ _).trans (by rw [bump, rd_wr_ne _ _ _ _ discard.symm])
  · exact (rd_wr_ne _ _ _ _ discard).trans (rd_wr_same _ _ _)

/-- Where a datagram does not reach the output ring it is discarded and counts so. -/
theorem sendHost_discards (s : State) (c tm : Nat) (ts : List Byte) (h : s.part.pcieUp = false ∨ ringRoom s (rd s (Fk.ctxCfgWq c)) = false) :
    let t := sendHost s c tm ts
    Departed c s t ∧ t.host = s.host ∧ rd t (Fk.drainStatDiscarded c) = (rd s (Fk.drainStatDiscarded c) + 1) % 2 ^ 16 := by
  have closed : ¬ s.part.pcieUp = true ∨ ¬ ringRoom s (rd s (Fk.ctxCfgWq c)) = true := h.imp (by simp [·]) (by simp [·])
  have eq : sendHost s c tm ts = bump s (Fk.drainStatDiscarded c) 16 := if_pos closed
  have ne : Fk.drainCycleC c ≠ Fk.drainStatDiscarded c := by
    unfold Fk.drainCycleC Fk.drainStatDiscarded
    omega
  rw [eq]
  exact ⟨departed_wr _ _ ne ⟨rfl, rfl⟩, rfl, rd_wr_same _ _ _⟩

/-- An entry of the output ring (19 R501). -/
def ringEntry (seq c tm : Nat) (ts : List Byte) : List Byte :=
  toLE 4 seq ++ toLE 2 c ++ toLE 2 0 ++ toLE 8 tm ++ ts ++ List.replicate 12 0

theorem length_ringEntry (seq c tm : Nat) (ts : List Byte) : (ringEntry seq c tm ts).length = 28 + ts.length := by
  unfold ringEntry
  simp only [List.length_append, length_toLE, List.length_replicate]
  omega

/-- Address of the output-ring entry at TAIL. -/
def ringTailAddr (s : State) (q : Nat) : Nat :=
  rd s (Fk.wqOrOrPage q) * 4096 + rd s (Fk.wqHeadsOrTail q) % ringSize (rd s (Fk.wqOrOrLog2 q)) * 1344

/-- A datagram with room in the output ring is written at TAIL, which goes on. -/
theorem sendHost_writes (s : State) (c tm : Nat) (ts : List Byte) (up : s.part.pcieUp = true)
    (room : ringRoom s (rd s (Fk.ctxCfgWq c)) = true) :
    let q := rd s (Fk.ctxCfgWq c)
    let t := sendHost s c tm ts
    Departed c s t ∧ rd t (Fk.wqHeadsOrTail q) = (rd s (Fk.wqHeadsOrTail q) + 1) % 2 ^ 20 ∧
      (getWq t q).dseq = ((getWq s q).dseq + 1) % 2 ^ 32 ∧
      (ts.length = 1316 → mBytes t.host (ringTailAddr s q) 1344 = ringEntry (getWq s q).dseq c tm ts) := by
  intro q
  have eq : sendHost s c tm ts =
      wr (modWq { s with host := mWrite [] s.host (ringTailAddr s q) (ringEntry (getWq s q).dseq c tm ts) } q
        (fun w => { w with dseq := (w.dseq + 1) % 2 ^ 32 })) (Fk.wqHeadsOrTail q) ((rd s (Fk.wqHeadsOrTail q) + 1) % 2 ^ 20) := by
    unfold sendHost
    rw [if_neg (by simp [up, room])]
    dsimp only
    rw [if_pos up]
    rfl
  have ne : Fk.drainCycleC c ≠ Fk.wqHeadsOrTail q := by
    unfold Fk.drainCycleC Fk.wqHeadsOrTail
    omega
  rw [eq]
  refine ⟨departed_wr _ _ ne ⟨rfl, rfl⟩, rd_wr_same _ _ _, congrArg Wq.dseq ((getWq_wr _ _ _ _).trans (getWq_modWq_same _ q _)), fun hts => ?_⟩
  have len : (ringEntry (getWq s q).dseq c tm ts).length = 1344 := by rw [length_ringEntry, hts]
  have whole : ringTailAddr s q = 32 * (ringTailAddr s q / 32) := by
    unfold ringTailAddr
    omega
  have back := mBytes_mWrite [] s.host (ringTailAddr s q / 32) (ringEntry (getWq s q).dseq c tm ts) 42 len
  rw [← whole, len] at back
  exact back

/-- The drain's next datagram: the next of the cycle, or the first of the next cycle. -/
def NextDatagram (s t : State) (c : Nat) : Prop :=
  let d := (getCtx s c).drain
  let e := (getCtx t c).drain
  if 7 * (d.dgram + 1) ≥ rd s (Fk.drainCycleC c) then e.dgram = 0 ∧ e.cycle = d.cycle + 1 else e.dgram = d.dgram + 1 ∧ e.cycle = d.cycle

theorem nextDatagram_goes_on (s : State) (c : Nat) : NextDatagram s (nextDatagram s c) c := by
  have on : (getCtx (nextDatagram s c) c).drain = _ := congrArg Ctx.drain (getCtx_modCtx_same s c _)
  unfold NextDatagram
  dsimp only at on ⊢
  rw [on]
  by_cases h : 7 * ((getCtx s c).drain.dgram + 1) ≥ rd s (Fk.drainCycleC c)
  · simp only [if_pos h, and_self]
  · simp only [if_neg h, and_self]

end Sys2Proof.Machine
end

section
/-! The statement about drains: the action at a slot and the departure of a datagram, from the facts above. -/

namespace Sys2Proof.Machine

/-! The action. -/

theorem exec_drainAction_idle (s : State) (c : Nat) (a : Bool) (h : slotDue s c a = false) : exec (.drainAction c a) s = .next s :=
  congrArg Host.Outcome.next (if_neg (by rw [h]; exact Bool.false_ne_true))

theorem exec_drainAction_due (s : State) (c : Nat) (a : Bool) (h : slotDue s c a = true) :
    exec (.drainAction c a) s = .next (drainAct (untilNs s (slotTime s c a (nextSlot (getCtx s c).drain a))) c
      (nextSlot (getCtx s c).drain a) a) :=
  congrArg Host.Outcome.next (if_pos h)

theorem drainRuns_ctx {s : State} {c : Nat} (h : drainRuns s c = true) : c < 128 := by
  unfold drainRuns at h
  simp only [Bool.and_eq_true, decide_eq_true_eq] at h
  exact h.1.1.1

theorem slotDue_ctx {s : State} {c : Nat} {a : Bool} (h : slotDue s c a = true) : c < 128 := by
  unfold slotDue at h
  simp only [Bool.and_eq_true] at h
  exact drainRuns_ctx h.1.1

theorem lateIngots_eq (s : State) (c n : Nat) (a : Bool) :
    lateIngots s c n a = (getCtx s c).drain.recs.filter
      (fun r => decide (r.video = !a) && decide (r.slot < n) && !r.pre && r.slots.isSome) := by
  unfold lateIngots isLate
  rw [List.filter_filter]
  exact List.filter_congr (fun r _ => by ac_rfl)

/-- The record of a slot, found among those of `v` by what `s` reads. -/
theorem recOf_steady {c : Nat} (hc : c < 128) {s v : State} (h : Steady c s v) (n : Nat) (a pre : Bool) :
    recOf v c n a pre = (getCtx v c).drain.recs.find? (fun r => decide (r.video = !a) && decide (r.slot = n) && decide (r.pre = pre) &&
      r.slots.isSome && (decide (rd s Fk.auditWcfgWmode = wmReplay) || decide (r.doneAt ≤ slotTime s c a n))) := by
  unfold recOf inTime
  rw [h.wmode, h.slotTime hc]
  congr 1
  funext r
  ac_rfl

/-- Discards of late records, from the state before the time passed. -/
theorem discardLate_discards {c : Nat} (hc : c < 128) {s s' : State} (h : Later s s') (n : Nat) (a : Bool) (late : lateIngots s c n a ≠ []) :
    rd (discardLate s' c n a) (Fk.drainStatDiscarded c) = (rd s (Fk.drainStatDiscarded c) + (lateIngots s c n a).length) % 2 ^ 16 := by
  have same : lateIngots s' c n a = lateIngots s c n a := by
    unfold lateIngots
    rw [getCtx_later h]
  rw [(discardLate_aside hc s' n a).regs _ (drainStatDiscarded_key hc), rd_wr_same, same, countedUp, if_neg late,
    h.regs _ (not_clockKey (drainStatDiscarded_key hc))]

theorem discardLate_cc {c : Nat} (hc : c < 128) (s : State) (n : Nat) (a : Bool) : (discardLate s c n a).cc = s.cc :=
  (discardLate_aside hc s n a).cc

theorem discardLate_drainWit {c : Nat} (hc : c < 128) (s : State) (n : Nat) (a : Bool) : (discardLate s c n a).drainWit = s.drainWit :=
  (discardLate_aside hc s n a).wit

theorem untilNs_cc (s : State) (t : Nat) : (untilNs s t).cc = s.cc + (t * 196608 - timeThirds s + 131071) / 131072 := advance_cc s _

/-- A slot that is due, where the drain makes its choice itself: late records go, and the slot's access unit is queued at its time. -/
theorem drainAction_acts (s : State) (c : Nat) (a : Bool) (due : slotDue s c a = true)
    (own : rd s Fk.auditWcfgWmode ≠ wmReplay ∨ (getCtx s c).drain.holding = some 2) :
    let n := nextSlot (getCtx s c).drain a
    let v := discardLate (untilNs s (slotTime s c a n)) c n a
    let hold := !(recSent v c n a).any (·.isPic)
    ∃ t, exec (.drainAction c a) s = .next t ∧ SlotActed v t c n a (unitSent v c n a) hold ∧
      rd t (Fk.drainStatHolds c) = (if hold then (rd s (Fk.drainStatHolds c) + 1) % 2 ^ 16 else rd s (Fk.drainStatHolds c)) ∧
      rd t (Fk.drainStatDiscarded c) = rd v (Fk.drainStatDiscarded c) := by
  intro n v hold
  have hc := slotDue_ctx due
  have steady : Steady c s v := discardLate_steady hc (untilNs_later s _) n a
  obtain ⟨whole, reason, hreason, act⟩ := drainAct_eq (untilNs s (slotTime s c a n)) c n a
    (own.imp (fun h => by rw [steady.wmode]; exact h) (fun h => by rw [steady.holding]; exact h))
  refine ⟨_, (exec_drainAction_due s c a due).trans (congrArg _ act), ?_, ?_, slotActed_discards hc _ _ _ _ _ _⟩
  · have acted := slotActed_acted v c n a (unitSent v c n a) whole reason
    rw [hreason] at acted
    exact acted
  · rw [slotActed_holds hc, hreason, steady.holds hc]

/-- Where no record waits for room in the hoop, each that stays after the slot stood before, and none of the stream is older. -/
theorem slotActed_recs_full {c : Nat} (hc : c < 128) {s s' t : State} (h : Later s s') {n : Nat} {a : Bool} {u : List Byte} {hold : Bool}
    (acted : SlotActed (discardLate s' c n a) t c n a u hold) (full : ∀ r ∈ (getCtx s c).drain.recs, r.slots.isSome = true) :
    (getCtx (discardLate s' c n a) c).drain.recs = (getCtx s c).drain.recs.filter (fun r => decide (r.video = a) || decide (n ≤ r.slot)) ∧
      ∀ r ∈ (getCtx t c).drain.recs, r ∈ (getCtx s c).drain.recs ∧ (r.video = (!a) → n ≤ r.slot) := by
  have kept : (getCtx (discardLate s' c n a) c).drain.recs = _ := discardLate_recs hc s' n a (by rw [getCtx_later h]; exact full)
  rw [getCtx_later h] at kept
  refine ⟨kept, fun r hr => ?_⟩
  obtain ⟨q, hq, hqr⟩ := acted.recs r hr
  rw [kept, List.mem_filter] at hq
  obtain rfl := filled_eq hqr (full q hq.1)
  refine ⟨hq.1, fun hv => ?_⟩
  have later := hq.2
  rw [hv] at later
  cases a <;> simpa using later

/-! The datagram. -/

/-- A register outside the drains' range that time does not move. -/
theorem not_clockKey_of_mod {k : Nat} (lo : 64 * 0x3018 < k) (h0 : k % 4096 ≠ 0) (h8 : k % 4096 ≠ 512) : ¬ clockKey k := by
  rintro (rfl | rfl | rfl | ⟨n, rfl | rfl⟩)
  · unfold Fk.epochCycle at lo; omega
  · unfold Fk.epochTimeNs at lo; omega
  · unfold Fk.epochTimeAuxTimeFrac at lo; omega
  · unfold Fk.rschedScyc at h0; omega
  · unfold Fk.rschedLag at h8; omega

theorem Paced.tail {c : Nat} {s t : State} (h : Paced c s t) (q : Nat) : rd t (Fk.wqHeadsOrTail q) = rd s (Fk.wqHeadsOrTail q) :=
  h.regs _ (not_clockKey_of_mod (by unfold Fk.wqHeadsOrTail; omega) (by unfold Fk.wqHeadsOrTail; omega) (by unfold Fk.wqHeadsOrTail; omega))

theorem Paced.log2 {c : Nat} {s t : State} (h : Paced c s t) (q : Nat) : rd t (Fk.wqOrOrLog2 q) = rd s (Fk.wqOrOrLog2 q) :=
  h.regs _ (not_clockKey_of_mod (by unfold Fk.wqOrOrLog2; omega) (by unfold Fk.wqOrOrLog2; omega) (by unfold Fk.wqOrOrLog2; omega))

theorem Paced.page {c : Nat} {s t : State} (h : Paced c s t) (q : Nat) : rd t (Fk.wqOrOrPage q) = rd s (Fk.wqOrOrPage q) :=
  h.regs _ (not_clockKey_of_mod (by unfold Fk.wqOrOrPage; omega) (by unfold Fk.wqOrOrPage; omega) (by unfold Fk.wqOrOrPage; omega))

theorem Paced.hostHead {c : Nat} {s t : State} (h : Paced c s t) (q : Nat) : rd t (Fk.wqHostOrHead q) = rd s (Fk.wqHostOrHead q) :=
  h.regs _ (not_clockKey_of_mod (by unfold Fk.wqHostOrHead; omega) (by unfold Fk.wqHostOrHead; omega) (by unfold Fk.wqHostOrHead; omega))

theorem Paced.getWq {c : Nat} {s t : State} (h : Paced c s t) (q : Nat) : getWq t q = getWq s q := by
  unfold Machine.getWq
  rw [h.wqs]

theorem Paced.ringRoom {c : Nat} {s t : State} (h : Paced c s t) (q : Nat) : ringRoom t q = ringRoom s q := by
  unfold Machine.ringRoom
  rw [h.getWq, h.tail, h.log2, h.hostHead]

theorem Paced.ringTailAddr {c : Nat} {s t : State} (h : Paced c s t) (q : Nat) : ringTailAddr t q = ringTailAddr s q := by
  unfold Machine.ringTailAddr
  rw [h.tail, h.log2, h.page]

theorem Paced.queue {c : Nat} (hc : c < 128) {s t : State} (h : Paced c s t) : rd t (Fk.ctxCfgWq c) = rd s (Fk.ctxCfgWq c) :=
  paced_drainKey h _ (by unfold drainKey Fk.ctxCfgWq; omega)

/-- The time at which drain `c` sends its next datagram: that of its last opportunity. -/
def datagramTime (s : State) (c : Nat) : Nat := oppTime s c (getCtx s c).drain.cycle (7 * (getCtx s c).drain.dgram + 6)

/-- The seven packets of the next datagram of drain `c`, and the state after they are taken. -/
def datagram (s : State) (c : Nat) : List Byte × State :=
  oppPackets c (getCtx s c).drain.cycle 7 (7 * (getCtx s c).drain.dgram) (untilNs s (datagramTime s c))

theorem datagram_paced (s : State) (c : Nat) : Paced c s (datagram s c).2 :=
  paced_trans (paced_later (untilNs_later s _)) (oppPackets_paced c _ 7 _ _)

theorem exec_drainDatagram_idle (s : State) (c : Nat) (h : drainRuns s c = false) : exec (.drainDatagram c) s = .next s :=
  congrArg Host.Outcome.next (if_pos (by rw [h]; exact Bool.false_ne_true))

theorem exec_drainDatagram_waits (s : State) (c : Nat) (runs : drainRuns s c = true) (dest : rd s (Fk.drainCfgDest c) = 2)
    (replay : rd s Fk.auditWcfgWmode = wmReplay) (full : ringRoom s (rd s (Fk.ctxCfgWq c)) = false) :
    exec (.drainDatagram c) s = .next s :=
  congrArg Host.Outcome.next ((if_neg (not_not_intro runs)).trans (if_pos ⟨dest, replay, by rw [full]; exact Bool.false_ne_true⟩))

theorem exec_drainDatagram_media (s : State) (c : Nat) (runs : drainRuns s c = true) (dest : rd s (Fk.drainCfgDest c) < 2) :
    exec (.drainDatagram c) s =
      .next (nextDatagram (sendMedia (datagram s c).2 c (rd s (Fk.drainCfgDest c)) (datagramTime s c) (datagram s c).1) c) := by
  have media : rd s (Fk.drainCfgDest c) ≠ 2 := by omega
  refine congrArg Host.Outcome.next ((if_neg (not_not_intro runs)).trans ((if_neg (fun h => media h.1)).trans ?_))
  dsimp only
  rw [if_neg media]
  rfl

theorem exec_drainDatagram_host (s : State) (c : Nat) (runs : drainRuns s c = true) (dest : rd s (Fk.drainCfgDest c) = 2)
    (free : rd s Fk.auditWcfgWmode ≠ wmReplay ∨ ringRoom s (rd s (Fk.ctxCfgWq c)) = true) :
    exec (.drainDatagram c) s = .next (nextDatagram (sendHost (datagram s c).2 c (datagramTime s c) (datagram s c).1) c) := by
  refine congrArg Host.Outcome.next ((if_neg (not_not_intro runs)).trans ((if_neg (fun h => ?_)).trans ?_))
  · exact free.elim (fun k => k h.2.1) (fun k => h.2.2 k)
  · dsimp only
    rw [if_pos dest]
    rfl

/-- After the departure the drain is at its next datagram. -/
theorem departed_next {c : Nat} (hc : c < 128) {s t u : State} (h : Paced c s t) (k : Departed c t u) : NextDatagram s (nextDatagram u c) c := by
  have ctx : getCtx u c = getCtx t c := by
    unfold getCtx
    rw [k.ctxs]
  have length : rd u (Fk.drainCycleC c) = rd s (Fk.drainCycleC c) :=
    k.cycleC.trans (paced_drainKey h _ (by unfold drainKey Fk.drainCycleC; omega))
  have on := nextDatagram_goes_on u c
  unfold NextDatagram at on ⊢
  dsimp only at on ⊢
  rw [ctx, h.dgram, h.cycle, length] at on
  exact on

/-- The first datagram of a cycle begins with PAT and PMT. -/
theorem datagram_begins {c : Nat} (hc : c < 128) (s : State) (first : (getCtx s c).drain.dgram = 0) :
    (datagram s c).1.take 376 = withCc (patPacket s c) (nextCc s c 0) ++ withCc (pmtPacket s c) (nextCc s c 1) := by
  have later := untilNs_later s (datagramTime s c)
  have steady := later_steady later c
  have counter : ∀ k, nextCc (untilNs s (datagramTime s c)) c k = nextCc s c k := fun k => by
    unfold nextCc
    rw [getCtx_later later]
  unfold datagram
  rw [first, oppPackets_begin, steady.patPacket hc, steady.pmtPacket hc, counter, counter]

theorem length_datagram (s : State) (c : Nat) (v : (getCtx s c).drain.vq = []) (a : (getCtx s c).drain.aq = []) :
    (datagram s c).1.length = 1316 :=
  length_oppPackets c _ 7 _ _ (fun b => by
    rw [getCtx_later (untilNs_later s _)]
    cases b
    · exact v
    · exact a)

/-! What goes on to the next datagram leaves all but the drain. -/

@[simp] theorem rd_nextDatagram (s : State) (c k : Nat) : rd (nextDatagram s c) k = rd s k := rfl
@[simp] theorem nextDatagram_out (s : State) (c : Nat) : (nextDatagram s c).out = s.out := rfl
@[simp] theorem nextDatagram_host (s : State) (c : Nat) : (nextDatagram s c).host = s.host := rfl
@[simp] theorem getWq_nextDatagram (s : State) (c q : Nat) : getWq (nextDatagram s c) q = getWq s q := rfl

/-- A datagram to a media port: a frame on a port whose link is up, else a discard; RTP_SEQ goes on either way. -/
theorem drainDatagram_media (s : State) (c : Nat) (runs : drainRuns s c = true) (dest : rd s (Fk.drainCfgDest c) < 2) :
    let p := rd s (Fk.drainCfgDest c)
    ∃ t, exec (.drainDatagram c) s = .next t ∧ NextDatagram s t c ∧
      rd t (Fk.mediaEgrStatRtpSeq c) = (rd s (Fk.mediaEgrStatRtpSeq c) + 1) % 2 ^ 16 ∧
      (rd s (Fk.mediaPortStateLinkUp p) = 1 → t.out.head? = some (.media p (egressFrame s c p (datagramTime s c) (datagram s c).1)) ∧
        rd t (Fk.mediaPortCnt1TxDatagrams p) = (rd s (Fk.mediaPortCnt1TxDatagrams p) + 1) % 2 ^ 32) ∧
      (rd s (Fk.mediaPortStateLinkUp p) ≠ 1 → t.out = s.out ∧
        rd t (Fk.mediaPortCnt1TxDiscard p) = (rd s (Fk.mediaPortCnt1TxDiscard p) + 1) % 2 ^ 32) := by
  intro p
  have hc := drainRuns_ctx runs
  have paced := datagram_paced s c
  have seq := paced_drainKey paced (Fk.mediaEgrStatRtpSeq c) (by unfold drainKey Fk.mediaEgrStatRtpSeq; omega)
  have link := paced_drainKey paced (Fk.mediaPortStateLinkUp p) (by unfold drainKey Fk.mediaPortStateLinkUp; omega)
  have counts : rd (datagram s c).2 (Fk.mediaPortCnt1TxDatagrams p) = rd s (Fk.mediaPortCnt1TxDatagrams p) ∧
      rd (datagram s c).2 (Fk.mediaPortCnt1TxDiscard p) = rd s (Fk.mediaPortCnt1TxDiscard p) :=
    ⟨paced_drainKey paced _ (by unfold drainKey Fk.mediaPortCnt1TxDatagrams; omega),
      paced_drainKey paced _ (by unfold drainKey Fk.mediaPortCnt1TxDiscard; omega)⟩
  refine ⟨_, exec_drainDatagram_media s c runs dest, ?_⟩
  simp only [rd_nextDatagram, nextDatagram_out]
  by_cases up : rd s (Fk.mediaPortStateLinkUp p) = 1
  · obtain ⟨gone, seqOn, frame, sent⟩ := sendMedia_up (datagram s c).2 c p (datagramTime s c) (datagram s c).1 (link.trans up)
    rw [seq] at seqOn
    rw [egressFrame_congr hc dest (paced_drainKey paced)] at frame
    rw [counts.1] at sent
    exact ⟨departed_next hc paced gone, seqOn, fun _ => ⟨frame, sent⟩, fun down => absurd up down⟩
  · have down : rd (datagram s c).2 (Fk.mediaPortStateLinkUp p) ≠ 1 := by rwa [link]
    obtain ⟨gone, seqOn, out, discarded⟩ := sendMedia_down (datagram s c).2 c p (datagramTime s c) (datagram s c).1 down
    rw [seq] at seqOn
    rw [counts.2] at discarded
    exact ⟨departed_next hc paced gone, seqOn, fun h => absurd h up, fun _ => ⟨out.trans paced.out, discarded⟩⟩

/-- A datagram to the output ring: an entry where the link is up and the ring has room, else a discard. -/
theorem drainDatagram_host (s : State) (c : Nat) (runs : drainRuns s c = true) (dest : rd s (Fk.drainCfgDest c) = 2)
    (free : rd s Fk.auditWcfgWmode ≠ wmReplay ∨ ringRoom s (rd s (Fk.ctxCfgWq c)) = true) :
    let q := rd s (Fk.ctxCfgWq c)
    ∃ t, exec (.drainDatagram c) s = .next t ∧ NextDatagram s t c ∧
      (s.part.pcieUp = true → ringRoom s q = true →
        rd t (Fk.wqHeadsOrTail q) = (rd s (Fk.wqHeadsOrTail q) + 1) % 2 ^ 20 ∧ (getWq t q).dseq = ((getWq s q).dseq + 1) % 2 ^ 32 ∧
        ((datagram s c).1.length = 1316 →
          mBytes t.host (ringTailAddr s q) 1344 = ringEntry (getWq s q).dseq c (datagramTime s c) (datagram s c).1)) ∧
      (s.part.pcieUp = false ∨ ringRoom s q = false → t.host = s.host ∧
        rd t (Fk.drainStatDiscarded c) = (rd s (Fk.drainStatDiscarded c) + 1) % 2 ^ 16) := by
  intro q
  have hc := drainRuns_ctx runs
  have paced := datagram_paced s c
  have queue : rd (datagram s c).2 (Fk.ctxCfgWq c) = q := paced.queue hc
  refine ⟨_, exec_drainDatagram_host s c runs dest free, ?_⟩
  simp only [rd_nextDatagram, nextDatagram_host, getWq_nextDatagram]
  by_cases ok : s.part.pcieUp = true ∧ ringRoom s q = true
  · obtain ⟨up, room⟩ := ok
    obtain ⟨gone, tail, seq, entry⟩ := sendHost_writes (datagram s c).2 c (datagramTime s c) (datagram s c).1 (by rwa [paced.part])
      (by rwa [queue, paced.ringRoom])
    rw [queue, paced.tail] at tail
    rw [queue, paced.getWq] at seq
    rw [queue, paced.ringTailAddr, paced.getWq] at entry
    refine ⟨departed_next hc paced gone, fun _ _ => ⟨tail, seq, entry⟩, fun closed => ?_⟩
    rw [up, room] at closed
    exact absurd closed (by decide)
  · have closed : s.part.pcieUp = false ∨ ringRoom s q = false := by
      rw [← Bool.not_eq_true, ← Bool.not_eq_true]
      exact Decidable.not_and_iff_or_not.1 ok
    obtain ⟨gone, host, discarded⟩ := sendHost_discards (datagram s c).2 c (datagramTime s c) (datagram s c).1
      (by rwa [queue, paced.part, paced.ringRoom])
    rw [paced_drainKey paced _ (drainStatDiscarded_key hc)] at discarded
    exact ⟨departed_next hc paced gone, fun up room => absurd ⟨up, room⟩ ok, fun _ => ⟨host.trans paced.host, discarded⟩⟩

/-- Settles O50: an action is `drainAction_acts`, whose records, unit and PTS are those that the state before it gives (`Steady`, `recOf_steady`); a datagram
is `drainDatagram_media` or `drainDatagram_host`. -/
theorem drains : Obligations.Drains := by
  unfold Obligations.Drains
  intro s c d
  refine ⟨fun a => exec_drainAction_idle s c a, fun a due own => ?_, exec_drainDatagram_idle s c, fun runs => ?_⟩
  · have hc := slotDue_ctx due
    obtain ⟨t, step, acted, holds, discards⟩ := drainAction_acts s c a due own
    intro n late v find got unit pre fin
    have later : Later s (untilNs s (slotTime s c a n)) := untilNs_later s _
    have steady : Steady c s v := discardLate_steady hc later n a
    have hfind : ∀ p, find p = recOf v c n a p := fun p => (recOf_steady hc steady n a p).symm
    have hgot : got = recSent v c n a := by
      rw [recSent, steady.holding, ← hfind]
    have hunit : unit = unitSent v c n a := by
      have sent := unitSent_steady steady n a
      rw [← hgot] at sent
      exact sent
    have hlate : late = lateIngots s c n a := (lateIngots_eq s c n a).symm
    have hholds : (!(recSent v c n a).any (·.isPic)) = !got.any (·.isPic) := by rw [hgot]
    have hparts : accessUnit v c n a (unitSent v c n a) = pre ++ unit ++ fin := by
      rw [accessUnit, ← hfind, steady.endOf, ← hunit]
    refine ⟨t, step, ⟨acted.next, acted.other.trans (steady.nextSlot _), acted.otherQueue.trans (steady.queueOf _), ?_, fun r hr => ?_,
      slotActed_recs_full hc later acted⟩, ?_, ?_, fun some_late => ?_, ?_⟩
    · rw [acted.queue, steady.queueOf, steady.streamPid hc, steady.slotPts hc, steady.slotTime hc, hparts]
    · obtain ⟨q, hq, hqr⟩ := acted.recs r hr
      obtain ⟨p, hp, hpq⟩ := (aside_drain (discardLate_aside hc (untilNs s (slotTime s c a n)) n a)).1 q hq
      rw [getCtx_wr, getCtx_later later] at hp
      exact ⟨p, hp, (filled_same hqr).trans (filled_same hpq)⟩
    · rw [acted.wit, hholds, discardLate_drainWit hc, later.wit]
    · rw [holds, hholds]
      cases got.any (·.isPic) <;> rfl
    · rw [hlate] at some_late ⊢
      exact discards.trans (discardLate_discards hc later n a some_late)
    · rw [acted.cc, discardLate_cc hc, untilNs_cc]
  · have hc := drainRuns_ctx runs
    refine ⟨fun media => ?_, exec_drainDatagram_waits s c runs, fun host free => ?_⟩
    · obtain ⟨t, step, next, seq, sent, discarded⟩ := drainDatagram_media s c runs media
      exact ⟨t, (datagram s c).1, step, next, seq, datagram_begins hc s, sent, discarded⟩
    · obtain ⟨t, step, next, written, discarded⟩ := drainDatagram_host s c runs host free
      refine ⟨t, step, next, fun up room => ?_, discarded⟩
      obtain ⟨tail, seq, entry⟩ := written up room
      exact ⟨tail, seq, fun v a => ⟨(datagram s c).1, length_datagram s c v a, entry (length_datagram s c v a)⟩⟩

end Sys2Proof.Machine
end
